-- ==== Sys2Proof/Word.lean ====
section
/-! DEFINITION. The word types of the BX2: the 64-bit word, the byte, the 2048-bit row, and the two small name types that every layer uses (R2, R3, R7). -/
namespace Sys2Proof

/-- A word is 64 bits (R3). -/
abbrev Word := BitVec 64
/-- A byte. -/
abbrev Byte := BitVec 8
/-- A 2048-bit row: a vector register, an accumulator row, a scratchpad row of 256 bytes (R7, R24, R28). -/
abbrev Row := BitVec 2048
/-- A sparse table: entries by rising key; a key that is not listed reads as a default the reader names. -/
abbrev Tbl (α : Type) := List (Nat × α)

/-- The two dies (R7): logical cores 0 to 159 west, 160 to 319 east. -/
inductive Die where
  | west | east
  deriving DecidableEq, Repr

/-- The two processors of a core (R18). -/
inductive Proc where
  | ap | ep
  deriving DecidableEq, Repr

end Sys2Proof
end

