-- ==== Sys2Proof/Machine/Tables.lean ====
section
/-! DEFINITION. Sparse tables, the codec that lays bit fields into a word, and the bit-field, sign-extension and byte-order helpers of R3 and R6. -/
namespace Sys2Proof

/-- The entry of key k, if the table lists it. -/
def tfind {α : Type} : Tbl α → Nat → Option α
  | [], _ => none
  | (j, v) :: r, k => if j = k then some v else if k < j then none else tfind r k

/-- The value of key k; d when it is not listed. -/
def tget {α : Type} (t : Tbl α) (d : α) (k : Nat) : α := (tfind t k).getD d

/-- Sets the entry of key k, keeping the keys in rising order. -/
def tset {α : Type} : Tbl α → Nat → α → Tbl α
  | [], k, v => [(k, v)]
  | (j, w) :: r, k, v => if j = k then (k, v) :: r else if k < j then (k, v) :: (j, w) :: r else (j, w) :: tset r k v

/-- Removes the entry of key k. -/
def tdel {α : Type} : Tbl α → Nat → Tbl α
  | [], _ => []
  | (j, w) :: r, k => if j = k then r else if k < j then (j, w) :: r else (j, w) :: tdel r k

/-- Sets key k to v in canonical form: an entry equal to the default d is not listed. -/
def tput {α : Type} [DecidableEq α] (t : Tbl α) (d : α) (k : Nat) (v : α) : Tbl α :=
  if v = d then tdel t k else tset t k v

/-- The keys of a table are above lo and strictly rising, and no entry equals the default d. -/
def twfAbove {α : Type} [DecidableEq α] (d : α) : Option Nat → Tbl α → Bool
  | _, [] => true
  | lo, (k, v) :: r => (match lo with | none => true | some l => decide (l < k)) && decide (v ≠ d) && twfAbove d (some k) r

/-- The canonical form of a table with default d. -/
def twf {α : Type} [DecidableEq α] (d : α) (t : Tbl α) : Bool := twfAbove d none t

/-- Changes the entry of key k with f, from the default d when it is not listed. -/
def tmod {α : Type} (t : Tbl α) (d : α) (k : Nat) (f : α → α) : Tbl α := tset t k (f (tget t d k))

/-- The first index at which p holds. -/
def findIdx {α : Type} (p : α → Bool) : List α → Nat → Option Nat
  | [], _ => none
  | x :: r, n => if p x then some n else findIdx p r (n + 1)

/-- The numbers lo, lo + 1, ..., n of them. -/
def natsFrom (lo n : Nat) : List Nat := (List.range n).map (lo + ·)

/-! ## Bit fields -/

/-- The total width of a field list. -/
def fwidth : List (Nat × Nat) → Nat
  | [] => 0
  | (w, _) :: r => w + fwidth r

/-- Lays fields (width, value), highest first, into a number. -/
def pack : List (Nat × Nat) → Nat
  | [] => 0
  | (w, v) :: r => v % 2 ^ w * 2 ^ fwidth r + pack r

/-- The sum of a list of widths. -/
def wsum : List Nat → Nat
  | [] => 0
  | w :: r => w + wsum r

/-- Reads fields of the given widths, highest first. -/
def unpack : List Nat → Nat → List Nat
  | [], _ => []
  | w :: r, x => x / 2 ^ wsum r % 2 ^ w :: unpack r x

/-- `Bits(x, hi, lo)` of R6 on a number, given by the low bit and the width. -/
def fld (x lo n : Nat) : Nat := x / 2 ^ lo % 2 ^ n

/-- `SignExt(x, n)` of R6: the low n bits of x, sign-extended to a word. -/
def signExt (x : Nat) (n : Nat) : Word :=
  if n = 0 then 0 else BitVec.ofInt 64 (if x % 2 ^ n < 2 ^ (n - 1) then (x % 2 ^ n : Nat) else ((x % 2 ^ n : Nat) : Int) - 2 ^ n)

/-- `ZeroExt(x, n)` of R6. -/
def zeroExt (x : Nat) (n : Nat) : Word := BitVec.ofNat 64 (x % 2 ^ n)

/-- The signed value of the low n bits of x. -/
def sval (x n : Nat) : Int :=
  if n = 0 then 0 else if x % 2 ^ n < 2 ^ (n - 1) then (x % 2 ^ n : Nat) else ((x % 2 ^ n : Nat) : Int) - 2 ^ n

/-- An integer modulo 2^n, as a number. -/
def wrapN (v : Int) (n : Nat) : Nat := (v % (2 ^ n : Int)).toNat

/-- Bit i of a number. -/
def bitN (x i : Nat) : Bool := x / 2 ^ i % 2 == 1

/-- Sets the n bits at lo of x to v. -/
def setFld (x lo n v : Nat) : Nat := x % 2 ^ lo + v % 2 ^ n * 2 ^ lo + x / 2 ^ (lo + n) * 2 ^ (lo + n)

/-- The number of a little-endian byte list (R3). -/
def leNat : List Byte → Nat
  | [] => 0
  | b :: r => b.toNat + 256 * leNat r

/-- The n low bytes of a number, little-endian (R3). -/
def leBytes : Nat → Nat → List Byte
  | 0, _ => []
  | n + 1, x => BitVec.ofNat 8 x :: leBytes n (x / 256)

/-- The 256 bytes of a row, byte 0 first. -/
def rowBytes (r : Row) : List Byte := leBytes 256 r.toNat

/-- The row of up to 256 bytes, zeros above. -/
def bytesRow (l : List Byte) : Row := BitVec.ofNat 2048 (leNat l)

/-- n bytes of a byte string from position p, zeros beyond its end. -/
def sliceB (l : List Byte) (p n : Nat) : List Byte :=
  let t := (l.drop p).take n
  t ++ List.replicate (n - t.length) 0

/-- n bytes of a byte string from position p as a number. -/
def leAt (l : List Byte) (p n : Nat) : Nat := leNat ((l.drop p).take n)

/-- The ceiling of a / b. -/
def ceilDiv (a b : Nat) : Nat := (a + b - 1) / b

/-- A Bool as 0 or 1. -/
def b2n (b : Bool) : Nat := if b then 1 else 0

/-- The CRC-32C of R184 and R319 without the final XOR: reflected Castagnoli polynomial. One bit. -/
def crcBit (c : Nat) : Nat := if c % 2 = 1 then (c / 2) ^^^ 0x82F63B78 else c / 2

/-- One byte of CRC-32C. -/
def crcByte (c : Nat) (b : Byte) : Nat :=
  crcBit (crcBit (crcBit (crcBit (crcBit (crcBit (crcBit (crcBit (c ^^^ b.toNat))))))))

/-- CRC-32C of a byte string from a running value. -/
def crcRun (c : Nat) (l : List Byte) : Nat := l.foldl crcByte c

/-- CRC-32C with initial value and final XOR 0xFFFF_FFFF (R319). -/
def crc32c (l : List Byte) : Nat := crcRun 0xFFFFFFFF l ^^^ 0xFFFFFFFF

end Sys2Proof
end

