-- ==== Sys2Proof/Syntax.lean ====
section
/-! DEFINITION. The instructions of the AP and the EP, and the events of the device, as the table of operations lists them: one constructor a row. The first part gives the operand shapes of R198 to R215, the second the data an event carries, the third the one inductive. -/
namespace Sys2Proof

/-! ## Operand shapes -/

/-- GN and GP of the prefix (R198, R199). -/
structure Guard where
  neg : Bool
  idx : BitVec 4
  deriving DecidableEq, Repr

/-- W of the AR and ES forms (R201, R212). -/
inductive Wd where
  | d | w | h | b
  deriving DecidableEq, Repr

/-- The second source: a register of an n-bit field, or the signed immediate IMM32 (R201). -/
inductive Src (n : Nat) where
  | reg (r : BitVec n)
  | imm (v : BitVec 32)
  deriving DecidableEq, Repr

/-- Up to three wait tokens in the places W0, W1, W2 (R209, R213). -/
structure WaitSet where
  w0 : Option (BitVec 4)
  w1 : Option (BitVec 4)
  w2 : Option (BitVec 4)
  deriving DecidableEq, Repr

/-- Word 1 of a D- or N-form instruction (R213). -/
structure Tok where
  sig : Option (BitVec 4)
  waits : WaitSet
  deriving DecidableEq, Repr

/-- A guard and nothing else. -/
structure G0 where
  g : Guard
  deriving DecidableEq, Repr

/-- AR form, two sources (R235). -/
structure Alu where
  g : Guard
  w : Wd
  d : BitVec 6
  a : BitVec 6
  b : Src 6
  deriving DecidableEq, Repr

/-- AR form, two sources, X bit 0: `.U` of R236. -/
structure AluX where
  g : Guard
  w : Wd
  x : Bool
  d : BitVec 6
  a : BitVec 6
  b : Src 6
  deriving DecidableEq, Repr

/-- AR form, three register sources (R237). -/
structure Alu3 where
  g : Guard
  w : Wd
  d : BitVec 6
  a : BitVec 6
  b : BitVec 6
  c : BitVec 6
  deriving DecidableEq, Repr

/-- AR form, one register source (`CLZ`, `POPC`). -/
structure Alu1 where
  g : Guard
  w : Wd
  d : BitVec 6
  a : BitVec 6
  deriving DecidableEq, Repr

/-- `BFX` (R238). -/
structure BfxF where
  g : Guard
  sgn : Bool
  d : BitVec 6
  a : BitVec 6
  b : Src 6
  deriving DecidableEq, Repr

/-- `BFI` (R238). -/
structure BfiF where
  g : Guard
  d : BitVec 6
  a : BitVec 6
  b : BitVec 6
  c : BitVec 6
  deriving DecidableEq, Repr

/-- Destination and immediate (R239). -/
structure LiF where
  g : Guard
  d : BitVec 6
  imm : BitVec 32
  deriving DecidableEq, Repr

/-- MODE of the AC form and of `VCMP` (R202, R300). -/
inductive CMode where
  | set | and | or
  deriving DecidableEq, Repr

/-- CC of the AC form (R202). -/
inductive CC where
  | eq | ne | lt | ge | ltn | gen | tz | tnz
  deriving DecidableEq, Repr

/-- The second operand of a compare: a register or IMM16 (R202). -/
inductive CSrc (n : Nat) where
  | reg (r : BitVec n)
  | imm (v : BitVec 16)
  deriving DecidableEq, Repr

/-- AC form (R202): n is 6 for `CMP`, 5 for `ECMP`. -/
structure CmpF (n : Nat) where
  g : Guard
  pt : BitVec 4
  pf : BitVec 4
  mode : CMode
  cc : CC
  w32 : Bool
  a : BitVec n
  b : CSrc n
  deriving DecidableEq, Repr

/-- FN of the AQ form (R203, R241). -/
inductive PFn where
  | and | or | xor | andn | orn | not
  deriving DecidableEq, Repr

/-- AQ form (R203). -/
structure PlogF where
  g : Guard
  pt : BitVec 4
  pa : BitVec 4
  pb : BitVec 4
  fn : PFn
  deriving DecidableEq, Repr

/-- A guard and one s register. -/
structure R1 where
  g : Guard
  r : BitVec 6
  deriving DecidableEq, Repr

/-- A guard, a destination and a source s register. -/
structure R2 where
  g : Guard
  d : BitVec 6
  a : BitVec 6
  deriving DecidableEq, Repr

/-- A guard, a destination and two source s registers. -/
structure R3 where
  g : Guard
  d : BitVec 6
  a : BitVec 6
  b : BitVec 6
  deriving DecidableEq, Repr

/-- AB form (R204): n is 6 on the AP, 5 on the EP. -/
structure BrF (n : Nat) where
  g : Guard
  link : BitVec n
  base : BitVec n
  off : BitVec 32
  deriving DecidableEq, Repr

/-- `CALL target` (R225). -/
structure CallF where
  g : Guard
  off : BitVec 32
  deriving DecidableEq, Repr

/-- AL form of `LOOP` (R205, R244). -/
structure LoopF where
  g : Guard
  cnt : BitVec 6
  rot : Bool
  epi : Bool
  len : BitVec 16
  stg : BitVec 8
  deriving DecidableEq, Repr

/-- `WAITT` (R209). -/
structure WaitTF where
  g : Guard
  waits : WaitSet
  deriving DecidableEq, Repr

/-- `WAITA` (R209): D status, A granule address, B expected value, C timeout. -/
structure WaitAF where
  g : Guard
  d : BitVec 6
  a : BitVec 6
  b : BitVec 6
  c : BitVec 6
  deriving DecidableEq, Repr

/-- `WAITB` (R209). -/
structure WaitBF where
  g : Guard
  bar : BitVec 4
  a : BitVec 6
  deriving DecidableEq, Repr

/-- `TRAP` (R289). -/
structure TrapF where
  g : Guard
  imm : BitVec 32
  deriving DecidableEq, Repr

/-- `CSRR` (R261): n is 6 on the AP, 5 on the EP. -/
structure CsrrF (n : Nat) where
  g : Guard
  d : BitVec n
  num : BitVec 12
  deriving DecidableEq, Repr

/-- `CSRW` and its set and clear forms (R261). -/
structure CsrwF (n : Nat) where
  g : Guard
  d : BitVec n
  a : BitVec n
  num : BitVec 12
  deriving DecidableEq, Repr

/-- The address offset of the AM form (R206). -/
inductive MOff where
  | imm (v : BitVec 28)
  | idx (b : BitVec 6) (scale : BitVec 2)
  deriving DecidableEq, Repr

/-- X[2:1] of the AM form: global, local, or local full/empty (R206). -/
inductive Space where
  | global | loc | fe
  deriving DecidableEq, Repr

/-- AM form of `LD` (R206). -/
structure LdF where
  g : Guard
  d : BitVec 6
  a : BitVec 6
  w : Wd
  off : MOff
  sgn : Bool
  sp : Space
  cls : BitVec 4
  deriving DecidableEq, Repr

/-- AM form of `ST` (R206). -/
structure StF where
  g : Guard
  d : BitVec 6
  a : BitVec 6
  w : Wd
  off : MOff
  sp : Space
  cls : BitVec 4
  deriving DecidableEq, Repr

/-- Scope codes 0 to 6 (R123). -/
inductive Scope where
  | ctx | core | gang | die | dev | sys | dur
  deriving DecidableEq, Repr

/-- OP of `AMO` (R132). -/
inductive AmoOp where
  | add | min | max | minn | maxn | and | or | xor | swap | cas | fadd
  deriving DecidableEq, Repr

/-- ORD of `AMO` (R207). -/
inductive AOrd where
  | rlx | acq | rel | ar
  deriving DecidableEq, Repr

/-- AA form (R207), without its SC, H and RT bits, which the constructors carry. -/
structure AmoF where
  g : Guard
  d : BitVec 6
  a : BitVec 6
  w32 : Bool
  scope : Scope
  cls : BitVec 4
  b : BitVec 6
  c : BitVec 6
  op : AmoOp
  ord : AOrd
  deriving DecidableEq, Repr

/-- KIND of `FENCE` (R128). -/
inductive FKind where
  | full | acq | rel
  deriving DecidableEq, Repr

/-- AF form of `FENCE` (R208). -/
structure FenceF where
  g : Guard
  scope : Scope
  mask : BitVec 16
  kind : FKind
  deriving DecidableEq, Repr

/-- AF form of `DFENCE` and `DSYNC` (R208). -/
structure MaskF where
  g : Guard
  mask : BitVec 16
  deriving DecidableEq, Repr

/-- `BARA` (R283). -/
structure BaraF where
  g : Guard
  d : BitVec 6
  bar : BitVec 4
  deriving DecidableEq, Repr

/-- `LAUNCH` (R285). -/
structure LaunchF where
  g : Guard
  d : BitVec 6
  a : BitVec 6
  queue : BitVec 6
  deriving DecidableEq, Repr

/-- X of `SUSPEND`: the wait kind 0 to 5 (R287). -/
inductive WKind where
  | none | t | a | b | l | c
  deriving DecidableEq, Repr

/-- `SUSPEND.kind [sA], sB, sC` (R287). -/
structure SuspF where
  g : Guard
  kind : WKind
  a : BitVec 6
  b : BitVec 6
  c : BitVec 6
  deriving DecidableEq, Repr

/-- A guard and a token (`NOTIFY`, `ENOTIFY`). -/
structure NotF where
  g : Guard
  tok : BitVec 4
  deriving DecidableEq, Repr

/-- `SENDE`, `ESEND` (R259, R315). -/
structure SendF (n : Nat) where
  g : Guard
  v : Src n
  deriving DecidableEq, Repr

/-- `SINFO` (R276). -/
structure SinfoF where
  g : Guard
  d : BitVec 6
  st : BitVec 5
  deriving DecidableEq, Repr

/-- `SOPEN` (R269): loc is L, ne is the fabric near end. -/
structure SopenF where
  g : Guard
  st : BitVec 5
  loc : Bool
  a : BitVec 6
  ne : Bool
  np : BitVec 3
  tk : Tok
  deriving DecidableEq, Repr

/-- `SCLOSE`, `SMARK`, `SREWIND` (R269). -/
structure StcF where
  g : Guard
  st : BitVec 5
  tk : Tok
  deriving DecidableEq, Repr

/-- `SFORK` (R269). -/
structure SforkF where
  g : Guard
  st : BitVec 5
  rank : BitVec 16
  ph : BitVec 5
  tk : Tok
  deriving DecidableEq, Repr

/-- `SSAVE` (R269). -/
structure SsaveF where
  g : Guard
  st : BitVec 5
  loc : Bool
  a : BitVec 6
  tk : Tok
  deriving DecidableEq, Repr

/-- `SREST` (R269): rl holds BANK and FIRST when RL is 1. -/
structure SrestF where
  g : Guard
  st : BitVec 5
  loc : Bool
  a : BitVec 6
  ne : Bool
  np : BitVec 3
  rl : Option (BitVec 5 × BitVec 10)
  tk : Tok
  deriving DecidableEq, Repr

/-- `SEOS` (R269). -/
structure SeosF where
  g : Guard
  st : BitVec 5
  status : BitVec 8
  tk : Tok
  deriving DecidableEq, Repr

/-- MODE of a copy (R180). -/
inductive CpMode where
  | plain | compress | expand
  deriving DecidableEq, Repr

/-- `CPY` (R277), without NB and PN. -/
structure CpyF where
  g : Guard
  a : BitVec 6
  b : BitVec 6
  c : BitVec 6
  ch : BitVec 2
  cls : BitVec 4
  mode : CpMode
  prio : BitVec 2
  sl : Bool
  dl : Bool
  tm : Bool
  tk : Tok
  deriving DecidableEq, Repr

/-- `CPDRAIN` (R279). -/
structure CpdF where
  g : Guard
  ch : BitVec 2
  tk : Tok
  deriving DecidableEq, Repr

/-- `GLOAD` (R281). -/
structure GloadF where
  g : Guard
  a : BitVec 6
  slot : Bool
  tk : Tok
  deriving DecidableEq, Repr

/-- `GRUN` (R281). -/
structure GrunF where
  g : Guard
  slot : Bool
  tk : Tok
  deriving DecidableEq, Repr

/-- A guard and word 1 alone (`GHALT`, `TSIG`, `ETSIG`). -/
structure TkF where
  g : Guard
  tk : Tok
  deriving DecidableEq, Repr

/-- `ROT` (R280): nr is rows minus 1. -/
structure RotF where
  g : Guard
  a : BitVec 6
  b : BitVec 6
  nr : BitVec 8
  tk : Tok
  deriving DecidableEq, Repr

/-- EV form (R210): the operand fields are the 11-bit values of R211. -/
structure EV where
  g : Guard
  vd : BitVec 11
  va : BitVec 11
  vb : BitVec 11
  t : BitVec 4
  na : Bool
  nb : Bool
  rm : BitVec 3
  sat : Bool
  f : BitVec 8
  deriving DecidableEq, Repr

/-- Four 16-bit fields of a nest, level 0 first (R214, R215). -/
structure Q16 where
  l0 : BitVec 16
  l1 : BitVec 16
  l2 : BitVec 16
  l3 : BitVec 16
  deriving DecidableEq, Repr

/-- Four signed 4-bit strides, level 0 first (R214). -/
structure Q4 where
  l0 : BitVec 4
  l1 : BitVec 4
  l2 : BitVec 4
  l3 : BitVec 4
  deriving DecidableEq, Repr

/-- `VNEST` (R215): vw is the EV-form word, opc its opcode. -/
structure VnestF where
  g : Guard
  tk : Tok
  opc : BitVec 8
  vw : EV
  c : Q16
  ds : Q16
  as : Q16
  bs : Q16
  deriving DecidableEq, Repr

/-- ES form, two sources (R310). -/
structure EAlu where
  g : Guard
  w : Wd
  d : BitVec 5
  a : BitVec 5
  b : Src 5
  deriving DecidableEq, Repr

/-- `ESHR[.S]` (R310). -/
structure EShrF where
  g : Guard
  w : Wd
  sgn : Bool
  d : BitVec 5
  a : BitVec 5
  b : Src 5
  deriving DecidableEq, Repr

/-- `ELI`, `ELIH` (R310). -/
structure EliF where
  g : Guard
  d : BitVec 5
  imm : BitVec 32
  deriving DecidableEq, Repr

/-- `ELOOP` (R313). -/
structure EloopF where
  g : Guard
  cnt : BitVec 5
  len : BitVec 16
  deriving DecidableEq, Repr

/-- A guard and one e register. -/
structure E1 where
  g : Guard
  r : BitVec 5
  deriving DecidableEq, Repr

/-- EE form (R212). -/
structure EeF where
  g : Guard
  e : BitVec 5
  v : BitVec 11
  t : BitVec 4
  lane : BitVec 8
  deriving DecidableEq, Repr

/-- `EPMOV.MGET`, `EPMOV.MSET` (R312). -/
structure EpmF where
  g : Guard
  r : BitVec 5
  n : BitVec 4
  k : BitVec 2
  deriving DecidableEq, Repr

/-- `EPORT` (R316). -/
structure EportF where
  g : Guard
  d : BitVec 5
  port : BitVec 4
  deriving DecidableEq, Repr

/-- `EEOS` (R317). -/
structure EeosF where
  g : Guard
  port : BitVec 3
  status : BitVec 8
  deriving DecidableEq, Repr

/-- `SEGE` (R320). -/
structure SegeF where
  g : Guard
  d : BitVec 5
  a : BitVec 5
  deriving DecidableEq, Repr

/-- `MMA` (R214). -/
structure MmaF where
  g : Guard
  tile : BitVec 5
  sa : BitVec 4
  sb : BitVec 4
  fa : BitVec 4
  fb : BitVec 4
  za : BitVec 3
  zb : BitVec 3
  kb : BitVec 2
  accz : Bool
  i32 : Bool
  n : Q16
  ts : Q4
  as : Q4
  bs : Q4
  tk : Tok
  deriving DecidableEq, Repr

/-- `SMMA` (R214, R337): `MMA` with LIVE and MSLOT. -/
structure SmmaF where
  m : MmaF
  live : BitVec 48
  mslot : BitVec 4
  deriving DecidableEq, Repr

/-- `MZERO` (R339). -/
structure MzeroF where
  g : Guard
  tmask : BitVec 24
  tk : Tok
  deriving DecidableEq, Repr

/-- `MSCACC` (R339): pt is 1 when P holds I32. -/
structure MscaccF where
  g : Guard
  tc : BitVec 5
  tp : BitVec 5
  pt : Bool
  vsa : BitVec 11
  vsb : BitVec 11
  tk : Tok
  deriving DecidableEq, Repr

/-- `OCLAIM`, `OREL` (R330). -/
structure OclF where
  g : Guard
  smask : BitVec 16
  tk : Tok
  deriving DecidableEq, Repr

/-- `OFILL` (R331). -/
structure OfillF where
  g : Guard
  slot : BitVec 4
  fmt : BitVec 4
  port : BitVec 3
  z : BitVec 3
  kfm1 : BitVec 2
  zp : BitVec 11
  tk : Tok
  deriving DecidableEq, Repr

/-- `OFILL.META` (R331). -/
structure OfillMF where
  g : Guard
  slot : BitVec 4
  port : BitVec 3
  z : BitVec 3
  tk : Tok
  deriving DecidableEq, Repr

/-- `ACCLD`, `ACCST` (R339). -/
structure AccF where
  g : Guard
  v : BitVec 11
  ea : BitVec 5
  nrm1 : BitVec 8
  tk : Tok
  deriving DecidableEq, Repr

/-- `MPERT` (R341). -/
structure MpertF where
  g : Guard
  pi : BitVec 6
  pj : BitVec 6
  ea : BitVec 5
  det : Bool
  tk : Tok
  deriving DecidableEq, Repr

/-- `SQCFG` (R377). -/
structure SqcfgF where
  g : Guard
  ea : BitVec 5
  eb : BitVec 5
  tk : Tok
  deriving DecidableEq, Repr

/-- `SQCOMB` (R377). -/
structure SqcombF where
  g : Guard
  port : BitVec 3
  tk : Tok
  deriving DecidableEq, Repr

/-- `SQERR` (R377): ea is the partial table's register when PT is 1. -/
structure SqerrF where
  g : Guard
  ea : Option (BitVec 5)
  tk : Tok
  deriving DecidableEq, Repr

/-- `SQDEC` (R377). -/
structure SqdecF where
  g : Guard
  gm1 : BitVec 9
  ea : BitVec 5
  tk : Tok
  deriving DecidableEq, Repr

/-- `SQNEXT` (R377). -/
structure SqnextF where
  g : Guard
  ea : BitVec 5
  tk : Tok
  deriving DecidableEq, Repr

/-! ## What an event carries -/

/-- A PCIe function: a link and a number, 0 the physical function, 1 to 8 the virtual ones (R13). -/
structure Func where
  link : Die
  num : Nat
  deriving DecidableEq, Repr

/-- A part that trains at bring-up or runs behind an edge of the die (R14, R15, R449). -/
inductive Part where
  | bridge | hbm (n : Nat) | pcie | span (n : Nat) | ingest (n : Nat)
  deriving DecidableEq, Repr

/-- A link that retries or retrains (R449): a bridge channel, a span link of the die, PCIe. -/
inductive LinkId where
  | bridge (n : Nat) | span (d : Die) (n : Nat) | pcie (d : Die)
  deriving DecidableEq, Repr

/-- The command queues of a core (R31). -/
inductive Qid where
  | stream | ch (n : Nat) | matrix | prism | proofer
  deriving DecidableEq, Repr

/-- The four paths of the matrix engine (R326). -/
inductive MPath where
  | fill | array | row | control
  deriving DecidableEq, Repr

/-- Where stored words stand (R402, R453): a physical word of memory, a word of a scratchpad row, an accumulator row, a slot, an s/p/e/q/m register, a Prism x register, the array, a word of an instruction store by launch and address, an entry of a queue by its command's number. -/
inductive StoreLoc where
  | mem (a : Nat)
  | bank (core b row word : Nat)
  | acc (core row : Nat)
  | slot (core n : Nat)
  | reg (core slot : Nat) (kind : Nat) (num : Nat)
  | gridReg (core elem cluster num : Nat)
  | array (core : Nat)
  | code (core : Nat) (p : Proc) (lid : BitVec 32) (va : BitVec 64)
  | queue (core id : Nat)
  deriving DecidableEq, Repr

/-- The arrivals at a superstep barrier (R73): a launch of this module, whether every core of the other participating launches has issued its `SSBAR`, and whether every transfer that another module sends for the superstep has landed. -/
structure StepArrival where
  lid : BitVec 32
  others : Bool
  landed : Bool
  deriving DecidableEq, Repr

/-- A part of a stream's next row, read or written in aligned 8-byte units (R127): the stream, and the units that go before the others, none for the rest of the row. -/
structure RowAct where
  st : Nat
  units : List Nat
  deriving DecidableEq, Repr

/-- A part of a copy (R127): a chunk on an engine, or the next chunk of the copy with an arrival number, and the aligned 8-byte units of it that are written, or read, before the others; none for the rest of a chunk on an engine. -/
structure ChunkAct where
  id : Nat
  units : List Nat
  deriving DecidableEq, Repr

/-- A memory request from outside: a read, a write of bytes, an `AMO` (R192, R424). -/
inductive Request where
  | read (addr : Nat) (n : Nat)
  | write (addr : Nat) (data : List Byte)
  | amo (addr : Nat) (w32 : Bool) (op : AmoOp) (b c : BitVec 64) (core slot : Nat) (tag : BitVec 32)
  deriving DecidableEq, Repr

/-- What a datagram brings after its protocol is read (R188, R189): plain UDP payload, a GVSP leader, a GVSP payload packet, the trailer that ends a block. -/
inductive Dgram where
  | udp (data : List Byte)
  | leader (block : BitVec 64)
  | payload (block : BitVec 64) (packet : Nat) (data : List Byte)
  | trailer (block : BitVec 64) (packet : Nat)
  deriving DecidableEq, Repr

/-- The trigger of a replay (R439): uncorrectable error, hardware signature, watchdog, injected. -/
inductive Trigger where
  | error | signature | watchdog | injected
  deriving DecidableEq, Repr

/-- The answer of the host to a translation or page request (R118): a frame and its permissions, or a failure. -/
inductive HostAnswer where
  | ok (read write : Bool)
  | fail
  deriving DecidableEq, Repr

end Sys2Proof

/-! ## The one inductive -/
namespace Sys2Proof

/-- The rows of the table of operations: the instructions of the AP and the EP, then the events the machine makes itself, then those that come from outside it. The rule each constructor's docstring names is its home. -/
inductive Instr where
  /-- NOP (R200): Does nothing, on either processor or in a bundle. -/
  | nop
  /-- ADD (R236): Integer add modulo 2^w. -/
  | add (f : Alu)
  /-- SUB (R236): Integer subtract modulo 2^w. -/
  | sub (f : Alu)
  /-- MUL (R236): Integer multiply, low w bits. -/
  | mul (f : Alu)
  /-- MULH (R236): High half of a signed or unsigned product. -/
  | mulh (f : AluX)
  /-- DIV (R236): Integer quotient toward zero, with defined divide-by-zero results. -/
  | div (f : AluX)
  /-- REM (R236): Integer remainder with the sign of the dividend. -/
  | rem (f : AluX)
  /-- AND (R236): Bitwise AND. -/
  | and (f : Alu)
  /-- OR (R236): Bitwise OR. -/
  | or (f : Alu)
  /-- XOR (R236): Bitwise XOR. -/
  | xor (f : Alu)
  /-- SHL (R236): Shift left by b mod w. -/
  | shl (f : Alu)
  /-- SHR (R236): Logical shift right by b mod w. -/
  | shr (f : Alu)
  /-- SAR (R236): Arithmetic shift right by b mod w. -/
  | sar (f : Alu)
  /-- MIN (R236): Signed or unsigned minimum. -/
  | min (f : AluX)
  /-- MAX (R236): Signed or unsigned maximum. -/
  | max (f : AluX)
  /-- SEL (R236): Selects a or b by whether S[C] is non-zero. -/
  | sel (f : Alu3)
  /-- CLZ (R236): Counts leading zero bits within w. -/
  | clz (f : Alu1)
  /-- POPC (R236): Counts one bits. -/
  | popc (f : Alu1)
  /-- BFX (R238): Extracts a bit field, zero- or sign-extended. -/
  | bfx (f : BfxF)
  /-- BFI (R238): Inserts a bit field from S[C] into S[A]. -/
  | bfi (f : BfiF)
  /-- LI (R239): Loads a sign-extended 32-bit immediate. -/
  | li (f : LiF)
  /-- LIH (R239): Loads an immediate into the high 32 bits, keeping the low half. -/
  | lih (f : LiF)
  /-- MADD (R236): Multiply-add modulo 2^w. -/
  | madd (f : Alu3)
  /-- ADDPC (R239): Adds an immediate to the instruction's own address. -/
  | addpc (f : LiF)
  /-- CMP (R240): Compares two values and writes a predicate and its complement, by set, and or or. -/
  | cmp (f : CmpF 6)
  /-- PLOG (R241): Combines predicates logically. -/
  | plog (f : PlogF)
  /-- PMOV_GET (R242): Copies all predicates into a register. -/
  | pmovGet (f : R1)
  /-- PMOV_SET (R242): Sets predicates p1-p15 from a register. -/
  | pmovSet (f : R1)
  /-- BR (R243): Branches PC-relative or through a base register, optionally writing a link. -/
  | br (f : BrF 6)
  /-- CALL (R225): BR with LINK s62: calls a PC-relative target. -/
  | call (f : CallF)
  /-- RET (R225): BR through s62 with no link: returns. -/
  | ret (f : G0)
  /-- LOOP (R244): Pushes a hardware loop entry, optionally rotating with stage predicates, or skips the body when n is 0. -/
  | loop (f : LoopF)
  /-- LEXIT (R246): Pops the top loop entry and continues at its end. -/
  | lexit (f : G0)
  /-- LEXIT_POP (R246): Pops the top loop entry and continues at the next instruction. -/
  | lexitPop (f : G0)
  /-- WAITT (R254): Waits until its tokens can be taken, then takes them. -/
  | waitt (f : WaitTF)
  /-- WAITA (R255): Reads a granule and, if it equals the expected value, arms a monitor and waits. -/
  | waita (f : WaitAF)
  /-- WAITB (R254): Waits until a barrier's generation passes the operand. -/
  | waitb (f : WaitBF)
  /-- WAITL (R254): Waits until every producer is triggered, as an acquire. -/
  | waitl (f : G0)
  /-- WAITC (R254): Waits until every command the context issued has completed. -/
  | waitc (f : G0)
  /-- SSBAR (R254): Superstep barrier arrival; completes under R73. -/
  | ssbar (f : G0)
  /-- YIELD (R258): Ends the AP's block while staying runnable. -/
  | yield (f : G0)
  /-- EXIT (R258): Ends the context's AP and places notify markers. -/
  | exit (f : G0)
  /-- TRAP (R289): Takes a software trap with the immediate in TVAL. -/
  | trap (f : TrapF)
  /-- RFT (R289): Leaves the trap handler and continues at TPC. -/
  | rft (f : G0)
  /-- RFT_NEXT (R289): Leaves the trap handler and continues after the instruction at TPC. -/
  | rftNext (f : G0)
  /-- CSRR (R261): Reads a CSR into a register. -/
  | csrr (f : CsrrF 6)
  /-- CSRW (R261): Writes a CSR, returning the old value. -/
  | csrw (f : CsrwF 6)
  /-- CSRW_SET (R261): Sets CSR bits, returning the old value. -/
  | csrwSet (f : CsrwF 6)
  /-- CSRW_CLR (R261): Clears CSR bits, returning the old value. -/
  | csrwClr (f : CsrwF 6)
  /-- TLBI (R290): Invalidates the translations of one page in all TLBs and waits for completion. -/
  | tlbi (f : R1)
  /-- TLBI_AS (R290): Invalidates every non-global entry of the PASID. -/
  | tlbiAs (f : G0)
  /-- TLBI_ALL (R290): Invalidates every TLB entry. -/
  | tlbiAll (f : G0)
  /-- TIME (R260): Reads device time. -/
  | time (f : R1)
  /-- LD (R248): Loads from global or local memory, optionally as a full/empty access. -/
  | ld (f : LdF)
  /-- ST (R248): Stores to global or local memory, optionally as a full/empty access. -/
  | st (f : StF)
  /-- AMO (R251): Issues an atomic read-modify-write to the home controller. -/
  | amo (f : AmoF)
  /-- AMO_SC (R133): Sequentially consistent atomic issued at an owned wheel position. -/
  | amoSc (f : AmoF) (h : Bool)
  /-- AMO_HOLD (R69): Atomic that adds its granule to the hold set. -/
  | amoHold (f : AmoF)
  /-- AMO_RETRY (R431): Atomic that presents RETRYTAG for an exactly-once retry. -/
  | amoRetry (f : AmoF) (sc : Bool) (h : Bool)
  /-- FENCE (R128): Orders accesses of the masked classes at a scope, stalling until they are performed. -/
  | fence (f : FenceF)
  /-- DFENCE (R143): Creates persist-order pairs across the fence without stalling. -/
  | dfence (f : MaskF)
  /-- DSYNC (R143): Stalls until earlier durable stores of the masked classes reach the persistence domain. -/
  | dsync (f : MaskF)
  /-- WAKE (R256): Releases and wakes every WAITA armed on a granule, returning the count. -/
  | wake (f : R2)
  /-- BARA (R283): Makes one barrier arrival and returns the generation at arrival. -/
  | bara (f : BaraF)
  /-- TRIG (R284): Release at device scope counting toward the launch's trigger. -/
  | trig (f : G0)
  /-- LAUNCH (R285): Submits a launch record to a queue and returns its launch id. -/
  | launch (f : LaunchF)
  /-- SPAWN (R286): Appends a continuation record to the launch's task queue. -/
  | spawn (f : R1)
  /-- SUSPEND (R287): Saves the context as a continuation record and frees its slot. -/
  | suspend (f : SuspF)
  /-- NOTIFY (R288): Places notify markers that signal a token when reached. -/
  | notify (f : NotF)
  /-- SENDE (R259): Appends a value to the AP-to-EP queue. -/
  | sende (f : SendF 6)
  /-- RECVE (R259): Removes a value from the EP-to-AP queue. -/
  | recve (f : R1)
  /-- SINFO (R276): Reads a stream context's state. -/
  | sinfo (f : SinfoF)
  /-- FTEST (R291): Drives the core with the test pattern and returns its signature. -/
  | ftest (f : R3)
  /-- FTEST_REF (R291): Returns the reference signature for a seed and duration. -/
  | ftestRef (f : R3)
  /-- CMAP_GET (R292): Reads a logical core's site and pending state. -/
  | cmapGet (f : R2)
  /-- CMAP_SET (R292): Requests binding a logical core to a spare site. -/
  | cmapSet (f : R3)
  /-- CMAP_RET (R292): Requests retiring a logical core. -/
  | cmapRet (f : R2)
  /-- SOPEN (R271): Opens a stream from a descriptor, binds its port and runs it. -/
  | sopen (f : SopenF)
  /-- SCLOSE (R272): Closes a stream, releasing its context, port and rows. -/
  | sclose (f : StcF)
  /-- SFORK (R273): Forks an inbound stream to a partner. -/
  | sfork (f : SforkF)
  /-- SMARK (R169): Sets the stream's mark. -/
  | smark (f : StcF)
  /-- SREWIND (R170): Rewinds the stream to its mark. -/
  | srewind (f : StcF)
  /-- SSAVE (R174): Freezes a stream and writes its image. -/
  | ssave (f : SsaveF)
  /-- SREST (R274): Restores a stream from an image and resumes it. -/
  | srest (f : SrestF)
  /-- SEOS (R275): Ends a stream with an end-of-stream marker. -/
  | seos (f : SeosF)
  /-- CPY (R278): Issues a copy on a channel, taking a scoreboard entry. -/
  | cpy (f : CpyF)
  /-- CPY_NB (R278): Non-blocking copy that sets a predicate false instead of stalling. -/
  | cpyNb (f : CpyF) (pn : BitVec 4)
  /-- CPDRAIN (R279): Completes when every earlier copy on its channel has completed. -/
  | cpdrain (f : CpdF)
  /-- GLOAD (R281): Loads and checks a Prism image into a slot. -/
  | gload (f : GloadF)
  /-- GRUN (R281): Starts or switches to a slot's configuration. -/
  | grun (f : GrunF)
  /-- GHALT (R281): Stops the running configuration at a firing boundary. -/
  | ghalt (f : TkF)
  /-- ROT (R280): Rotates a scratchpad region to the next gang member. -/
  | rot (f : RotF)
  /-- TSIG (R282): Signals a token once the AP's earlier accesses are performed. -/
  | tsig (f : TkF)
  /-- VADD (R298): Lane-wise add. -/
  | vadd (f : EV)
  /-- VSUB (R298): Lane-wise subtract. -/
  | vsub (f : EV)
  /-- VMUL (R298): Lane-wise multiply. -/
  | vmul (f : EV)
  /-- VFMA (R298): Lane-wise fused multiply-add into VD. -/
  | vfma (f : EV)
  /-- VMIN (R298): Lane-wise minimum. -/
  | vmin (f : EV)
  /-- VMAX (R298): Lane-wise maximum. -/
  | vmax (f : EV)
  /-- VABS (R298): Lane-wise absolute value. -/
  | vabs (f : EV)
  /-- VCLAMP (R298): Lane-wise clamp between b and the old VD. -/
  | vclamp (f : EV)
  /-- VAND (R299): Lane-wise AND. -/
  | vand (f : EV)
  /-- VOR (R299): Lane-wise OR. -/
  | vor (f : EV)
  /-- VXOR (R299): Lane-wise XOR. -/
  | vxor (f : EV)
  /-- VSHL (R299): Lane-wise shift left, optionally saturating. -/
  | vshl (f : EV)
  /-- VSHR (R299): Lane-wise shift right. -/
  | vshr (f : EV)
  /-- VSEL (R301): Lane-wise select by a mask. -/
  | vsel (f : EV)
  /-- VMOV (R301): Lane-wise move, optionally negated. -/
  | vmov (f : EV)
  /-- VCMP (R300): Lane-wise compare writing a mask and its complement. -/
  | vcmp (f : EV)
  /-- VCVT (R305): Converts lanes between element types. -/
  | vcvt (f : EV)
  /-- VCVTEF (R306): Narrows lanes and writes the residual. -/
  | vcvtef (f : EV)
  /-- VSF (R307): Computes a correctly rounded special function per lane. -/
  | vsf (f : EV)
  /-- VRED (R308): Reduces the lanes of a row by a fixed tree. -/
  | vred (f : EV)
  /-- VPERM (R301): Permutes lanes by index. -/
  | vperm (f : EV)
  /-- VBCAST (R301): Broadcasts one lane. -/
  | vbcast (f : EV)
  /-- VIOTA (R302): Writes lane indices or prefix counts. -/
  | viota (f : EV)
  /-- VMASK_NZ (R303): Sets mask bits for non-zero lanes. -/
  | vmaskNz (f : EV)
  /-- VMASK_BOOL (R303): Combines two masks by AND, OR, XOR, ANDN or ORN. -/
  | vmaskBool (f : EV)
  /-- VMASK_NOT (R303): Inverts a mask. -/
  | vmaskNot (f : EV)
  /-- VMASK_FROMROW (R303): Loads a mask from row bits. -/
  | vmaskFromrow (f : EV)
  /-- VMASK_TOROW (R303): Writes a mask into a row. -/
  | vmaskTorow (f : EV)
  /-- VMCNT (R304): Counts active set mask lanes. -/
  | vmcnt (f : EV)
  /-- VMCNT_FIRST (R304): Finds the lowest active set mask lane. -/
  | vmcntFirst (f : EV)
  /-- VNEST (R309): Runs one vector instruction over a four-level index nest. -/
  | vnest (f : VnestF)
  /-- EADD (R310): Scalar add on e registers. -/
  | eadd (f : EAlu)
  /-- ESUB (R310): Scalar subtract. -/
  | esub (f : EAlu)
  /-- EMUL (R310): Scalar multiply. -/
  | emul (f : EAlu)
  /-- EAND (R310): Scalar AND. -/
  | eand (f : EAlu)
  /-- EOR (R310): Scalar OR. -/
  | eor (f : EAlu)
  /-- EXOR (R310): Scalar XOR. -/
  | exor (f : EAlu)
  /-- ESHL (R310): Scalar shift left. -/
  | eshl (f : EAlu)
  /-- ESHR (R310): Scalar shift right, logical or arithmetic. -/
  | eshr (f : EShrF)
  /-- ELI (R310): Loads a sign-extended immediate into an e register. -/
  | eli (f : EliF)
  /-- ELIH (R310): Loads an immediate into the high half of an e register. -/
  | elih (f : EliF)
  /-- ECMP (R310): Compares e registers into q predicates. -/
  | ecmp (f : CmpF 5)
  /-- EBR (R313): EP branch, popping the loop entry when leaving the body. -/
  | ebr (f : BrF 5)
  /-- ELOOP (R313): Pushes a non-rotating EP hardware loop. -/
  | eloop (f : EloopF)
  /-- EWAIT (R314): Waits for and takes tokens on the EP. -/
  | ewait (f : WaitTF)
  /-- ENOTIFY (R314): Places matrix and Proofer notify markers that signal a token. -/
  | enotify (f : NotF)
  /-- EEXIT (R314): Ends the context's EP and places its markers. -/
  | eexit (f : G0)
  /-- EXTR (R311): Extracts a vector lane into an e register. -/
  | extr (f : EeF)
  /-- EINS (R311): Inserts an e register into a vector lane. -/
  | eins (f : EeF)
  /-- ECSRR (R322): Reads an EP CSR. -/
  | ecsrr (f : CsrrF 5)
  /-- ECSRW (R322): Writes an EP CSR. -/
  | ecsrw (f : CsrwF 5)
  /-- ECSRW_SET (R322): Sets EP CSR bits. -/
  | ecsrwSet (f : CsrwF 5)
  /-- ECSRW_CLR (R322): Clears EP CSR bits. -/
  | ecsrwClr (f : CsrwF 5)
  /-- EPMOV_GET (R312): Copies q predicates into an e register. -/
  | epmovGet (f : E1)
  /-- EPMOV_SET (R312): Sets q predicates from an e register. -/
  | epmovSet (f : E1)
  /-- EPMOV_MGET (R312): Reads 64 bits of a mask. -/
  | epmovMget (f : EpmF)
  /-- EPMOV_MSET (R312): Writes 64 bits of a mask. -/
  | epmovMset (f : EpmF)
  /-- ESEND (R315): Appends a value to the EP-to-AP queue. -/
  | esend (f : SendF 5)
  /-- ERECV (R315): Removes a value from the AP-to-EP queue. -/
  | erecv (f : E1)
  /-- EPORT (R316): Reports a port's head and counts without popping. -/
  | eport (f : EportF)
  /-- EEOS (R317): Pushes an end-of-stream marker to an output port. -/
  | eeos (f : EeosF)
  /-- ETSIG (R318): Signals a token once the EP's earlier pushes are performed. -/
  | etsig (f : TkF)
  /-- SEGB (R320): Opens a signature segment. -/
  | segb (f : G0)
  /-- SEGE (R320): Closes a segment after its records complete and returns or checks the signature. -/
  | sege (f : SegeF)
  /-- TSTART (R321): Places a tile-start marker that restarts the replay window. -/
  | tstart (f : G0)
  /-- MMA (R334): Dense matrix multiply-accumulate record over a tile nest. -/
  | mma (f : MmaF)
  /-- SMMA (R337): Structured-sparse matrix multiply-accumulate record. -/
  | smma (f : SmmaF)
  /-- MZERO (R340): Zeroes named tiles. -/
  | mzero (f : MzeroF)
  /-- MSCACC (R340): Scales a partial tile and accumulates it into another. -/
  | mscacc (f : MscaccF)
  /-- OCLAIM (R330): Claims operand slots for the context. -/
  | oclaim (f : OclF)
  /-- OREL (R330): Releases claimed operand slots. -/
  | orel (f : OclF)
  /-- OFILL (R332): Fills an operand slot from a port. -/
  | ofill (f : OfillF)
  /-- OFILL_META (R332): Fills a slot with SMMA metadata from a port. -/
  | ofillMeta (f : OfillMF)
  /-- ACCLD (R340): Copies scratchpad rows into accumulator rows. -/
  | accld (f : AccF)
  /-- ACCST (R340): Copies accumulator rows into scratchpad rows. -/
  | accst (f : AccF)
  /-- MPERT (R341): Arms a perturbation of one element of the next single issue. -/
  | mpert (f : MpertF)
  /-- SQCFG (R379): Installs a Proofer tableau and frame. -/
  | sqcfg (f : SqcfgF)
  /-- SQCOMB_STAGE (R381): Pushes stage inputs for the current list to an output port. -/
  | sqcombStage (f : SqcombF)
  /-- SQCOMB_TAKE (R381): Pops stage results for the current list from an input port. -/
  | sqcombTake (f : SqcombF)
  /-- SQERR (R382): Computes error estimates for samples holding all stages. -/
  | sqerr (f : SqerrF)
  /-- SQDEC (R383): Accepts or rejects each evaluated sample and resizes its step. -/
  | sqdec (f : SqdecF)
  /-- SQNEXT (R380): Writes the list of samples needing a stage. -/
  | sqnext (f : SqnextF)
  /-- BRING_UP (R14): System-controller reset starts the ordered bring-up of a die, from firmware verification to publishing readiness. -/
  | bringUp (die : Die) (aOk : Bool) (bOk : Bool)
  /-- TRAINING_STEP_DONE (R15): A link partner completes its part of a training step (bridge, HBM, PCIe, span or ingest) and bring-up moves on. -/
  | trainingStepDone (die : Die) (part : Part)
  /-- CONTROLLER_RESTART_DONE (R457): A reset controller finishes restarting from its active slot and writes its buffered records. -/
  | controllerRestartDone (die : Die)
  /-- ROW_SPARE_COPY_DONE (R454): The copy of a failing HBM row to its spare ends, and accesses waiting on the row proceed. -/
  | rowSpareCopyDone (frame : Nat)
  /-- FTAG_ACTION_DONE (R461): A frame-tag action ends, clearing FTAGST BUSY and posting its result. -/
  | ftagActionDone (die : Die)
  /-- FIRMWARE_ACTION_DONE (R463): A STAGE or SWAP ends, clearing FWSTAT BUSY and setting LAST. -/
  | firmwareActionDone (die : Die) (result : BitVec 8) (ver : BitVec 32)
  /-- PLACE_LAUNCH (R55): The scheduler picks the eligible queue head in level and round-robin order and places its gang by first fit. -/
  | placeLaunch
  /-- PREEMPT_GANG (R64): The scheduler stops a victim gang on all its cores and saves its state, queues, streams and storage to the save pool. -/
  | preemptGang
  /-- RESUME_GANG (R66): A pre-empted gang is restored on its own cores, with its queues, streams and storage. -/
  | resumeGang (lid : BitVec 32)
  /-- AGING_INTERVAL_EXPIRY (R55): A queue head passed over for a whole AGEINT becomes blocking, and its effective level rises. -/
  | agingIntervalExpiry (queue : Nat)
  /-- HOLD_LIMIT_EXPIRY (R419): HOLDLIM passes while a pre-emption is wanted, so a gang with a hold set becomes a victim. -/
  | holdLimitExpiry (lid : BitVec 32)
  /-- LAUNCH_END (R52): When a launch ends, the scheduler waits for its writes, writes the completion word, raises MSI-X and marks it complete. -/
  | launchEnd (lid : BitVec 32)
  /-- TASK_PICKUP (R41): A core with an empty slot of the launch takes up a queued continuation record whose rank and wait condition it meets. -/
  | taskPickup (core : Nat)
  /-- NOTIFY_MARKER_REACHED (R37): A notify marker is reached once every earlier entry of its context in that queue has completed. -/
  | notifyMarkerReached (core : Nat) (slot : Nat)
  /-- BLOCK_SLICE_EXPIRY (R60): Twelve cycles of a block pass while another context is runnable, so the processor ends the block. -/
  | blockSliceExpiry (core : Nat) (proc : Proc)
  /-- CONTEXT_SELECT (R60): Six cycles after a block ends, the processor issues from the next runnable context in round-robin order. -/
  | contextSelect (core : Nat) (proc : Proc)
  /-- QUEUE_HEAD_START (R32): The command at the head of an engine queue takes its wait set once it is available, and starts. -/
  | queueHeadStart (core : Nat) (q : Qid)
  /-- TSIG_TAKE (R282): A pending TSIG takes its wait set and, once the AP's earlier accesses are performed, signals. -/
  | tsigTake (core : Nat) (slot : Nat)
  /-- ETSIG_TAKE (R318): A pending ETSIG takes its wait set and, once the EP's earlier pushes are performed, signals. -/
  | etsigTake (core : Nat) (slot : Nat)
  /-- ASYNC_TRAP (R396): A record in the async fault slot raises an asynchronous trap at the taking processor's next issue. -/
  | asyncTrap (core : Nat) (slot : Nat)
  /-- WAITA_TIMEOUT (R71): The timeout of an armed WAITA elapses on device time, and the wait completes with status 2. -/
  | waitaTimeout (core : Nat) (slot : Nat)
  /-- SUPERSTEP_ADVANCE (R73): SSBAR completes for all participating cores in one nanosecond once all have issued, transfers have landed and the start time is reached. -/
  | superstepAdvance (e : StepArrival)
  /-- SCHEDULE_ENTRY_SEND (R195): A link-schedule entry's send time arrives and its transfer is sent. -/
  | scheduleEntrySend (lid : BitVec 32) (entry : Nat)
  /-- SCHEDULE_TRANSFER_LAND (R195): A scheduled transfer lands, summed in ascending tray identity for OP 1. -/
  | scheduleTransferLand (lid : BitVec 32) (entry : Nat) (others : List (Nat × List Byte))
  /-- DUPLEX_COMPARE_TIMEOUT (R420): A duplex member waits 50 us at a compare point and writes a cause-5 record. -/
  | duplexCompareTimeout (core : Nat) (slot : Nat)
  /-- STREAM_ROW_FETCH (R154): An inbound stream fetches the next nest row into its buffer once the ring has room. -/
  | streamRowFetch (core : Nat) (a : RowAct)
  /-- STREAM_ROW_WRITE (R161): An outbound stream writes its oldest full row to the far end and empties it. -/
  | streamRowWrite (core : Nat) (a : RowAct)
  /-- INTERCORE_ROW_ARRIVE (R167): A row or marker of an inter-core stream arrives at the consumer's tail. -/
  | intercoreRowArrive (core : Nat) (st : Nat)
  /-- ALARM_CREDIT_TIMEOUT (R190): An alarm stream to the host has no write credit for 10 us, so its rows divert to the durable log. -/
  | alarmCreditTimeout (core : Nat) (st : Nat)
  /-- HOST_CREDIT_RETURN (R191): Host write credit returns and the engine sends logged rows to the host in order, advancing RIDX. -/
  | hostCreditReturn (core : Nat) (st : Nat)
  /-- COPY_CHUNK_DISPATCH (R179): A free copy engine takes the next 2-KiB chunk in deficit round-robin order. -/
  | copyChunkDispatch (die : Die)
  /-- COPY_CHUNK_DONE (R181): A copy chunk's writes are performed. -/
  | copyChunkDone (die : Die) (a : ChunkAct)
  /-- ROTATION_START (R183): Rotation k starts once every gang member has started its k-th ROT. -/
  | rotationStart (lid : BitVec 32)
  /-- ROTATION_COMPLETE (R183): A member's rotation completes when its source is read and its destination written. -/
  | rotationComplete (lid : BitVec 32) (rank : Nat)
  /-- PAGE_WALK_COMPLETE (R115): A page walk finishes reading its entries and fills the TLB, or faults. -/
  | pageWalkComplete (die : Die) (id : Nat)
  /-- AMO_HOME_PERFORM (R132): An AMO request is performed indivisibly at its home controller, or answered from the replay cache. -/
  | amoHomePerform (core : Nat) (slot : Nat) (id : Nat)
  /-- AMO_RESPONSE (R251): An AMO response returns the old value to D. -/
  | amoResponse (core : Nat) (slot : Nat) (id : Nat)
  /-- AMO_ATTEMPT_TIMEOUT (R429): An AMO attempt gets no response within 20 us and is resent with the same tag. -/
  | amoAttemptTimeout (core : Nat) (slot : Nat) (id : Nat)
  /-- REPLAY_CACHE_EXPIRY (R429): A home replay-cache entry expires 1 ms after its AMO was performed. -/
  | replayCacheExpiry (idx : Nat)
  /-- LOAD_RESPONSE (R234): A load's data returns and lands in its destination register. -/
  | loadResponse (core : Nat) (slot : Nat) (id : Nat)
  /-- REQUEST_NO_ANSWER (R432): A peer or host load or store has no answer after 180 us, so the load traps or the store is dropped with a record. -/
  | requestNoAnswer (core : Nat) (slot : Nat) (id : Nat)
  /-- REDUCTION_MERGE_TIMEOUT (R193): MT ns after the first contribution, the switch sends the merged update to the home controller. -/
  | reductionMergeTimeout (idx : Nat) (others : List (Nat × Word))
  /-- MATRIX_RECORD_START (R326): A staged matrix record starts on its idle path once R327 allows it. -/
  | matrixRecordStart (core : Nat) (path : MPath)
  /-- MATRIX_SINGLE_ISSUE (R334): One single issue of an MMA or SMMA nest checks its operands and computes its groups on the array. -/
  | matrixSingleIssue (core : Nat)
  /-- MATRIX_RESULT_WRITE (R344): A single issue's results are written to the tile 8 cycles after its last group. -/
  | matrixResultWrite (core : Nat)
  /-- OFILL_ROW_POP (R332): A running OFILL pops the next full row from its port and writes it to the slot. -/
  | ofillRowPop (core : Nat)
  /-- SEGMENT_WATCHDOG (R440): A single issue or staged record makes no progress for 50 us inside a segment, triggering a replay. -/
  | segmentWatchdog (core : Nat)
  /-- GRID_FIRING (R355): A Prism element whose inputs hold data and whose outputs have room fires its body of bundles. -/
  | gridFiring (core : Nat) (elem : Nat)
  /-- FABRIC_PORT_ROW_WRITE (R350): A fabric output port writes four staged items as one row to the stream's tail. -/
  | fabricPortRowWrite (core : Nat) (port : Nat)
  /-- SPLIT_JOIN_RESUME (R359): All four clusters reach their JOIN, and joined execution resumes at bundle NEXT. -/
  | splitJoinResume (core : Nat) (elem : Nat)
  /-- END_OF_INPUT (R367): All input ports hold markers and nothing can fire, so outputs finish, markers are written and GRUN completes. -/
  | endOfInput (core : Nat)
  /-- STORE_PERFORMED (R250): A posted store becomes performed, freeing its in-flight place and letting FENCE and TSIG waits that depend on it proceed. -/
  | storePerformed (core : Nat) (slot : Nat) (id : Nat)
  /-- PERSISTENCE_DOMAIN_REACHED (R143): A durable store reaches the persistence domain, which can let a waiting DSYNC complete. -/
  | persistenceDomainReached (id : Nat)
  /-- TLBI_COMPLETE (R116): An invalidation completes in every TLB after every access that used a removed translation has performed, releasing the stalled AP. -/
  | tlbiComplete (core : Nat) (slot : Nat)
  /-- BARRIER_ANSWER (R283): The barrier unit's answer to BARA returns the generation at arrival to the pending register. -/
  | barrierAnswer (core : Nat) (slot : Nat)
  /-- LAUNCH_ANSWER (R285): The scheduler answers a LAUNCH with the launch id, or all ones on a discard, and the pending register is written. -/
  | launchAnswer (core : Nat) (slot : Nat)
  /-- FTEST_COMPLETE (R291): The field-test pattern run ends after its duration, writing its signature and leaving the storage with the pattern's final contents. -/
  | ftestComplete (core : Nat) (slot : Nat)
  /-- PROOFER_ROW (R378): A running Proofer record processes its next sample row, pushing, popping, computing or halting at an error. -/
  | prooferRow (core : Nat)
  /-- TRAINING_TIMEOUT (R15): The time-out of a bring-up training step expires; the resource's status bit stays 0 and the sequence continues or degrades. -/
  | trainingTimeout (die : Die) (part : Part)
  /-- PTP_TIME_LOCK (R11): IEEE 1588 time first locks on an ingest port and the device steps its time to the received time. -/
  | ptpTimeLock (port : Nat) (time : Word)
  /-- POWER_FAILURE (R435): Power failure stops durable stores, drains the persistence domain on hold-up power and writes the power-loss record. -/
  | powerFailure (complete : Bool) (tdrain : Word)
  /-- FLIT_CRC_RETRY (R449): A span-link or bridge flit fails its CRC and the receiver has the sender resend it from its replay buffer. -/
  | flitCrcRetry (link : LinkId)
  /-- LINK_RETRY_LIMIT (R449): A flit fails 8 times in a row, so the link retrains, spares a lane or degrades its width. -/
  | linkRetryLimit (link : LinkId) (lane : Nat)
  /-- LINK_RETRAIN_DONE (R449): A link retrain ends at a new width or with a spare lane, and held flits go out in order. -/
  | linkRetrainDone (link : LinkId) (ok : Bool)
  /-- INGEST_LOCK_LOST (R451): An ingest port loses alignment lock, clears INGEST, and a standby port may take over as time source. -/
  | ingestLockLost (port : Nat)
  /-- ALIGNMENT_LOCK (R15): An ingest port reaches or regains PCS alignment lock and sets its INGEST bit. -/
  | alignmentLock (port : Nat)
  /-- MESH_PARITY_RESEND (R402): A mesh flit fails parity and is resent from its last hop. -/
  | meshParityResend (die : Die)
  /-- PCIE_AER_ERROR (R452): The PCIe link reports an AER error, which the device records as a CLASS 10 record. -/
  | pcieAerError (die : Die) (uncorr : Bool)
  /-- CONTROLLER_WATCHDOG (R457): A system controller misses 10 checks in a row and the other die's controller resets it. -/
  | controllerWatchdog (die : Die)
  /-- PATROL_SCRUB (R453): Patrol scrub reads a row, corrects latent errors, or poisons an uncorrectable word and reports it. -/
  | patrolScrub (loc : StoreLoc) (uncorr : Bool)
  /-- LAUNCH_PORT_WRITE (R47): A 64-byte write to a launch port submits a launch, which the queue accepts or discards. -/
  | launchPortWrite (fn : Func) (queue : Nat) (whole : Bool) (data : BitVec 512)
  /-- REGISTER_WRITE (R4): A write to a CSR or MMIO register that has no row of its own updates its writable fields. -/
  | registerWrite (fn : Func) (addr : Nat) (size : Nat) (value : Word)
  /-- FREEZE_RELEASE_ABORT (R400): A FRZREL write with ACT Abort ends a frozen context's launch without saving. -/
  | freezeReleaseAbort (fn : Func) (die : Die) (master : BitVec 32)
  /-- FREEZE_RELEASE_TRAP (R400): A FRZREL write with ACT Trap unfreezes a context, places its freeze record, and lets an async trap follow. -/
  | freezeReleaseTrap (fn : Func) (die : Die) (master : BitVec 32)
  /-- FREEZE_RELEASE_CLEAR (R400): A FRZREL write with ACT Clear unfreezes a non-context master, whose halted commands stay halted. -/
  | freezeReleaseClear (fn : Func) (die : Die) (master : BitVec 32)
  /-- STREAM_RESUME (R413): An SRESUME write with ACT RESUME translates a paused stream's row again and continues the stream. -/
  | streamResume (fn : Func) (core : Nat) (slot : Nat) (st : Nat)
  /-- STREAM_RESUME_ABORT (R413): An SRESUME write with ACT ABORT halts a paused stream with cause 13. -/
  | streamResumeAbort (fn : Func) (core : Nat) (slot : Nat) (st : Nat)
  /-- FTAG_FREE (R461): An FTAG write with ACT FREE returns a compressed object's head and body frame tags to 0. -/
  | ftagFree (fn : Func) (die : Die) (frame : Nat)
  /-- FTAG_RETIRE (R461): An FTAG write with ACT RETIRE makes a frame unmapped for every later access. -/
  | ftagRetire (fn : Func) (die : Die) (frame : Nat)
  /-- FTAG_REMAP (R461): An FTAG write with ACT REMAP copies a durable frame to a spare block and redirects it. -/
  | ftagRemap (fn : Func) (die : Die) (frame : Nat)
  /-- MAPCMD_SET (R462): A MAPCMD write with ACT 1 records a change binding a logical core to a spare site. -/
  | mapcmdSet (fn : Func) (die : Die) (lcore : Nat) (site : Nat)
  /-- MAPCMD_RETIRE (R462): A MAPCMD write with ACT 2 records the retirement of a logical core with no replacement. -/
  | mapcmdRetire (fn : Func) (die : Die) (lcore : Nat)
  /-- FWCTL_STAGE (R463): An FWCTL write with ACT STAGE starts verifying an image in HBM and writing it to the inactive slot. -/
  | fwctlStage (fn : Func) (die : Die) (src : Nat)
  /-- FWCTL_SWAP (R463): An FWCTL write with ACT SWAP restarts the controller on the inactive verified slot. -/
  | fwctlSwap (fn : Func) (die : Die)
  /-- LNKCTL_RETRAIN (R464): An LNKCTL write with ACT RETRAIN retrains a span link or ingest port at full width. -/
  | lnkctlRetrain (fn : Func) (die : Die) (k : Nat)
  /-- LNKCTL_DISABLE (R464): An LNKCTL write with ACT DISABLE disables a span link or ingest port. -/
  | lnkctlDisable (fn : Func) (die : Die) (k : Nat)
  /-- LNKCTL_ENABLE (R464): An LNKCTL write with ACT ENABLE enables a span link or ingest port and trains it. -/
  | lnkctlEnable (fn : Func) (die : Die) (k : Nat)
  /-- FTTGT_WRITE (R466): A write to FTTGT starts or ends the drain of one logical core for field test. -/
  | fttgtWrite (fn : Func) (die : Die) (value : Word)
  /-- INGEST_DATAGRAM (R188): A datagram arrives on an ingest port, is matched to a channel, and is cut into line rows. -/
  | ingestDatagram (port : Nat) (proto : BitVec 2) (udp : BitVec 16) (d : Dgram)
  /-- PRI_RESPONSE (R118): The host answers a PRI page request, and the waiting host-window access proceeds or fails. -/
  | priResponse (die : Die) (id : Nat) (ans : HostAnswer)
  /-- PCIE_REQUEST (R424): A PCIe function's request reaches the device and is served or refused. -/
  | pcieRequest (fn : Func) (req : Request)
  /-- PEER_REQUEST (R192): A span peer's read, write or AMO reaches this module's window and is served or refused. -/
  | peerRequest (tray : Nat) (req : Request)
  /-- MATRIX_REPLAY (R441): A trigger stops the matrix paths, checks the window and re-runs its started records. -/
  | matrixReplay (core : Nat) (trig : Trigger)
  /-- DEVICE_TIME_SLEW (R11): After the first lock, received IEEE 1588 time adjusts device time by slewing at most 100 ppm, never stepping backward. -/
  | deviceTimeSlew (back : Bool) (ns : Nat)
  /-- ATS_COMPLETION (R118): The host's ATS answer to a host-window translation request arrives and is kept in the second-level TLB, or fails with code 14. -/
  | atsCompletion (die : Die) (id : Nat) (ans : HostAnswer)
  /-- STORAGE_SOFT_ERROR (R402): A soft error or failed part corrupts a stored word, register or datapath, to be corrected, poisoned or detected later. -/
  | storageSoftError (loc : StoreLoc) (bit : Nat) (uncorr : Bool)
  deriving DecidableEq, Repr

end Sys2Proof
end

