-- ==== Sys2Proof/Machine/Legal.lean ====
section
/-! DEFINITION. What the encodings accept: the type codes, the operand columns of R211, the field values each vector instruction accepts, the CSR maps, and the field rules of R218, R237, R244, R261, R297, R343 and R377. -/
namespace Sys2Proof

/-! ## Type codes (R77) -/

/-- The width of a type code in bits; 0 for the reserved code. -/
def tyWidth : Nat → Nat
  | 0 => 32 | 1 => 16 | 2 => 16 | 3 => 8 | 4 => 8 | 5 => 6 | 6 => 4 | 7 => 8 | 8 => 32 | 9 => 16 | 10 => 8
  | 11 => 32 | 12 => 16 | 13 => 8 | 14 => 8 | _ => 0

/-- F32, F16, BF16. -/
def tyF (t : Nat) : Bool := t < 3
/-- I32, I16, I8. -/
def tyI (t : Nat) : Bool := 8 ≤ t && t ≤ 10
/-- N32, N16, N8. -/
def tyN (t : Nat) : Bool := 11 ≤ t && t ≤ 13
/-- OB4 and OB8. -/
def tyOB (t : Nat) : Bool := t == 6 || t == 7
/-- The arithmetic types of the vector unit (R297). -/
def tyArith (t : Nat) : Bool := tyF t || tyI t || tyN t
/-- The lane types (R297). -/
def tyLane (t : Nat) : Bool := tyArith t || t == 3 || t == 4 || t == 7 || t == 14
/-- The lane count of a lane type in a row of `bits` bits (R77, R360). -/
def tyLanes (bits t : Nat) : Nat := if tyWidth t = 0 then 0 else bits / tyWidth t

/-! ## Operand columns (R211) -/

/-- A value the As VA or VB column accepts. -/
def srcOk (v : BitVec 11) : Bool := v.toNat < 1544 || (1552 ≤ v.toNat && v.toNat ≤ 1584)
/-- A value the As VD column accepts. -/
def dstOk (v : BitVec 11) : Bool := v.toNat < 1536 || (1544 ≤ v.toNat && v.toNat < 1552)
/-- A vector register. -/
def vregOk (v : BitVec 11) : Bool := v.toNat < 1536

/-- RM of an instruction that rounds F types (R297): 0 to 5 for F types, 0 for integers. -/
def rmOk (f : EV) : Bool := if tyF f.t.toNat then f.rm.toNat < 6 else f.rm == 0
/-- No rounding mode and no saturation. -/
def plain (f : EV) : Bool := f.rm == 0 && !f.sat
/-- No negation. -/
def noNeg (f : EV) : Bool := !f.na && !f.nb
/-- Both sources and the destination are operands of R211. -/
def opds (f : EV) : Bool := dstOk f.vd && srcOk f.va && srcOk f.vb

/-- `VADD`, `VSUB`, `VMUL` (R298). -/
def okArith (f : EV) : Bool := tyArith f.t.toNat && rmOk f && f.f == 0 && opds f
/-- `VFMA` (R298). -/
def okFma (f : EV) : Bool := tyArith f.t.toNat && rmOk f && f.f.toNat < 2 && opds f && vregOk f.vd
/-- `VMIN`, `VMAX` (R298). -/
def okMinMax (f : EV) : Bool := tyArith f.t.toNat && plain f && f.f == 0 && opds f
/-- `VABS` (R298). -/
def okAbs (f : EV) : Bool :=
  tyArith f.t.toNat && noNeg f && f.rm == 0 && (!f.sat || tyI f.t.toNat) && f.f == 0 && f.vb == 0 && opds f
/-- `VCLAMP` (R298). -/
def okClamp (f : EV) : Bool := okMinMax f && vregOk f.vd
/-- `VAND`, `VOR`, `VXOR` (R299). -/
def okBit (f : EV) : Bool := tyLane f.t.toNat && plain f && f.f == 0 && opds f
/-- `VSHL` (R299). -/
def okShl (f : EV) : Bool := (tyI f.t.toNat || tyN f.t.toNat) && noNeg f && f.rm == 0 && f.f == 0 && opds f
/-- `VSHR` (R299). -/
def okShr (f : EV) : Bool := okShl f && !f.sat
/-- `VSEL` (R301). -/
def okSel (f : EV) : Bool := tyLane f.t.toNat && plain f && noNeg f && f.f.toNat < 16 && opds f
/-- `VMOV` (R301). -/
def okMov (f : EV) : Bool :=
  tyLane f.t.toNat && plain f && !f.nb && (!f.na || tyArith f.t.toNat) && f.f == 0 && f.vb == 0 && opds f
/-- `VPERM` (R301). -/
def okPerm (f : EV) : Bool := tyLane f.t.toNat && plain f && noNeg f && f.f == 0 && opds f
/-- `VBCAST` (R301): the lane is below the lane count of a row of `bits` bits. -/
def okBcast (bits : Nat) (f : EV) : Bool :=
  tyLane f.t.toNat && plain f && noNeg f && f.f.toNat < tyLanes bits f.t.toNat && f.vb == 0 && opds f
/-- `VCMP` (R300). -/
def okCmp (f : EV) : Bool :=
  tyArith f.t.toNat && (f.rm.toNat < 6 || tyF f.t.toNat) && !f.sat && f.f.toNat < 3 && f.vd.toNat < 256 && srcOk f.va && srcOk f.vb
/-- The lane count of a conversion (R305): that of the wider lane type. -/
def cvtLanes (bits t tt : Nat) : Nat :=
  if tyLane t && (!tyLane tt || tyWidth tt ≤ tyWidth t) then tyLanes bits t else tyLanes bits tt
/-- `VCVT` (R305). -/
def okCvt (bits : Nat) (f : EV) : Bool :=
  let t := f.t.toNat
  let tt := f.f.toNat % 16
  let part := f.f.toNat / 16 % 8
  let int := fun (x : Nat) => tyI x || tyN x
  t < 15 && tt < 15 && (tyLane t || tyLane tt) && (!f.na || tyArith t) && !f.nb && f.f.toNat < 128
    && (if int t && int tt then f.rm == 0 else f.rm.toNat < 6)
    && (if tyWidth tt ≤ tyWidth t then part == 0 else decide ((part + 1) * cvtLanes bits t tt ≤ bits / tyWidth t))
    && (if tyOB t || tyOB tt then srcOk f.vb else f.vb == 0) && dstOk f.vd && srcOk f.va
/-- `VCVTEF` (R306). -/
def okCvtef (f : EV) : Bool :=
  tyF f.t.toNat && 1 ≤ f.f.toNat && f.f.toNat ≤ 5 && tyWidth f.f.toNat < tyWidth f.t.toNat && f.rm.toNat < 6 && !f.nb
    && dstOk f.vd && srcOk f.va && vregOk f.vb && f.vb != f.vd
/-- `VSF` (R307). -/
def okSf (f : EV) : Bool := tyF f.t.toNat && f.f.toNat < 8 && f.rm.toNat < 6 && !f.nb && f.vb == 0 && opds f
/-- `VRED` (R308); RM and SAT stand only where they count (log 11). -/
def okRed (f : EV) : Bool :=
  let op := f.f.toNat % 8
  tyArith f.t.toNat && op < 6 && f.f.toNat < 16 && !f.nb && f.vb == 0 && (op < 3 || !tyF f.t.toNat)
    && (if tyF f.t.toNat && op == 0 then f.rm.toNat < 6 else f.rm == 0) && (!f.sat || (op == 0 && !tyF f.t.toNat))
    && dstOk f.vd && srcOk f.va && (f.f.toNat < 8 || vregOk f.vd)
/-- `VIOTA` (R302). -/
def okIota (f : EV) : Bool :=
  tyArith f.t.toNat && plain f && noNeg f && f.f.toNat < 2 && f.va == 0 && f.vb == 0 && dstOk f.vd
/-- `VMASK.NZ` and `VMASK.FROMROW` (R303). -/
def okMaskRow (fn : Nat) (f : EV) : Bool :=
  tyLane f.t.toNat && plain f && noNeg f && f.f.toNat == fn && f.vd.toNat < 16 && srcOk f.va && f.vb == 0
/-- `VMASK.AND` to `VMASK.ORN` (R303). -/
def okMaskBool (f : EV) : Bool :=
  tyLane f.t.toNat && plain f && noNeg f && 1 ≤ f.f.toNat && f.f.toNat ≤ 5 && f.vd.toNat < 16 && f.va.toNat < 16 && f.vb.toNat < 16
/-- `VMASK.NOT` (R303). -/
def okMaskNot (f : EV) : Bool :=
  tyLane f.t.toNat && plain f && noNeg f && f.f.toNat == 6 && f.vd.toNat < 16 && f.va.toNat < 16 && f.vb == 0
/-- `VMASK.TOROW` (R303). -/
def okMaskTo (f : EV) : Bool :=
  tyLane f.t.toNat && plain f && noNeg f && f.f.toNat == 8 && dstOk f.vd && f.va.toNat < 16 && f.vb == 0 && f.g == ⟨false, 0⟩
/-- `VMCNT` (F 0) and `VMCNT.FIRST` (F 1) (R304). -/
def okMcnt (fn : Nat) (f : EV) : Bool :=
  tyLane f.t.toNat && plain f && noNeg f && f.f.toNat == fn && f.vd.toNat < 32 && f.va.toNat < 16 && f.vb == 0

/-- The vector word of opcode `opc`, 0x80 to 0x98, is legal (R297 to R308). -/
def okEV (opc : Nat) (f : EV) : Bool :=
  match opc with
  | 0x80 => okArith f | 0x81 => okArith f | 0x82 => okArith f | 0x83 => okFma f
  | 0x84 => okMinMax f | 0x85 => okMinMax f | 0x86 => okAbs f | 0x87 => okClamp f
  | 0x88 => okBit f | 0x89 => okBit f | 0x8A => okBit f | 0x8B => okShl f
  | 0x8C => okShr f | 0x8D => okSel f | 0x8E => okMov f | 0x8F => okCmp f
  | 0x90 => okCvt 2048 f | 0x91 => okCvtef f | 0x92 => okSf f | 0x93 => okRed f
  | 0x94 => okPerm f | 0x95 => okBcast 2048 f | 0x96 => okIota f
  | 0x97 => okMaskRow 0 f || okMaskBool f || okMaskNot f || okMaskRow 7 f || okMaskTo f
  | 0x98 => okMcnt 0 f || okMcnt 1 f
  | _ => false

/-! ## Fields of the vector word that name a vector register (R215) -/

/-- VD of this opcode is an operand field that names v0 to v1535. -/
def vdReg (opc : Nat) (f : EV) : Bool :=
  opc != 0x8F && opc != 0x98 && (opc != 0x97 || f.f == 8) && vregOk f.vd
/-- VA of this opcode is an operand field that names v0 to v1535. -/
def vaReg (opc : Nat) (f : EV) : Bool :=
  opc != 0x98 && (opc != 0x97 || f.f == 0 || f.f == 7) && vregOk f.va
/-- VB of this opcode names v0 to v1535; one that is not used names v0 (R211), and the masks of `VMASK` F 1 to 5 are no operands. -/
def vbReg (opc : Nat) (f : EV) : Bool := (opc != 0x97 || f.f == 0 || decide (5 < f.f.toNat)) && vregOk f.vb

/-- All four fields are zero. -/
def q16Zero (q : Q16) : Bool := q.l0 == 0 && q.l1 == 0 && q.l2 == 0 && q.l3 == 0

/-- `VNEST` (R215, R218). -/
def okNest (f : VnestF) : Bool :=
  okEV f.opc.toNat f.vw && (q16Zero f.ds || vdReg f.opc.toNat f.vw) && (q16Zero f.as || vaReg f.opc.toNat f.vw)
    && (q16Zero f.bs || vbReg f.opc.toNat f.vw)

/-! ## CSR maps (R262, R322) -/

/-- The AP's CSR numbers. -/
def apCsr (n : Nat) : Bool :=
  n ≤ 6 || (0x010 ≤ n && n ≤ 0x013) || (0x020 ≤ n && n ≤ 0x022) || (0x030 ≤ n && n ≤ 0x033) || (0x040 ≤ n && n ≤ 0x048)
    || (0x050 ≤ n && n ≤ 0x052) || n == 0x060 || n == 0x061
/-- The EP's CSR numbers. -/
def epCsr (n : Nat) : Bool :=
  n ≤ 6 || n == 0x011 || n == 0x013 || (0x020 ≤ n && n ≤ 0x022) || (0x030 ≤ n && n ≤ 0x033) || (0x040 ≤ n && n ≤ 0x048)
    || n == 0x060 || n == 0x061 || (0x070 ≤ n && n ≤ 0x077) || (0x080 ≤ n && n ≤ 0x082)

/-! ## Other field rules -/

/-- OFF of a branch is a multiple of 8 (R218). -/
def offOk (v : BitVec 32) : Bool := v.toNat % 8 == 0
/-- `BR` words that are neither `CALL` nor `RET` (R225). -/
def okBr (f : BrF 6) : Bool :=
  offOk f.off && !(f.link == 62 && f.base == 0) && !(f.link == 0 && f.base == 62 && f.off == 0)
/-- `LOOP` (R205, R244). -/
def okLoop (f : LoopF) : Bool :=
  f.len != 0 && (if f.rot then 1 ≤ f.stg.toNat && f.stg.toNat ≤ 8 else f.stg == 0 && !f.epi)
/-- `PLOG.NOT` has PB zero (R203). -/
def okPlog (f : PlogF) : Bool := f.fn != .not || f.pb == 0
/-- `AMO`: C is zero unless OP is cas; fadd needs width 4 (R207, R218). -/
def okAmo (f : AmoF) : Bool := (f.op == .cas || f.c == 0) && (f.op != .fadd || f.w32)
/-- `CPY` (R277). -/
def okCpy (f : CpyF) : Bool := (!f.tm || (f.mode == .plain && !f.sl)) && (!f.dl || f.mode == .plain)
/-- `EXTR`, `EINS` (R212). -/
def okEe (f : EeF) : Bool := vregOk f.v && tyLane f.t.toNat && f.lane.toNat < tyLanes 2048 f.t.toNat
/-- `MMA` (R343). -/
def okMma (f : MmaF) : Bool := f.tile.toNat < 24
/-- `SMMA` (R214, R343): LIVE has no bit at or above K/4. -/
def okSmma (f : SmmaF) : Bool := okMma f.m && f.live.toNat < 2 ^ (12 * (f.m.kb.toNat + 1))
/-- `MSCACC` (R343). -/
def okMscacc (f : MscaccF) : Bool := f.tc.toNat < 24 && f.tp.toNat < 24 && vregOk f.vsa && vregOk f.vsb
/-- `OFILL` (R331, R343). -/
def okOfill (f : OfillF) : Bool :=
  1 ≤ f.fmt.toNat && f.fmt.toNat ≤ 7
    && (if tyOB f.fmt.toNat then f.zp.toNat < 1536 || (1552 ≤ f.zp.toNat && f.zp.toNat ≤ 1584) else f.zp == 0)
/-- `SQDEC` (R377). -/
def okSqdec (f : SqdecF) : Bool := f.gm1.toNat ≤ 319 && (f.gm1 != 0 || f.ea == 0)

end Sys2Proof
end

