-- ==== Sys2Proof/WellFormed.lean ====
section
/-! DEFINITION. Which instructions are well formed: those whose words a processor decodes (R218, R219), and which rows are instructions of a processor. Events carry no encoding and every one is well formed. -/
namespace Sys2Proof
open Instr

/-- The instruction's fields are ones decode accepts (R218). -/
def Instr.wf : Instr → Bool
  | bringUp _ _ _ => true
  | trainingStepDone _ _ => true
  | trainingTimeout _ _ => true
  | ptpTimeLock _ _ => true
  | powerFailure _ _ => true
  | flitCrcRetry _ => true
  | linkRetryLimit _ _ => true
  | linkRetrainDone _ _ => true
  | ingestLockLost _ => true
  | alignmentLock _ => true
  | meshParityResend _ => true
  | pcieAerError _ _ => true
  | controllerWatchdog _ => true
  | controllerRestartDone _ => true
  | patrolScrub _ _ => true
  | rowSpareCopyDone _ => true
  | launchPortWrite _ _ _ _ => true
  | registerWrite _ _ _ _ => true
  | freezeReleaseAbort _ _ _ => true
  | freezeReleaseTrap _ _ _ => true
  | freezeReleaseClear _ _ _ => true
  | streamResume _ _ _ _ => true
  | streamResumeAbort _ _ _ _ => true
  | ftagFree _ _ _ => true
  | ftagRetire _ _ _ => true
  | ftagRemap _ _ _ => true
  | ftagActionDone _ => true
  | mapcmdSet _ _ _ _ => true
  | mapcmdRetire _ _ _ => true
  | fwctlStage _ _ _ => true
  | fwctlSwap _ _ => true
  | firmwareActionDone _ _ _ => true
  | lnkctlRetrain _ _ _ => true
  | lnkctlDisable _ _ _ => true
  | lnkctlEnable _ _ _ => true
  | fttgtWrite _ _ _ => true
  | placeLaunch => true
  | preemptGang => true
  | resumeGang _ => true
  | agingIntervalExpiry _ => true
  | holdLimitExpiry _ => true
  | launchEnd _ => true
  | taskPickup _ => true
  | notifyMarkerReached _ _ => true
  | blockSliceExpiry _ _ => true
  | contextSelect _ _ => true
  | queueHeadStart _ _ => true
  | tsigTake _ _ => true
  | etsigTake _ _ => true
  | asyncTrap _ _ => true
  | waitaTimeout _ _ => true
  | superstepAdvance _ => true
  | scheduleEntrySend _ _ => true
  | scheduleTransferLand _ _ _ => true
  | duplexCompareTimeout _ _ => true
  | streamRowFetch _ _ => true
  | streamRowWrite _ _ => true
  | ingestDatagram _ _ _ _ => true
  | intercoreRowArrive _ _ => true
  | alarmCreditTimeout _ _ => true
  | hostCreditReturn _ _ => true
  | copyChunkDispatch _ => true
  | copyChunkDone _ _ => true
  | rotationStart _ => true
  | rotationComplete _ _ => true
  | pageWalkComplete _ _ => true
  | priResponse _ _ _ => true
  | amoHomePerform _ _ _ => true
  | amoResponse _ _ _ => true
  | amoAttemptTimeout _ _ _ => true
  | replayCacheExpiry _ => true
  | loadResponse _ _ _ => true
  | requestNoAnswer _ _ _ => true
  | pcieRequest _ _ => true
  | peerRequest _ _ => true
  | reductionMergeTimeout _ _ => true
  | matrixRecordStart _ _ => true
  | matrixSingleIssue _ => true
  | matrixResultWrite _ => true
  | ofillRowPop _ => true
  | matrixReplay _ _ => true
  | segmentWatchdog _ => true
  | gridFiring _ _ => true
  | fabricPortRowWrite _ _ => true
  | splitJoinResume _ _ => true
  | endOfInput _ => true
  | nop => true
  | add _ => true
  | sub _ => true
  | mul _ => true
  | mulh _ => true
  | div _ => true
  | rem _ => true
  | and _ => true
  | or _ => true
  | xor _ => true
  | shl _ => true
  | shr _ => true
  | sar _ => true
  | min _ => true
  | max _ => true
  | sel _ => true
  | clz _ => true
  | popc _ => true
  | bfx _ => true
  | bfi _ => true
  | li _ => true
  | lih _ => true
  | madd _ => true
  | addpc _ => true
  | cmp _ => true
  | plog f => okPlog f
  | pmovGet _ => true
  | pmovSet _ => true
  | br f => okBr f
  | call f => offOk f.off
  | ret _ => true
  | loop f => okLoop f
  | lexit _ => true
  | lexitPop _ => true
  | waitt _ => true
  | waita _ => true
  | waitb _ => true
  | waitl _ => true
  | waitc _ => true
  | ssbar _ => true
  | yield _ => true
  | exit _ => true
  | trap _ => true
  | rft _ => true
  | rftNext _ => true
  | csrr f => apCsr f.num.toNat
  | csrw f => apCsr f.num.toNat
  | csrwSet f => apCsr f.num.toNat
  | csrwClr f => apCsr f.num.toNat
  | tlbi _ => true
  | tlbiAs _ => true
  | tlbiAll _ => true
  | time _ => true
  | ld _ => true
  | st _ => true
  | amo f => okAmo f
  | amoSc f _ => okAmo f
  | amoHold f => okAmo f
  | amoRetry f _ _ => okAmo f
  | fence _ => true
  | dfence _ => true
  | dsync _ => true
  | wake _ => true
  | bara _ => true
  | trig _ => true
  | launch _ => true
  | spawn _ => true
  | suspend _ => true
  | notify _ => true
  | sende _ => true
  | recve _ => true
  | sinfo _ => true
  | ftest _ => true
  | ftestRef _ => true
  | cmapGet _ => true
  | cmapSet _ => true
  | cmapRet _ => true
  | sopen _ => true
  | sclose _ => true
  | sfork _ => true
  | smark _ => true
  | srewind _ => true
  | ssave _ => true
  | srest _ => true
  | seos _ => true
  | cpy f => okCpy f
  | cpyNb f _ => okCpy f
  | cpdrain _ => true
  | gload _ => true
  | grun _ => true
  | ghalt _ => true
  | rot _ => true
  | tsig _ => true
  | vadd f => okEV 0x80 f
  | vsub f => okEV 0x81 f
  | vmul f => okEV 0x82 f
  | vfma f => okEV 0x83 f
  | vmin f => okEV 0x84 f
  | vmax f => okEV 0x85 f
  | vabs f => okEV 0x86 f
  | vclamp f => okEV 0x87 f
  | vand f => okEV 0x88 f
  | vor f => okEV 0x89 f
  | vxor f => okEV 0x8A f
  | vshl f => okEV 0x8B f
  | vshr f => okEV 0x8C f
  | vsel f => okEV 0x8D f
  | vmov f => okEV 0x8E f
  | vcmp f => okEV 0x8F f
  | vcvt f => okEV 0x90 f
  | vcvtef f => okEV 0x91 f
  | vsf f => okEV 0x92 f
  | vred f => okEV 0x93 f
  | vperm f => okEV 0x94 f
  | vbcast f => okEV 0x95 f
  | viota f => okEV 0x96 f
  | vmaskNz f => okMaskRow 0 f
  | vmaskBool f => okMaskBool f
  | vmaskNot f => okMaskNot f
  | vmaskFromrow f => okMaskRow 7 f
  | vmaskTorow f => okMaskTo f
  | vmcnt f => okMcnt 0 f
  | vmcntFirst f => okMcnt 1 f
  | vnest f => okNest f
  | eadd _ => true
  | esub _ => true
  | emul _ => true
  | eand _ => true
  | eor _ => true
  | exor _ => true
  | eshl _ => true
  | eshr _ => true
  | eli _ => true
  | elih _ => true
  | ecmp _ => true
  | ebr f => offOk f.off
  | eloop f => f.len != 0
  | ewait _ => true
  | enotify _ => true
  | eexit _ => true
  | extr f => okEe f
  | eins f => okEe f
  | ecsrr f => epCsr f.num.toNat
  | ecsrw f => epCsr f.num.toNat
  | ecsrwSet f => epCsr f.num.toNat
  | ecsrwClr f => epCsr f.num.toNat
  | epmovGet _ => true
  | epmovSet _ => true
  | epmovMget _ => true
  | epmovMset _ => true
  | esend _ => true
  | erecv _ => true
  | eport _ => true
  | eeos _ => true
  | etsig _ => true
  | segb _ => true
  | sege _ => true
  | tstart _ => true
  | mma f => okMma f
  | smma f => okSmma f
  | mzero _ => true
  | mscacc f => okMscacc f
  | oclaim _ => true
  | orel _ => true
  | ofill f => okOfill f
  | ofillMeta _ => true
  | accld f => vregOk f.v
  | accst f => vregOk f.v
  | mpert _ => true
  | sqcfg _ => true
  | sqcombStage _ => true
  | sqcombTake _ => true
  | sqerr _ => true
  | sqdec f => okSqdec f
  | sqnext _ => true
  | deviceTimeSlew _ _ => true
  | atsCompletion _ _ _ => true
  | storePerformed _ _ _ => true
  | persistenceDomainReached _ => true
  | storageSoftError _ _ _ => true
  | tlbiComplete _ _ => true
  | barrierAnswer _ _ => true
  | launchAnswer _ _ => true
  | ftestComplete _ _ => true
  | prooferRow _ => true

/-- The processor that executes a row; none for an event (R217). `NOP` belongs to both and is listed with the AP. -/
def Instr.proc : Instr → Option Proc
  | bringUp _ _ _ => none
  | trainingStepDone _ _ => none
  | trainingTimeout _ _ => none
  | ptpTimeLock _ _ => none
  | powerFailure _ _ => none
  | flitCrcRetry _ => none
  | linkRetryLimit _ _ => none
  | linkRetrainDone _ _ => none
  | ingestLockLost _ => none
  | alignmentLock _ => none
  | meshParityResend _ => none
  | pcieAerError _ _ => none
  | controllerWatchdog _ => none
  | controllerRestartDone _ => none
  | patrolScrub _ _ => none
  | rowSpareCopyDone _ => none
  | launchPortWrite _ _ _ _ => none
  | registerWrite _ _ _ _ => none
  | freezeReleaseAbort _ _ _ => none
  | freezeReleaseTrap _ _ _ => none
  | freezeReleaseClear _ _ _ => none
  | streamResume _ _ _ _ => none
  | streamResumeAbort _ _ _ _ => none
  | ftagFree _ _ _ => none
  | ftagRetire _ _ _ => none
  | ftagRemap _ _ _ => none
  | ftagActionDone _ => none
  | mapcmdSet _ _ _ _ => none
  | mapcmdRetire _ _ _ => none
  | fwctlStage _ _ _ => none
  | fwctlSwap _ _ => none
  | firmwareActionDone _ _ _ => none
  | lnkctlRetrain _ _ _ => none
  | lnkctlDisable _ _ _ => none
  | lnkctlEnable _ _ _ => none
  | fttgtWrite _ _ _ => none
  | placeLaunch => none
  | preemptGang => none
  | resumeGang _ => none
  | agingIntervalExpiry _ => none
  | holdLimitExpiry _ => none
  | launchEnd _ => none
  | taskPickup _ => none
  | notifyMarkerReached _ _ => none
  | blockSliceExpiry _ _ => none
  | contextSelect _ _ => none
  | queueHeadStart _ _ => none
  | tsigTake _ _ => none
  | etsigTake _ _ => none
  | asyncTrap _ _ => none
  | waitaTimeout _ _ => none
  | superstepAdvance _ => none
  | scheduleEntrySend _ _ => none
  | scheduleTransferLand _ _ _ => none
  | duplexCompareTimeout _ _ => none
  | streamRowFetch _ _ => none
  | streamRowWrite _ _ => none
  | ingestDatagram _ _ _ _ => none
  | intercoreRowArrive _ _ => none
  | alarmCreditTimeout _ _ => none
  | hostCreditReturn _ _ => none
  | copyChunkDispatch _ => none
  | copyChunkDone _ _ => none
  | rotationStart _ => none
  | rotationComplete _ _ => none
  | pageWalkComplete _ _ => none
  | priResponse _ _ _ => none
  | amoHomePerform _ _ _ => none
  | amoResponse _ _ _ => none
  | amoAttemptTimeout _ _ _ => none
  | replayCacheExpiry _ => none
  | loadResponse _ _ _ => none
  | requestNoAnswer _ _ _ => none
  | pcieRequest _ _ => none
  | peerRequest _ _ => none
  | reductionMergeTimeout _ _ => none
  | matrixRecordStart _ _ => none
  | matrixSingleIssue _ => none
  | matrixResultWrite _ => none
  | ofillRowPop _ => none
  | matrixReplay _ _ => none
  | segmentWatchdog _ => none
  | gridFiring _ _ => none
  | fabricPortRowWrite _ _ => none
  | splitJoinResume _ _ => none
  | endOfInput _ => none
  | nop => some .ap
  | add _ => some .ap
  | sub _ => some .ap
  | mul _ => some .ap
  | mulh _ => some .ap
  | div _ => some .ap
  | rem _ => some .ap
  | and _ => some .ap
  | or _ => some .ap
  | xor _ => some .ap
  | shl _ => some .ap
  | shr _ => some .ap
  | sar _ => some .ap
  | min _ => some .ap
  | max _ => some .ap
  | sel _ => some .ap
  | clz _ => some .ap
  | popc _ => some .ap
  | bfx _ => some .ap
  | bfi _ => some .ap
  | li _ => some .ap
  | lih _ => some .ap
  | madd _ => some .ap
  | addpc _ => some .ap
  | cmp _ => some .ap
  | plog _ => some .ap
  | pmovGet _ => some .ap
  | pmovSet _ => some .ap
  | br _ => some .ap
  | call _ => some .ap
  | ret _ => some .ap
  | loop _ => some .ap
  | lexit _ => some .ap
  | lexitPop _ => some .ap
  | waitt _ => some .ap
  | waita _ => some .ap
  | waitb _ => some .ap
  | waitl _ => some .ap
  | waitc _ => some .ap
  | ssbar _ => some .ap
  | yield _ => some .ap
  | exit _ => some .ap
  | trap _ => some .ap
  | rft _ => some .ap
  | rftNext _ => some .ap
  | csrr _ => some .ap
  | csrw _ => some .ap
  | csrwSet _ => some .ap
  | csrwClr _ => some .ap
  | tlbi _ => some .ap
  | tlbiAs _ => some .ap
  | tlbiAll _ => some .ap
  | time _ => some .ap
  | ld _ => some .ap
  | st _ => some .ap
  | amo _ => some .ap
  | amoSc _ _ => some .ap
  | amoHold _ => some .ap
  | amoRetry _ _ _ => some .ap
  | fence _ => some .ap
  | dfence _ => some .ap
  | dsync _ => some .ap
  | wake _ => some .ap
  | bara _ => some .ap
  | trig _ => some .ap
  | launch _ => some .ap
  | spawn _ => some .ap
  | suspend _ => some .ap
  | notify _ => some .ap
  | sende _ => some .ap
  | recve _ => some .ap
  | sinfo _ => some .ap
  | ftest _ => some .ap
  | ftestRef _ => some .ap
  | cmapGet _ => some .ap
  | cmapSet _ => some .ap
  | cmapRet _ => some .ap
  | sopen _ => some .ap
  | sclose _ => some .ap
  | sfork _ => some .ap
  | smark _ => some .ap
  | srewind _ => some .ap
  | ssave _ => some .ap
  | srest _ => some .ap
  | seos _ => some .ap
  | cpy _ => some .ap
  | cpyNb _ _ => some .ap
  | cpdrain _ => some .ap
  | gload _ => some .ap
  | grun _ => some .ap
  | ghalt _ => some .ap
  | rot _ => some .ap
  | tsig _ => some .ap
  | vadd _ => some .ep
  | vsub _ => some .ep
  | vmul _ => some .ep
  | vfma _ => some .ep
  | vmin _ => some .ep
  | vmax _ => some .ep
  | vabs _ => some .ep
  | vclamp _ => some .ep
  | vand _ => some .ep
  | vor _ => some .ep
  | vxor _ => some .ep
  | vshl _ => some .ep
  | vshr _ => some .ep
  | vsel _ => some .ep
  | vmov _ => some .ep
  | vcmp _ => some .ep
  | vcvt _ => some .ep
  | vcvtef _ => some .ep
  | vsf _ => some .ep
  | vred _ => some .ep
  | vperm _ => some .ep
  | vbcast _ => some .ep
  | viota _ => some .ep
  | vmaskNz _ => some .ep
  | vmaskBool _ => some .ep
  | vmaskNot _ => some .ep
  | vmaskFromrow _ => some .ep
  | vmaskTorow _ => some .ep
  | vmcnt _ => some .ep
  | vmcntFirst _ => some .ep
  | vnest _ => some .ep
  | eadd _ => some .ep
  | esub _ => some .ep
  | emul _ => some .ep
  | eand _ => some .ep
  | eor _ => some .ep
  | exor _ => some .ep
  | eshl _ => some .ep
  | eshr _ => some .ep
  | eli _ => some .ep
  | elih _ => some .ep
  | ecmp _ => some .ep
  | ebr _ => some .ep
  | eloop _ => some .ep
  | ewait _ => some .ep
  | enotify _ => some .ep
  | eexit _ => some .ep
  | extr _ => some .ep
  | eins _ => some .ep
  | ecsrr _ => some .ep
  | ecsrw _ => some .ep
  | ecsrwSet _ => some .ep
  | ecsrwClr _ => some .ep
  | epmovGet _ => some .ep
  | epmovSet _ => some .ep
  | epmovMget _ => some .ep
  | epmovMset _ => some .ep
  | esend _ => some .ep
  | erecv _ => some .ep
  | eport _ => some .ep
  | eeos _ => some .ep
  | etsig _ => some .ep
  | segb _ => some .ep
  | sege _ => some .ep
  | tstart _ => some .ep
  | mma _ => some .ep
  | smma _ => some .ep
  | mzero _ => some .ep
  | mscacc _ => some .ep
  | oclaim _ => some .ep
  | orel _ => some .ep
  | ofill _ => some .ep
  | ofillMeta _ => some .ep
  | accld _ => some .ep
  | accst _ => some .ep
  | mpert _ => some .ep
  | sqcfg _ => some .ep
  | sqcombStage _ => some .ep
  | sqcombTake _ => some .ep
  | sqerr _ => some .ep
  | sqdec _ => some .ep
  | sqnext _ => some .ep
  | deviceTimeSlew _ _ => none
  | atsCompletion _ _ _ => none
  | storePerformed _ _ _ => none
  | persistenceDomainReached _ => none
  | storageSoftError _ _ _ => none
  | tlbiComplete _ _ => none
  | barrierAnswer _ _ => none
  | launchAnswer _ _ => none
  | ftestComplete _ _ => none
  | prooferRow _ => none

/-- The row is an event of the device. -/
def Instr.isEvent (i : Instr) : Bool := i.proc == none

end Sys2Proof
end

