-- ==== Sys2Proof/Decode.lean ====
section
/-! DEFINITION. Decoding (R196, R198 to R219): total on any words and any bytes, refusing by name; then the encoder, written from the same encoding tables. A word's fields are read by `unpack` with the widths of its form, highest field first, and written by `pack` with the same widths. -/
namespace Sys2Proof

/-- Why a processor finds a word illegal (R218). -/
inductive Illegal where
  /-- The opcode is unassigned, 0xFF, or 0xF0 to 0xF6. -/
  | opcode
  /-- The opcode belongs to the other processor's range. -/
  | range
  /-- A field that must be zero is not, or a reserved value stands in a field. -/
  | field
  /-- The fields together break a rule of the instruction. -/
  | rule
  deriving DecidableEq, Repr

/-- The length of an instruction in words, by opcode (R196). -/
def lenWords (opc : Nat) : Nat :=
  if (0x70 ≤ opc ∧ opc ≤ 0x7E) ∨ (0xE2 ≤ opc ∧ opc ≤ 0xEF) then 2
  else if opc = 0x9F ∨ opc = 0xE0 ∨ opc = 0xE1 then 8
  else 1

/-- The opcode of a first word (R198). -/
def opcOf (w : Nat) : Nat := fld w 56 8

/-! ## Values of fields -/

/-- A field of n bits. -/
def bv (n x : Nat) : BitVec n := BitVec.ofNat n x
/-- A one-bit field. -/
def bo (x : Nat) : Bool := x == 1
/-- An e register in a 6-bit field: the high bit is zero (R204, R212). -/
def e5 (x : Nat) : Option (BitVec 5) := if x < 32 then some (bv 5 x) else none
/-- A register field of n bits in a 6-bit place: n is 6 on the AP, 5 on the EP. -/
def rN (n x : Nat) : Option (BitVec n) := if x < 2 ^ n then some (bv n x) else none
/-- The guard from GN and GP (R198). -/
def grd (gn gp : Nat) : Guard := ⟨bo gn, bv 4 gp⟩
/-- The value c stands when the test holds. -/
def when' {α : Type} (t : Bool) (c : Option α) : Option α := if t then c else none

def wdNat : Wd → Nat | .d => 0 | .w => 1 | .h => 2 | .b => 3
def wdOf : Nat → Option Wd | 0 => some .d | 1 => some .w | 2 => some .h | 3 => some .b | _ => none
def modeNat : CMode → Nat | .set => 0 | .and => 1 | .or => 2
def modeOf : Nat → Option CMode | 0 => some .set | 1 => some .and | 2 => some .or | _ => none
def ccNat : CC → Nat | .eq => 0 | .ne => 1 | .lt => 2 | .ge => 3 | .ltn => 4 | .gen => 5 | .tz => 6 | .tnz => 7
def ccOf : Nat → Option CC
  | 0 => some .eq | 1 => some .ne | 2 => some .lt | 3 => some .ge | 4 => some .ltn | 5 => some .gen | 6 => some .tz | 7 => some .tnz | _ => none
def pfnNat : PFn → Nat | .and => 0 | .or => 1 | .xor => 2 | .andn => 3 | .orn => 4 | .not => 5
def pfnOf : Nat → Option PFn
  | 0 => some .and | 1 => some .or | 2 => some .xor | 3 => some .andn | 4 => some .orn | 5 => some .not | _ => none
def scopeNat : Scope → Nat | .ctx => 0 | .core => 1 | .gang => 2 | .die => 3 | .dev => 4 | .sys => 5 | .dur => 6
def scopeOf : Nat → Option Scope
  | 0 => some .ctx | 1 => some .core | 2 => some .gang | 3 => some .die | 4 => some .dev | 5 => some .sys | 6 => some .dur | _ => none
def opNat : AmoOp → Nat
  | .add => 0 | .min => 1 | .max => 2 | .minn => 3 | .maxn => 4 | .and => 5 | .or => 6 | .xor => 7 | .swap => 8 | .cas => 9 | .fadd => 10
def opOf : Nat → Option AmoOp
  | 0 => some .add | 1 => some .min | 2 => some .max | 3 => some .minn | 4 => some .maxn | 5 => some .and | 6 => some .or | 7 => some .xor
  | 8 => some .swap | 9 => some .cas | 10 => some .fadd | _ => none
def ordNat : AOrd → Nat | .rlx => 0 | .acq => 1 | .rel => 2 | .ar => 3
def ordOf : Nat → Option AOrd | 0 => some .rlx | 1 => some .acq | 2 => some .rel | 3 => some .ar | _ => none
def fkNat : FKind → Nat | .full => 0 | .acq => 1 | .rel => 2
def fkOf : Nat → Option FKind | 0 => some .full | 1 => some .acq | 2 => some .rel | _ => none
def wkNat : WKind → Nat | .none => 0 | .t => 1 | .a => 2 | .b => 3 | .l => 4 | .c => 5
def wkOf : Nat → Option WKind
  | 0 => some .none | 1 => some .t | 2 => some .a | 3 => some .b | 4 => some .l | 5 => some .c | _ => none
def cmNat : CpMode → Nat | .plain => 0 | .compress => 1 | .expand => 2
def cmOf : Nat → Option CpMode | 0 => some .plain | 1 => some .compress | 2 => some .expand | _ => none
def spNat : Space → Nat | .global => 0 | .loc => 1 | .fe => 3
def spOf : Nat → Option Space | 0 => some .global | 1 => some .loc | 3 => some .fe | _ => none

/-- A token field with its valid bit: a field whose valid bit is 0 is zero (R213). -/
def tokOf (t v : Nat) : Option (Option (BitVec 4)) := if v = 1 then some (some (bv 4 t)) else if t = 0 then some none else none
/-- The value and valid bit of a token field. -/
def tokNat : Option (BitVec 4) → Nat | none => 0 | some t => t.toNat
/-- The valid bit of a token field. -/
def tokV : Option (BitVec 4) → Nat | none => 0 | some _ => 1
/-- The three wait tokens. -/
def waitsOf (a av b bv' c cv : Nat) : Option WaitSet :=
  (tokOf a av).bind fun x => (tokOf b bv').bind fun y => (tokOf c cv).map fun z => ⟨x, y, z⟩

/-! ## The AR form (R201, R212) -/

/-- The fields of an AR-form word below the opcode: lo is bits 31 to 0. -/
structure ArW where
  g : Guard
  d : Nat
  a : Nat
  w : Nat
  i : Nat
  x : Nat
  lo : Nat
  deriving DecidableEq, Repr

/-- The widths of the AR form (R198, R201). -/
def arLay : List Nat := [8, 1, 4, 6, 6, 3, 1, 3, 32]

/-- Reads an AR-form word. -/
def arOf (w0 : Nat) : ArW :=
  match unpack arLay w0 with
  | [_, gn, gp, d, a, w, i, x, lo] => ⟨grd gn gp, d, a, w, i, x, lo⟩
  | _ => ⟨⟨false, 0⟩, 0, 0, 7, 0, 0, 0⟩

/-- B and C of the register form, whose low 20 bits are zero (R201). -/
def bcOf (lo : Nat) : Option (Nat × Nat) :=
  match unpack [6, 6, 20] lo with
  | [b, c, 0] => some (b, c)
  | _ => none

/-- The second source of the AR form with C zero: a register of n bits, or IMM32. -/
def srcOf (n : Nat) (r : ArW) : Option (Src n) :=
  if r.i = 1 then some (.imm (bv 32 r.lo)) else
  match bcOf r.lo with
  | some (b, 0) => (rN n b).map .reg
  | _ => none

/-- Every field but the guard is zero. -/
def arBare (r : ArW) : Bool := r.d == 0 && r.a == 0 && r.w == 0 && r.i == 0 && r.x == 0 && r.lo == 0

/-- Two sources, X zero. -/
def aluOf (r : ArW) : Option Alu :=
  when' (r.x == 0) ((wdOf r.w).bind fun wd => (srcOf 6 r).map fun b => ⟨r.g, wd, bv 6 r.d, bv 6 r.a, b⟩)
/-- Two sources, X bit 0 is `.U`. -/
def aluXOf (r : ArW) : Option AluX :=
  when' (r.x < 2) ((wdOf r.w).bind fun wd => (srcOf 6 r).map fun b => ⟨r.g, wd, bo r.x, bv 6 r.d, bv 6 r.a, b⟩)
/-- Three register sources. -/
def alu3Of (r : ArW) : Option Alu3 :=
  when' (r.x == 0 && r.i == 0) ((wdOf r.w).bind fun wd => (bcOf r.lo).map fun p => ⟨r.g, wd, bv 6 r.d, bv 6 r.a, bv 6 p.1, bv 6 p.2⟩)
/-- One register source. -/
def alu1Of (r : ArW) : Option Alu1 :=
  when' (r.x == 0 && r.i == 0 && r.lo == 0) ((wdOf r.w).map fun wd => ⟨r.g, wd, bv 6 r.d, bv 6 r.a⟩)
/-- `BFX` (R237). -/
def bfxOf (r : ArW) : Option BfxF :=
  when' (r.x < 2 && r.w == 0) ((srcOf 6 r).map fun b => ⟨r.g, bo r.x, bv 6 r.d, bv 6 r.a, b⟩)
/-- `BFI` (R237). -/
def bfiOf (r : ArW) : Option BfiF :=
  when' (r.x == 0 && r.w == 0 && r.i == 0) ((bcOf r.lo).map fun p => ⟨r.g, bv 6 r.d, bv 6 r.a, bv 6 p.1, bv 6 p.2⟩)
/-- Destination and IMM32 (R239). -/
def liOf (r : ArW) : Option LiF := when' (r.i == 1 && r.w == 0 && r.a == 0) (some ⟨r.g, bv 6 r.d, bv 32 r.lo⟩)
/-- The register form with W zero and B and C as the test says. -/
def regOf {α : Type} (r : ArW) (k : Nat → Nat → Option α) : Option α :=
  when' (r.i == 0 && r.w == 0) ((bcOf r.lo).bind fun p => k p.1 p.2)
/-- The immediate form with W zero and an immediate below 2^n. -/
def immOf {α : Type} (r : ArW) (n : Nat) (k : Option α) : Option α := when' (r.i == 1 && r.w == 0 && r.lo < 2 ^ n) k

/-- The AR-form instructions of the AP. -/
def apAr (opc : Nat) (r : ArW) : Option Instr :=
  match opc with
  | 0x01 => (aluOf r).map .add
  | 0x02 => (aluOf r).map .sub
  | 0x03 => (aluOf r).map .mul
  | 0x04 => (aluXOf r).map .mulh
  | 0x05 => (aluXOf r).map .div
  | 0x06 => (aluXOf r).map .rem
  | 0x07 => (aluOf r).map .and
  | 0x08 => (aluOf r).map .or
  | 0x09 => (aluOf r).map .xor
  | 0x0A => (aluOf r).map .shl
  | 0x0B => (aluOf r).map .shr
  | 0x0C => (aluOf r).map .sar
  | 0x0D => (aluXOf r).map .min
  | 0x0E => (aluXOf r).map .max
  | 0x0F => (alu3Of r).map .sel
  | 0x10 => (alu1Of r).map .clz
  | 0x11 => (alu1Of r).map .popc
  | 0x12 => (bfxOf r).map .bfx
  | 0x13 => (bfiOf r).map .bfi
  | 0x14 => when' (r.x < 2) ((liOf r).map fun f => if r.x = 0 then .li f else .lih f)
  | 0x15 => (alu3Of r).map .madd
  | 0x16 => when' (r.x == 0) ((liOf r).map .addpc)
  | 0x1A => regOf r fun b c => when' (b == 0 && c == 0)
      (if r.x = 0 then when' (r.a == 0) (some (.pmovGet ⟨r.g, bv 6 r.d⟩))
       else when' (r.x == 1 && r.d == 0) (some (.pmovSet ⟨r.g, bv 6 r.a⟩)))
  | 0x22 => when' (r.x < 2 && arBare { r with x := 0 }) (some (if r.x = 0 then .lexit ⟨r.g⟩ else .lexitPop ⟨r.g⟩))
  | 0x25 => when' (arBare r) (some (.yield ⟨r.g⟩))
  | 0x26 => when' (arBare r) (some (.exit ⟨r.g⟩))
  | 0x27 => when' (r.d == 0 && r.a == 0 && r.x == 0) (immOf r 32 (some (.trap ⟨r.g, bv 32 r.lo⟩)))
  | 0x28 => when' (r.x < 2 && arBare { r with x := 0 }) (some (if r.x = 0 then .rft ⟨r.g⟩ else .rftNext ⟨r.g⟩))
  | 0x29 => when' (r.x == 0 && r.a == 0) (immOf r 12 (some (.csrr ⟨r.g, bv 6 r.d, bv 12 r.lo⟩)))
  | 0x2A => immOf r 12 (match r.x with
      | 0 => some (.csrw ⟨r.g, bv 6 r.d, bv 6 r.a, bv 12 r.lo⟩)
      | 1 => some (.csrwSet ⟨r.g, bv 6 r.d, bv 6 r.a, bv 12 r.lo⟩)
      | 2 => some (.csrwClr ⟨r.g, bv 6 r.d, bv 6 r.a, bv 12 r.lo⟩)
      | _ => none)
  | 0x2B => when' (r.d == 0 && r.w == 0 && r.i == 0 && r.lo == 0) (match r.x with
      | 0 => some (.tlbi ⟨r.g, bv 6 r.a⟩)
      | 1 => when' (r.a == 0) (some (.tlbiAs ⟨r.g⟩))
      | 2 => when' (r.a == 0) (some (.tlbiAll ⟨r.g⟩))
      | _ => none)
  | 0x2D => when' (arBare { r with d := 0 }) (some (.time ⟨r.g, bv 6 r.d⟩))
  | 0x46 => when' (arBare { r with d := 0, a := 0 }) (some (.wake ⟨r.g, bv 6 r.d, bv 6 r.a⟩))
  | 0x50 => when' (r.x == 0 && r.a == 0) (immOf r 4 (some (.bara ⟨r.g, bv 6 r.d, bv 4 r.lo⟩)))
  | 0x52 => when' (arBare r) (some (.trig ⟨r.g⟩))
  | 0x53 => when' (r.x == 0) (immOf r 6 (some (.launch ⟨r.g, bv 6 r.d, bv 6 r.a, bv 6 r.lo⟩)))
  | 0x54 => when' (arBare { r with a := 0 }) (some (.spawn ⟨r.g, bv 6 r.a⟩))
  | 0x55 => when' (r.d == 0) (regOf r fun b c => (wkOf r.x).map fun k => .suspend ⟨r.g, k, bv 6 r.a, bv 6 b, bv 6 c⟩)
  | 0x57 => when' (r.x == 0 && r.a == 0 && r.d == 0) (immOf r 4 (some (.notify ⟨r.g, bv 4 r.lo⟩)))
  | 0x58 => when' (r.x == 0 && r.d == 0 && r.w == 0)
      (if r.i = 1 then when' (r.a == 0) (some (.sende ⟨r.g, .imm (bv 32 r.lo)⟩))
       else when' (r.lo == 0) (some (.sende ⟨r.g, .reg (bv 6 r.a)⟩)))
  | 0x59 => when' (arBare { r with d := 0 }) (some (.recve ⟨r.g, bv 6 r.d⟩))
  | 0x5A => when' (r.x == 0 && r.a == 0) (immOf r 5 (some (.sinfo ⟨r.g, bv 6 r.d, bv 5 r.lo⟩)))
  | 0x5B => regOf r fun b c => when' (c == 0) (match r.x with
      | 0 => some (.ftest ⟨r.g, bv 6 r.d, bv 6 r.a, bv 6 b⟩)
      | 1 => some (.ftestRef ⟨r.g, bv 6 r.d, bv 6 r.a, bv 6 b⟩)
      | _ => none)
  | 0x5C => regOf r fun b c => when' (c == 0) (match r.x with
      | 0 => when' (b == 0) (some (.cmapGet ⟨r.g, bv 6 r.d, bv 6 r.a⟩))
      | 1 => some (.cmapSet ⟨r.g, bv 6 r.d, bv 6 r.a, bv 6 b⟩)
      | 2 => when' (b == 0) (some (.cmapRet ⟨r.g, bv 6 r.d, bv 6 r.a⟩))
      | _ => none)
  | _ => none

/-- Two e sources, X zero (R310). -/
def ealuOf (r : ArW) : Option EAlu :=
  when' (r.x == 0) ((wdOf r.w).bind fun wd => (e5 r.d).bind fun d => (e5 r.a).bind fun a => (srcOf 5 r).map fun b => ⟨r.g, wd, d, a, b⟩)

/-- The ES-form instructions of the EP (R212, R310 to R322). -/
def epEs (opc : Nat) (r : ArW) : Option Instr :=
  match opc with
  | 0xC0 => (ealuOf r).map .eadd
  | 0xC1 => (ealuOf r).map .esub
  | 0xC2 => (ealuOf r).map .emul
  | 0xC3 => (ealuOf r).map .eand
  | 0xC4 => (ealuOf r).map .eor
  | 0xC5 => (ealuOf r).map .exor
  | 0xC6 => (ealuOf r).map .eshl
  | 0xC7 => when' (r.x < 2) ((wdOf r.w).bind fun wd => (e5 r.d).bind fun d => (e5 r.a).bind fun a => (srcOf 5 r).map fun b =>
      .eshr ⟨r.g, wd, bo r.x, d, a, b⟩)
  | 0xC8 => when' (r.x < 2 && r.a == 0) (immOf r 32 ((e5 r.d).map fun d =>
      if r.x = 0 then .eli ⟨r.g, d, bv 32 r.lo⟩ else .elih ⟨r.g, d, bv 32 r.lo⟩))
  | 0xCD => when' (r.x == 0 && r.a == 0 && r.d == 0) (immOf r 4 (some (.enotify ⟨r.g, bv 4 r.lo⟩)))
  | 0xD0 => when' (r.x == 0 && r.a == 0) (immOf r 12 ((e5 r.d).map fun d => .ecsrr ⟨r.g, d, bv 12 r.lo⟩))
  | 0xD1 => immOf r 12 ((e5 r.d).bind fun d => (e5 r.a).bind fun a => match r.x with
      | 0 => some (.ecsrw ⟨r.g, d, a, bv 12 r.lo⟩)
      | 1 => some (.ecsrwSet ⟨r.g, d, a, bv 12 r.lo⟩)
      | 2 => some (.ecsrwClr ⟨r.g, d, a, bv 12 r.lo⟩)
      | _ => none)
  | 0xD2 => when' (arBare r) (some (.eexit ⟨r.g⟩))
  | 0xD3 => (match r.x with
      | 0 => when' (arBare { r with d := 0 }) ((e5 r.d).map fun d => .epmovGet ⟨r.g, d⟩)
      | 1 => when' (arBare { r with a := 0, x := 0 }) ((e5 r.a).map fun a => .epmovSet ⟨r.g, a⟩)
      | 2 => when' (r.a == 0) (immOf r 6 ((e5 r.d).map fun d => .epmovMget ⟨r.g, d, bv 4 (r.lo % 16), bv 2 (r.lo / 16)⟩))
      | 3 => when' (r.d == 0) (immOf r 6 ((e5 r.a).map fun a => .epmovMset ⟨r.g, a, bv 4 (r.lo % 16), bv 2 (r.lo / 16)⟩))
      | _ => none)
  | 0xD4 => when' (arBare r) (some (.segb ⟨r.g⟩))
  | 0xD5 => when' (arBare { r with d := 0, a := 0 }) ((e5 r.d).bind fun d => (e5 r.a).map fun a => .sege ⟨r.g, d, a⟩)
  | 0xD6 => when' (arBare r) (some (.tstart ⟨r.g⟩))
  | 0xD7 => when' (arBare { r with d := 0 }) ((e5 r.d).map fun d => .erecv ⟨r.g, d⟩)
  | 0xD8 => when' (r.x == 0 && r.d == 0 && r.w == 0)
      (if r.i = 1 then when' (r.a == 0) (some (.esend ⟨r.g, .imm (bv 32 r.lo)⟩))
       else when' (r.lo == 0) ((e5 r.a).map fun a => .esend ⟨r.g, .reg a⟩))
  | 0xD9 => when' (r.x == 0 && r.a == 0) (immOf r 4 ((e5 r.d).map fun d => .eport ⟨r.g, d, bv 4 r.lo⟩))
  | 0xDA => when' (r.x == 0 && r.a == 0 && r.d == 0 && r.lo % 256 < 8)
      (immOf r 16 (some (.eeos ⟨r.g, bv 3 (r.lo % 256), bv 8 (r.lo / 256)⟩)))
  | _ => none

/-! ## The other one-word forms -/

/-- The widths of the AC form (R202). -/
def acLay : List Nat := [8, 1, 4, 4, 4, 2, 3, 1, 1, 6, 6, 8, 16]
/-- `CMP` with n = 6, `ECMP` with n = 5 (R202). -/
def cmpOf (n w0 : Nat) : Option (CmpF n) :=
  match unpack acLay w0 with
  | [_, gn, gp, pt, pf, mo, cc, w, i, a, b, 0, im] =>
    (modeOf mo).bind fun mo => (ccOf cc).bind fun cc => (rN n a).bind fun a =>
      (if i = 1 then when' (b == 0) (some (.imm (bv 16 im))) else when' (im == 0) ((rN n b).map .reg)).map fun b =>
        ⟨grd gn gp, bv 4 pt, bv 4 pf, mo, cc, bo w, a, b⟩
  | _ => none

/-- The widths of the AQ form (R203). -/
def aqLay : List Nat := [8, 1, 4, 4, 4, 4, 3, 36]
/-- `PLOG` (R203). -/
def plogOf (w0 : Nat) : Option PlogF :=
  match unpack aqLay w0 with
  | [_, gn, gp, pt, pa, pb, fn, 0] => (pfnOf fn).map fun fn => ⟨grd gn gp, bv 4 pt, bv 4 pa, bv 4 pb, fn⟩
  | _ => none

/-- The widths of the AB form (R204). -/
def abLay : List Nat := [8, 1, 4, 6, 6, 7, 32]
/-- `BR` with n = 6, `EBR` with n = 5 (R204). -/
def brOf (n w0 : Nat) : Option (BrF n) :=
  match unpack abLay w0 with
  | [_, gn, gp, li, ba, 0, off] => (rN n li).bind fun li => (rN n ba).map fun ba => ⟨grd gn gp, li, ba, bv 32 off⟩
  | _ => none
/-- Opcode 0x20: `CALL` has LINK 62 and BASE 0, `RET` LINK 0, BASE 62 and OFF 0, every other word is `BR` (R225). -/
def brKind (f : BrF 6) : Instr :=
  if f.link = 62 ∧ f.base = 0 then .call ⟨f.g, f.off⟩
  else if f.link = 0 ∧ f.base = 62 ∧ f.off = 0 then .ret ⟨f.g⟩
  else .br f

/-- The widths of the AL form (R205). -/
def alLay : List Nat := [8, 1, 4, 6, 10, 1, 1, 1, 16, 8, 8]
/-- `LOOP` (R205). -/
def loopOf (w0 : Nat) : Option LoopF :=
  match unpack alLay w0 with
  | [_, gn, gp, c, 0, 0, ep, ro, len, stg, 0] => some ⟨grd gn gp, bv 6 c, bo ro, bo ep, bv 16 len, bv 8 stg⟩
  | _ => none
/-- `ELOOP` (R205, R313). -/
def eloopOf (w0 : Nat) : Option EloopF :=
  match unpack alLay w0 with
  | [_, gn, gp, c, 0, 0, 0, 0, len, 0, 0] => (e5 c).map fun c => ⟨grd gn gp, c, bv 16 len⟩
  | _ => none

/-- The widths of the AM form (R206). -/
def amLay : List Nat := [8, 1, 4, 6, 6, 3, 1, 2, 1, 4, 28]
/-- The offset of the AM form. -/
def moffOf (i lo : Nat) : Option MOff :=
  if i = 1 then some (.imm (bv 28 lo)) else
  match unpack [6, 2, 20] lo with
  | [b, sc, 0] => some (.idx (bv 6 b) (bv 2 sc))
  | _ => none
/-- `LD` (R206). -/
def ldOf (w0 : Nat) : Option LdF :=
  match unpack amLay w0 with
  | [_, gn, gp, d, a, w, i, sp, sg, cls, lo] =>
    (wdOf w).bind fun wd => (moffOf i lo).bind fun o => (spOf sp).map fun sp => ⟨grd gn gp, bv 6 d, bv 6 a, wd, o, bo sg, sp, bv 4 cls⟩
  | _ => none
/-- `ST` (R206). -/
def stOf (w0 : Nat) : Option StF :=
  match unpack amLay w0 with
  | [_, gn, gp, d, a, w, i, sp, 0, cls, lo] =>
    (wdOf w).bind fun wd => (moffOf i lo).bind fun o => (spOf sp).map fun sp => ⟨grd gn gp, bv 6 d, bv 6 a, wd, o, sp, bv 4 cls⟩
  | _ => none

/-- The widths of the AA form (R207). -/
def aaLay : List Nat := [8, 1, 4, 6, 6, 3, 1, 3, 4, 6, 6, 4, 2, 1, 1, 1, 7]
/-- `AMO` and its SC, hold and retry words (R207, R225): RT gives `AMO.RETRY`, else SC `AMO.SC`, else H `AMO.HOLD`. -/
def amoOf (w0 : Nat) : Option Instr :=
  match unpack aaLay w0 with
  | [_, gn, gp, d, a, w, 0, sc, cls, b, c, op, od, h, s, rt, 0] =>
    when' (w < 2) ((scopeOf sc).bind fun sc => (opOf op).bind fun op => (ordOf od).map fun od =>
      let f : AmoF := ⟨grd gn gp, bv 6 d, bv 6 a, bo w, sc, bv 4 cls, bv 6 b, bv 6 c, op, od⟩
      if rt = 1 then .amoRetry f (bo s) (bo h) else if s = 1 then .amoSc f (bo h) else if h = 1 then .amoHold f else .amo f)
  | _ => none

/-- The widths of the AF form (R208). -/
def afLay : List Nat := [8, 1, 4, 16, 3, 16, 2, 14]
/-- `FENCE` (R208). -/
def fenceOf (w0 : Nat) : Option FenceF :=
  match unpack afLay w0 with
  | [_, gn, gp, 0, sc, m, k, 0] => (scopeOf sc).bind fun sc => (fkOf k).map fun k => ⟨grd gn gp, sc, bv 16 m, k⟩
  | _ => none
/-- `DFENCE`, `DSYNC` (R208). -/
def maskOf (w0 : Nat) : Option MaskF :=
  match unpack afLay w0 with
  | [_, gn, gp, 0, 0, m, 0, 0] => some ⟨grd gn gp, bv 16 m⟩
  | _ => none

/-- The widths of the AW form (R209). -/
def awLay : List Nat := [8, 1, 4, 6, 6, 3, 6, 6, 4, 4, 1, 4, 1, 4, 1, 5]
/-- `WAIT` (R209). -/
def waitOf (w0 : Nat) : Option Instr :=
  match unpack awLay w0 with
  | [_, gn, gp, d, a, k, b, c, bar, t0, v0, t1, v1, t2, v2, 0] =>
    (waitsOf t0 v0 t1 v1 t2 v2).bind fun ws =>
      match k with
      | 1 => when' (d == 0 && a == 0 && b == 0 && c == 0 && bar == 0) (some (.waitt ⟨grd gn gp, ws⟩))
      | 2 => when' (ws == ⟨none, none, none⟩ && bar == 0) (some (.waita ⟨grd gn gp, bv 6 d, bv 6 a, bv 6 b, bv 6 c⟩))
      | 3 => when' (ws == ⟨none, none, none⟩ && d == 0 && b == 0 && c == 0) (some (.waitb ⟨grd gn gp, bv 4 bar, bv 6 a⟩))
      | 4 => when' (ws == ⟨none, none, none⟩ && d == 0 && a == 0 && b == 0 && c == 0 && bar == 0) (some (.waitl ⟨grd gn gp⟩))
      | 5 => when' (ws == ⟨none, none, none⟩ && d == 0 && a == 0 && b == 0 && c == 0 && bar == 0) (some (.waitc ⟨grd gn gp⟩))
      | 6 => when' (ws == ⟨none, none, none⟩ && d == 0 && a == 0 && b == 0 && c == 0 && bar == 0) (some (.ssbar ⟨grd gn gp⟩))
      | _ => none
  | _ => none
/-- `EWAIT`: KIND 1 only (R209). -/
def ewaitOf (w0 : Nat) : Option Instr :=
  match waitOf w0 with
  | some (.waitt f) => some (.ewait f)
  | _ => none

/-- The widths of the EV form (R210). -/
def evLay : List Nat := [8, 1, 4, 11, 11, 11, 4, 1, 1, 3, 1, 8]
/-- The fields of an EV-form word (R210). -/
def evOf (w0 : Nat) : EV :=
  match unpack evLay w0 with
  | [_, gn, gp, vd, va, vb, t, na, nb, rm, sat, f] => ⟨grd gn gp, bv 11 vd, bv 11 va, bv 11 vb, bv 4 t, bo na, bo nb, bv 3 rm, bo sat, bv 8 f⟩
  | _ => ⟨⟨false, 0⟩, 2047, 2047, 2047, 15, true, true, 7, true, 255⟩
/-- The vector instructions 0x80 to 0x98 (R297 to R308). -/
def evInstr (opc : Nat) (f : EV) : Option Instr :=
  match opc with
  | 0x80 => some (.vadd f) | 0x81 => some (.vsub f) | 0x82 => some (.vmul f) | 0x83 => some (.vfma f)
  | 0x84 => some (.vmin f) | 0x85 => some (.vmax f) | 0x86 => some (.vabs f) | 0x87 => some (.vclamp f)
  | 0x88 => some (.vand f) | 0x89 => some (.vor f) | 0x8A => some (.vxor f) | 0x8B => some (.vshl f)
  | 0x8C => some (.vshr f) | 0x8D => some (.vsel f) | 0x8E => some (.vmov f) | 0x8F => some (.vcmp f)
  | 0x90 => some (.vcvt f) | 0x91 => some (.vcvtef f) | 0x92 => some (.vsf f) | 0x93 => some (.vred f)
  | 0x94 => some (.vperm f) | 0x95 => some (.vbcast f) | 0x96 => some (.viota f)
  | 0x97 => (match f.f.toNat with
      | 0 => some (.vmaskNz f) | 1 => some (.vmaskBool f) | 2 => some (.vmaskBool f) | 3 => some (.vmaskBool f)
      | 4 => some (.vmaskBool f) | 5 => some (.vmaskBool f) | 6 => some (.vmaskNot f) | 7 => some (.vmaskFromrow f)
      | 8 => some (.vmaskTorow f) | _ => none)
  | 0x98 => (match f.f.toNat with | 0 => some (.vmcnt f) | 1 => some (.vmcntFirst f) | _ => none)
  | _ => none

/-- The widths of the EE form (R212). -/
def eeLay : List Nat := [8, 1, 4, 6, 11, 4, 8, 22]
/-- `EXTR`, `EINS` (R212). -/
def eeOf (w0 : Nat) : Option EeF :=
  match unpack eeLay w0 with
  | [_, gn, gp, e, v, t, l, 0] => (e5 e).map fun e => ⟨grd gn gp, e, bv 11 v, bv 4 t, bv 8 l⟩
  | _ => none

/-! ## The D and N forms (R213 to R215) -/

/-- The widths of word 1 (R213). -/
def tkLay : List Nat := [4, 1, 4, 1, 4, 1, 4, 1, 44]
/-- The tokens of word 1 and its low 44 bits. -/
def tkOf (w1 : Nat) : Option (Tok × Nat) :=
  match unpack tkLay w1 with
  | [s, sv, t0, v0, t1, v1, t2, v2, lo] => (tokOf s sv).bind fun s => (waitsOf t0 v0 t1 v1 t2 v2).map fun ws => (⟨s, ws⟩, lo)
  | _ => none
/-- The tokens of a word 1 whose low 44 bits are zero. -/
def tk0 (w1 : Nat) : Option Tok :=
  match tkOf w1 with
  | some (t, 0) => some t
  | _ => none

/-- The widths of the stream commands (R269). -/
def stLay : List Nat := [8, 1, 4, 5, 1, 6, 2, 3, 16, 5, 8, 1, 4]
/-- The stream commands 0x70 to 0x77 (R269). -/
def streamOf (opc w0 w1 : Nat) : Option Instr :=
  match unpack stLay w0 with
  | [_, gn, gp, st, l, a, ne, np, rk, ph, sts, rl, 0] =>
    (tkOf w1).bind fun p =>
      let g := grd gn gp
      let noA := l == 0 && a == 0
      let noP := ne == 0 && np == 0
      let noF := rk == 0 && ph == 0
      match opc with
      | 0x70 => when' (ne < 2 && noF && sts == 0 && rl == 0 && p.2 == 0) (some (.sopen ⟨g, bv 5 st, bo l, bv 6 a, bo ne, bv 3 np, p.1⟩))
      | 0x71 => when' (noA && noP && noF && sts == 0 && rl == 0 && p.2 == 0) (some (.sclose ⟨g, bv 5 st, p.1⟩))
      | 0x72 => when' (noA && noP && sts == 0 && rl == 0 && p.2 == 0) (some (.sfork ⟨g, bv 5 st, bv 16 rk, bv 5 ph, p.1⟩))
      | 0x73 => when' (noA && noP && noF && sts == 0 && rl == 0 && p.2 == 0) (some (.smark ⟨g, bv 5 st, p.1⟩))
      | 0x74 => when' (noA && noP && noF && sts == 0 && rl == 0 && p.2 == 0) (some (.srewind ⟨g, bv 5 st, p.1⟩))
      | 0x75 => when' (noP && noF && sts == 0 && rl == 0 && p.2 == 0) (some (.ssave ⟨g, bv 5 st, bo l, bv 6 a, p.1⟩))
      | 0x76 => when' (ne < 2 && noF && sts == 0) (match unpack [5, 10, 29] p.2 with
          | [b, f, 0] =>
            if rl = 1 then some (.srest ⟨g, bv 5 st, bo l, bv 6 a, bo ne, bv 3 np, some (bv 5 b, bv 10 f), p.1⟩)
            else when' (b == 0 && f == 0) (some (.srest ⟨g, bv 5 st, bo l, bv 6 a, bo ne, bv 3 np, none, p.1⟩))
          | _ => none)
      | 0x77 => when' (noA && noP && noF && rl == 0 && p.2 == 0) (some (.seos ⟨g, bv 5 st, bv 8 sts, p.1⟩))
      | _ => none
  | _ => none

/-- The widths of `CPY` (R277). -/
def cpyLay : List Nat := [8, 1, 4, 6, 6, 6, 2, 1, 4, 4, 2, 2, 1, 1, 1, 15]
/-- `CPY` (R277). -/
def cpyOf (w0 w1 : Nat) : Option Instr :=
  match unpack cpyLay w0 with
  | [_, gn, gp, a, b, c, ch, nb, pn, cls, mo, pr, sl, dl, tm, 0] =>
    (tk0 w1).bind fun tk => (cmOf mo).bind fun mo =>
      let f : CpyF := ⟨grd gn gp, bv 6 a, bv 6 b, bv 6 c, bv 2 ch, bv 4 cls, mo, bv 2 pr, bo sl, bo dl, bo tm, tk⟩
      if nb = 1 then some (.cpyNb f (bv 4 pn)) else when' (pn == 0) (some (.cpy f))
  | _ => none

/-- The widths of `CPDRAIN` (R279), of `GLOAD` and `GRUN` (R281), of the records without fields, of `ROT` (R280). -/
def cpdLay : List Nat := [8, 1, 4, 18, 2, 31]
def gridLay : List Nat := [8, 1, 4, 6, 6, 1, 38]
def bareLay : List Nat := [8, 1, 4, 51]
def rotLay : List Nat := [8, 1, 4, 6, 6, 6, 6, 8, 19]

/-- A D-form record with nothing but a guard and tokens. -/
def tkfOf (w0 w1 : Nat) : Option TkF :=
  match unpack bareLay w0 with
  | [_, gn, gp, 0] => (tk0 w1).map fun tk => ⟨grd gn gp, tk⟩
  | _ => none

/-- The D-form commands of the AP (R269 to R282). -/
def apD (opc w0 w1 : Nat) : Option Instr :=
  match opc with
  | 0x78 => cpyOf w0 w1
  | 0x79 => (match unpack cpdLay w0 with
      | [_, gn, gp, 0, ch, 0] => (tk0 w1).map fun tk => .cpdrain ⟨grd gn gp, bv 2 ch, tk⟩
      | _ => none)
  | 0x7A => (match unpack gridLay w0 with
      | [_, gn, gp, 0, a, sl, 0] => (tk0 w1).map fun tk => .gload ⟨grd gn gp, bv 6 a, bo sl, tk⟩
      | _ => none)
  | 0x7B => (match unpack gridLay w0 with
      | [_, gn, gp, 0, 0, sl, 0] => (tk0 w1).map fun tk => .grun ⟨grd gn gp, bo sl, tk⟩
      | _ => none)
  | 0x7C => (tkfOf w0 w1).map .ghalt
  | 0x7D => (match unpack rotLay w0 with
      | [_, gn, gp, 0, a, b, 0, nr, 0] => (tk0 w1).map fun tk => .rot ⟨grd gn gp, bv 6 a, bv 6 b, bv 8 nr, tk⟩
      | _ => none)
  | 0x7E => (tkfOf w0 w1).map .tsig
  | _ => streamOf opc w0 w1

/-- The widths of word 0 of the EP's D-form records (R330, R331, R339, R341, R377). -/
def mzeroLay : List Nat := [8, 1, 4, 24, 27]
def mscLay : List Nat := [8, 1, 4, 5, 5, 1, 11, 11, 18]
def oclLay : List Nat := [8, 1, 4, 16, 35]
def ofillLay : List Nat := [8, 1, 4, 4, 4, 3, 3, 2, 1, 11, 23]
def accLay : List Nat := [8, 1, 4, 11, 5, 8, 27]
def mpertLay : List Nat := [8, 1, 4, 6, 6, 5, 1, 33]
def sqcfgLay : List Nat := [8, 1, 4, 5, 5, 41]
def sqcombLay : List Nat := [8, 1, 4, 2, 3, 46]
def sqerrLay : List Nat := [8, 1, 4, 1, 5, 45]
def sqdecLay : List Nat := [8, 1, 4, 9, 5, 37]
def sqnextLay : List Nat := [8, 1, 4, 5, 46]

/-- `OCLAIM`, `OREL` (R330). -/
def oclOf (w0 w1 : Nat) : Option OclF :=
  match unpack oclLay w0 with
  | [_, gn, gp, m, 0] => (tk0 w1).map fun tk => ⟨grd gn gp, bv 16 m, tk⟩
  | _ => none
/-- `ACCLD`, `ACCST` (R339). -/
def accOf (w0 w1 : Nat) : Option AccF :=
  match unpack accLay w0 with
  | [_, gn, gp, v, ea, nr, 0] => (tk0 w1).map fun tk => ⟨grd gn gp, bv 11 v, bv 5 ea, bv 8 nr, tk⟩
  | _ => none

/-- The D-form records of the EP (R318, R330 to R341, R377). -/
def epD (opc w0 w1 : Nat) : Option Instr :=
  match opc with
  | 0xE2 => (match unpack mzeroLay w0 with
      | [_, gn, gp, m, 0] => (tk0 w1).map fun tk => .mzero ⟨grd gn gp, bv 24 m, tk⟩
      | _ => none)
  | 0xE3 => (match unpack mscLay w0 with
      | [_, gn, gp, tc, tp, pt, a, b, 0] => (tk0 w1).map fun tk => .mscacc ⟨grd gn gp, bv 5 tc, bv 5 tp, bo pt, bv 11 a, bv 11 b, tk⟩
      | _ => none)
  | 0xE4 => (oclOf w0 w1).map .oclaim
  | 0xE5 => (oclOf w0 w1).map .orel
  | 0xE6 => (match unpack ofillLay w0 with
      | [_, gn, gp, sl, fm, po, z, kf, me, zp, 0] => (tk0 w1).bind fun tk =>
        if me = 1 then when' (fm == 0 && kf == 0 && zp == 0) (some (.ofillMeta ⟨grd gn gp, bv 4 sl, bv 3 po, bv 3 z, tk⟩))
        else some (.ofill ⟨grd gn gp, bv 4 sl, bv 4 fm, bv 3 po, bv 3 z, bv 2 kf, bv 11 zp, tk⟩)
      | _ => none)
  | 0xE7 => (accOf w0 w1).map .accld
  | 0xE8 => (accOf w0 w1).map .accst
  | 0xE9 => (match unpack mpertLay w0 with
      | [_, gn, gp, i, j, ea, d, 0] => (tk0 w1).map fun tk => .mpert ⟨grd gn gp, bv 6 i, bv 6 j, bv 5 ea, bo d, tk⟩
      | _ => none)
  | 0xEA => (match unpack sqcfgLay w0 with
      | [_, gn, gp, a, b, 0] => (tk0 w1).map fun tk => .sqcfg ⟨grd gn gp, bv 5 a, bv 5 b, tk⟩
      | _ => none)
  | 0xEB => (match unpack sqcombLay w0 with
      | [_, gn, gp, op, po, 0] => (tk0 w1).bind fun tk =>
        if op = 0 then some (.sqcombStage ⟨grd gn gp, bv 3 po, tk⟩)
        else when' (op == 1) (some (.sqcombTake ⟨grd gn gp, bv 3 po, tk⟩))
      | _ => none)
  | 0xEC => (match unpack sqerrLay w0 with
      | [_, gn, gp, pt, ea, 0] => (tk0 w1).bind fun tk =>
        if pt = 1 then some (.sqerr ⟨grd gn gp, some (bv 5 ea), tk⟩) else when' (ea == 0) (some (.sqerr ⟨grd gn gp, none, tk⟩))
      | _ => none)
  | 0xED => (match unpack sqdecLay w0 with
      | [_, gn, gp, gm, ea, 0] => (tk0 w1).map fun tk => .sqdec ⟨grd gn gp, bv 9 gm, bv 5 ea, tk⟩
      | _ => none)
  | 0xEE => (match unpack sqnextLay w0 with
      | [_, gn, gp, ea, 0] => (tk0 w1).map fun tk => .sqnext ⟨grd gn gp, bv 5 ea, tk⟩
      | _ => none)
  | 0xEF => (tkfOf w0 w1).map .etsig
  | _ => none

/-- Four 16-bit fields of a word, level 0 lowest. -/
def q16Of (w : Nat) : Q16 :=
  match unpack [16, 16, 16, 16] w with
  | [d, c, b, a] => ⟨bv 16 a, bv 16 b, bv 16 c, bv 16 d⟩
  | _ => ⟨0, 0, 0, 0⟩
/-- Four 4-bit fields, level 0 lowest. -/
def q4Of (w : Nat) : Q4 :=
  match unpack [4, 4, 4, 4] w with
  | [d, c, b, a] => ⟨bv 4 a, bv 4 b, bv 4 c, bv 4 d⟩
  | _ => ⟨0, 0, 0, 0⟩

/-- The widths of word 0 of `MMA` and `SMMA` (R214). -/
def mmaLay : List Nat := [8, 1, 4, 5, 4, 4, 4, 4, 3, 3, 2, 1, 1, 20]
/-- The fields of `MMA` and `SMMA`, with word 4 given (R214). -/
def mmaOf (w0 w1 w2 w3 : Nat) : Option MmaF :=
  match unpack mmaLay w0, unpack [16, 16, 16, 16] w3 with
  | [_, gn, gp, t, sa, sb, fa, fb, za, zb, kb, az, at', 0], [0, bs, as, ts] =>
    (tk0 w1).map fun tk =>
      ⟨grd gn gp, bv 5 t, bv 4 sa, bv 4 sb, bv 4 fa, bv 4 fb, bv 3 za, bv 3 zb, bv 2 kb, bo az, bo at', q16Of w2, q4Of ts, q4Of as, q4Of bs, tk⟩
  | _, _ => none

/-- The N-form records (R214, R215): the eight words. -/
def epN (opc : Nat) (w : Nat → Nat) : Option Instr :=
  match opc with
  | 0x9F => (match unpack bareLay (w 0) with
      | [_, gn, gp, 0] => when' (w 7 == 0) ((tk0 (w 1)).map fun tk =>
          .vnest ⟨grd gn gp, tk, bv 8 (opcOf (w 2)), evOf (w 2), q16Of (w 3), q16Of (w 4), q16Of (w 5), q16Of (w 6)⟩)
      | _ => none)
  | 0xE0 => when' (w 4 == 0 && w 5 == 0 && w 6 == 0 && w 7 == 0) ((mmaOf (w 0) (w 1) (w 2) (w 3)).map .mma)
  | 0xE1 => when' (w 5 == 0 && w 6 == 0 && w 7 == 0) (match unpack [12, 4, 48] (w 4) with
      | [0, ms, lv] => (mmaOf (w 0) (w 1) (w 2) (w 3)).map fun m => .smma ⟨m, bv 48 lv, bv 4 ms⟩
      | _ => none)
  | _ => none

/-! ## Decoding -/

/-- The opcode is in the range 0x01 to 0x7F of the AP and assigned (R216). -/
def apOpc (o : Nat) : Bool :=
  (0x01 ≤ o && o ≤ 0x16) || (0x18 ≤ o && o ≤ 0x1A) || (0x20 ≤ o && o ≤ 0x22) || (0x24 ≤ o && o ≤ 0x2B) || o == 0x2D
    || (0x40 ≤ o && o ≤ 0x46) || o == 0x50 || (0x52 ≤ o && o ≤ 0x55) || (0x57 ≤ o && o ≤ 0x5C) || (0x70 ≤ o && o ≤ 0x7E)
/-- The opcode is in the range 0x80 to 0xEF of the EP and assigned (R216). -/
def epOpc (o : Nat) : Bool :=
  (0x80 ≤ o && o ≤ 0x98) || o == 0x9F || (0xC0 ≤ o && o ≤ 0xDA) || (0xE0 ≤ o && o ≤ 0xEF)

/-- The fields of an AP instruction whose opcode is assigned. -/
def parseAp (o : Nat) (w : Nat → Nat) : Option Instr :=
  match o with
  | 0x18 => (cmpOf 6 (w 0)).map .cmp
  | 0x19 => (plogOf (w 0)).map .plog
  | 0x20 => (brOf 6 (w 0)).map brKind
  | 0x21 => (loopOf (w 0)).map .loop
  | 0x24 => waitOf (w 0)
  | 0x40 => (ldOf (w 0)).map .ld
  | 0x41 => (stOf (w 0)).map .st
  | 0x42 => amoOf (w 0)
  | 0x43 => (fenceOf (w 0)).map .fence
  | 0x44 => (maskOf (w 0)).map .dfence
  | 0x45 => (maskOf (w 0)).map .dsync
  | _ => if 0x70 ≤ o then apD o (w 0) (w 1) else apAr o (arOf (w 0))

/-- The fields of an EP instruction whose opcode is assigned. -/
def parseEp (o : Nat) (w : Nat → Nat) : Option Instr :=
  match o with
  | 0xC9 => (cmpOf 5 (w 0)).map .ecmp
  | 0xCA => (brOf 5 (w 0)).map .ebr
  | 0xCB => (eloopOf (w 0)).map .eloop
  | 0xCC => ewaitOf (w 0)
  | 0xCE => (eeOf (w 0)).map .extr
  | 0xCF => (eeOf (w 0)).map .eins
  | _ =>
    if o ≤ 0x98 then evInstr o (evOf (w 0))
    else if o = 0x9F ∨ o = 0xE0 ∨ o = 0xE1 then epN o w
    else if 0xE2 ≤ o then epD o (w 0) (w 1)
    else epEs o (arOf (w 0))

/-- The rules on the fields together. -/
def checked : Option Instr → Except Illegal Instr
  | none => .error .field
  | some i => if i.wf then .ok i else .error .rule

/-- The instruction that processor p reads from words; a word beyond the list reads as 0. `NOP` is accepted on both, with bits 54 to 0 zero (R200, R218). -/
def decodeFor (p : Proc) (ws : List Word) : Except Illegal Instr :=
  let w := fun n => (ws.getD n 0).toNat
  let o := opcOf (w 0)
  if o = 0 then (if fld (w 0) 0 55 = 0 then .ok .nop else .error .field) else
  match p with
  | .ap => if apOpc o then checked (parseAp o w) else if epOpc o then .error .range else .error .opcode
  | .ep => if epOpc o then checked (parseEp o w) else if apOpc o then .error .range else .error .opcode

/-- The words of a byte string, little-endian (R3); bytes beyond its end read as 0. -/
def wordsOf : Nat → List Byte → List Word
  | 0, _ => []
  | n + 1, l => BitVec.ofNat 64 (leAt l 0 8) :: wordsOf n (l.drop 8)

/-- The instruction that processor p reads from bytes, and the bytes after it. -/
def decodeBytes (p : Proc) (l : List Byte) : Except Illegal (Instr × List Byte) :=
  (decodeFor p (wordsOf 8 l)).map fun i => (i, l.drop (8 * lenWords (opcOf (leAt l 0 8))))

/-- The processor whose range holds an opcode (R216). -/
def procOf (opc : Nat) : Proc := if 0x80 ≤ opc then .ep else .ap

/-- The words of an instruction's bits: word k is bits 64k + 63 to 64k. -/
def tableWords (w : Nat) : List Word := (List.range 8).map fun k => BitVec.ofNat 64 (w / 2 ^ (64 * k))

/-- The instruction the decoder reads from an instruction whose bits are w, the bits at and above nbits being 0. -/
def decodeTableWord (nbits w : Nat) : Option Instr :=
  let ws := tableWords (w % 2 ^ nbits)
  match decodeFor (procOf (opcOf (ws.getD 0 0).toNat)) ws with
  | .ok i => some i
  | .error _ => none

/-! ## Encoding -/

/-- A field list with the widths of a form. -/
def lay (ws vs : List Nat) : Nat := pack (ws.zip vs)
/-- The guard's two fields. -/
def gFs (g : Guard) (r : List Nat) : List Nat := b2n g.neg :: g.idx.toNat :: r
/-- A word of the AR form. -/
def arW (opc : Nat) (g : Guard) (d a w i x lo : Nat) : Nat := lay arLay (opc :: gFs g [d, a, w, i, x, lo])
/-- B and C of the register form. -/
def bcLo (b c : Nat) : Nat := lay [6, 6, 20] [b, c, 0]
/-- I of a second source. -/
def srcI {n : Nat} : Src n → Nat | .reg _ => 0 | .imm _ => 1
/-- Bits 31 to 0 of a second source. -/
def srcLo {n : Nat} : Src n → Nat | .reg r => bcLo r.toNat 0 | .imm v => v.toNat

/-- A two-source word. -/
def encAlu (o : Nat) (f : Alu) : Nat := arW o f.g f.d.toNat f.a.toNat (wdNat f.w) (srcI f.b) 0 (srcLo f.b)
/-- A two-source word with X bit 0. -/
def encAluX (o : Nat) (f : AluX) : Nat := arW o f.g f.d.toNat f.a.toNat (wdNat f.w) (srcI f.b) (b2n f.x) (srcLo f.b)
/-- A three-source word. -/
def encAlu3 (o : Nat) (f : Alu3) : Nat := arW o f.g f.d.toNat f.a.toNat (wdNat f.w) 0 0 (bcLo f.b.toNat f.c.toNat)
/-- A two-source word of the EP. -/
def encEAlu (o : Nat) (f : EAlu) : Nat := arW o f.g f.d.toNat f.a.toNat (wdNat f.w) (srcI f.b) 0 (srcLo f.b)
/-- A word of the EV form. -/
def encEV (o : Nat) (f : EV) : Nat :=
  lay evLay (o :: gFs f.g [f.vd.toNat, f.va.toNat, f.vb.toNat, f.t.toNat, b2n f.na, b2n f.nb, f.rm.toNat, b2n f.sat, f.f.toNat])
/-- A word of the AC form. -/
def encCmp {n : Nat} (o : Nat) (f : CmpF n) : Nat :=
  let i := match f.b with | .reg _ => 0 | .imm _ => 1
  let b := match f.b with | .reg r => r.toNat | .imm _ => 0
  let m := match f.b with | .reg _ => 0 | .imm v => v.toNat
  lay acLay (o :: gFs f.g [f.pt.toNat, f.pf.toNat, modeNat f.mode, ccNat f.cc, b2n f.w32, i, f.a.toNat, b, 0, m])
/-- A word of the AB form. -/
def encBr (o : Nat) (g : Guard) (link base off : Nat) : Nat := lay abLay (o :: gFs g [link, base, 0, off])
/-- I and the low 28 bits of an AM-form offset. -/
def moffI : MOff → Nat | .imm _ => 1 | .idx _ _ => 0
def moffLo : MOff → Nat | .imm v => v.toNat | .idx b s => lay [6, 2, 20] [b.toNat, s.toNat, 0]
/-- A word of the AA form. -/
def encAmo (f : AmoF) (h sc rt : Bool) : Nat :=
  lay aaLay (0x42 :: gFs f.g [f.d.toNat, f.a.toNat, b2n f.w32, 0, scopeNat f.scope, f.cls.toNat, f.b.toNat, f.c.toNat, opNat f.op, ordNat f.ord,
    b2n h, b2n sc, b2n rt, 0])
/-- A word of the AF form. -/
def encAf (o : Nat) (g : Guard) (sc m k : Nat) : Nat := lay afLay (o :: gFs g [0, sc, m, k, 0])
/-- The six fields of a wait set. -/
def waitFs (w : WaitSet) (r : List Nat) : List Nat :=
  tokNat w.w0 :: tokV w.w0 :: tokNat w.w1 :: tokV w.w1 :: tokNat w.w2 :: tokV w.w2 :: r
/-- A word of the AW form. -/
def encAw (o : Nat) (g : Guard) (d a k b c bar : Nat) (w : WaitSet) : Nat := lay awLay (o :: gFs g (d :: a :: k :: b :: c :: bar :: waitFs w [0]))
/-- No wait token. -/
def noWaits : WaitSet := ⟨none, none, none⟩
/-- Word 1 with low bits lo. -/
def encTk (t : Tok) (lo : Nat) : Nat := lay tkLay (tokNat t.sig :: tokV t.sig :: waitFs t.waits [lo])
/-- Word 0 of a stream command. -/
def encSt (o : Nat) (g : Guard) (st l a ne np rk ph sts rl : Nat) : Nat := lay stLay (o :: gFs g [st, l, a, ne, np, rk, ph, sts, rl, 0])
/-- Word 0 of a copy. -/
def encCpy (f : CpyF) (nb pn : Nat) : Nat :=
  lay cpyLay (0x78 :: gFs f.g [f.a.toNat, f.b.toNat, f.c.toNat, f.ch.toNat, nb, pn, f.cls.toNat, cmNat f.mode, f.prio.toNat, b2n f.sl, b2n f.dl,
    b2n f.tm, 0])
/-- Word 0 of a record without fields. -/
def encBare (o : Nat) (g : Guard) : Nat := lay bareLay (o :: gFs g [0])
/-- Four 16-bit fields. -/
def encQ16 (q : Q16) : Nat := lay [16, 16, 16, 16] [q.l3.toNat, q.l2.toNat, q.l1.toNat, q.l0.toNat]
/-- Four 4-bit fields. -/
def encQ4 (q : Q4) : Nat := lay [4, 4, 4, 4] [q.l3.toNat, q.l2.toNat, q.l1.toNat, q.l0.toNat]
/-- Word 0 of `MMA` and `SMMA`. -/
def encMma0 (o : Nat) (f : MmaF) : Nat :=
  lay mmaLay (o :: gFs f.g [f.tile.toNat, f.sa.toNat, f.sb.toNat, f.fa.toNat, f.fb.toNat, f.za.toNat, f.zb.toNat, f.kb.toNat, b2n f.accz,
    b2n f.i32, 0])
/-- Word 3 of `MMA` and `SMMA`. -/
def encMma3 (f : MmaF) : Nat := lay [16, 16, 16, 16] [0, encQ4 f.bs, encQ4 f.as, encQ4 f.ts]
/-- A D-form record. -/
def dRec (w0 : Nat) (tk : Tok) : List Nat := [w0, encTk tk 0]

/-- The words of an instruction as numbers; an event has none. -/
def encodeNat : Instr → List Nat
  | .nop => [0]
  | .add f => [encAlu 0x01 f]
  | .sub f => [encAlu 0x02 f]
  | .mul f => [encAlu 0x03 f]
  | .mulh f => [encAluX 0x04 f]
  | .div f => [encAluX 0x05 f]
  | .rem f => [encAluX 0x06 f]
  | .and f => [encAlu 0x07 f]
  | .or f => [encAlu 0x08 f]
  | .xor f => [encAlu 0x09 f]
  | .shl f => [encAlu 0x0A f]
  | .shr f => [encAlu 0x0B f]
  | .sar f => [encAlu 0x0C f]
  | .min f => [encAluX 0x0D f]
  | .max f => [encAluX 0x0E f]
  | .sel f => [encAlu3 0x0F f]
  | .clz f => [arW 0x10 f.g f.d.toNat f.a.toNat (wdNat f.w) 0 0 0]
  | .popc f => [arW 0x11 f.g f.d.toNat f.a.toNat (wdNat f.w) 0 0 0]
  | .bfx f => [arW 0x12 f.g f.d.toNat f.a.toNat 0 (srcI f.b) (b2n f.sgn) (srcLo f.b)]
  | .bfi f => [arW 0x13 f.g f.d.toNat f.a.toNat 0 0 0 (bcLo f.b.toNat f.c.toNat)]
  | .li f => [arW 0x14 f.g f.d.toNat 0 0 1 0 f.imm.toNat]
  | .lih f => [arW 0x14 f.g f.d.toNat 0 0 1 1 f.imm.toNat]
  | .madd f => [encAlu3 0x15 f]
  | .addpc f => [arW 0x16 f.g f.d.toNat 0 0 1 0 f.imm.toNat]
  | .cmp f => [encCmp 0x18 f]
  | .plog f => [lay aqLay (0x19 :: gFs f.g [f.pt.toNat, f.pa.toNat, f.pb.toNat, pfnNat f.fn, 0])]
  | .pmovGet f => [arW 0x1A f.g f.r.toNat 0 0 0 0 0]
  | .pmovSet f => [arW 0x1A f.g 0 f.r.toNat 0 0 1 0]
  | .br f => [encBr 0x20 f.g f.link.toNat f.base.toNat f.off.toNat]
  | .call f => [encBr 0x20 f.g 62 0 f.off.toNat]
  | .ret f => [encBr 0x20 f.g 0 62 0]
  | .loop f => [lay alLay (0x21 :: gFs f.g [f.cnt.toNat, 0, 0, b2n f.epi, b2n f.rot, f.len.toNat, f.stg.toNat, 0])]
  | .lexit f => [arW 0x22 f.g 0 0 0 0 0 0]
  | .lexitPop f => [arW 0x22 f.g 0 0 0 0 1 0]
  | .waitt f => [encAw 0x24 f.g 0 0 1 0 0 0 f.waits]
  | .waita f => [encAw 0x24 f.g f.d.toNat f.a.toNat 2 f.b.toNat f.c.toNat 0 noWaits]
  | .waitb f => [encAw 0x24 f.g 0 f.a.toNat 3 0 0 f.bar.toNat noWaits]
  | .waitl f => [encAw 0x24 f.g 0 0 4 0 0 0 noWaits]
  | .waitc f => [encAw 0x24 f.g 0 0 5 0 0 0 noWaits]
  | .ssbar f => [encAw 0x24 f.g 0 0 6 0 0 0 noWaits]
  | .yield f => [arW 0x25 f.g 0 0 0 0 0 0]
  | .exit f => [arW 0x26 f.g 0 0 0 0 0 0]
  | .trap f => [arW 0x27 f.g 0 0 0 1 0 f.imm.toNat]
  | .rft f => [arW 0x28 f.g 0 0 0 0 0 0]
  | .rftNext f => [arW 0x28 f.g 0 0 0 0 1 0]
  | .csrr f => [arW 0x29 f.g f.d.toNat 0 0 1 0 f.num.toNat]
  | .csrw f => [arW 0x2A f.g f.d.toNat f.a.toNat 0 1 0 f.num.toNat]
  | .csrwSet f => [arW 0x2A f.g f.d.toNat f.a.toNat 0 1 1 f.num.toNat]
  | .csrwClr f => [arW 0x2A f.g f.d.toNat f.a.toNat 0 1 2 f.num.toNat]
  | .tlbi f => [arW 0x2B f.g 0 f.r.toNat 0 0 0 0]
  | .tlbiAs f => [arW 0x2B f.g 0 0 0 0 1 0]
  | .tlbiAll f => [arW 0x2B f.g 0 0 0 0 2 0]
  | .time f => [arW 0x2D f.g f.r.toNat 0 0 0 0 0]
  | .ld f => [lay amLay (0x40 :: gFs f.g [f.d.toNat, f.a.toNat, wdNat f.w, moffI f.off, spNat f.sp, b2n f.sgn, f.cls.toNat, moffLo f.off])]
  | .st f => [lay amLay (0x41 :: gFs f.g [f.d.toNat, f.a.toNat, wdNat f.w, moffI f.off, spNat f.sp, 0, f.cls.toNat, moffLo f.off])]
  | .amo f => [encAmo f false false false]
  | .amoSc f h => [encAmo f h true false]
  | .amoHold f => [encAmo f true false false]
  | .amoRetry f sc h => [encAmo f h sc true]
  | .fence f => [encAf 0x43 f.g (scopeNat f.scope) f.mask.toNat (fkNat f.kind)]
  | .dfence f => [encAf 0x44 f.g 0 f.mask.toNat 0]
  | .dsync f => [encAf 0x45 f.g 0 f.mask.toNat 0]
  | .wake f => [arW 0x46 f.g f.d.toNat f.a.toNat 0 0 0 0]
  | .bara f => [arW 0x50 f.g f.d.toNat 0 0 1 0 f.bar.toNat]
  | .trig f => [arW 0x52 f.g 0 0 0 0 0 0]
  | .launch f => [arW 0x53 f.g f.d.toNat f.a.toNat 0 1 0 f.queue.toNat]
  | .spawn f => [arW 0x54 f.g 0 f.r.toNat 0 0 0 0]
  | .suspend f => [arW 0x55 f.g 0 f.a.toNat 0 0 (wkNat f.kind) (bcLo f.b.toNat f.c.toNat)]
  | .notify f => [arW 0x57 f.g 0 0 0 1 0 f.tok.toNat]
  | .sende f => [match f.v with | .reg r => arW 0x58 f.g 0 r.toNat 0 0 0 0 | .imm v => arW 0x58 f.g 0 0 0 1 0 v.toNat]
  | .recve f => [arW 0x59 f.g f.r.toNat 0 0 0 0 0]
  | .sinfo f => [arW 0x5A f.g f.d.toNat 0 0 1 0 f.st.toNat]
  | .ftest f => [arW 0x5B f.g f.d.toNat f.a.toNat 0 0 0 (bcLo f.b.toNat 0)]
  | .ftestRef f => [arW 0x5B f.g f.d.toNat f.a.toNat 0 0 1 (bcLo f.b.toNat 0)]
  | .cmapGet f => [arW 0x5C f.g f.d.toNat f.a.toNat 0 0 0 0]
  | .cmapSet f => [arW 0x5C f.g f.d.toNat f.a.toNat 0 0 1 (bcLo f.b.toNat 0)]
  | .cmapRet f => [arW 0x5C f.g f.d.toNat f.a.toNat 0 0 2 0]
  | .sopen f => dRec (encSt 0x70 f.g f.st.toNat (b2n f.loc) f.a.toNat (b2n f.ne) f.np.toNat 0 0 0 0) f.tk
  | .sclose f => dRec (encSt 0x71 f.g f.st.toNat 0 0 0 0 0 0 0 0) f.tk
  | .sfork f => dRec (encSt 0x72 f.g f.st.toNat 0 0 0 0 f.rank.toNat f.ph.toNat 0 0) f.tk
  | .smark f => dRec (encSt 0x73 f.g f.st.toNat 0 0 0 0 0 0 0 0) f.tk
  | .srewind f => dRec (encSt 0x74 f.g f.st.toNat 0 0 0 0 0 0 0 0) f.tk
  | .ssave f => dRec (encSt 0x75 f.g f.st.toNat (b2n f.loc) f.a.toNat 0 0 0 0 0 0) f.tk
  | .srest f =>
    (match f.rl with
    | some (b, r) => [encSt 0x76 f.g f.st.toNat (b2n f.loc) f.a.toNat (b2n f.ne) f.np.toNat 0 0 0 1, encTk f.tk (lay [5, 10, 29] [b.toNat, r.toNat, 0])]
    | none => dRec (encSt 0x76 f.g f.st.toNat (b2n f.loc) f.a.toNat (b2n f.ne) f.np.toNat 0 0 0 0) f.tk)
  | .seos f => dRec (encSt 0x77 f.g f.st.toNat 0 0 0 0 0 0 f.status.toNat 0) f.tk
  | .cpy f => dRec (encCpy f 0 0) f.tk
  | .cpyNb f pn => dRec (encCpy f 1 pn.toNat) f.tk
  | .cpdrain f => dRec (lay cpdLay (0x79 :: gFs f.g [0, f.ch.toNat, 0])) f.tk
  | .gload f => dRec (lay gridLay (0x7A :: gFs f.g [0, f.a.toNat, b2n f.slot, 0])) f.tk
  | .grun f => dRec (lay gridLay (0x7B :: gFs f.g [0, 0, b2n f.slot, 0])) f.tk
  | .ghalt f => dRec (encBare 0x7C f.g) f.tk
  | .rot f => dRec (lay rotLay (0x7D :: gFs f.g [0, f.a.toNat, f.b.toNat, 0, f.nr.toNat, 0])) f.tk
  | .tsig f => dRec (encBare 0x7E f.g) f.tk
  | .vadd f => [encEV 0x80 f]
  | .vsub f => [encEV 0x81 f]
  | .vmul f => [encEV 0x82 f]
  | .vfma f => [encEV 0x83 f]
  | .vmin f => [encEV 0x84 f]
  | .vmax f => [encEV 0x85 f]
  | .vabs f => [encEV 0x86 f]
  | .vclamp f => [encEV 0x87 f]
  | .vand f => [encEV 0x88 f]
  | .vor f => [encEV 0x89 f]
  | .vxor f => [encEV 0x8A f]
  | .vshl f => [encEV 0x8B f]
  | .vshr f => [encEV 0x8C f]
  | .vsel f => [encEV 0x8D f]
  | .vmov f => [encEV 0x8E f]
  | .vcmp f => [encEV 0x8F f]
  | .vcvt f => [encEV 0x90 f]
  | .vcvtef f => [encEV 0x91 f]
  | .vsf f => [encEV 0x92 f]
  | .vred f => [encEV 0x93 f]
  | .vperm f => [encEV 0x94 f]
  | .vbcast f => [encEV 0x95 f]
  | .viota f => [encEV 0x96 f]
  | .vmaskNz f => [encEV 0x97 f]
  | .vmaskBool f => [encEV 0x97 f]
  | .vmaskNot f => [encEV 0x97 f]
  | .vmaskFromrow f => [encEV 0x97 f]
  | .vmaskTorow f => [encEV 0x97 f]
  | .vmcnt f => [encEV 0x98 f]
  | .vmcntFirst f => [encEV 0x98 f]
  | .vnest f => [encBare 0x9F f.g, encTk f.tk 0, encEV f.opc.toNat f.vw, encQ16 f.c, encQ16 f.ds, encQ16 f.as, encQ16 f.bs, 0]
  | .eadd f => [encEAlu 0xC0 f]
  | .esub f => [encEAlu 0xC1 f]
  | .emul f => [encEAlu 0xC2 f]
  | .eand f => [encEAlu 0xC3 f]
  | .eor f => [encEAlu 0xC4 f]
  | .exor f => [encEAlu 0xC5 f]
  | .eshl f => [encEAlu 0xC6 f]
  | .eshr f => [arW 0xC7 f.g f.d.toNat f.a.toNat (wdNat f.w) (srcI f.b) (b2n f.sgn) (srcLo f.b)]
  | .eli f => [arW 0xC8 f.g f.d.toNat 0 0 1 0 f.imm.toNat]
  | .elih f => [arW 0xC8 f.g f.d.toNat 0 0 1 1 f.imm.toNat]
  | .ecmp f => [encCmp 0xC9 f]
  | .ebr f => [encBr 0xCA f.g f.link.toNat f.base.toNat f.off.toNat]
  | .eloop f => [lay alLay (0xCB :: gFs f.g [f.cnt.toNat, 0, 0, 0, 0, f.len.toNat, 0, 0])]
  | .ewait f => [encAw 0xCC f.g 0 0 1 0 0 0 f.waits]
  | .enotify f => [arW 0xCD f.g 0 0 0 1 0 f.tok.toNat]
  | .eexit f => [arW 0xD2 f.g 0 0 0 0 0 0]
  | .extr f => [lay eeLay (0xCE :: gFs f.g [f.e.toNat, f.v.toNat, f.t.toNat, f.lane.toNat, 0])]
  | .eins f => [lay eeLay (0xCF :: gFs f.g [f.e.toNat, f.v.toNat, f.t.toNat, f.lane.toNat, 0])]
  | .ecsrr f => [arW 0xD0 f.g f.d.toNat 0 0 1 0 f.num.toNat]
  | .ecsrw f => [arW 0xD1 f.g f.d.toNat f.a.toNat 0 1 0 f.num.toNat]
  | .ecsrwSet f => [arW 0xD1 f.g f.d.toNat f.a.toNat 0 1 1 f.num.toNat]
  | .ecsrwClr f => [arW 0xD1 f.g f.d.toNat f.a.toNat 0 1 2 f.num.toNat]
  | .epmovGet f => [arW 0xD3 f.g f.r.toNat 0 0 0 0 0]
  | .epmovSet f => [arW 0xD3 f.g 0 f.r.toNat 0 0 1 0]
  | .epmovMget f => [arW 0xD3 f.g f.r.toNat 0 0 1 2 (f.n.toNat + 16 * f.k.toNat)]
  | .epmovMset f => [arW 0xD3 f.g 0 f.r.toNat 0 1 3 (f.n.toNat + 16 * f.k.toNat)]
  | .esend f => [match f.v with | .reg r => arW 0xD8 f.g 0 r.toNat 0 0 0 0 | .imm v => arW 0xD8 f.g 0 0 0 1 0 v.toNat]
  | .erecv f => [arW 0xD7 f.g f.r.toNat 0 0 0 0 0]
  | .eport f => [arW 0xD9 f.g f.d.toNat 0 0 1 0 f.port.toNat]
  | .eeos f => [arW 0xDA f.g 0 0 0 1 0 (f.port.toNat + 256 * f.status.toNat)]
  | .etsig f => dRec (encBare 0xEF f.g) f.tk
  | .segb f => [arW 0xD4 f.g 0 0 0 0 0 0]
  | .sege f => [arW 0xD5 f.g f.d.toNat f.a.toNat 0 0 0 0]
  | .tstart f => [arW 0xD6 f.g 0 0 0 0 0 0]
  | .mma f => [encMma0 0xE0 f, encTk f.tk 0, encQ16 f.n, encMma3 f, 0, 0, 0, 0]
  | .smma f => [encMma0 0xE1 f.m, encTk f.m.tk 0, encQ16 f.m.n, encMma3 f.m, lay [12, 4, 48] [0, f.mslot.toNat, f.live.toNat], 0, 0, 0]
  | .mzero f => dRec (lay mzeroLay (0xE2 :: gFs f.g [f.tmask.toNat, 0])) f.tk
  | .mscacc f => dRec (lay mscLay (0xE3 :: gFs f.g [f.tc.toNat, f.tp.toNat, b2n f.pt, f.vsa.toNat, f.vsb.toNat, 0])) f.tk
  | .oclaim f => dRec (lay oclLay (0xE4 :: gFs f.g [f.smask.toNat, 0])) f.tk
  | .orel f => dRec (lay oclLay (0xE5 :: gFs f.g [f.smask.toNat, 0])) f.tk
  | .ofill f => dRec (lay ofillLay (0xE6 :: gFs f.g [f.slot.toNat, f.fmt.toNat, f.port.toNat, f.z.toNat, f.kfm1.toNat, 0, f.zp.toNat, 0])) f.tk
  | .ofillMeta f => dRec (lay ofillLay (0xE6 :: gFs f.g [f.slot.toNat, 0, f.port.toNat, f.z.toNat, 0, 1, 0, 0])) f.tk
  | .accld f => dRec (lay accLay (0xE7 :: gFs f.g [f.v.toNat, f.ea.toNat, f.nrm1.toNat, 0])) f.tk
  | .accst f => dRec (lay accLay (0xE8 :: gFs f.g [f.v.toNat, f.ea.toNat, f.nrm1.toNat, 0])) f.tk
  | .mpert f => dRec (lay mpertLay (0xE9 :: gFs f.g [f.pi.toNat, f.pj.toNat, f.ea.toNat, b2n f.det, 0])) f.tk
  | .sqcfg f => dRec (lay sqcfgLay (0xEA :: gFs f.g [f.ea.toNat, f.eb.toNat, 0])) f.tk
  | .sqcombStage f => dRec (lay sqcombLay (0xEB :: gFs f.g [0, f.port.toNat, 0])) f.tk
  | .sqcombTake f => dRec (lay sqcombLay (0xEB :: gFs f.g [1, f.port.toNat, 0])) f.tk
  | .sqerr f => dRec (lay sqerrLay (0xEC :: gFs f.g [match f.ea with | some _ => 1 | none => 0, match f.ea with | some e => e.toNat | none => 0, 0])) f.tk
  | .sqdec f => dRec (lay sqdecLay (0xED :: gFs f.g [f.gm1.toNat, f.ea.toNat, 0])) f.tk
  | .sqnext f => dRec (lay sqnextLay (0xEE :: gFs f.g [f.ea.toNat, 0])) f.tk
  | _ => []

/-- The words of a well-formed instruction (R196, R198 to R215); an event of the device has none. -/
def encode (i : Instr) : List Word := (encodeNat i).map (BitVec.ofNat 64)

end Sys2Proof
end

