-- ==== Sys2Proof/Machine/Flags.lean ====
section
/-! DEFINITION. The six exception flags (R85) and exact values with the rounding that sets them (R79 to R84, R87). -/
namespace Sys2Proof

/-- A set of exception flags, laid out as R85. -/
abbrev Flags := BitVec 6
/-- SV: saturated. -/
def fSV : Flags := 32
/-- NV: invalid. -/
def fNV : Flags := 16
/-- DZ: division by zero. -/
def fDZ : Flags := 8
/-- OF: overflow. -/
def fOF : Flags := 4
/-- UF: underflow. -/
def fUF : Flags := 2
/-- NX: inexact. -/
def fNX : Flags := 1
/-- A flag when the test holds. -/
def fIf (b : Bool) (f : Flags) : Flags := if b then f else 0

/-- An exact value: NaN, an infinity, or (-1)^neg x m x 2^e. -/
inductive Num where
  | nan
  | inf (neg : Bool)
  | fin (neg : Bool) (m : Nat) (e : Int)
  deriving DecidableEq, Repr

/-- Whether the value is a zero. -/
def Num.isZero : Num → Bool
  | .fin _ 0 _ => true
  | _ => false

/-- The position of the highest one bit, plus 1; 0 for 0. -/
def bitLen (n : Nat) : Nat := if n = 0 then 0 else n.log2 + 1

/-- The signed mantissa of a value at exponent e0, which is at most its own. -/
def Num.at (neg : Bool) (m : Nat) (e e0 : Int) : Int :=
  let v : Int := (m * 2 ^ (e - e0).toNat : Nat)
  if neg then -v else v

/-- The value of a signed mantissa; neg is the sign of a zero. -/
def Num.ofInt (v : Int) (e : Int) (zneg : Bool) : Num :=
  if v = 0 then .fin zneg 0 0 else .fin (v < 0) v.natAbs e

/-- The exact sum; `rdn` gives an exact zero of unlike signs the sign of R82. NV for infinities of unlike signs. -/
def Num.add (rdn : Bool) : Num → Num → Num × Flags
  | .nan, _ => (.nan, 0)
  | _, .nan => (.nan, 0)
  | .inf a, .inf b => if a = b then (.inf a, 0) else (.nan, fNV)
  | .inf a, _ => (.inf a, 0)
  | _, .inf b => (.inf b, 0)
  | .fin a m e, .fin b n f =>
    let g := min e f
    (Num.ofInt (Num.at a m e g + Num.at b n f g) g (if a = b then a else rdn), 0)

/-- The exact product. NV for zero times an infinity. -/
def Num.mul : Num → Num → Num × Flags
  | .nan, _ => (.nan, 0)
  | _, .nan => (.nan, 0)
  | .inf a, .inf b => (.inf (a != b), 0)
  | .inf a, .fin b m _ => if m = 0 then (.nan, fNV) else (.inf (a != b), 0)
  | .fin a m _, .inf b => if m = 0 then (.nan, fNV) else (.inf (a != b), 0)
  | .fin a m e, .fin b n f => (.fin (a != b) (m * n) (e + f), 0)

/-- The negated value. -/
def Num.neg : Num → Num
  | .nan => .nan
  | .inf a => .inf !a
  | .fin a m e => .fin (!a) m e

/-- Exact a x b + c. -/
def Num.fma (rdn : Bool) (a b c : Num) : Num × Flags :=
  let (p, f) := Num.mul a b
  let (s, g) := Num.add rdn p c
  (s, f ||| g)

/-- a < b as real numbers or infinities, zeros equal; false with a NaN. -/
def Num.lt : Num → Num → Bool
  | .nan, _ => false
  | _, .nan => false
  | .inf a, .inf b => a && !b
  | .inf a, .fin _ _ _ => a
  | .fin _ _ _, .inf b => !b
  | .fin a m e, .fin b n f => let g := min e f; decide (Num.at a m e g < Num.at b n f g)

/-- Whether the value is a NaN. -/
def Num.isNan : Num → Bool
  | .nan => true
  | _ => false

/-- a = b as real numbers or infinities, zeros equal; false with a NaN. -/
def Num.eq (a b : Num) : Bool := !a.isNan && !b.isNan && !a.lt b && !b.lt a

/-- The sign bit of a value that is no NaN. -/
def Num.sign : Num → Bool
  | .nan => false
  | .inf a => a
  | .fin a _ _ => a

/-- The order of `VMIN` and `VMAX`: as `lt`, with -0 below +0 (R81). -/
def Num.below (a b : Num) : Bool := a.lt b || (a.isZero && b.isZero && a.sign && !b.sign)

/-- Whether rounding mode rm moves the magnitude q + r / 2^k up (R82). -/
def roundsUp (rm : Nat) (neg : Bool) (q r k : Nat) : Bool :=
  match rm with
  | 0 => decide (2 ^ k < 2 * r) || (decide (2 * r = 2 ^ k) && q % 2 == 1)
  | 1 => false
  | 2 => r != 0 && !neg
  | 3 => r != 0 && neg
  | _ => r != 0 && decide (2 ^ k ≤ 2 * r)

/-- The magnitude m x 2^e as a multiple of 2^l, rounded, and whether it is inexact. -/
def cutAt (rm : Nat) (neg : Bool) (m : Nat) (e l : Int) : Nat × Bool :=
  if l ≤ e then (m * 2 ^ (e - l).toNat, false) else
  let k := (l - e).toNat
  let q := m / 2 ^ k
  let r := m % 2 ^ k
  (if roundsUp rm neg q r k then q + 1 else q, r != 0)

/-- The limits of a floating type (R79, R86): exponent and fraction widths, bias, the largest finite code, whether it has infinities. -/
structure FmtF where
  eb : Nat
  fb : Nat
  bias : Nat
  maxc : Nat
  infs : Bool
  deriving DecidableEq, Repr

/-- The floating types by type code (R79, R86). -/
def fmtF : Nat → FmtF
  | 0 => ⟨8, 23, 127, 0x7F7FFFFF, true⟩
  | 1 => ⟨5, 10, 15, 0x7BFF, true⟩
  | 2 => ⟨8, 7, 127, 0x7F7F, true⟩
  | 3 => ⟨4, 3, 7, 0x7E, false⟩
  | _ => ⟨5, 2, 15, 0x7B, true⟩

/-- The bit that holds the sign. -/
def FmtF.signBit (f : FmtF) : Nat := 2 ^ (f.eb + f.fb)
/-- The canonical NaN (R80). -/
def FmtF.nanc (f : FmtF) : Nat := f.signBit - 1
/-- The code of an infinity. -/
def FmtF.infc (f : FmtF) (neg : Bool) : Nat := (2 ^ f.eb - 1) * 2 ^ f.fb + (if neg then f.signBit else 0)
/-- The code of the largest finite value. -/
def FmtF.big (f : FmtF) (neg : Bool) : Nat := f.maxc + (if neg then f.signBit else 0)
/-- The exponent of the smallest subnormal. -/
def FmtF.lmin (f : FmtF) : Int := 1 - (f.bias : Int) - f.fb

/-- The value of a floating code (R79, R86). -/
def FmtF.num (f : FmtF) (c : Nat) : Num :=
  let neg := bitN c (f.eb + f.fb)
  let ex := fld c f.fb f.eb
  let fr := fld c 0 f.fb
  if ex = 2 ^ f.eb - 1 ∧ f.infs then (if fr = 0 then .inf neg else .nan)
  else if ex = 2 ^ f.eb - 1 ∧ fr = 2 ^ f.fb - 1 then .nan
  else if ex = 0 then .fin neg fr f.lmin
  else .fin neg (2 ^ f.fb + fr) (f.lmin + (ex - 1 : Nat))

/-- What an overflow delivers (R82, R83). -/
def FmtF.over (f : FmtF) (rm : Nat) (sat neg : Bool) : Nat × Flags :=
  if sat then (f.big neg, fSV ||| fNX) else
  let toInf := match rm with | 0 => true | 1 => false | 2 => !neg | 3 => neg | _ => true
  (if toInf then (if f.infs then f.infc neg else f.nanc) else f.big neg, fOF ||| fNX)

/-- Rounds an exact value to the type (R80, R82, R83, R85, R87). -/
def FmtF.round (f : FmtF) (rm : Nat) (sat : Bool) : Num → Nat × Flags
  | .nan => (f.nanc, 0)
  | .inf neg => if sat then (f.big neg, fSV) else if f.infs then (f.infc neg, 0) else (f.nanc, fOF)
  | .fin neg m e =>
    if m = 0 then (if neg then f.signBit else 0, 0) else
    let top : Int := e + (bitLen m : Int) - 1
    let free := cutAt rm neg m e (top - f.fb)
    let tiny := decide (top - f.fb + (bitLen free.1 : Int) - 1 < f.lmin + f.fb)
    let l := max (top - f.fb) f.lmin
    let (q, nx) := cutAt rm neg m e l
    let q' := if q = 2 ^ (f.fb + 1) then q / 2 else q
    let l' := if q = 2 ^ (f.fb + 1) then l + 1 else l
    let code := if q' < 2 ^ f.fb then q' else ((l' - f.lmin).toNat + 1) * 2 ^ f.fb + (q' - 2 ^ f.fb)
    if f.maxc < code then f.over rm sat neg
    else (code + (if neg then f.signBit else 0), fIf nx fNX ||| fIf (nx && tiny) fUF)

/-- Rounds an exact finite value to an integer (R82), and whether it is inexact. -/
def roundInt (rm : Nat) (neg : Bool) (m : Nat) (e : Int) : Int × Bool :=
  let (q, nx) := cutAt rm neg m e 0
  (if neg then -(q : Int) else q, nx)

end Sys2Proof
end

