-- ==== Sys2Proof/Config.lean ====
section
/-! DEFINITION. The free values: what the manual leaves to the device or leaves undefined. Each is an opaque constant without a body, applied to a counter of the state or to the operands it depends on, so that no proof can use a value of it. -/
namespace Sys2Proof.Config

/-- A vector row the manual leaves undefined (R29, R441), by the free-value counter (log 3). -/
opaque freeRow : Nat → Row
/-- A number of accumulation steps a read of an unfinished tile element sees (R29), by counter and element (log 3). -/
opaque freeSteps : Nat → Nat → Nat
/-- The starting AMO tag the device chooses for a context (R252), by the free-value counter (log 3). -/
opaque amoTag : Nat → BitVec 32
/-- The reference signature of the controller's model (R291), by seed and duration (log 3). -/
opaque ftestRef : Word → Word → BitVec 32
/-- Whether a core is not healthy while its field test runs (R291), by the free-value counter and core (log 3). -/
opaque coreFault : Nat → Nat → Bool
/-- The CRC-32C of the pattern's results on a core that is not healthy (R291), by the free-value counter, core, seed and duration (log 3). -/
opaque ftestWrong : Nat → Nat → Word → Word → BitVec 32
/-- The signature of a field test: a healthy core returns the reference value (R291). -/
def ftestSig (k core : Nat) (sd du : Word) : BitVec 32 := if coreFault k core then ftestWrong k core sd du else ftestRef sd du
/-- The final contents the pattern leaves in storage (R291), by core, seed, duration and row key (log 3). -/
opaque ftestRow : Nat → Word → Word → Nat → Row
/-- The choice the fuses make, among the places of a die that are still free, for the n-th of its 168 sites (R14 step 7), by die and n (log 8). -/
opaque fuseChoice : Nat → Nat → Nat
/-- Takes the place each choice names out of the free ones; n choices are left (R7). -/
def drawPlaces (die : Nat) : Nat → List Nat → List Nat
  | 0, _ => []
  | n + 1, free =>
    let k := fuseChoice die (167 - n) % free.length
    free.getD k 0 :: drawPlaces die n (free.eraseIdx k)
/-- The 168 places of a die in the order the fuses give them: 160 for its logical cores, then its 8 spares (R7, R462). -/
def places (die : Nat) : List Nat := drawPlaces die 168 (List.range 168)
/-- The code of a site: die, column 0 to 11, row 0 to 13 (R292). -/
def siteOf (die place : Nat) : BitVec 9 := BitVec.ofNat 9 (256 * (die % 2) + 16 * (place / 14 % 12) + place % 14)
/-- The site of a logical core as fuses and history give it, on the core's die, by logical core. -/
def fuseSite (c : Nat) : BitVec 9 := siteOf (c / 160) ((places (c / 160 % 2)).getD (c % 160) 0)
/-- The spare sites of a die, by 8 x die + n. -/
def spareSite (n : Nat) : BitVec 9 := siteOf (n / 8) ((places (n / 8 % 2)).getD (160 + n % 8) 0)
/-- The device's own memory image of a saved context (R41), by address and byte (log 3). -/
opaque saveByte : Nat → Nat → Byte
/-- A result the special-function bounds do not decide (log 12), by function, type, mode and source code. -/
opaque sfUndecided : Nat → Nat → Nat → Nat → Nat
/-- Which span link the routing table of a die selects for a tray identity (R192), by die and tray (log 15). -/
opaque spanRoute : Nat → Nat → Nat
/-- Whether a channel of the mirror bridge has trained when its step times out (R15, R450), by the free-value counter and channel (log 60). -/
opaque channelTrains : Nat → Nat → Bool
/-- The mesh row of a unit at the edge of a die's mesh (R8), by die and unit: 0 the walker, 1 the PCIe link, 2 to 7 the span links, 8 to 11 the ingest ports (log 15). -/
opaque edgeRow : Nat → Nat → Nat
/-- The die whose end of a bridge channel meets an error (R455), by the free-value counter (log 62). -/
opaque bridgeEnd : Nat → Bool
/-- The home memory controller of a frame (R105), by frame (log 15). -/
opaque homeOf : Nat → Nat
/-- One less than the entries of a home controller's replay cache (R429), by controller (log 49). -/
opaque replayDepth : Nat → Nat
/-- The version number of a firmware image, by slot (R463) (log 9). -/
opaque fwVersion : Nat → BitVec 32
/-- A byte read where the manual gives no value (a torn unit, a lost frame), by the free-value counter (log 3). -/
opaque freeByte : Nat → Byte
/-- A word read where the manual gives no value, by the free-value counter (log 3). -/
opaque freeWord : Nat → Word
/-- Whether the bank of an HBM frame has a spare row left (R454), by frame and the number of rows spared so far (log 22). -/
opaque spareLeft : Nat → Nat → Bool

end Sys2Proof.Config
end

