-- ==== Sys2Proof/Machine/State.lean ====
section
/-! DEFINITION. The state of the module as plain data: contexts, cores, launches, dies and the device, the reasons a step stops, and the state after reset. Each field's docstring names the rule that gives it. -/
namespace Sys2Proof.Machine
open Sys2Proof

/-! ## Context -/

/-- An entry of a hardware loop stack (R244, R313). -/
structure LoopEntry where
  start : Word
  fin : Word
  n : Nat
  total : Nat
  done : Nat
  stg : BitVec 8
  rot : Bool
  epi : Bool
  deriving DecidableEq, Repr

/-- A fault record (R389), with its 32 detail bytes as one little-endian number. -/
structure FaultRec where
  cls : BitVec 8
  sev : BitVec 8
  cause : BitVec 16
  master : BitVec 32
  addr : Word
  addrV : Bool
  phys : Bool
  isLocal : Bool
  spill : Bool
  retired : Bool
  lid : BitVec 32
  rank : BitVec 16
  time : Word
  detail : BitVec 256
  deriving DecidableEq, Repr

/-- What a release operation gives its acquirers (R130, R142 item 3): the durable stores that happen before it, its scope, its issuer, and the classes it covers. -/
structure RelRec where
  ids : List Nat
  scope : Scope
  core : Nat
  slot : Nat
  lid : BitVec 32
  mask : BitVec 16 := 0xFFFF
  deriving DecidableEq, Repr

/-- What an access in flight is (R250). -/
inductive AKind where
  | ld | st | amo
  deriving DecidableEq, Repr

/-- A load, store or atomic of an AP that has issued and is not finished (R122, R250). `addrs` holds the physical address, or the local offset, of each byte; `left` lists the bytes of a misaligned one that are not performed yet (R127); `pc` is its instruction's; `phys` is the physical address its page gave, before R119 takes it home; `orig` the device time the `AMO` it repeats issued, or its own (R431). -/
structure Access where
  id : Nat
  pc : Word
  kind : AKind
  cls : BitVec 4
  va : Word
  size : Nat
  isLocal : Bool
  mmio : Bool
  durable : Bool
  addrs : List Nat
  left : List Nat
  dreg : Nat
  sgn : Bool
  data : Word
  cmp : Word
  op : AmoOp
  ord : AOrd
  scope : Scope
  sc : Bool
  hold : Bool
  retry : Bool
  tag : BitVec 32
  performed : Bool
  result : Word
  attempts : Nat
  issued : Nat
  phys : Nat := 0
  orig : Nat := 0
  deriving DecidableEq, Repr

/-- A `WAITA` on its armed monitor (R71): its number, the granule's physical address, the device time it issued, its timeout, the status once it is released. -/
structure Armed where
  id : Nat
  granule : Nat
  start : Nat
  timeout : Nat
  st : Option Nat
  deriving DecidableEq, Repr

/-- A pending `TSIG` or `ETSIG` (R282, R318): its tokens, whether it has taken, and the access number or push it waits for. -/
structure TsigP where
  id : Nat
  tk : Tok
  taken : Bool
  deriving DecidableEq, Repr

/-- Notify markers placed by `EXIT`, `EEXIT`, `NOTIFY` or `ENOTIFY` (R37, R288, R314): the queues watched, the command number they stand before, and the token to signal, if any. -/
structure Marker where
  ap : Bool
  upto : Nat
  sig : Option (BitVec 4)
  deriving DecidableEq, Repr

/-- Why an AP waits: for an answer from outside the core, or, a restored task, for the wait set of its continuation record (R257), `later` once a handler runs before it. -/
inductive ApWait where
  | take (waits : WaitSet) (later : Bool)
  | barrier (dreg : Nat) (value : Word)
  | launch (dreg : Nat) (value : Word)
  | tlbi (id : Nat)
  | ftest (dreg : Nat) (ref : Bool) (seed dur : Word) (since : Nat)
  deriving DecidableEq, Repr

/-- What an aligned 8-byte unit of scratchpad held before a store of an AP (R139): its local number, the store's class, the word, and the release and full fences behind the store, by number and mask. -/
structure OldUnit where
  unit : Nat
  cls : BitVec 4
  word : Word
  fences : List (Nat × BitVec 16)
  deriving DecidableEq, Repr

/-- The AP of a context (R18, R262). `hb` lists durable stores that happen before its accesses of the classes of a mask from a number on (R128, R130), `hbStores` those that a release fence places before its stores (R128), `carried` which of them happen before an access of the context, by the access's class, number and kind, `durPreds` those that persist before (R142 item 3), `seenRel` the releases its reads have met, by class and number of the read, `relFences` its release fences, `mapOld` what its stores to scratchpad replaced (R139), `unknown` its `AMO`s of unknown outcome (R430, R431). `bad` names the registers whose parity is wrong (R402): number, plus 256 for a predicate. -/
structure ApSt where
  pc : Word
  s : Tbl Word
  p : BitVec 16
  loops : List LoopEntry
  rrb : BitVec 4
  tvec : Word
  tcause : Word
  tpc : Word
  tval : Word
  handler : Bool
  exited : Bool
  pend : List Nat
  accs : List Access
  armed : Option Armed
  wait : Option ApWait
  ssIn : Option Nat
  wcUpto : Option Nat
  tsigs : List TsigP
  amoTag : BitVec 32
  retryTag : BitVec 32
  dfences : List (Nat × BitVec 16)
  durPreds : List (BitVec 16 × Nat × Nat)
  hb : List (BitVec 16 × Nat × Nat)
  seenRel : List (BitVec 4 × Nat × RelRec)
  relFences : List (Nat × BitVec 16 × Scope)
  bad : List Nat
  mapOld : List OldUnit := []
  hbStores : List (BitVec 16 × Nat × Nat) := []
  carried : List (Nat × BitVec 4 × Nat × AKind) := []
  unknown : List Access := []
  deriving DecidableEq, Repr

/-- The EP of a context (R18, R322). `nest` holds the loop indices of a `VNEST` that has begun and not ended, by its address (R309, R407; log 77). `bad` names the registers whose parity is wrong (R402): number, plus 256 for q, 512 for m. -/
structure EpSt where
  pc : Word
  e : Tbl Word
  q : BitVec 16
  m : Tbl (BitVec 256)
  loops : List LoopEntry
  tvec : Word
  tcause : Word
  tpc : Word
  tval : Word
  handler : Bool
  exited : Bool
  nest : Tbl (Nat × Nat × Nat × Nat)
  etsigs : List TsigP
  bad : List Nat
  deriving DecidableEq, Repr

/-- Why a context is frozen: the record of the breach (R399) and the processor that made it. -/
structure Freeze where
  rcd : FaultRec
  byCmd : Bool
  proc : Proc
  deriving DecidableEq, Repr

/-- A resident context (R18, R262, R322). `taken` counts the takes of each token (R29); `uid` numbers the context, for the order of its durable stores (R137, R142), through `SUSPEND` and pick-up (R41). -/
structure Ctx where
  lid : BitVec 32
  rank : Nat
  member : Bool
  ap : ApSt
  ep : EpSt
  toEp : List Word
  toAp : List Word
  tok : Tbl Nat
  taken : Tbl Nat
  ports : Tbl Nat
  hold : List Nat
  afs : Option (FaultRec × Proc)
  afsTaken : Bool
  argp : Word
  fflags : BitVec 6
  rmode : BitVec 3
  ftrapen : BitVec 6
  dnar : BitVec 16
  cycleBase : Nat
  gapc : Tbl (BitVec 32)
  segSig : BitVec 32
  segCnt : Nat
  segOpen : Bool
  segHwOff : Bool
  markers : List Marker
  pert : Option (Nat × Nat × BitVec 32 × Bool)
  window : Option Nat
  segFrom : Nat
  trapEnded : Bool
  frozen : Option Freeze
  prio : Nat
  lastDsync : Option Word
  suspending : Bool
  uid : Nat := 0
  deriving DecidableEq, Repr

/-! ## Core -/

/-- A command in a queue or started (R31, R35): its number, context, syntax, the register values and rows captured at issue (R328), and DNAR of its context at issue (R113). -/
structure Cmd where
  id : Nat
  slot : Nat
  lid : BitVec 32
  instr : Instr
  vals : List Word
  rows : List Row
  tk : Tok
  epc : Bool
  dnar : BitVec 16
  deriving DecidableEq, Repr

/-- The near end of a stream (R269, R348): an EP port or a fabric port. -/
inductive Near where
  | ep (port : Nat)
  | fp (port : Nat)
  deriving DecidableEq, Repr

/-- A row on its way between two cores, or a row of a buffer: its kind (R163) and contents. -/
structure KRow where
  kind : BitVec 2
  row : Row
  deriving DecidableEq, Repr

/-- A row of an outbound stream whose write has begun (R127, R161): its number, the device time it began, the row, the bytes it writes at physical addresses, or local offsets where `loc` is set, and the aligned 8-byte units of them that have landed. -/
structure RowOut where
  id : Nat
  since : Nat
  row : Row
  cells : List Host.Cell
  loc : Bool := false
  landed : List Nat := []
  deriving DecidableEq, Repr

/-- A stream context (R146, R172). `sid` names the stream across `SSAVE` and `SREST`, `dnar` is DNAR at the issue of its command (R113), `asked` the number and time of a row's request to the host or a peer (R423), `askPas` the physical addresses and leaves it was translated to (R117), `early` the bytes of the next row that have been read already (R127), `out` the row whose write has begun, `sent` that an outbound marker has gone to the far end, `skips` the positions before which `POL` 2 has dropped rows, with how many (R166), `dur` that it has written into the durable tier (R434). `bank` is the physical bank of the ring, positions are row numbers in the order of R154, `headPos` is the position of the row at the head, `transit` holds rows on their way from another core, `run` the numbers of the commands of R387 and `runOpen` whether the run may still grow, `paused` the position a stream pauses before and the address that failed (R413), `objOk` the head frames of objects the expander has checked (R426), `peerEnd` that the far end has closed or halted (R272, R412), `owe` the status of a marker a halt still owes the own buffer (R412). -/
structure Stream where
  owner : Nat
  lid : BitVec 32
  cmd : Nat
  desc : BitVec 512
  map : BitVec 512
  saved : Bool
  bank : Nat
  first : Nat
  depth : Nat
  near : Near
  pos : Nat
  mark : Option Nat
  headPos : Nat
  head : Nat
  tail : Nat
  count : Nat
  held : Nat
  repl : Nat
  eosw : Bool
  pend : Bool
  sig : Option (BitVec 4)
  done : Bool
  flt : Bool
  fcause : Nat
  fclass : Nat
  faddr : Word
  paused : Option (Nat × Word)
  forkTo : Option (Nat × Nat)
  forkOn : Bool
  forkEos : Bool
  fhw : Nat
  endPos : Option (Nat × Nat)
  effects : List Cmd
  seos : Option (Cmd × BitVec 8)
  transit : List KRow
  gap : Nat
  divert : Bool
  objOk : List Nat
  sid : Nat
  dnar : BitVec 16
  asked : Option (Nat × Nat)
  out : Option RowOut
  sent : Bool
  skips : List (Nat × Nat)
  dur : Bool
  peerEnd : Bool
  owe : Option Nat
  run : List Nat
  runOpen : Bool
  askPas : List (Nat × Nat) := []
  early : List Host.Cell := []
  deriving DecidableEq, Repr

/-- A chunk of a copy on an engine (R178): its number, its offset in the copy, the bytes read, the runs of sink addresses (start, length), the frame tags it sets (R120), the device time it was dispatched, and, when it reaches the host or a peer, that virtual address and whether it is the sink (R423). -/
structure Chunk where
  id : Nat
  since : Nat
  far : Option (Nat × Bool)
  off : Nat
  data : List Byte
  runs : List (Nat × Nat)
  tags : List (Nat × Nat)
  deriving DecidableEq, Repr

/-- A running copy (R178): its command, core, class and place in arrival order, its ranges, the next chunk, the chunks on engines, the number and time of a request to the host or a peer that a link holds (R449), the source bytes a compressor has taken, the tensor map it has read (R139), the source bytes of its next chunk that have been read already (R127), and the record of the fault that stopped it, which goes out once its chunks on engines have landed (R394). -/
structure CopyRun where
  cmd : Cmd
  core : Nat
  prio : Nat
  arr : Nat
  len : Nat
  src : Nat
  dst : Nat
  next : Nat
  flight : List Chunk
  asked : Option (Nat × Nat)
  taken : List Byte
  stop : Option FaultRec
  map : BitVec 512 := 0
  early : List Host.Cell := []
  deriving DecidableEq, Repr

/-- An entry of the range scoreboard (R182). -/
structure Score where
  cmd : Nat
  srcLocal : Bool
  src : Nat
  srcLen : Nat
  dstLocal : Bool
  dst : Nat
  dstLen : Nat
  deriving DecidableEq, Repr

/-- An operand slot (R324, R325): 64 slot rows of 3072 bits, and its state; lfmt 15 is META. -/
structure Slot where
  rows : Tbl (BitVec 3072)
  owner : Option Nat
  lfmt : Option Nat
  lz : Nat
  kf : Nat
  zps : Row
  fill : Option (Word × Word)
  deriving DecidableEq, Repr

/-- A matrix record on a path (R326): the single issues or rows made, in the order of its nest, the rows popped, the flags its rows have set, and the device time it started (R440). -/
structure MRun where
  cmd : Cmd
  k : Nat
  popped : List Row
  flags : BitVec 6
  since : Nat := 0
  deriving DecidableEq, Repr

/-- Results of a single issue awaiting their write (R344): the number of the issue in its nest, its physical tile and the tile's 64 rows, its flags, whether the record ends with it, the trigger it meets (R440, R442), the device time it started. -/
structure MResult where
  cmd : Cmd
  k : Nat
  tile : Nat
  rows : List Row
  flags : BitVec 6
  last : Bool
  trig : Option Trigger
  since : Nat
  deriving DecidableEq, Repr

/-- An accumulator row that an EP wrote while a matrix record was writing it (R29): the row, the record with its context and token, and, once it has completed, the count of takes of the token that covers its signal. -/
structure Clob where
  key : Nat
  id : Nat
  slot : Nat
  lid : BitVec 32
  sig : Option (BitVec 4)
  need : Option Nat
  deriving DecidableEq, Repr

/-- A matrix record of a resumed gang that another launch's record on its path still keeps from its place (R66, R326): its path, the record, and its progress once it has started. -/
structure Parked where
  path : Nat
  cmd : Cmd
  run : Option MRun
  deriving DecidableEq, Repr

/-- A matrix record the replay window retains (R321): its command, whether it has started, signalled or halted, its single issues made and the rows its pops took. -/
structure WRec where
  cmd : Cmd
  started : Bool
  signalled : Bool
  halted : Bool
  issues : Nat
  popped : List Row
  deriving DecidableEq, Repr

/-- A replay in progress (R441, R442): the record that met the trigger, its issue, the trigger, ESC, and the issues or rows of the window's records that are still to run again, by record and number. -/
structure Redo where
  cmd : Cmd
  k : Nat
  trig : Trigger
  esc : Bool
  todo : List (Nat × Nat)
  deriving DecidableEq, Repr

/-- A firing in progress (R355, R359): the bundle, the clusters whose operation of it has not run, the next operation of each cluster of a split (none at its `JOIN`), the words written to outputs by direction x 4 + cluster. -/
structure Firing where
  bundle : Nat
  left : List Nat
  split : Option (List (Option Nat))
  outs : Tbl (BitVec 128)
  deriving DecidableEq, Repr

/-- A `TOKS` signal that waits for finished rows at its element's port (R364): the port, how many, the `GRUN`, the token. -/
structure Owed where
  port : Nat
  rows : Nat
  cmd : Cmd
  tok : BitVec 4
  deriving DecidableEq, Repr

/-- The Prism grid of a core (R346, R354): the checked images by slot; the running slot with its `GRUN` and rounding mode (R84); every `GRUN` issued, for the bindings of R349. Keys are element x 64 + cluster x 16 + register for x, element x 32 + cluster x 8 + mask for y, element x 16 + direction x 4 + cluster for the link into an element, port x 4 + cluster for staged input words and 64 more for staged output words. `outRow` lists the finished rows and markers of a port, each with the number of its `GRUN`; `ending` is the status of the markers once the input has ended (R367); `halting` a `GHALT` that waits; `faulted` that the configuration has halted (R445). -/
structure Grid where
  images : Tbl (List Byte)
  running : Option (Nat × Cmd)
  rm : Nat
  gruns : List (Nat × BitVec 32)
  x : Tbl (BitVec 128)
  y : Tbl (BitVec 16)
  links : Tbl (List (BitVec 128))
  firing : Tbl Firing
  stage : Tbl (List (BitVec 128))
  outRow : Tbl (List (Nat × KRow))
  owed : List Owed
  ending : Option Nat
  halting : Option Cmd
  faulted : Bool
  deriving DecidableEq, Repr

/-- A Proofer record in progress (R378): its command, the list entry or sample it stands at and the row, and for `SQDEC` the samples it has stalled and found non-finite, with the first of them (R446). -/
structure PRun where
  cmd : Cmd
  k : Nat
  r : Nat
  stalls : Nat
  nonfin : Nat
  first : Option Nat
  deriving DecidableEq, Repr

/-- The Proofer of a core (R371, R372, R380): the valid tableau, the frame word, the current list of samples with their stages, the record in progress. -/
structure Proofer where
  tab : Option (BitVec 1536)
  frame : Word
  list : List (Nat × Nat)
  run : Option PRun
  deriving DecidableEq, Repr

/-- A TLB entry (R114): address space, first address, page size in bytes, and the leaf; a host translation (R118) has `host` set, the page's host address in `va` and the granted R and W in the bits of a leaf. -/
structure TlbE where
  pasid : Nat
  glob : Bool
  va : Nat
  size : Nat
  leaf : Word
  host : Bool
  deriving DecidableEq, Repr

/-- The block state of one processor of a core (R60): the selected context, whether its block has ended, and the cycle of the block's first issue. -/
structure Block where
  sel : Option Nat
  ended : Bool
  since : Nat
  deriving DecidableEq, Repr

/-- Code resident in an instruction store (R23): launch, first virtual address, words. -/
structure CodeSec where
  lid : BitVec 32
  base : Word
  words : List Word
  deriving DecidableEq, Repr

/-- What a launch holds of a core (R19): its context slots, and the physical banks, tiles and slots its logical names 0, 1, ... stand for, its wheel positions (R72). -/
structure Allot where
  lid : BitVec 32
  contexts : List Nat
  banks : List Nat
  tiles : List Nat
  slots : List Nat
  grid : Bool
  prf : Bool
  wheel : List Nat
  deriving DecidableEq, Repr

/-- A core (R18 to R38). Keys: bank x 768 + row for rows, 64 x tile + row for the accumulator store; `clob` the accumulator rows of undefined contents (R29); `mTook` the matrix records that have taken their wait set and still wait for their path's staging place (R326); `lastSc` the wheel step of the last `AMO.SC` (R72); `nine` the commands that have written their CLASS 9 record (R438), `redo` the replay of a window (R441), `mReady` since when the staged record of a path could start (R440), `cmdAsk` the requests to the host or a peer for what a command reads or writes as it starts, by command: number, device time, and whether 180 us have passed without an answer (R423). -/
structure Core where
  ctxs : Tbl Ctx
  apBlk : Block
  epBlk : Block
  apCode : List CodeSec
  epCode : List CodeSec
  allots : List Allot
  banks : Tbl Row
  full : Tbl Bool
  kind : Tbl (BitVec 2)
  bankFill : Tbl (Word × Word)
  acc : Tbl Row
  accFill : Tbl (Word × Word)
  clob : List Clob
  slots : Tbl Slot
  qs : Tbl (List Cmd)
  live : List Cmd
  score : List Score
  streams : Tbl Stream
  staged : Tbl Cmd
  running : Tbl MRun
  results : List MResult
  window : List WRec
  parked : List Parked
  mTook : List Nat
  nine : List Nat
  redo : Option Redo
  mReady : Tbl Nat
  cmdAsk : Tbl (Nat × Nat × Bool)
  grid : Grid
  prf : Proofer
  tlb : List TlbE
  lastSc : Option Nat
  deriving DecidableEq, Repr

/-! ## Launches -/

/-- A task: a continuation record in a launch's queue (R41, R44): its address, its 64 bytes, and whether its granule has been written since it entered (R257). -/
structure Task where
  addr : Word
  rcd : BitVec 512
  woken : Bool
  deriving DecidableEq, Repr

/-- Where a launch stands (R39, R51, R66). -/
inductive Phase where
  | queued | placed | preempted | ended
  deriving DecidableEq, Repr

/-- A `ROT` that has started (R183): rank (plus 65536 for member 1), its number among the member's, core, command, regions, rows, and the incoming bytes once the rotation has started. -/
structure RotReq where
  rank : Nat
  k : Nat
  core : Nat
  cmd : Cmd
  src : Nat
  dst : Nat
  rows : Nat
  data : List Byte
  deriving DecidableEq, Repr

/-- A transfer of a link schedule that has been sent and has not landed (R195). -/
structure Xfer where
  entry : Nat
  data : List Byte
  deriving DecidableEq, Repr

/-- A context of a duplex launch at a compare point (R74, R420): its core and slot, its signature, the device time it arrived, whether its wait has been reported, whether the other member has agreed. -/
structure Cmp where
  core : Nat
  slot : Nat
  sig : BitVec 32
  since : Nat
  noted : Bool
  agreed : Bool
  deriving DecidableEq, Repr

/-- Why a launch is not placed (R418, R424): class and cause of its record, address and detail fields. -/
structure Bad where
  cls : Nat
  cause : Nat
  addr : Option Nat
  det : List (Nat × Nat × Nat)
  deriving DecidableEq, Repr

/-- A row in a divert log (R191): the core and handle of its stream, the stream as it was, with the row's position. -/
structure DivRow where
  core : Nat
  handle : Nat
  st : Stream
  deriving DecidableEq, Repr

/-- A launch and its gang (R39, R42). `passedSince` is when its queue's head was first passed over (R55), `holdWant` when its pre-emption was first wanted (R63), `kept` the cores that have become free since it is blocking, `incoming` that gangs are pre-empted for it (R55, R63), `saved` what pre-emption saved, by core, and `savedPoison` the words of it that hold errors (R64, R453), `sched` its link schedule (R194), `ssStart` the device time its last superstep that the schedule times started (R195); `barRel` holds, by barrier, the durable stores released by the arrivals of the phase and of the phases before, `trigRel` those released by `TRIG` (R129); `pend` is a submission whose record the scheduler still reads: record address and overrides (R47, R118); `rotNum` counts the `ROT`s each rank has started (R183). -/
structure Launch where
  lid : BitVec 32
  rcd : BitVec 1024
  queue : Nat
  fn : Func
  pasid : Nat
  priv : Bool
  producers : List (BitVec 32)
  accepted : Nat
  phase : Phase
  bad : Option Bad
  everPlaced : Bool
  triggered : Bool
  blocking : Bool
  kept : List Nat
  incoming : Bool
  passedSince : Option Nat
  holdWant : Option Nat
  holdOver : Bool
  order : Nat
  cores : List Nat
  cores1 : List Nat
  bars : Tbl (Nat × Nat)
  barRel : Tbl (List Nat × List Nat)
  trigRel : List Nat
  trig : List Nat
  tasks : List Task
  recorded : Bool
  status : Nat
  sched : List Byte
  ss : Nat
  ssStart : Nat
  ssSent : List Nat
  xfers : List Xfer
  rots : List RotReq
  rotNum : Tbl Nat
  rotating : List RotReq
  saved : List (Nat × Core)
  savedCopies : List CopyRun
  savedPoison : List StoreLoc
  retained : Bool
  cmpWait : List Cmp
  divRows : List DivRow
  pend : Option (Nat × Nat × Nat) := none
  deriving DecidableEq, Repr

/-! ## Dies and device -/

/-- How a page walk ended: a leaf at a level, or a fault code at a level with the last entry read (R423, R425). -/
inductive WalkEnd where
  | leaf (lvl : Nat) (e : Word)
  | fault (code lvl : Nat) (e : Word)
  deriving DecidableEq, Repr

/-- A page walk in progress, or ended and not yet met by its access (R115); `en` is ASTBASE EN when it started, absent while it is queued (R108). -/
structure Walk where
  id : Nat
  core : Nat
  pasid : Nat
  va : Nat
  en : Option Bool
  res : Option WalkEnd
  deriving DecidableEq, Repr

/-- A master that is frozen (R399, R460). -/
structure Frozen where
  master : BitVec 32
  deriving DecidableEq, Repr

/-- A host translation or page request that waits for the host, or was answered and has not been met by its access (R118); `lvl` and `entry` are of the walk that met the page (R425). -/
structure HostXl where
  id : Nat
  pasid : Nat
  page : Nat
  pri : Bool
  ans : Option HostAnswer
  lvl : Nat := 255
  entry : Nat := 0
  deriving DecidableEq, Repr

/-- A request of the scheduler to a page of the host or a peer that waits (R118, R423): its number, address space and virtual page, the device time it went out, whether 180 us have passed without an answer. -/
structure SchedAsk where
  id : Nat
  pasid : Nat
  page : Nat
  since : Nat
  late : Bool
  deriving DecidableEq, Repr

/-- A record a restarting controller holds (R457): for the queue of a launch, or for the device queue. -/
structure HeldRec where
  lid : Option (BitVec 32)
  rcd : FaultRec
  deriving DecidableEq, Repr

/-- A system controller (R457): running or restarting, and its buffered records. -/
structure Ctl where
  up : Bool
  swap : Bool
  buf : List HeldRec
  deriving DecidableEq, Repr

/-- A firmware action or frame-tag action in progress (R461, R463): its kind and operand. -/
structure Action where
  kind : Nat
  arg : Nat
  deriving DecidableEq, Repr

/-- The bring-up state behind DSTAT (R14 to R17): `since` is the device time the step began, the Done fields the parts that have trained or timed out. -/
structure Boot where
  step : Nat
  since : Nat
  bridgeDone : Bool
  pcieDone : Bool
  fwok : Bool
  fwslot : Bool
  map : Bool
  bridge : Bool
  hbm : BitVec 8
  hbmDone : BitVec 8
  pcie : Bool
  span : BitVec 6
  spanDone : BitVec 6
  ingest : BitVec 4
  ready : Bool
  degr : Bool
  deriving DecidableEq, Repr

/-- One die (R108 to R115, R178, R455 to R466). `asks` lists requests of the scheduler that wait, `recWait` fault records whose queue waits for them; `act` is the active firmware slot, B when set (R456); `lnkAsked` the ingest ports that LNKCTL has unlocked to train anew (R452). -/
structure DieSt where
  boot : Boot
  tlb : List TlbE
  walks : List Walk
  hosts : List HostXl
  asks : List SchedAsk
  recWait : List HeldRec
  copies : List CopyRun
  deficit : Tbl Nat
  fqbase : Word
  fqvec : BitVec 11
  miss : Nat
  frozen : List Frozen
  ftagBusy : Option Action
  ftagRes : BitVec 2
  ecnt : Tbl Word
  mapst : BitVec 3
  history : List Nat
  spareFree : BitVec 8
  spareBad : BitVec 8
  aVal : Bool
  bVal : Bool
  fwlen : BitVec 32
  fwBusy : Option Action
  fwLast : BitVec 8
  act : Bool
  boots : Nat
  fwVer : Tbl (BitVec 32)
  lnkRetry : Tbl Nat
  lnkWidth : Tbl Nat
  lnkOff : List Nat
  lnkAsked : List Nat
  fttgtEn : Bool
  fttgtCore : Nat
  ctl : Ctl
  lastSev0 : Tbl Nat
  deriving DecidableEq, Repr

/-- A durable store that has been performed and has not reached the persistence domain (R141, R142): `pos` is its number as a store of its processor, absent for the write of a command that no take has given to one; `uid` is the number of the context it counts as a store of; `stream` the `sid` and row of a stream's write, `ch` the channel of a completed copy's. -/
structure DStore where
  id : Nat
  core : Nat
  slot : Nat
  lid : BitVec 32
  cls : BitVec 4
  pos : Option Nat
  cells : List Host.Cell
  preds : List Nat
  stream : Option (Nat × Nat)
  cmd : Nat
  toks : List (BitVec 4)
  uid : Nat := 0
  ch : Option (BitVec 2) := none
  deriving DecidableEq, Repr

/-- An entry of a home's replay cache (R429), with the frame it serves and the request that was performed, an `AMO` of this module or of another (R431). -/
structure Replay where
  tray : Nat
  core : Nat
  slot : Nat
  tag : BitVec 32
  old : Word
  since : Nat
  frame : Nat
  req : Option Access
  preq : Option Request := none
  deriving DecidableEq, Repr

/-- An `AMO` of unknown outcome that a full replay cache still holds at its home (R429, R430): its issuer and the request. -/
structure HeldAmo where
  core : Nat
  slot : Nat
  uid : Nat
  lid : BitVec 32
  acc : Access
  deriving DecidableEq, Repr

/-- A merge of contributions in a reduction window (R134, R193). -/
structure Merge where
  win : Nat
  addr : Nat
  op : AmoOp
  w32 : Bool
  since : Nat
  parts : List (Nat × Word × Option (Nat × Nat × Nat))
  deriving DecidableEq, Repr

/-- The line an ingest channel is cutting from a GVSP block (R189): the block, the packet id that comes next and the length of the packet before, the line's number and its bytes so far, whether bytes of it are missing, the device time of its first byte. -/
structure LineBuf where
  block : Word
  next : Nat
  size : Nat
  line : Nat
  bytes : List Byte
  torn : Bool
  since : Nat
  deriving DecidableEq, Repr

/-- What leaves the module: MSI-X vectors, AER reports, completions of requests, transfers sent. -/
inductive OutMsg where
  | msix (fn : Func) (vec : BitVec 11)
  | reply (fn : Option Func) (ok : Bool) (data : List Byte)
  | aer (d : Die) (uncorr : Bool)
  | xfer (lid : BitVec 32) (entry : Nat)
  | ats (d : Die) (id : Nat)
  | pri (d : Die) (id : Nat)
  deriving DecidableEq, Repr

/-- The processor whose instruction a move issues: core, context slot, processor. -/
structure Cur where
  core : Nat
  slot : Nat
  proc : Proc
  deriving DecidableEq, Repr

/-- What a move of the machine is: the next issue of a processor, or an event of the table. -/
inductive Act where
  | issue (core : Nat) (proc : Proc)
  | event (i : Instr)
  deriving DecidableEq, Repr

/-- A move (the model's own, log 1): the cycles and nanoseconds that pass before it, the bytes of the host and peer windows that change meanwhile, and the act. -/
structure Turn where
  cycles : Nat
  ns : Nat
  far : List Host.Cell
  act : Act
  deriving DecidableEq, Repr

/-- A code section the loader has placed (R229): its processor, address space, first address and size in words. -/
structure Section where
  proc : Proc
  pasid : Nat
  base : Nat
  words : Nat
  deriving DecidableEq, Repr

/-- A stream that `SSAVE` saved: its core and handle, and what it was (R174). -/
structure SavedStream where
  core : Nat
  handle : Nat
  st : Stream
  deriving DecidableEq, Repr

/-- A link that retrains (R449, R464): the failing lane, and whether software asked for it. -/
structure Retrain where
  link : LinkId
  lane : Nat
  asked : Bool
  deriving DecidableEq, Repr

/-- The whole module. `sparing` lists the frames being copied to a spare row or block, `spared` those copied, `rowErrs` the device times of a frame's corrected errors (R454); `slewDebt` and `slewGain` are what device time still loses and gains by slewing, `slewAcc` the ns since its last adjustment (R11). `sections` is what the loader told the scheduler (log 20), `ingq` the lines, by channel, that a channel of the bridge holds back from an east-die stream (R10, R449), `regq` the bytes an engine writes to registers, empty between steps, `areas` the contexts that `SUSPEND` wrote to save areas, by physical address (R41), `saves` the streams that `SSAVE` saved (R174). -/
structure State where
  cores : Tbl Core
  launches : List Launch
  west : DieSt
  east : DieSt
  mem : List Host.Cell
  tags : Tbl Nat
  poison : List Nat
  poisonLoc : List StoreLoc
  retired : List Nat
  remapped : List Nat
  sparing : List Nat
  spared : List Nat
  rowErrs : Tbl (List Nat)
  time : Word
  cycles : Nat
  ptpLocked : Bool
  ptpPort : Option Nat
  slewDebt : Nat
  slewGain : Nat
  slewAcc : Nat
  ageint : Word
  holdlim : Word
  savebase : Word
  savesize : Word
  astbase : Word
  lqcfg : Tbl Word
  lqseq : Tbl Nat
  lqdrop : Tbl Nat
  part : Tbl Word
  fndom : Tbl (BitVec 16)
  icfg : Tbl Word
  idrop : Tbl Word
  lines : Tbl LineBuf
  ingq : List (Nat × List Row)
  rwa : Tbl Word
  rwb : Tbl Word
  merges : List Merge
  brSpares : Tbl Nat
  brDead : List Nat
  cmap : Tbl (BitVec 16)
  fnFrozen : List Nat
  peerFrozen : List Nat
  ingFrozen : List Nat
  replay : List Replay
  heldAmos : List HeldAmo
  durImg : List Host.Cell
  dstores : List DStore
  durRel : Tbl (List RelRec)
  plSeq : Word
  powered : Bool
  schedRR : Nat
  sections : List Section
  areas : Tbl Ctx
  saves : List SavedStream
  retrain : List Retrain
  cur : Cur
  serial : Nat
  fresh : Nat
  rr : Nat
  agenda : List Turn
  outbox : List OutMsg
  regq : List Host.Cell
  tray : Nat
  deriving DecidableEq, Repr

/-- Why the machine stops with a fault. -/
inductive Fault where
  /-- Raised by `step` when power has failed (R435) and no `BRING_UP` is next: nothing runs without power. Safe: the machine stops. -/
  | noPower
  deriving DecidableEq, Repr

/-- Why a step has no meaning. -/
inductive Refusal where
  /-- Raised by `exec` for a row that has no meaning yet. Safe: the machine stops. -/
  | notModelled (mnemonic : String)
  deriving DecidableEq, Repr

/-! ## Reset -/

/-- A processor with no context selected. -/
def Block.reset : Block := { sel := none, ended := true, since := 0 }

/-- The grid with no image (R281). -/
def Grid.reset : Grid :=
  { images := [], running := none, rm := 0, gruns := [], x := [], y := [], links := [], firing := [], stage := [], outRow := [], owed := [],
    ending := none, halting := none, faulted := false }

/-- The Proofer before any `SQCFG` (R378). -/
def Proofer.reset : Proofer := { tab := none, frame := 0, list := [], run := none }

/-- A slot as it is allotted (R22, R325). -/
def Slot.reset : Slot := { rows := [], owner := none, lfmt := none, lz := 0, kf := 0, zps := 0, fill := none }

/-- A core with nothing placed on it (R19, R22; log 5). -/
def Core.reset : Core :=
  { ctxs := [], apBlk := Block.reset, epBlk := Block.reset, apCode := [], epCode := [], allots := [], banks := [], full := [], kind := [],
    bankFill := [], acc := [], accFill := [], clob := [], slots := [], qs := [], live := [], score := [], streams := [], staged := [],
    running := [], results := [], window := [], parked := [], mTook := [], nine := [], redo := none, mReady := [], cmdAsk := [], grid := Grid.reset, prf := Proofer.reset, tlb := [], lastSc := none }

/-- DSTAT reads 0 while the die is held in reset (R16). -/
def Boot.reset : Boot :=
  { step := 0, since := 0, bridgeDone := false, pcieDone := false, fwok := false, fwslot := false, map := false, bridge := false, hbm := 0, hbmDone := 0, pcie := false, span := 0, spanDone := 0,
    ingest := 0, ready := false, degr := false }

/-- A die at reset (R455 to R466; log 8, 9). -/
def DieSt.reset : DieSt :=
  { boot := Boot.reset, tlb := [], walks := [], hosts := [], asks := [], recWait := [], copies := [], deficit := [], fqbase := 0, fqvec := 0, miss := 0, frozen := [],
    ftagBusy := none, ftagRes := 0, ecnt := [], mapst := 0, history := [], spareFree := 0, spareBad := 0, aVal := false, bVal := false,
    fwlen := 0, fwBusy := none, fwLast := 0, act := false, boots := 0, fwVer := [], lnkRetry := [], lnkWidth := [], lnkOff := [], lnkAsked := [], fttgtEn := false,
    fttgtCore := 0, ctl := { up := true, swap := false, buf := [] }, lastSev0 := [] }

/-- A new context's AP (R18, R262): pc and argument come from the launch or continuation record. -/
def ApSt.start (pc : Word) (tag : BitVec 32) : ApSt :=
  { pc := pc, s := [], p := 0, loops := [], rrb := 0, tvec := 0, tcause := 0, tpc := 0, tval := 0, handler := false, exited := false, pend := [],
    accs := [], armed := none, wait := none, ssIn := none, wcUpto := none, tsigs := [], amoTag := tag, retryTag := 0, dfences := [],
    durPreds := [], hb := [], seenRel := [], relFences := [], bad := [] }

/-- A new context's EP (R18, R322). -/
def EpSt.start (pc : Word) : EpSt :=
  { pc := pc, e := [], q := 0, m := [], loops := [], tvec := 0, tcause := 0, tpc := 0, tval := 0, handler := false, exited := false, nest := [],
    etsigs := [], bad := [] }

/-- A new context (R18): every register at its reset value. -/
def Ctx.start (lid : BitVec 32) (rank : Nat) (member : Bool) (apc epc argp : Word) (prio cyc : Nat) (tag : BitVec 32) : Ctx :=
  { lid := lid, rank := rank, member := member, ap := ApSt.start apc tag, ep := EpSt.start epc, toEp := [], toAp := [], tok := [], taken := [], ports := [],
    hold := [], afs := none, afsTaken := false, argp := argp, fflags := 0, rmode := 0, ftrapen := 0, dnar := 0xFFFF, cycleBase := cyc, gapc := [],
    segSig := 0, segCnt := 0, segOpen := false, segHwOff := false, segFrom := 0, markers := [], pert := none, window := none, trapEnded := false,
    frozen := none, prio := prio, lastDsync := none, suspending := false }

/-- PART at reset (R57): all ones for the two physical functions (indices 0 and 9), 0 for the virtual ones. -/
def partReset (key : Nat) : Word := if key / 8 % 9 = 0 then BitVec.allOnes 64 else 0

/-- The module right after reset: held in reset, nothing placed, every register at its reset value. -/
def State.reset : State :=
  { cores := [], launches := [], west := DieSt.reset, east := DieSt.reset, mem := [], tags := [], poison := [], poisonLoc := [], retired := [],
    remapped := [], sparing := [], spared := [], rowErrs := [], time := 0, cycles := 0, ptpLocked := false, ptpPort := none, slewDebt := 0, slewGain := 0, slewAcc := 0, ageint := 2000000, holdlim := 200000,
    savebase := 0, savesize := 0, astbase := 0, lqcfg := [], lqseq := [], lqdrop := [], part := [], fndom := [], icfg := [], idrop := [],
    lines := [], ingq := [], rwa := [], rwb := [], merges := [], brSpares := [], brDead := [], cmap := [], fnFrozen := [], peerFrozen := [],
    ingFrozen := [], replay := [], heldAmos := [], durImg := [], dstores := [], durRel := [], plSeq := 0, powered := true, schedRR := 0,
    sections := [], areas := [], saves := [], retrain := [], cur := ⟨0, 0, .ap⟩, serial := 0, fresh := 0, rr := 0, agenda := [], outbox := [], regq := [], tray := 0 }

end Sys2Proof.Machine
end

