-- ==== Sys2Proof/Machine/Access.lean ====
section
/-! DEFINITION. The named reads and updates of the state: cores, contexts, launches, dies, the register files with their hard-wired registers and the rotating region (R18, R233), records and allotments (R19, R42). -/
namespace Sys2Proof.Machine
open Sys2Proof

/-! ## Dies, cores, contexts, launches -/

/-- The die of a logical core (R7). -/
def dieOf (c : Nat) : Die := if c < 160 then .west else .east
/-- 0 west, 1 east. -/
def dieNat : Die → Nat | .west => 0 | .east => 1
/-- The other die. -/
def Die.other : Die → Die | .west => .east | .east => .west

/-- The state of a die. -/
def State.die (s : State) : Die → DieSt | .west => s.west | .east => s.east
/-- Sets the state of a die. -/
def State.setDie (s : State) (d : Die) (x : DieSt) : State := match d with | .west => { s with west := x } | .east => { s with east := x }
/-- Changes the state of a die. -/
def State.modDie (s : State) (d : Die) (f : DieSt → DieSt) : State := s.setDie d (f (s.die d))

/-- The state of logical core c. -/
def State.core (s : State) (c : Nat) : Core := tget s.cores Core.reset c
/-- Sets the state of core c. -/
def State.setCore (s : State) (c : Nat) (k : Core) : State := { s with cores := tset s.cores c k }
/-- Changes the state of core c. -/
def State.modCore (s : State) (c : Nat) (f : Core → Core) : State := s.setCore c (f (s.core c))

/-- The context in slot n of core c. -/
def State.ctx (s : State) (c n : Nat) : Option Ctx := tfind (s.core c).ctxs n
/-- Sets the context in slot n of core c. -/
def State.setCtx (s : State) (c n : Nat) (x : Ctx) : State := s.modCore c fun k => { k with ctxs := tset k.ctxs n x }
/-- Empties slot n of core c. -/
def State.dropCtx (s : State) (c n : Nat) : State := s.modCore c fun k => { k with ctxs := tdel k.ctxs n }
/-- Changes the context in slot n of core c, if there is one. -/
def State.modCtx (s : State) (c n : Nat) (f : Ctx → Ctx) : State :=
  match s.ctx c n with
  | some x => s.setCtx c n (f x)
  | none => s

/-- The launch with an id, ended ones aside. -/
def State.launch (s : State) (lid : BitVec 32) : Option Launch := s.launches.find? fun l => l.lid == lid
/-- Changes the launch with an id. -/
def State.modLaunch (s : State) (lid : BitVec 32) (f : Launch → Launch) : State :=
  { s with launches := s.launches.map fun l => if l.lid == lid then f l else l }

/-- A new number, for a command, an access or a walk. -/
def State.tick (s : State) : State := { s with serial := s.serial + 1 }
/-- The next free value's place. -/
def State.drawn (s : State) : State := { s with fresh := s.fresh + 1 }

/-! ## Records -/

/-- Bytes b to b + n - 1 of a record, as a number. -/
def bytesAt {w : Nat} (r : BitVec w) (b n : Nat) : Nat := fld r.toNat (8 * b) (8 * n)
/-- A field of a launch record (R42). -/
def Launch.at (l : Launch) (b n : Nat) : Nat := bytesAt l.rcd b n
/-- PRI (R42). -/
def Launch.pri (l : Launch) : Nat := l.at 36 1 % 16
/-- Flag bit i of byte 36: 4 PRE, 5 DUP, 6 SSTEP, 7 TEST. -/
def Launch.flag (l : Launch) (i : Nat) : Bool := bitN (l.at 36 1) i
/-- Gang cores (R42). -/
def Launch.gang (l : Launch) : Nat := l.at 32 2
/-- Tokens allotted to each context (R42). -/
def Launch.tokens (l : Launch) : Nat := l.at 43 1
/-- The launch uses the Prism grid (R19). -/
def Launch.prism (l : Launch) : Bool := l.at 64 8 != 0
/-- PRF (R42). -/
def Launch.prf (l : Launch) : Bool := bitN (l.at 96 1) 0
/-- The cores that run the launch: both members of a duplex launch (R74). -/
def Launch.allCores (l : Launch) : List Nat := l.cores ++ l.cores1
/-- The core that holds a rank, for a member. -/
def Launch.coreOf (l : Launch) (member : Bool) (rank : Nat) : Option Nat := (if member then l.cores1 else l.cores)[rank]?
/-- The index of a function's registers: 0 to 8 west, 9 to 17 east. -/
def fnIdx (f : Func) : Nat := 9 * dieNat f.link + f.num

/-- The launch of a context, if it has not ended. -/
def State.launchOf (s : State) (x : Ctx) : Option Launch := s.launch x.lid
/-- The token count of a context's allotment. -/
def State.tokensOf (s : State) (x : Ctx) : Nat := match s.launchOf x with | some l => l.tokens | none => 0
/-- The PASID of a launch id; 0 when the launch is gone. -/
def State.pasidOf (s : State) (lid : BitVec 32) : Nat := match s.launch lid with | some l => l.pasid | none => 0
/-- FNDOM of a function (R113). -/
def State.fndomOf (s : State) (f : Func) : BitVec 16 := tget s.fndom 0xFFFF (fnIdx f)
/-- The effective domain mask of a context (R113). -/
def State.domMask (s : State) (x : Ctx) : BitVec 16 := match s.launchOf x with | some l => s.fndomOf l.fn &&& x.dnar | none => x.dnar

/-- The mask a command carries: FNDOM of its launch's function and the DNAR of its issue (R113). -/
def State.cmdMask (s : State) (lid : BitVec 32) (dnar : BitVec 16) : BitVec 16 := match s.launch lid with | some l => s.fndomOf l.fn &&& dnar | none => dnar

/-! ## The AP's registers (R18, R233) -/

/-- `Phys` of R233. -/
def sPhys (rrb : BitVec 4) (n : Nat) : Nat := if 40 ≤ n ∧ n ≤ 55 then 40 + (n - 40 + rrb.toNat) % 16 else n
/-- S[n]: s0 reads 0. -/
def ApSt.s' (x : ApSt) (n : Nat) : Word := if n = 0 then 0 else tget x.s 0 (sPhys x.rrb n)
/-- Writes physical register n; writes to s0 are discarded. -/
def ApSt.setPhys (x : ApSt) (n : Nat) (v : Word) : ApSt := if n = 0 then x else { x with s := tset x.s n v, bad := x.bad.filter (· != n) }
/-- S[n] := v. -/
def ApSt.setS (x : ApSt) (n : Nat) (v : Word) : ApSt := x.setPhys (sPhys x.rrb n) v
/-- P[n]: p0 reads 1. -/
def ApSt.pr (x : ApSt) (n : Nat) : Bool := n == 0 || x.p.getLsbD n
/-- Sets bit n of a predicate set. -/
def putBit {w : Nat} (v : BitVec w) (n : Nat) (b : Bool) : BitVec w := if b then v ||| BitVec.ofNat w (2 ^ n) else v &&& ~~~(BitVec.ofNat w (2 ^ n))
/-- P[n] := b; writes to p0 are discarded. -/
def ApSt.setP (x : ApSt) (n : Nat) (b : Bool) : ApSt := if n = 0 then x else { x with p := putBit x.p n b, bad := x.bad.filter (· != 256 + n) }
/-- All predicates as a number, bit 0 reading 1 (R242). -/
def ApSt.preds (x : ApSt) : BitVec 16 := x.p ||| 1

/-! ## The EP's registers (R18) -/

/-- E[n]: e0 reads 0. -/
def EpSt.e' (x : EpSt) (n : Nat) : Word := if n = 0 then 0 else tget x.e 0 n
/-- E[n] := v; writes to e0 are discarded. -/
def EpSt.setE (x : EpSt) (n : Nat) (v : Word) : EpSt := if n = 0 then x else { x with e := tset x.e n v, bad := x.bad.filter (· != n) }
/-- q[n]: q0 reads 1. -/
def EpSt.qr (x : EpSt) (n : Nat) : Bool := n == 0 || x.q.getLsbD n
/-- q[n] := b; writes to q0 are discarded. -/
def EpSt.setQ (x : EpSt) (n : Nat) (b : Bool) : EpSt := if n = 0 then x else { x with q := putBit x.q n b, bad := x.bad.filter (· != 256 + n) }
/-- m[n]: m0 reads all ones. -/
def EpSt.mr (x : EpSt) (n : Nat) : BitVec 256 := if n = 0 then BitVec.allOnes 256 else tget x.m 0 n
/-- m[n] := v; writes to m0 are discarded. -/
def EpSt.setM (x : EpSt) (n : Nat) (v : BitVec 256) : EpSt := if n = 0 then x else { x with m := tset x.m n v, bad := x.bad.filter (· != 512 + n) }
/-- All q predicates, bit 0 reading 1. -/
def EpSt.preds (x : EpSt) : BitVec 16 := x.q ||| 1

/-- A guard over AP predicates (R199). -/
def ApSt.holds (x : ApSt) (g : Guard) : Bool := x.pr g.idx.toNat != g.neg
/-- A guard over EP predicates (R199). -/
def EpSt.holds (x : EpSt) (g : Guard) : Bool := x.qr g.idx.toNat != g.neg
/-- Lane i is active under an EV-form guard (R199). -/
def EpSt.active (x : EpSt) (g : Guard) (i : Nat) : Bool := (x.mr g.idx.toNat).getLsbD i != g.neg

/-! ## Tokens (R35) -/

/-- The value of token t. -/
def Ctx.token (x : Ctx) (t : BitVec 4) : Nat := tget x.tok 0 t.toNat
/-- The tokens a wait set names. -/
def waitToks (w : WaitSet) : List (BitVec 4) := w.w0.toList ++ w.w1.toList ++ w.w2.toList
/-- How often a list names t. -/
def countTok (t : BitVec 4) (l : List (BitVec 4)) : Nat := (l.filter (· == t)).length
/-- The wait set can be taken: each token holds as many as the set names it (R35). -/
def Ctx.canTake (x : Ctx) (w : WaitSet) : Bool := (waitToks w).all fun t => decide (countTok t (waitToks w) ≤ x.token t)
/-- Takes the wait set. -/
def Ctx.take (x : Ctx) (w : WaitSet) : Ctx :=
  { x with
    tok := (waitToks w).foldl (fun m t => tset m t.toNat (tget m 0 t.toNat - 1)) x.tok
    taken := (waitToks w).foldl (fun m t => tset m t.toNat (tget m 0 t.toNat + 1)) x.taken }

/-! ## Allotted storage (R19, R24, R28) -/

/-- The allotment of a launch on a core. -/
def Core.allot (k : Core) (lid : BitVec 32) : Option Allot := k.allots.find? fun a => a.lid == lid
/-- The physical bank of logical bank b. -/
def Core.bankOf (k : Core) (lid : BitVec 32) (b : Nat) : Option Nat := (k.allot lid).bind fun a => a.banks[b]?
/-- The physical tile of logical tile t. -/
def Core.tileOf (k : Core) (lid : BitVec 32) (t : Nat) : Option Nat := (k.allot lid).bind fun a => a.tiles[t]?
/-- The physical slot of logical slot n. -/
def Core.slotOf (k : Core) (lid : BitVec 32) (n : Nat) : Option Nat := (k.allot lid).bind fun a => a.slots[n]?
/-- The accumulator row of vector register n (R28). -/
def Core.vKey (k : Core) (lid : BitVec 32) (n : Nat) : Option Nat := (k.tileOf lid (n / 64)).map fun t => 64 * t + n % 64
/-- The bytes of a bank. -/
def bankBytes : Nat := 0x30000
/-- The row key and the byte of a local offset (R24). -/
def Core.locOf (k : Core) (lid : BitVec 32) (off : Nat) : Option (Nat × Nat) :=
  (k.bankOf lid (off / bankBytes)).map fun b => (768 * b + off % bankBytes / 256, off % 256)

/-- A scratchpad row of core c; FTEST leaves free contents (R291). -/
def Core.row (k : Core) (c key : Nat) : Row :=
  match tfind k.banks key with
  | some r => r
  | none => (match tfind k.bankFill (key / 768) with
    | some (sd, du) => Config.ftestRow c sd du key
    | none => 0)
/-- Writes a scratchpad row. -/
def Core.setRow (k : Core) (key : Nat) (r : Row) : Core := { k with banks := tset k.banks key r }
/-- The full/empty bit of a row (R25). -/
def Core.isFull (k : Core) (key : Nat) : Bool := tget k.full false key
/-- Sets the full/empty bit of a row. -/
def Core.setFull (k : Core) (key : Nat) (b : Bool) : Core := { k with full := tset k.full key b }
/-- The kind of a row (R163). -/
def Core.kindOf (k : Core) (key : Nat) : BitVec 2 := tget k.kind 0 key
/-- Sets the kind of a row. -/
def Core.setKind (k : Core) (key : Nat) (v : BitVec 2) : Core := { k with kind := tset k.kind key v }

/-- An accumulator row of core c. -/
def Core.accRow (k : Core) (c key : Nat) : Row :=
  match tfind k.acc key with
  | some r => r
  | none => (match tfind k.accFill (key / 64) with
    | some (sd, du) => Config.ftestRow c sd du (32768 + key)
    | none => 0)
/-- Writes an accumulator row. -/
def Core.setAcc (k : Core) (key : Nat) (r : Row) : Core := { k with acc := tset k.acc key r }

/-- n bytes of a row from byte y. -/
def rowGet (r : Row) (y n : Nat) : List Byte := leBytes n (fld r.toNat (8 * y) (8 * n))
/-- A row with bytes from byte y replaced. -/
def rowPut (r : Row) (y : Nat) (l : List Byte) : Row := BitVec.ofNat 2048 (setFld r.toNat (8 * y) (8 * l.length) (leNat l))

/-- Whether physical bank b is owned by the running Prism configuration (R27): the banks its image names, image bytes 8 to 11. -/
def Core.ownedBanks (k : Core) : List Nat :=
  match k.grid.running with
  | none => []
  | some (slot, cmd) => (match tfind k.grid.images slot with
    | none => []
    | some im => (natsFrom 0 32).filterMap fun b => if bitN (leAt im 8 4) b then k.bankOf cmd.lid b else none)
/-- The bank of a row key is owned by the grid. -/
def Core.owned (k : Core) (key : Nat) : Bool := k.ownedBanks.contains (key / 768)

/-- n bytes at a local offset; none outside the allotment or in an owned bank (R21, R24, R27). -/
def Core.locBytes (k : Core) (c : Nat) (lid : BitVec 32) (off n : Nat) : Option (List Byte) :=
  (natsFrom off n).mapM fun o => (k.locOf lid o).bind fun p => if k.owned p.1 then none else some (BitVec.ofNat 8 (fld (k.row c p.1).toNat (8 * p.2) 8))
/-- The whole range is inside the allotment and outside owned banks. -/
def Core.locOk (k : Core) (lid : BitVec 32) (off n : Nat) : Bool :=
  n == 0 || ((natsFrom (off / bankBytes) ((off + n - 1) / bankBytes - off / bankBytes + 1)).all fun b =>
    match k.bankOf lid b with | some p => !k.ownedBanks.contains p | none => false)
/-- Writes bytes at a local offset; bytes outside are dropped. -/
def Core.locPut (k : Core) (c : Nat) (lid : BitVec 32) : Nat → List Byte → Core
  | _, [] => k
  | off, b :: r =>
    let k' := match k.locOf lid off with
      | some (key, y) => k.setRow key (rowPut (k.row c key) y [b])
      | none => k
    k'.locPut c lid (off + 1) r

/-! ## Queues -/

/-- The key of a queue in `Core.qs`. -/
def qKey : Qid → Nat | .stream => 0 | .ch n => 1 + n % 4 | .matrix => 5 | .prism => 6 | .proofer => 7
/-- The depth of a queue (R31). -/
def qDepth : Qid → Nat | .stream => 32 | .ch _ => 16 | .matrix => 32 | .prism => 8 | .proofer => 16
/-- The entries of a queue, head first. -/
def Core.queue (k : Core) (q : Qid) : List Cmd := tget k.qs [] (qKey q)
/-- Sets the entries of a queue. -/
def Core.setQueue (k : Core) (q : Qid) (l : List Cmd) : Core := { k with qs := tset k.qs (qKey q) l }
/-- All queued and started commands. -/
def Core.pendingCmds (k : Core) : List Cmd := (k.qs.map Prod.snd).flatten ++ k.live

end Sys2Proof.Machine
end

