-- ==== Sys2Proof/Machine/Memory.lean ====
section
/-! DEFINITION. Memory as bytes in canonical form, the physical map (R105), the page-table walk (R107 to R111), the TLBs (R114) and translation with its faults (R112, R113, R118, R120, R423). -/
namespace Sys2Proof.Machine
open Sys2Proof

/-! ## Bytes -/

/-- What an address that memory does not list reads as (log 4). -/
def memDefault : Byte := 0
/-- The byte at a physical address. -/
def State.byte (s : State) (a : Nat) : Byte := tget s.mem memDefault a
/-- Writes one byte, keeping the canonical form. -/
def State.putByte (s : State) (a : Nat) (b : Byte) : State := { s with mem := tput s.mem memDefault a b }
/-- Writes a list of cells in order. -/
def State.putCells (s : State) : List Host.Cell → State
  | [] => s
  | (a, b) :: r => (s.putByte a b).putCells r
/-- n bytes from a physical address. -/
def State.bytes (s : State) (a n : Nat) : List Byte := (natsFrom a n).map s.byte
/-- n bytes from a physical address as a number, little-endian (R3). -/
def State.num (s : State) (a n : Nat) : Nat := leNat (s.bytes a n)
/-- The cells that write bytes from an address. -/
def cellsAt (a : Nat) (l : List Byte) : List Host.Cell := (natsFrom a l.length).zip l
/-- The canonical form of memory: addresses strictly rising, no entry equal to the default. -/
def Memory.wf (m : List Host.Cell) : Bool := twf memDefault m

/-! ## The physical map (R105) -/

/-- A region of the physical map. -/
inductive Region where
  | hbm | dur | lens | host
  | peer (p q : Nat)
  | mmio (d : Die) (off : Nat)
  | none
  deriving DecidableEq, Repr

/-- The region an address lies in (R105). -/
def regionOf (a : Nat) : Region :=
  if a < 0x010000000000 then .hbm
  else if a < 0x030000000000 then .dur
  else if 0x040000000000 ≤ a ∧ a < 0x070000000000 then .lens
  else if 0x100000000000 ≤ a ∧ a < 0x200000000000 then .host
  else if 0x200000000000 ≤ a ∧ a < 0x600000000000 then
    .peer ((a - 0x200000000000) / 0x080000000000) ((a - 0x200000000000) % 0x080000000000)
  else if 0x7F0000000000 ≤ a ∧ a < 0x7F0001000000 then .mmio .west (a - 0x7F0000000000)
  else if 0x7F0001000000 ≤ a ∧ a < 0x7F0002000000 then .mmio .east (a - 0x7F0001000000)
  else .none

/-- The stack of an HBM address is trained (R105, R454). -/
def State.trained (s : State) (a : Nat) : Bool :=
  let n := a / 0x1000000000
  bitN ((s.die (if n < 8 then .west else .east)).boot.hbm.toNat) (n % 8)

/-- The address of this module that an address reaches: a window of the module's own tray identity reaches its own memory (R119). -/
def State.homeAddr (s : State) (a : Nat) : Nat :=
  match regionOf a with
  | .peer p q => if p = s.tray then q else a
  | _ => a

/-- The address is mapped: in a region, in a trained stack, its frame not retired (R105, R454, R461). -/
def State.mapped (s : State) (a : Nat) : Bool :=
  let b := s.homeAddr a
  match regionOf b with
  | .none => false
  | .hbm => s.trained b && !s.retired.contains (b / 4096)
  | .dur => !s.retired.contains (b / 4096)
  | .lens => let c := b - 0x040000000000
    (match regionOf c with | .hbm => s.trained c && !s.retired.contains (c / 4096) | .dur => !s.retired.contains (c / 4096) | _ => false)
  | _ => true

/-- The tag of a frame of HBM or the durable tier (R120). -/
def State.tag (s : State) (frame : Nat) : Nat := tget s.tags 0 frame
/-- The frames of an address lie in HBM or the durable tier. -/
def isStore (a : Nat) : Bool := match regionOf a with | .hbm => true | .dur => true | _ => false
/-- The address lies in MMIO. -/
def isMmio (a : Nat) : Bool := match regionOf a with | .mmio _ _ => true | _ => false
/-- The address lies in the durable tier. -/
def isDur (a : Nat) : Bool := match regionOf a with | .dur => true | _ => false
/-- The word that holds a byte is poisoned (R453). -/
def State.poisoned (s : State) (a : Nat) : Bool := s.poison.contains (a / 8)

/-! ## Objects and copied frames -/

/-- The head frame at or below a frame with only body frames between (R121), looking at most `fuel` frames down. -/
def State.headFrame (s : State) : Nat → Nat → Option Nat
  | 0, _ => none
  | fuel + 1, f =>
    if s.tag f = 1 then some f
    else if s.tag f = 2 ∧ f ≠ 0 then s.headFrame fuel (f - 1)
    else none

/-- The address of HBM or the durable tier whose bytes an address reads: the lens aperture's lies behind it (R121). -/
def State.behind (s : State) (a : Nat) : Nat :=
  let b := s.homeAddr a
  match regionOf b with | .lens => b - 0x040000000000 | _ => b
/-- The addresses of the poisoned words in the stored bytes of the object at a head frame (R453). -/
def State.objBad (s : State) (f : Nat) : List Nat :=
  (s.poison.filter fun w => decide (4096 * f ≤ 8 * w ∧ 8 * w < 4096 * f + Nat.max 64 (leNat (s.bytes (4096 * f + 28) 4)))).map fun w => 8 * w
/-- The object at a head frame holds a poisoned word in its stored bytes. -/
def State.objPoison (s : State) (f : Nat) : Bool := !(s.objBad f).isEmpty
/-- The poisoned words that a read of an address uses: its own, or, through the lens aperture, those of the object behind it (R121, R426, R453). -/
def State.badAt (s : State) (pa : Nat) : List Nat :=
  let b := s.behind pa
  match regionOf (s.homeAddr pa), s.headFrame (s.tags.length + 1) (b / 4096) with
  | .lens, some f => s.objBad f
  | _, _ => if s.poisoned b then [b] else []
/-- The tag of the frame a physical address reaches, of this module's memory or through its lens (R425). -/
def State.foundTag (s : State) (pa : Nat) : Nat :=
  let a := s.behind pa
  if isStore a then s.tag (a / 4096) else 0
/-- The frames whose contents are being copied (R454, R461). -/
def State.busyFrames (s : State) : List Nat :=
  let of' := fun (d : DieSt) => match d.ftagBusy with | some z => if z.kind = 3 then [z.arg] else [] | none => []
  s.sparing ++ of' s.west ++ of' s.east
/-- An address whose frame is being copied; through the lens aperture, any frame of its object: accesses to it wait (R454, R461). -/
def State.frameBusy (s : State) (a : Nat) : Bool :=
  let f := s.behind a / 4096
  let lens := match regionOf (s.homeAddr a) with | .lens => s.tag f != 0 | _ => false
  let head := s.headFrame (s.tags.length + 1)
  s.busyFrames.any fun g => g == f || (lens && s.tag g != 0 && head g == head f)

/-! ## Links -/

/-- The live channel that carries the traffic of bridge channel n (R450). -/
def State.brVia (s : State) (n : Nat) : Nat :=
  if !s.brDead.contains n then n else
  ((natsFrom 1 13).flatMap fun k => (if k ≤ n then [n - k] else []) ++ (if n + k < 14 then [n + k] else [])).find? (fun m => !s.brDead.contains m) |>.getD n
/-- The die whose stack holds an HBM address (R105). -/
def stackDie (a : Nat) : Die := if a / 0x1000000000 < 8 then .west else .east
/-- Some bridge channel is live (R450). -/
def State.bridgeLive (s : State) : Bool := decide (s.brDead.length < 14)
/-- The die that holds the memory an address reads: of an HBM address the die of its stack, of a durable one the die of its channel (R105; log 15). -/
def State.dieBehind (s : State) (a : Nat) : Die :=
  let b := s.behind a
  if b < 0x010000000000 then stackDie b else if b < 0x020000000000 then .west else .east
/-- Packets from a mesh row do not cross to the other die: no channel of the bridge is live, or the one that carries the row's packets retrains (R9, R449, R450). -/
def State.rowHeld (s : State) (row : Nat) : Bool :=
  !s.bridgeLive || (!s.retrain.isEmpty && s.retrain.any fun r => r.link == LinkId.bridge (s.brVia row))
/-- A unit of a die on a mesh row cannot reach the memory behind an address now. -/
def State.farHeld (s : State) (d : Die) (row a : Nat) : Bool := s.dieBehind a != d && s.rowHeld row
/-- The mesh row of a unit at the edge of the mesh, which no rule states: walker, PCIe link, span link, ingest port (log 15). -/
def edgeRow (d : Die) (unit : Nat) : Nat := Config.edgeRow (dieNat d) unit % 14
/-- The span link of a die to a tray: its number in the die (R192; log 15). -/
def spanLink (d : Die) (tray : Nat) : Nat := Config.spanRoute (dieNat d) tray % 6
/-- A die's PCIe link is in L0 (R118, R449). -/
def State.pcieUp (s : State) (d : Die) : Bool := (s.die d).boot.pcie && !s.retrain.any fun r => r.link == LinkId.pcie d
/-- A span link retrains (R449). -/
def State.spanBusy (s : State) (d : Die) (k : Nat) : Bool := s.retrain.any fun r => r.link == LinkId.span d k

/-! ## Page tables (R107 to R111) -/

/-- The address is canonical: bits 63 to 57 equal bit 56 (R107). -/
def canonical (va : Nat) : Bool := va / 2 ^ 56 == 0 || va / 2 ^ 56 == 255

/-- Permission bits of an entry: V, R, W, X, D, C, G (R109). -/
def pteV (e : Nat) : Bool := bitN e 0
def pteR (e : Nat) : Bool := bitN e 1
def pteW (e : Nat) : Bool := bitN e 2
def pteX (e : Nat) : Bool := bitN e 3
def pteD (e : Nat) : Bool := bitN e 4
def pteC (e : Nat) : Bool := bitN e 5
def pteG (e : Nat) : Bool := bitN e 6
def pteSz (e : Nat) : Nat := fld e 8 2
def pteDom (e : Nat) : Nat := fld e 56 4
/-- FRAME as a physical address. -/
def pteFrame (e : Nat) : Nat := fld e 12 35 * 4096
/-- The page size of SZ (R110). -/
def szBytes (z : Nat) : Nat := match z with | 0 => 0x1000 | 1 => 0x10000 | 2 => 0x200000 | _ => 0x40000000
/-- The level of a leaf of SZ (R110). -/
def szLevel (z : Nat) : Nat := match z with | 0 => 0 | 1 => 0 | 2 => 1 | _ => 2
/-- The entry is a leaf (R109). -/
def pteLeaf (e : Nat) : Bool := pteR e || pteW e || pteX e
/-- An entry with V set that R110 calls invalid at a level. -/
def pteBad (lvl e : Nat) : Bool :=
  fld e 47 9 != 0 || fld e 10 2 != 0 || bitN e 7 || (pteW e && !pteR e) || (pteX e && (pteD e || pteC e))
    || (if pteLeaf e then szLevel (pteSz e) != lvl else lvl == 0)

/-- The outcome of a walk: a leaf with its level, or a code with the level and the last entry read (R423, R425). -/
inductive WalkRes where
  | leaf (e lvl : Nat)
  | fault (code lvl e : Nat)
  deriving DecidableEq, Repr

/-- The walk from a table of the given level down (R107, R109). DESIGN CHOICE: a table frame outside trained HBM, or an entry with an error, is read as memory has it (log 85). -/
def State.walkFrom (s : State) (va : Nat) : Nat → Nat → WalkRes
  | 0, tbl =>
    let e := s.num (tbl + 8 * fld va 12 9) 8
    if !pteV e then .fault 3 0 e else if pteBad 0 e then .fault 4 0 e else .leaf e 0
  | l + 1, tbl =>
    let e := s.num (tbl + 8 * fld va (12 + 9 * (l + 1)) 9) 8
    if !pteV e then .fault 3 (l + 1) e
    else if pteBad (l + 1) e then .fault 4 (l + 1) e
    else if pteLeaf e then .leaf e (l + 1)
    else s.walkFrom va l (pteFrame e)

/-- The addresses a walk reads from the table of a level down. -/
def State.tableReads (s : State) (va : Nat) : Nat → Nat → List Nat
  | 0, tbl => [tbl + 8 * fld va 12 9]
  | l + 1, tbl =>
    let a := tbl + 8 * fld va (12 + 9 * (l + 1)) 9
    let e := s.num a 8
    a :: (if pteV e && !pteBad (l + 1) e && !pteLeaf e then s.tableReads va l (pteFrame e) else [])
/-- The address of an address space's entry (R108). -/
def State.spaceEntry (s : State) (pasid : Nat) : Nat := fld s.astbase.toNat 23 24 * 2 ^ 23 + 8 * pasid
/-- A read of the walk must cross a held channel of the bridge, or meets a frame that is being copied (R8, R449, R454). -/
def State.walkHeld (s : State) (d : Die) (pasid va : Nat) : Bool :=
  let a := s.spaceEntry pasid
  (a :: s.tableReads va 4 (pteFrame (s.num a 8))).any fun a => s.frameBusy a || s.farHeld d (edgeRow d 0) a
/-- A walk of an address space (R108), which started with ASTBASE EN as given: level 5 is the address-space entry. -/
def State.walk (s : State) (en : Bool) (pasid va : Nat) : WalkRes :=
  if !en then .fault 2 5 0 else
  let e := s.num (s.spaceEntry pasid) 8
  if !pteV e then .fault 2 5 e
  else if fld e 1 11 != 0 || fld e 47 17 != 0 then .fault 4 5 e
  else s.walkFrom va 4 (pteFrame e)

/-! ## TLBs (R114) -/

/-- The entry a leaf gives. -/
def tlbEntry (pasid va e : Nat) : TlbE :=
  let z := szBytes (pteSz e)
  { pasid := pasid, glob := pteG e, va := va % 2 ^ 57 / z * z, size := z, leaf := BitVec.ofNat 64 e, host := false }
/-- The entry translates the address in the address space. -/
def tlbHit (pasid va : Nat) (t : TlbE) : Bool :=
  !t.host && (t.glob || t.pasid == pasid) && decide (t.va ≤ va % 2 ^ 57) && decide (va % 2 ^ 57 < t.va + t.size)
/-- The host translation of a page of the host window, with the permissions the host granted (R118). -/
def hostEntry (pasid page : Nat) (r w : Bool) : TlbE :=
  { pasid := pasid, glob := false, va := page, size := 4096, leaf := BitVec.ofNat 64 (2 * b2n r + 4 * b2n w), host := true }
/-- The entry is the host translation of a page. -/
def hostHit (pasid page : Nat) (t : TlbE) : Bool := t.host && t.pasid == pasid && t.va == page
/-- Adds an entry in front, keeping at most n: the entry filled longest ago leaves, and a lookup meets the one filled last first (DESIGN CHOICE: R111, R114; log 68). -/
def tlbAdd (n : Nat) (t : TlbE) (l : List TlbE) : List TlbE := (t :: l.filter (· != t)).take n
/-- The physical address an entry gives. -/
def tlbPa (t : TlbE) (va : Nat) : Nat := pteFrame t.leaf.toNat / t.size * t.size + va % t.size

/-- Keeps a leaf in the core's TLB and the die's (R114). -/
def State.fillTlb (s : State) (c : Nat) (t : TlbE) : State :=
  (s.modCore c fun k => { k with tlb := tlbAdd 512 t k.tlb }).modDie (dieOf c) fun d => { d with tlb := tlbAdd 16384 t d.tlb }

/-! ## Translation -/

/-- What an access does, by the ACC coding of R425. -/
inductive Acc where
  | read | write | atomic | code
  deriving DecidableEq, Repr

/-- ACC (R425). -/
def accNat : Acc → Nat | .read => 0 | .write => 1 | .atomic => 2 | .code => 3

/-- The outcome of translating one byte: a physical address and its leaf; a fault (code, table level, frame tag, entry); a breach of the domain mask (R113); a wait for a walk or for the host. -/
inductive XRes where
  | ok (pa leaf : Nat)
  | fault (code lvl tag entry : Nat)
  | breach
  | wait
  deriving DecidableEq, Repr

/-- The leaf grants the access (R112). -/
def permits (a : Acc) (e : Nat) : Bool :=
  match a with | .read => pteR e | .write => pteW e | .atomic => pteR e && pteW e | .code => pteX e

/-- The C and D bits agree with the frame's tag and region (R120); `land` is set for a compress copy or a landing transfer, which may write into plain frames. -/
def State.attrOk (s : State) (land : Bool) (pa e : Nat) : Bool :=
  let b := s.homeAddr pa
  let own := isStore b
  let t := if own then s.tag (b / 4096) else 0
  (pteD e == (isDur b)) && t != 3 && (if pteC e then own && (t == 1 || t == 2 || land) else t == 0)

/-- The checks after a leaf is found, without the host's translation; `lvl` and `ent` are what R425 reports: the walk's level and last entry, or 0xFF and 0 on a TLB hit. DESIGN CHOICE: a page's permissions go before the codes of the lens aperture (R121, R423; log 85). -/
def State.checkLeaf (s : State) (mask : BitVec 16) (a : Acc) (land : Bool) (t : TlbE) (lvl ent : Nat) (va : Nat) : XRes :=
  let e := t.leaf.toNat
  let pa := tlbPa t va
  if !mask.getLsbD (pteDom e) then .breach
  else if !permits a e then .fault 5 lvl 0 ent
  else if !s.mapped pa then .fault 7 lvl 0 ent
  else if !s.attrOk land pa e then .fault 6 lvl (if isStore (s.homeAddr pa) then s.tag (s.homeAddr pa / 4096) else 0) ent
  else
    match regionOf (s.homeAddr pa), a with
    | .lens, .write => .fault 12 lvl 0 ent
    | .lens, .atomic => .fault 8 lvl 0 ent
    | .host, .atomic => .fault 8 lvl 0 ent
    | .mmio _ _, .atomic => .fault 8 lvl 0 ent
    | _, _ => .ok pa e

/-- The host grants an access under the permissions it gave. -/
def hostPermits (a : Acc) (r w : Bool) : Bool := match a with | .read => r | .write => w | .atomic => r && w | .code => r

/-- The host's translation of a host-window page (R118): granted by the die's TLB, refused (code 14), or not here yet. -/
def hostGrant (d : DieSt) (pasid page : Nat) (a : Acc) : Option Bool :=
  if d.tlb.any (fun t => hostHit pasid page t && hostPermits a (bitN t.leaf.toNat 1) (bitN t.leaf.toNat 2)) then some true else
  match d.hosts.find? fun h => h.pasid == pasid && h.page == page && h.ans.isSome with
  | some h => (match h.ans with
    | some (.ok r w) => if hostPermits a r w then some true else if h.pri then some false else none
    | some .fail => some false
    | none => none)
  | none => none

/-- Asks the host: through ATS first, through PRI when ATS found the page not present (R118); `lvl` and `ent` are of the walk that met the page (R425). -/
def State.askHost (s : State) (d : Die) (pasid page lvl ent : Nat) : State :=
  let x := s.die d
  match x.hosts.find? fun h => h.pasid == pasid && h.page == page with
  | some h => (match h.ans with
    | none => s
    | some _ =>
      let id := s.serial
      let hs := { h with id := id, pri := true, ans := none } :: x.hosts.filter (· != h)
      { (s.setDie d { x with hosts := hs }).tick with outbox := s.outbox ++ [.pri d id] })
  | none =>
    let id := s.serial
    { (s.setDie d { x with hosts := { id := id, pasid := pasid, page := page, lvl := lvl, entry := ent, pri := false, ans := none } :: x.hosts }).tick with
      outbox := s.outbox ++ [.ats d id] }

/-- The refusal of a host page, with the level and entry of the walk that met it (R425). -/
def hostFault (d : DieSt) (pasid page : Nat) : XRes :=
  match d.hosts.find? fun h => h.pasid == pasid && h.page == page with | some h => .fault 14 h.lvl 0 h.entry | none => .fault 14 255 0 0
/-- Drops what the host has answered of a page. -/
def State.dropHost (s : State) (d : Die) (pasid page : Nat) : State :=
  s.modDie d fun x => { x with hosts := x.hosts.filter fun h => !(h.pasid == pasid && h.page == page && h.ans.isSome) }
/-- Adds the host's part to a translation whose walk had this level and entry; a failure is not kept, so that a later access asks again. -/
def State.viaHost (s : State) (d : Die) (pasid : Nat) (a : Acc) (lvl ent : Nat) (r : XRes) : State × XRes :=
  match r with
  | .ok pa _ =>
    (match regionOf pa with
    | .host =>
      (match hostGrant (s.die d) pasid (pa / 4096) a with
      | some true => (s.dropHost d pasid (pa / 4096), r)
      | some false => (s.dropHost d pasid (pa / 4096), hostFault (s.die d) pasid (pa / 4096))
      | none => (s.askHost d pasid (pa / 4096) lvl ent, .wait))
    | _ => (s, r))
  | _ => (s, r)

/-- At most this many walks of a die run at once (R115). -/
def walkLimit : Nat := 64
/-- Of a die's walks, those among the first 64 that have not ended run; one that starts takes ASTBASE EN as it is (R108, R115). -/
def startWalks (en : Bool) : Nat → List Walk → List Walk
  | _, [] => []
  | n, w :: r =>
    if w.res.isSome then w :: startWalks en n r
    else match n with
      | 0 => w :: startWalks en 0 r
      | n + 1 => { w with en := some (w.en.getD en) } :: startWalks en n r
/-- The walks of a die after a change. -/
def State.runWalks (s : State) (d : Die) : State := s.modDie d fun x => { x with walks := startWalks (bitN s.astbase.toNat 0) walkLimit x.walks }

/-- Translates a virtual address for core c: by the walk that has ended for it, by a hit in a TLB, or by a new walk (R114, R115). -/
def State.xlate (s : State) (c pasid : Nat) (mask : BitVec 16) (a : Acc) (land : Bool) (va : Nat) : State × XRes :=
  if !canonical va then (s, .fault 1 255 0 0) else
  let d := dieOf c
  let mine := fun (w : Walk) => w.core == c && w.pasid == pasid && w.va == va / 4096
  match (s.die d).walks.find? fun w => mine w && w.res.isSome with
  | some w =>
    let s1 := s.modDie d fun x => { x with walks := x.walks.filter (· != w) }
    (match w.res with
    | some (.fault code lvl e) => (s1, .fault code lvl 0 e.toNat)
    | some (.leaf lvl e) => s1.viaHost d pasid a lvl e.toNat (s1.checkLeaf mask a land (tlbEntry pasid va e.toNat) lvl e.toNat va)
    | none => (s, .wait))
  | none =>
    match (s.core c).tlb.find? (tlbHit pasid va) with
    | some t => s.viaHost d pasid a 255 0 (s.checkLeaf mask a land t 255 0 va)
    | none =>
      match (s.die d).tlb.find? (tlbHit pasid va) with
      | some t => (s.fillTlb c t).viaHost d pasid a 255 0 (s.checkLeaf mask a land t 255 0 va)
      | none =>
        if (s.die d).walks.any mine then (s, .wait) else
        (((s.modDie d fun x => { x with
          walks := x.walks ++ [{ id := s.serial, core := c, pasid := pasid, va := va / 4096, en := none, res := none }] }).runWalks d).tick, .wait)

/-- Translates byte addresses in order, a page at a time: `last` is the page translated before, with its physical page and leaf; it stops at the first address that is not ready. -/
def State.xlateList (s : State) (c pasid : Nat) (mask : BitVec 16) (a : Acc) (land : Bool) (last : Option (Nat × Nat × Nat)) :
    List Nat → State × Except (XRes × Nat) (List (Nat × Nat))
  | [] => (s, .ok [])
  | va :: r =>
    match last with
    | some (pg, pp, e) =>
      if pg = va / 4096 then
        (match s.xlateList c pasid mask a land last r with
        | (s2, .ok l) => (s2, .ok ((4096 * pp + va % 4096, e) :: l))
        | (s2, .error x) => (s2, .error x))
      else
        (match s.xlate c pasid mask a land va with
        | (s1, .ok pa e) =>
          (match s1.xlateList c pasid mask a land (some (va / 4096, pa / 4096, e)) r with
          | (s2, .ok l) => (s2, .ok ((pa, e) :: l))
          | (s2, .error x) => (s2, .error x))
        | (s1, x) => (s1, .error (x, va)))
    | none =>
      match s.xlate c pasid mask a land va with
      | (s1, .ok pa e) =>
        (match s1.xlateList c pasid mask a land (some (va / 4096, pa / 4096, e)) r with
        | (s2, .ok l) => (s2, .ok ((pa, e) :: l))
        | (s2, .error x) => (s2, .error x))
      | (s1, x) => (s1, .error (x, va))

/-- Translates n bytes from an address. -/
def State.xlateAll (s : State) (c pasid : Nat) (mask : BitVec 16) (a : Acc) (land : Bool) (va n : Nat) : State × Except (XRes × Nat) (List (Nat × Nat)) :=
  s.xlateList c pasid mask a land none ((natsFrom va n).map fun v => v % 2 ^ 64)

/-- Translates for the scheduler or a controller under a domain mask, by a TLB entry of the die or a walk at once (log 67). -/
def State.xlateRaw (s : State) (d : Die) (pasid : Nat) (mask : BitVec 16) (a : Acc) (va : Nat) : XRes × Nat × Nat :=
  if !canonical va then (.fault 1 255 0 0, 255, 0) else
  match (s.die d).tlb.find? (tlbHit pasid va) with
  | some t => (s.checkLeaf mask a false t 255 0 va, 255, 0)
  | none =>
    match s.walk (bitN s.astbase.toNat 0) pasid va with
    | .leaf e lvl => (s.checkLeaf mask a false (tlbEntry pasid va e) lvl e va, lvl, e)
    | .fault code lvl e => (.fault code lvl 0 e, lvl, e)
/-- The scheduler's request to a page has had no answer for 180 us (R423). -/
def DieSt.askOver (d : DieSt) (pasid va : Nat) : Bool := d.asks.any fun k => k.pasid == pasid && k.page == va / 4096 && k.late
/-- A translation of the scheduler with its way to the page: it waits for a frame that is copied, for the host's answer, for a link or a channel of the bridge in retraining; no answer is code 15 (R118, R423, R449, R451, R454). -/
def State.xlateNow (s : State) (d : Die) (pasid : Nat) (mask : BitVec 16) (a : Acc) (va : Nat) : XRes :=
  match s.xlateRaw d pasid mask a va with
  | (.ok pa e, lvl, ent) =>
    let late := (s.die d).askOver pasid va
    (match regionOf (s.homeAddr pa) with
    | .host =>
      if late then .fault 15 lvl 0 ent
      else if !s.pcieUp d && !s.pcieUp (Die.other d) then .wait
      else (match hostGrant (s.die d) pasid (pa / 4096) a with | some true => .ok pa e | some false => hostFault (s.die d) pasid (pa / 4096) | none => .wait)
    | .peer p _ =>
      let k := spanLink d p
      if late then .fault 15 lvl 0 ent
      else if s.spanBusy d k then .wait
      else if (s.die d).boot.span.getLsbD k then .ok pa e else .fault 15 lvl 0 ent
    | _ => if s.frameBusy pa || s.farHeld d (edgeRow d 5) pa then .wait else .ok pa e)
  | (r, _) => r

/-- Translates n bytes for the scheduler or a controller. -/
def State.xlateNowAll (s : State) (d : Die) (pasid : Nat) (mask : BitVec 16) (a : Acc) (va n : Nat) : Except XRes (List Nat) :=
  (natsFrom va n).mapM fun v => match s.xlateNow d pasid mask a (v % 2 ^ 64) with | .ok pa _ => .ok pa | r => .error r

/-- The first of n bytes whose translation for the scheduler waits. -/
def State.schedStop (s : State) (d : Die) (pasid : Nat) (mask : BitVec 16) (a : Acc) (va n : Nat) : Option Nat :=
  (natsFrom va n).find? fun v => s.xlateNow d pasid mask a (v % 2 ^ 64) == .wait
/-- The first of n bytes for which the scheduler waits is asked of the host, or its request goes out, from when 180 us count; what it no longer waits for is dropped (R118, R423; log 67). -/
def State.schedMet (s : State) (d : Die) (pasid : Nat) (mask : BitVec 16) (a : Acc) (va n : Nat) : State :=
  match s.schedStop d pasid mask a va n with
  | none =>
    let s1 := s.modDie d fun x => { x with asks := x.asks.filter fun k => !(k.pasid == pasid && decide (va / 4096 ≤ k.page) && decide (k.page ≤ (va + n - 1) / 4096)) }
    (natsFrom (va / 4096) ((va + n - 1) / 4096 + 1 - va / 4096)).foldl (fun s p => match s.xlateRaw d pasid mask a (4096 * p % 2 ^ 64) with
      | (.ok pa _, _) => if regionOf pa = .host then s.dropHost d pasid (pa / 4096) else s
      | _ => s) s1
  | some v =>
    match s.xlateRaw d pasid mask a (v % 2 ^ 64) with
    | (.ok pa _, lvl, ent) =>
      let reg := regionOf (s.homeAddr pa)
      let s1 := if reg = .host && (s.pcieUp d || s.pcieUp (Die.other d)) then s.askHost d pasid (pa / 4096) lvl ent else s
      let far := match reg with | .host => true | .peer _ _ => true | _ => false
      if far && !(s1.die d).asks.any (fun k => k.pasid == pasid && k.page == v / 4096) then
        (s1.modDie d fun x => { x with asks := x.asks ++ [{ id := s1.serial, pasid := pasid, page := v / 4096, since := s1.time.toNat, late := false }] }).tick
      else s1
    | _ => s

/-- The scheduler's requests of an address space that have gone unanswered are done with: their fault has been taken. -/
def State.asksMet (s : State) (d : Die) (pasid : Nat) : State :=
  if (s.die d).asks.isEmpty then s else s.modDie d fun x => { x with asks := x.asks.filter fun k => !(k.pasid == pasid && k.late) }

end Sys2Proof.Machine
end

