-- ==== Sys2Proof/Machine/Ops.lean ====
section
/-! DEFINITION. The named operations that meanings share: writes to memory and what they wake, fault records and their routes (R389 to R398), taking a trap and returning from it (R392, R393, R396, R289), freezing (R399), tokens and commands (R35 to R37), and how an instruction ends: in sequence, by a branch, by a stall, by a trap (R34, R245). -/
namespace Sys2Proof.Machine
open Sys2Proof

/-! ## Writes to memory -/

/-- The 8-byte granules that cells touch. -/
def granulesOf (l : List Host.Cell) : List Nat := (l.map fun p => p.1 / 8).eraseDups

/-- Releases every monitor on one of the granules with status 0 (R71). -/
def State.wakeMonitors (s : State) (gs : List Nat) : State :=
  { s with cores := s.cores.map fun (c, k) => (c, { k with ctxs := k.ctxs.map fun (n, x) =>
      (n, match x.ap.armed with
        | some a => if a.st.isNone && gs.contains (a.granule / 8) then { x with ap := { x.ap with armed := some { a with st := some 0 } } } else x
        | none => x) }) }

/-- The wait kind and operand of a continuation record (R44). -/
def Task.kind (t : Task) : Nat := bytesAt t.rcd 40 1
def Task.operand (t : Task) : Nat := bytesAt t.rcd 48 8

/-- Makes the condition of every queued record of wait kind 2 on one of the granules hold (R257). -/
def State.wakeTasks (s : State) (gs : List Nat) : State :=
  { s with launches := s.launches.map fun l => { l with tasks := l.tasks.map fun t =>
      if t.kind == 2 && !t.woken then
        (match s.xlateNow (if l.queue < 32 then .west else .east) l.pasid 0xFFFF .read (t.operand / 8 * 8) with
        | .ok pa _ => if gs.contains (s.homeAddr pa / 8) then { t with woken := true } else t
        | _ => t)
      else t } }

/-- Every whole word that the cells cover is poisoned no more (R453). -/
def State.unpoison (s : State) (l : List Host.Cell) : State :=
  if s.poison.isEmpty then s else
  { s with poison := s.poison.filter fun w => !(natsFrom (8 * w) 8).all fun a => l.any fun p => p.1 == a }

/-- Writes bytes of memory and wakes what waits on them; the bytes hold no release's value any more (R130). -/
def State.writeMem (s : State) (l : List Host.Cell) : State :=
  let gs := granulesOf l
  let s1 := (((s.putCells l).unpoison l).wakeMonitors gs).wakeTasks gs
  { s1 with durRel := s1.durRel.filter fun q => !l.any fun p => p.1 == q.1 }

/-- LID of a record that no launch is involved in (R389). -/
def noLid : BitVec 32 := 0xFFFFFFFF

/-- Adds a durable store that has been performed and must reach the persistence domain (R141); its own overlapping predecessors come in (R142 item 1). -/
def State.addDurable (s : State) (core slot : Nat) (lid : BitVec 32) (cls : BitVec 4) (pos : Option Nat) (cells : List Host.Cell) (preds : List Nat)
    (stream : Option (Nat × Nat)) (cmd : Nat) : State :=
  let lap := (s.dstores.filter fun d => d.cells.any fun p => cells.any fun q => q.1 == p.1).map DStore.id
  let d : DStore :=
    { id := s.serial, core := core, slot := slot, lid := lid, cls := cls, pos := pos, cells := cells, preds := (preds ++ lap).eraseDups,
      stream := stream, cmd := cmd, toks := [], uid := match (s.ctx core slot).filter fun x => x.lid == lid with | some x => x.uid | none => 0 }
  { s.tick with dstores := s.dstores ++ [d] }

/-- Durable bytes that no AP, stream or copy wrote persist as separate bytes (R141). -/
def State.noteBytes (s : State) (l : List Host.Cell) : State :=
  (l.filter fun p => isDur p.1).foldl (fun s p => s.addDurable 0x1FF 0 noLid 0 none [p] [] none 0) s
/-- The bytes hold the values of releases from now on. -/
def State.hold (s : State) (pas : List Nat) (l : List RelRec) : State :=
  if l.isEmpty then s else { s with durRel := pas.foldl (fun t a => tset t (s.homeAddr a) l) s.durRel }
/-- The place of a byte of a scratchpad row among the bytes that hold values of releases: behind every physical address (R130). -/
def locMark (c key y : Nat) : Nat := 2 ^ 60 + 256 * (24576 * c + key) + y
/-- Drops a place's poison: it has been written whole (R453). -/
def State.clean (s : State) (l : StoreLoc) : State := if s.poisonLoc.isEmpty then s else { s with poisonLoc := s.poisonLoc.filter (· != l) }
/-- Bytes of a scratchpad row have been written: words written whole are poisoned no more (R453), and the bytes hold no release's value (R130). -/
def State.rowFresh (s : State) (c key : Nat) (ys : List Nat) : State :=
  let s1 := if s.poisonLoc.isEmpty then s else { s with poisonLoc := s.poisonLoc.filter fun z =>
    match z with | .bank d b r w => !(d == c && 768 * b + r == key && (natsFrom (8 * w) 8).all ys.contains) | _ => true }
  if s1.durRel.isEmpty then s1 else { s1 with durRel := s1.durRel.filter fun q => !ys.any fun y => q.1 == locMark c key y }
/-- The same of a whole row. -/
def State.rowWhole (s : State) (c key : Nat) : State := if s.poisonLoc.isEmpty && s.durRel.isEmpty then s else s.rowFresh c key (natsFrom 0 256)
/-- Writes bytes of scratchpad at local offsets of a launch. -/
def State.putLoc (s : State) (c : Nat) (lid : BitVec 32) (cells : List (Nat × Byte)) : State :=
  let s1 := s.modCore c fun k => cells.foldl (fun (k : Core) (p : Nat × Byte) => k.locPut c lid p.1 [p.2]) k
  if s.poisonLoc.isEmpty && s.durRel.isEmpty then s1 else
  let at' := cells.filterMap fun p => (s.core c).locOf lid p.1
  ((at'.map Prod.fst).eraseDups).foldl (fun s key => s.rowFresh c key ((at'.filter fun p => p.1 == key).map Prod.snd)) s1

/-- The word of a scratchpad row under one of some local offsets is poisoned (R453). -/
def State.locPoison (s : State) (c : Nat) (lid : BitVec 32) (offs : List Nat) : Bool :=
  !s.poisonLoc.isEmpty && offs.any fun o => match (s.core c).locOf lid o with | some p => s.poisonLoc.contains (.bank c (p.1 / 768) (p.1 % 768) (p.2 / 8)) | none => false
/-- A word of a scratchpad row is poisoned. -/
def State.badBank (s : State) (c key : Nat) : Bool :=
  s.poisonLoc.any fun z => match z with | .bank d b r _ => d == c && 768 * b + r == key | _ => false

/-- A write of the scheduler, a controller, the host or a peer to physical bytes (R141). -/
def State.devWrite (s : State) (l : List Host.Cell) : State :=
  let l' := l.map fun p => (s.homeAddr p.1, p.2)
  (s.noteBytes l').writeMem l'

/-- The write of an atomic that no AP of the module issued: it persists whole (R141). -/
def State.unitWrite (s : State) (l : List Host.Cell) : State :=
  let l' := l.map fun p => (s.homeAddr p.1, p.2)
  (if l'.any fun p => isDur p.1 then s.addDurable 0x1FF 0 noLid 0 none l' [] none 0 else s).writeMem l'

/-! ## Releases and acquires (R129, R130, R142) -/

/-- The issuer of a release or acquire lies in the scope of one of another context (R123, R130). -/
def inScope (sc : Scope) (c n : Nat) (lid : BitVec 32) (c' n' : Nat) (lid' : BitVec 32) : Bool :=
  match sc with
  | .ctx => c == c' && n == n' && lid == lid'
  | .core => c == c'
  | .gang => lid == lid'
  | .die => dieOf c == dieOf c'
  | _ => true
/-- The durable store is not persisted yet. -/
def State.unpersisted (s : State) (i : Nat) : Bool := s.dstores.any fun d => d.id == i
/-- The durable store counts as one of a context's own: of its AP, or of a command whose token it has taken (R137). -/
def DStore.ownedBy (d : DStore) (x : Ctx) : Bool := d.lid == x.lid && d.uid == x.uid && d.pos.isSome
/-- The durable stores, not yet persisted, that are, or happen before, an access of a context in a class of a mask before position pos: those a release at that place carries on (R128, R130); with `loads`, those that happen before a read of it. -/
def State.relSet (s : State) (x : Ctx) (mask : BitVec 16) (pos : Nat) (loads : Bool) : List Nat :=
  ((if loads then [] else (s.dstores.filter fun d => d.ownedBy x && mask.getLsbD d.cls.toNat && decide (d.pos.getD 0 < pos)).map DStore.id)
    ++ ((x.ap.carried.filter fun e => mask.getLsbD e.2.1.toNat && decide (e.2.2.1 < pos) && (!loads || e.2.2.2 != .st)).map Prod.fst).filter s.unpersisted).eraseDups
/-- An access of a context comes behind what happens before it (R128, R130). -/
def Ctx.carry (x : Ctx) (a : Access) : Ctx :=
  let on := fun (l : List (BitVec 16 × Nat × Nat)) => (l.filter fun e => e.1.getLsbD a.cls.toNat && decide (e.2.1 < a.id)).map fun e => e.2.2
  let ids := on x.ap.hb ++ (if a.kind == .ld then [] else on x.ap.hbStores)
  if ids.isEmpty then x else { x with ap := { x.ap with carried := (x.ap.carried ++ ids.map fun i => (i, a.cls, a.id, a.kind)).eraseDups } }
/-- Drops the notes about durable stores that have persisted. -/
def State.pruneDur (s : State) (l : List (BitVec 16 × Nat × Nat)) : List (BitVec 16 × Nat × Nat) := (l.filter fun e => s.unpersisted e.2.2).eraseDups
/-- An acquire of a context, at position pos with a mask and a scope, synchronises with releases: what happened before them happens before its accesses, and at durable scope persists before its durable stores (R130, R142 item 3). -/
def State.acquire (s : State) (c n : Nat) (x : Ctx) (mask : BitVec 16) (pos : Nat) (sc : Scope) (l : List RelRec) : Ctx :=
  let covers := fun (r : RelRec) (i : Nat) => s.dstores.any fun d => d.id == i && r.mask.getLsbD d.cls.toNat
  let met := l.filter fun r => inScope r.scope r.core r.slot r.lid c n x.lid && inScope sc c n x.lid r.core r.slot r.lid
  let note := fun (l : List RelRec) => l.flatMap fun r => r.ids.map fun i => (mask, pos, i)
  let y : Ctx := { x with ap := { x.ap with
    carried := x.ap.carried.filter fun e => s.unpersisted e.1
    hb := s.pruneDur (x.ap.hb ++ note met)
    durPreds := s.pruneDur (x.ap.durPreds ++ note ((met.filter fun r => sc == .dur && r.scope == .dur).map fun r => { r with ids := r.ids.filter (covers r) })) } }
  y.ap.accs.foldl Ctx.carry y
/-- What a release at a place of a context gives by itself: the gang's barriers and `TRIG` cover every class (R129). -/
def State.relAll (s : State) (x : Ctx) : List Nat := s.relSet x 0xFFFF s.serial false
/-- A completed wait acquires for all classes what releases of a scope have given (R129, R130). -/
def State.acquireAll (s : State) (c n : Nat) (x : Ctx) (sc : Scope) (ids : List Nat) : Ctx :=
  if ids.isEmpty then x else s.acquire c n x 0xFFFF s.serial sc [{ ids := ids, scope := sc, core := c, slot := n, lid := x.lid }]

/-! ## Fault records (R389 to R391) -/

/-- The types of masters (R391). -/
def mtAP : Nat := 0
def mtEP : Nat := 1
def mtStream : Nat := 2
def mtCopy : Nat := 3
def mtMatrix : Nat := 4
def mtPrism : Nat := 5
def mtProofer : Nat := 6
def mtFunc : Nat := 7
def mtPeer : Nat := 8
def mtIngest : Nat := 9
def mtMemory : Nat := 10
def mtMesh : Nat := 11
def mtCtl : Nat := 12
/-- MASTER (R391). -/
def masterOf (ty core slot unit : Nat) (d : Die) : BitVec 32 := BitVec.ofNat 32 (pack [(4, ty), (9, core), (2, slot), (9, unit), (7, 0), (1, dieNat d)])
/-- MASTER of something on a core. -/
def coreMaster (ty core slot unit : Nat) : BitVec 32 := masterOf ty core slot unit (dieOf core)
/-- MASTER of something off the cores. -/
def dieMaster (ty unit : Nat) (d : Die) : BitVec 32 := masterOf ty 0x1FF 0 unit d
/-- The master type of a processor. -/
def mtProc : Proc → Nat | .ap => mtAP | .ep => mtEP
/-- The die in MASTER. -/
def masterDie (m : BitVec 32) : Die := if m.toNat % 2 = 1 then .east else .west

/-- DETAIL from (byte, length, value) fields, bytes numbered as in R389. -/
def detailOf : List (Nat × Nat × Nat) → BitVec 256
  | [] => 0
  | (b, n, v) :: r => BitVec.ofNat 256 (v % 2 ^ (8 * n) * 2 ^ (8 * (b - 32))) ||| detailOf r

/-- A record detected now. -/
def State.mkRec (s : State) (cls sev cause : Nat) (m : BitVec 32) (addr : Option Nat) (lid : BitVec 32) (rank : Nat) (det : List (Nat × Nat × Nat)) : FaultRec :=
  { cls := BitVec.ofNat 8 cls, sev := BitVec.ofNat 8 sev, cause := BitVec.ofNat 16 cause, master := m,
    addr := match addr with | some a => BitVec.ofNat 64 a | none => 0, addrV := addr.isSome, phys := false, isLocal := false, spill := false,
    retired := false, lid := lid, rank := BitVec.ofNat 16 rank, time := s.time, detail := detailOf det }

/-- The 64 bytes of a record (R389). -/
def FaultRec.bytes (r : FaultRec) : List Byte :=
  leBytes 8 (r.cls.toNat + 2 ^ 8 * r.sev.toNat + 2 ^ 16 * r.cause.toNat + 2 ^ 32 * r.master.toNat) ++ leBytes 8 r.addr.toNat
    ++ leBytes 8 (r.lid.toNat + 2 ^ 32 * r.rank.toNat
        + 2 ^ 48 * (b2n r.addrV + 2 * b2n r.phys + 4 * b2n r.isLocal + 8 * b2n r.spill + 16 * b2n r.retired))
    ++ leBytes 8 r.time.toNat ++ leBytes 32 r.detail.toNat

/-! ## Fault queues (R398, R459) -/

/-- Raises an MSI-X vector of a function: 2,048 of a physical function, 64 of a virtual one (R12); a vector that a function does not have raises nothing (log 69). -/
def State.msix (s : State) (fn : Func) (vec : Nat) : State :=
  if fn.num ≠ 0 ∧ 64 ≤ vec then s else { s with outbox := s.outbox ++ [.msix fn (BitVec.ofNat 11 vec)] }
/-- Counts a lost record in FQCFG MISS; it saturates (R459). -/
def State.missOne (s : State) (d : Die) : State := s.modDie d fun x => { x with miss := min (x.miss + 1) 0xFFFFFFFF }

/-- Appends a record to a queue whose bytes 0 to 31 lie at the physical addresses hd and whose record k lies at rec k (R398). True when a record was written. -/
def State.ringPut (s : State) (hd : List Nat) (slotAddr : Nat → Option (List Nat)) (r : FaultRec) : Option (State × Bool) :=
  let b := hd.map fun a => s.byte (s.homeAddr a)
  let cap := leAt b 0 8
  let widx := leAt b 8 8
  let ridx := leAt b 16 8
  let lost := leAt b 24 8
  if cap = 0 ∨ (widx + 2 ^ 64 - ridx) % 2 ^ 64 = cap then
    some (s.devWrite (((hd.drop 24).take 8).zip (leBytes 8 (lost + 1))), false)
  else
    match slotAddr (widx % cap) with
    | none => none
    | some l => some ((s.devWrite (l.zip r.bytes)).devWrite (((hd.drop 8).take 8).zip (leBytes 8 (widx + 1))), true)

/-- Whether a device-queue write to these bytes can be made (R398). -/
def State.writable (s : State) (l : List Nat) : Bool := l.all fun a => isStore a && s.mapped a && !s.poisoned a

/-- A restarting controller holds a record, at most 64; the others are lost (R457). -/
def State.holdRec (s : State) (d : Die) (lid : Option (BitVec 32)) (r : FaultRec) : State :=
  let x := s.die d
  if x.ctl.buf.length < 64 then s.setDie d { x with ctl := { x.ctl with buf := x.ctl.buf ++ [{ lid := lid, rcd := r }] } } else s.missOne d

/-- Writes a record to the device fault queue of the die of its master (R398, R457, R459). -/
def State.toDevice (s : State) (r : FaultRec) : State :=
  let d := masterDie r.master
  let x := s.die d
  if !x.ctl.up then s.holdRec d none r
  else if !bitN x.fqbase.toNat 0 then s.missOne d
  else
    let base := fld x.fqbase.toNat 6 41 * 64
    let hd := natsFrom base 32
    if !s.writable hd then s.missOne d else
    match s.ringPut hd (fun k => let l := natsFrom (base + 64 + 64 * k) 64; if s.writable l then some l else none) r with
    | none => s.missOne d
    | some (s', true) => s'.msix ⟨d, 0⟩ x.fqvec.toNat
    | some (s', false) => s'

/-! ## Spare rows and blocks (R454) -/

/-- The die, ECNT unit and master of a word of memory (R391, R455; log 15). -/
def memUnit (a : Nat) : Die × Nat × BitVec 32 :=
  if a < 0x010000000000 then
    let n := a / 0x1000000000
    (stackDie a, n % 8, dieMaster mtMemory (n % 8) (stackDie a))
  else
    let n := (a - 0x010000000000) / 0x8000000000
    let d := if n < 2 then Die.west else Die.east
    (d, 8 + n % 2, dieMaster mtMemory (n % 2) d)
/-- The blocks a durable channel can remap: 16 GiB of spares (R454). -/
def durSpares : Nat := 16 * 2 ^ 30 / 4096
/-- The blocks of an address's durable channel that have been remapped (R454; log 15). -/
def State.chanSpares (s : State) (a : Nat) : Nat :=
  (s.remapped.filter fun f => (4096 * f - 0x010000000000) / 0x8000000000 == (a - 0x010000000000) / 0x8000000000).length
/-- A CLASS 11 record of a row or block, by its physical address (R454). -/
def State.rowRecord (s : State) (a cause : Nat) : State := s.toDevice { s.mkRec 11 1 cause (memUnit a).2.2 (some (a / 8 * 8)) noLid 0xFFFF [] with phys := true }
/-- A row or block with errors is copied to a spare (R454): causes 6 or 8; with none left cause 7 for HBM; cause 9 when this copy takes the last. -/
def State.spareRow (s : State) (a : Nat) : State :=
  let f := a / 4096
  if s.sparing.contains f then s
  else if isDur a then
    if durSpares ≤ s.chanSpares a then s else
    let s1 := ({ s with sparing := f :: s.sparing, remapped := s.remapped ++ [f], rowErrs := tdel s.rowErrs f }).rowRecord a 8
    if s1.chanSpares a = durSpares then s1.rowRecord a 9 else s1
  else
    let n := s.spared.length
    if !Config.spareLeft f n then s.rowRecord a 7 else
    let s1 := ({ s with sparing := f :: s.sparing, spared := f :: s.spared, rowErrs := tdel s.rowErrs f }).rowRecord a 6
    if Config.spareLeft f (n + 1) then s1 else s1.rowRecord a 9
/-- The use of poisoned words: each row that gives such an error is copied to a spare, unless it has been already (R453, R454; log 59). -/
def State.usedBad (s : State) (pas : List Nat) : State :=
  let bad := (pas.flatMap s.badAt).filter isStore
  (bad.foldl (fun (l : List Nat) a => if l.any fun b => b / 4096 == a / 4096 then l else l ++ [a]) []).foldl (fun (s : State) a =>
    if s.spared.contains (a / 4096) || s.remapped.contains (a / 4096) then s else s.spareRow a) s

/-- Writes a record to a launch's fault queue; address 0 means the device queue (R42, R395). A write that fails is dropped, with a CLASS 7 record, or one of CLASS 11 for a poisoned word (R424, R453; log 70); one that must wait for the host, a link or a copied frame waits behind those before it; a restarting controller holds the record (R457). -/
def State.toLaunch (s : State) (lid : BitVec 32) (r : FaultRec) : State :=
  match s.launch lid with
  | none => s.toDevice r
  | some l =>
    let base := l.at 80 8
    if base = 0 then s.toDevice r else
    let s0 := s.modLaunch lid fun l => { l with recorded := true }
    if !(s.die (masterDie r.master)).ctl.up then s0.holdRec (masterDie r.master) (some lid) r else
    let d := if l.queue < 32 then Die.west else .east
    let wait := s0.modDie d fun x => { x with recWait := x.recWait ++ [{ lid := some lid, rcd := r }] }
    if (s.die d).recWait.any fun h => h.lid == some lid then wait else
    let bad := fun (a n : Nat) (e : XRes) => match e with
      | .fault code lvl tag en => (s0.toDevice (s.mkRec 7 1 code (dieMaster mtCtl 0 d) (some a) lid 0xFFFF
          [(50, 1, lvl), (51, 1, tag), (52, 1, 1), (53, 3, l.pasid), (56, 8, en)])).asksMet d l.pasid
      | .wait => wait.schedMet d l.pasid 0xFFFF .write a n
      | _ => s0
    let spoilt := fun (a : Nat) (p : List Nat) => (s0.usedBad p).toDevice (s.mkRec 11 1 4 (dieMaster mtCtl 0 d) (some a) lid 0xFFFF [])
    let poison := fun (p : List Nat) => p.any fun a => s.poisoned (s.homeAddr a)
    match s.xlateNowAll d l.pasid 0xFFFF .write base 32 with
    | .error e => bad base 32 e
    | .ok hd =>
      if poison hd then spoilt base hd else
      let k := leAt (hd.map fun a => s.byte (s.homeAddr a)) 8 8 % leAt (hd.map fun a => s.byte (s.homeAddr a)) 0 8
      let va := base + 64 + 64 * k
      let at' := fun k => s.xlateNowAll d l.pasid 0xFFFF .write (base + 64 + 64 * k) 64
      match s0.ringPut hd (fun k => match at' k with | .ok p => if poison p then none else some p | .error _ => none) r with
      | some (s', _) => s'
      | none => (match at' k with | .error e => bad va 64 e | .ok p => spoilt va p)

/-- Writes the records that have waited for their queues, in order; one that must still wait stays (R118, R398). -/
def State.settleRecs (s : State) : State :=
  let one := fun (s : State) (d : Die) =>
    (s.die d).recWait.foldl (fun (s : State) h => match h.lid with | some lid => s.toLaunch lid h.rcd | none => s) (s.modDie d fun x => { x with recWait := [] })
  if s.west.recWait.isEmpty && s.east.recWait.isEmpty then s else one (one s .west) .east

/-- Both processors of a context have exited, or a trap ended it (R395). -/
def Ctx.gone (x : Ctx) : Bool := (x.ap.exited && x.ep.exited) || x.trapEnded

/-- Puts a record into the slot of a context, or hands it on with SPILL (R395). -/
def Ctx.offer (x : Ctx) (p : Proc) (r : FaultRec) : Option Ctx := if x.gone || x.afs.isSome then none else some { x with afs := some (r, p) }

/-- Token overflow, compare waits and task errors give their launch the fault status wherever the record goes (R418). -/
def State.markRecorded (s : State) (lid : BitVec 32) (r : FaultRec) : State :=
  if r.cls = 12 ∧ (r.cause = 2 ∨ r.cause = 5 ∨ r.cause = 8) then s.modLaunch lid fun l => { l with recorded := true } else s

/-- Routes the record of a context's engine or access (R395): resident, or saved with its gang. -/
def State.report (s0 : State) (c n : Nat) (lid : BitVec 32) (p : Proc) (r : FaultRec) : State :=
  let s := s0.markRecorded lid r
  let elsewhere := fun (x : Ctx) => s.toLaunch lid (if x.gone then { r with retired := true } else { r with spill := true })
  match (s.ctx c n).filter (fun x => x.lid == lid) with
  | some x => (match x.offer p r with | some x' => s.setCtx c n x' | none => elsewhere x)
  | none =>
    match s.launch lid with
    | none => s.toDevice r
    | some l =>
      match (tfind l.saved c).bind fun k => tfind k.ctxs n with
      | some x => (match x.offer p r with
        | some x' => s.modLaunch lid fun l => { l with saved := tmod l.saved Core.reset c fun k => { k with ctxs := tset k.ctxs n x' } }
        | none => elsewhere x)
      | none => s.toLaunch lid { r with retired := true }

/-- The rank and launch of a context, as a record names them. -/
def State.ctxRec (s : State) (c n : Nat) (x : Ctx) (cls sev cause ty unit : Nat) (addr : Option Nat) (det : List (Nat × Nat × Nat)) : FaultRec :=
  s.mkRec cls sev cause (coreMaster ty c n unit) addr x.lid x.rank det

/-! ## Freezing (R399, R460) -/

/-- The master is frozen and its die keeps it. -/
def State.isFrozen (s : State) (d : Die) (m : BitVec 32) : Bool := (s.die d).frozen.any fun z => z.master == m
/-- Adds a master to the frozen ones of its die, oldest first. -/
def State.addFrozen (s : State) (m : BitVec 32) : State :=
  if s.isFrozen (masterDie m) m then s else s.modDie (masterDie m) fun d => { d with frozen := d.frozen ++ [{ master := m }] }

/-- Freezes a context with a record: both processors stop, its commands in flight halt without records (R399). -/
def State.freezeWith (s : State) (c n : Nat) (p : Proc) (byCmd : Bool) (r : FaultRec) : State :=
  match s.ctx c n with
  | none => s
  | some x =>
    if x.frozen.isSome then s else
    let s1 := s.setCtx c n { x with frozen := some { rcd := r, byCmd := byCmd, proc := p } }
    let s2 := s1.modCore c fun k =>
      { k with
        live := k.live.filter fun m => !(m.slot == n && m.lid == x.lid)
        streams := k.streams.map fun (i, st) => (i, if st.owner == n && st.lid == x.lid && !st.done then { st with flt := true, done := true } else st)
        score := k.score.filter fun e => !k.pendingCmds.any fun m => m.id == e.cmd && m.slot == n && m.lid == x.lid }
    s2.addFrozen r.master
/-- Freezes a context for a breach by processor p or one of its commands: the CLASS 8 record goes to the device queue only (R395, R399, R468). -/
def State.freezeCtx (s : State) (c n : Nat) (p : Proc) (byCmd : Bool) (cause : Nat) (addr : Nat) (acc : Nat) : State :=
  match s.ctx c n with
  | none => s
  | some x =>
    if x.frozen.isSome then s else
    let r := s.ctxRec c n x 8 2 cause (mtProc p) 0 (some addr) [(52, 1, acc)]
    (s.freezeWith c n p byCmd r).toDevice r

/-! ## Markers, traps and their return -/

/-- Places the markers of `EXIT` (AP) or `EEXIT` (EP), or of `NOTIFY` and `ENOTIFY` with a token (R37, R288, R314). -/
def Ctx.mark (x : Ctx) (ap : Bool) (upto : Nat) (sig : Option (BitVec 4)) : Ctx := { x with markers := x.markers ++ [{ ap := ap, upto := upto, sig := sig }] }

/-- What `EXIT` does to the AP: no further issue, loop stack and hold set discarded, markers placed (R258). -/
def Ctx.exitAp (x : Ctx) (upto : Nat) : Ctx :=
  if x.ap.exited then x else { (x.mark true upto none) with ap := { x.ap with exited := true, loops := [] }, hold := [] }
/-- What `EEXIT` does to the EP (R314). -/
def Ctx.exitEp (x : Ctx) (upto : Nat) : Ctx :=
  if x.ep.exited then x else { (x.mark false upto none) with ep := { x.ep with exited := true, loops := [] } }

/-- Ends the block of a processor (R60). -/
def Core.endBlock (k : Core) (p : Proc) : Core :=
  match p with
  | .ap => { k with apBlk := { k.apBlk with ended := true } }
  | .ep => { k with epBlk := { k.epBlk with ended := true } }

/-- Ends the block of a processor that has slot n selected. -/
def Core.endBlockOf (k : Core) (n : Nat) (p : Proc) : Core :=
  if (match p with | .ap => k.apBlk.sel | .ep => k.epBlk.sel) == some n then k.endBlock p else k

/-- A trap ends the context: both processors stop and their markers are placed (R393). -/
def State.trapEnd (s : State) (c n : Nat) (x : Ctx) : State :=
  let x1 := (x.exitAp s.serial).exitEp s.serial
  (s.setCtx c n { x1 with trapEnded := true }).modCore c fun k => (k.endBlockOf n .ap).endBlockOf n .ep

/-- The trap vector, the handler state and the pc of a processor. -/
def Ctx.vec (x : Ctx) : Proc → Word | .ap => x.ap.tvec | .ep => x.ep.tvec
def Ctx.inHandler (x : Ctx) : Proc → Bool | .ap => x.ap.handler | .ep => x.ep.handler
def Ctx.pcOf (x : Ctx) : Proc → Word | .ap => x.ap.pc | .ep => x.ep.pc
def Ctx.exitedOf (x : Ctx) : Proc → Bool | .ap => x.ap.exited | .ep => x.ep.exited

/-- What an AP waits for once its handler is entered: a stalled `TLBI` or `FTEST` issues again after the handler (R34, R396), and a restored task's wait set is taken after it (log 71). -/
def ApWait.behind : Option ApWait → Option ApWait
  | some (.tlbi _) => none
  | some (.ftest _ _ _ _ _) => none
  | some (.take ws _) => some (.take ws true)
  | w => w
/-- The entry to the handler: the saved cause, address and value, the handler state, the pc at the vector (R392). -/
def Ctx.enter (x : Ctx) (p : Proc) (cause tpc tval : Word) : Ctx :=
  match p with
  | .ap =>
    { x with suspending := false, ap := { x.ap with tcause := cause, tpc := tpc, tval := tval, handler := true, pc := x.ap.tvec, wcUpto := none, armed := none, wait := ApWait.behind x.ap.wait } }
  | .ep => { x with ep := { x.ep with tcause := cause, tpc := tpc, tval := tval, handler := true, pc := x.ep.tvec } }

/-- TCAUSE of a synchronous trap: SUB and CAUSE (R404). -/
def causeWord (cause sub : Nat) : Word := BitVec.ofNat 64 (cause + 2 ^ 16 * sub)

/-- Takes a synchronous trap of processor p in slot n of core c: the entry of R392, or the end of the context of R393 with a CLASS 1 record to the launch queue. -/
def State.takeTrap (s : State) (c n : Nat) (p : Proc) (cause sub : Nat) (tval tpc : Word) : State :=
  match s.ctx c n with
  | none => s
  | some x =>
    if x.inHandler p || x.vec p == 0 then
      let r := s.ctxRec c n x 1 3 cause (mtProc p) 0 none []
      (s.trapEnd c n x).toLaunch x.lid { r with retired := true }
    else s.setCtx c n (x.enter p (causeWord cause sub) tpc tval)

/-- The processor that takes the async trap of a full slot: the issuer of the command, or the other one once it has exited (R396). -/
def Ctx.taker (x : Ctx) : Option Proc :=
  match x.afs with
  | none => none
  | some (_, p) =>
    if !x.exitedOf p then some p
    else match p with
      | .ap => if x.ep.exited then none else some .ep
      | .ep => if x.ap.exited then none else some .ap

/-- An async trap is due on processor p: its record has not raised one yet, and the processor is not in its handler (R396). -/
def Ctx.asyncDue (x : Ctx) (p : Proc) : Bool := x.taker == some p && !x.inHandler p && x.frozen.isNone && !x.trapEnded && !x.afsTaken

/-- Takes the async trap of R396, or ends the context when the vector is 0 (R393). -/
def State.takeAsync (s : State) (c n : Nat) (p : Proc) : State :=
  match s.ctx c n with
  | none => s
  | some x =>
    if x.vec p == 0 then
      (match x.afs with
      | some (r, _) => (s.trapEnd c n { x with afs := none }).toLaunch x.lid { r with retired := true, sev := 3 }
      | none => s)
    else s.setCtx c n { x.enter p (BitVec.ofNat 64 (2 ^ 63)) (x.pcOf p) 0 with afsTaken := true }

/-- Leaves the AP's handler state and continues at an address (R289). -/
def Ctx.leaveAp (x : Ctx) (pc : Word) : Ctx := { x with ap := { x.ap with handler := false, pc := pc } }

/-! ## Tokens and commands -/

/-- Adds 1 to token t of a context; at 255 it stays, and the source writes a CLASS 12 record (R409). -/
def State.signal (s : State) (c n : Nat) (lid : BitVec 32) (p : Proc) (master : BitVec 32) (t : BitVec 4) : State :=
  match (s.ctx c n).filter (fun x => x.lid == lid) with
  | none => s
  | some x =>
    if x.token t < 255 then s.setCtx c n { x with tok := tset x.tok t.toNat (x.token t + 1) }
    else s.report c n lid p (s.mkRec 12 1 2 master none lid x.rank [(32, 1, t.toNat)])

/-- Signals a command's token, if it names one. -/
def State.signalOpt (s : State) (c n : Nat) (lid : BitVec 32) (p : Proc) (master : BitVec 32) (t : Option (BitVec 4)) : State :=
  match t with | some t => s.signal c n lid p master t | none => s

/-- The processor that issues a kind of command (R31). -/
def cmdProc : Instr → Proc
  | .mma _ | .smma _ | .mzero _ | .mscacc _ | .oclaim _ | .orel _ | .ofill _ | .ofillMeta _ | .accld _ | .accst _ | .mpert _ | .tstart _
  | .sqcfg _ | .sqcombStage _ | .sqcombTake _ | .sqerr _ | .sqdec _ | .sqnext _ => .ep
  | _ => .ap

/-- The master of a command's engine (R391). -/
def cmdMaster (c : Nat) (m : Cmd) : BitVec 32 :=
  match m.instr with
  | .sopen f => coreMaster mtStream c m.slot f.st.toNat
  | .sclose f => coreMaster mtStream c m.slot f.st.toNat
  | .sfork f => coreMaster mtStream c m.slot f.st.toNat
  | .smark f => coreMaster mtStream c m.slot f.st.toNat
  | .srewind f => coreMaster mtStream c m.slot f.st.toNat
  | .ssave f => coreMaster mtStream c m.slot f.st.toNat
  | .srest f => coreMaster mtStream c m.slot f.st.toNat
  | .seos f => coreMaster mtStream c m.slot f.st.toNat
  | .cpy f => coreMaster mtCopy c m.slot f.ch.toNat
  | .cpyNb f _ => coreMaster mtCopy c m.slot f.ch.toNat
  | .cpdrain f => coreMaster mtCopy c m.slot f.ch.toNat
  | .rot _ => coreMaster mtStream c m.slot 0
  | .gload _ | .grun _ | .ghalt _ => coreMaster mtPrism c m.slot 0
  | .sqcfg _ | .sqcombStage _ | .sqcombTake _ | .sqerr _ | .sqdec _ | .sqnext _ => coreMaster mtProofer c m.slot 0
  | .tsig _ => coreMaster mtAP c m.slot 0
  | .etsig _ | .vnest _ => coreMaster mtEP c m.slot 0
  | _ => coreMaster mtMatrix c m.slot 0

/-- The channel of a copy. -/
def copyCh : Instr → Option (BitVec 2)
  | .cpy f => some f.ch
  | .cpyNb f _ => some f.ch
  | _ => none
/-- The durable stores of a command that signals await the take that makes them its taker's (R142 item 5); those of the copies that a `CPDRAIN` has drained count as its own (R267). -/
def State.tagDurable (s : State) (c : Nat) (m : Cmd) : State :=
  let drained := fun (d : DStore) => match m.instr with
    | .cpdrain f => d.core == c && d.slot == m.slot && d.lid == m.lid && d.ch == some f.ch && decide (d.cmd < m.id)
    | _ => false
  { s with dstores := s.dstores.map fun d =>
      if d.cmd == m.id then { d with toks := m.tk.sig.toList ++ d.toks, ch := copyCh m.instr }
      else if drained d then { d with toks := m.tk.sig.toList ++ d.toks } else d }

/-- The durable writes of the commands whose signals a take of a context covers become the taker's (R137, R142 item 5). -/
def State.durTaken (s : State) (x : Ctx) (l : List (BitVec 4)) : State :=
  { s with
    serial := s.serial + 1
    dstores := s.dstores.map fun d =>
      if d.lid == x.lid && d.uid == x.uid && d.toks.any l.contains then
        { d with pos := some s.serial, toks := [] } else d }

/-- A command completes: it leaves the started ones and signals (R35, R136). -/
def State.complete (s : State) (c : Nat) (m : Cmd) : State :=
  ((s.tagDurable c m).modCore c fun k => { k with live := k.live.filter fun x => x.id != m.id, score := k.score.filter fun e => e.cmd != m.id }).signalOpt
    c m.slot m.lid (cmdProc m.instr) (cmdMaster c m) m.tk.sig

/-- A command halts: it never signals, and its scoreboard entry is freed (R394, R428). -/
def State.drop (s : State) (c : Nat) (m : Cmd) : State :=
  s.modCore c fun k => { k with live := k.live.filter fun x => x.id != m.id, score := k.score.filter fun e => e.cmd != m.id }

/-- A command halts with a record of a class and cause (R394). -/
def State.haltCmd (s : State) (c : Nat) (m : Cmd) (cls cause : Nat) (addr : Option Nat) (det : List (Nat × Nat × Nat)) : State :=
  let rank := match s.ctx c m.slot with | some x => x.rank | none => 0xFFFF
  (s.drop c m).report c m.slot m.lid (cmdProc m.instr) (s.mkRec cls 1 cause (cmdMaster c m) addr m.lid rank det)

/-- The command has started and has neither completed nor halted. -/
def Core.isLive (k : Core) (id : Nat) : Bool := k.live.any fun m => m.id == id

/-- Sets exception flags of a context (R85). -/
def State.setFlags (s : State) (c n : Nat) (lid : BitVec 32) (f : Flags) : State :=
  s.modCtx c n fun x => if x.lid == lid then { x with fflags := x.fflags ||| f } else x

/-- Adds a pending signal's take to a context's tokens: the pending `TSIG`s, or `ETSIG`s, take in issue order while the first untaken one can (R36, R282, R318). -/
def takeTsigs : Ctx → List TsigP → Ctx × List TsigP
  | x, [] => (x, [])
  | x, t :: r =>
    if t.taken then (let q := takeTsigs x r; (q.1, t :: q.2))
    else if x.canTake t.tk.waits then
      (let q := takeTsigs (x.take t.tk.waits) r; (q.1, { t with taken := true } :: q.2))
    else (x, t :: r)

/-- The pending `TSIG`s take, before anything else of the context does (R36, R282). -/
def Ctx.settleAp (x : Ctx) : Ctx :=
  let q := takeTsigs x x.ap.tsigs
  { q.1 with ap := { x.ap with tsigs := q.2 } }
/-- The pending `TSIG`s and then the `ETSIG`s take (R36, R318). -/
def Ctx.settle (x : Ctx) : Ctx :=
  let y := x.settleAp
  let q := takeTsigs y y.ep.etsigs
  { q.1 with ep := { y.ep with etsigs := q.2 } }

/-- The signals of the `TSIG`s and `ETSIG`s that have taken and whose earlier accesses are performed; an `ETSIG`'s earlier pushes are performed when it issues (R282, R318). -/
def State.flushTsigs (s : State) (c n : Nat) : State :=
  match s.ctx c n with
  | none => s
  | some x =>
    let ready := fun (t : TsigP) => t.taken && !(x.ap.accs.any fun a => decide (a.id < t.id) && !a.performed)
    let s1 := s.setCtx c n { x with
      ap := { x.ap with tsigs := x.ap.tsigs.filter fun t => !ready t }
      ep := { x.ep with etsigs := x.ep.etsigs.filter fun t => !t.taken } }
    let s2 := (x.ap.tsigs.filter ready).foldl (fun s t => s.signalOpt c n x.lid .ap (coreMaster mtAP c n 0) t.tk.sig) s1
    (x.ep.etsigs.filter TsigP.taken).foldl (fun s t => s.signalOpt c n x.lid .ep (coreMaster mtEP c n 0) t.tk.sig) s2

/-! ## How an instruction ends -/

/-- One rotation of a rotating loop: RRB down by one, the stage predicates up by one place (R245). -/
def ApSt.rotate (x : ApSt) (first : Bool) : ApSt :=
  let p := x.p.toNat
  { x with rrb := x.rrb - 1, p := BitVec.ofNat 16 (p % 256 + 256 * b2n first + fld p 8 7 * 512) }

/-- The pass ends of R245 for the AP, at an instruction whose fall-through address is `next`: leaves pc and the stack. -/
def ApSt.passEnd (x : ApSt) (next : Word) : List LoopEntry → ApSt
  | [] => { x with loops := [], pc := next }
  | e :: r =>
    if next = e.fin then
      let d := e.done + 1
      let x1 := if e.rot then x.rotate (decide (d < e.n)) else x
      if d < e.total then { x1 with loops := { e with done := d } :: r, pc := e.start } else x1.passEnd next r
    else { x with loops := e :: r, pc := next }

/-- The pass ends of the EP: no rotation (R313). -/
def EpSt.passEnd (x : EpSt) (next : Word) : List LoopEntry → EpSt
  | [] => { x with loops := [], pc := next }
  | e :: r =>
    if next = e.fin then
      let d := e.done + 1
      if d < e.total then { x with loops := { e with done := d } :: r, pc := e.start } else x.passEnd next r
    else { x with loops := e :: r, pc := next }

/-- How an issue ends. -/
inductive Res where
  /-- It issued; the next instruction in sequence follows, and a loop pass may end. -/
  | done (s : State)
  /-- It issued and ended the block (R60). -/
  | last (s : State)
  /-- It issued and continues at an address, where no pass ends (R243, R244). -/
  | jump (s : State) (pc : Word)
  /-- It left the context, whose pc it has set itself. -/
  | left (s : State)
  /-- It stalls: no effect but what translation started; the block ends and it issues again (R34). -/
  | stall (s : State)
  /-- A synchronous trap at the instruction (R392). -/
  | trap (s : State) (cause sub : Nat) (tval : Word)

/-- Moves a processor past an instruction of `len` words, ending loop passes (R196, R245). -/
def Ctx.pass (x : Ctx) (p : Proc) (len : Nat) : Ctx :=
  match p with
  | .ap => { x with ap := x.ap.passEnd (x.ap.pc + BitVec.ofNat 64 (8 * len)) x.ap.loops }
  | .ep => { x with ep := x.ep.passEnd (x.ep.pc + BitVec.ofNat 64 (8 * len)) x.ep.loops }

/-- Sets the pc of a processor. -/
def Ctx.setPc (x : Ctx) (p : Proc) (pc : Word) : Ctx :=
  match p with
  | .ap => { x with ap := { x.ap with pc := pc } }
  | .ep => { x with ep := { x.ep with pc := pc } }

/-- The state after an issue of processor p of slot n of core c ended so. -/
def finish (c n : Nat) (p : Proc) (len : Nat) (pc : Word) : Res → State
  | .done s => s.modCtx c n fun x => x.pass p len
  | .last s => (s.modCtx c n fun x => x.pass p len).modCore c fun k => k.endBlock p
  | .jump s a => s.modCtx c n fun x => x.setPc p a
  | .left s => s
  | .stall s => s.modCore c fun k => k.endBlock p
  | .trap s cause sub tval => s.takeTrap c n p cause sub tval pc

end Sys2Proof.Machine
end

