-- ==== Sys2Proof/Machine/Operands.lean ====
section
/-! DEFINITION. Operand forms: the second sources of the AR, AC and ES forms (R201, R202, R212), addresses of the AM form (R206, R248), and how an instruction of the AP or the EP issues around its own effect: guard (R199, R200), pending registers (R234), tokens beyond the allotment (R405). -/
namespace Sys2Proof.Machine
open Sys2Proof

/-! ## Sources -/

/-- The width in bits of W (R201). -/
def wbits : Wd → Nat | .d => 64 | .w => 32 | .h => 16 | .b => 8
/-- The width in bytes of W (R248). -/
def wbytes : Wd → Nat | .d => 8 | .w => 4 | .h => 2 | .b => 1
/-- The second source of the AR form (R201). -/
def ApSt.src (x : ApSt) : Src 6 → Word | .reg r => x.s' r.toNat | .imm v => v.signExtend 64
/-- The second source of the ES form (R212). -/
def EpSt.src (x : EpSt) : Src 5 → Word | .reg r => x.e' r.toNat | .imm v => v.signExtend 64
/-- The second operand of `CMP` (R240). -/
def ApSt.csrc (x : ApSt) : CSrc 6 → Word | .reg r => x.s' r.toNat | .imm v => v.signExtend 64
/-- The second operand of `ECMP` (R311). -/
def EpSt.csrc (x : EpSt) : CSrc 5 → Word | .reg r => x.e' r.toNat | .imm v => v.signExtend 64
/-- The registers a second source names. -/
def srcRegs : Src 6 → List (BitVec 6) | .reg r => [r] | .imm _ => []
/-- The registers a compare's second operand names. -/
def csrcRegs : CSrc 6 → List (BitVec 6) | .reg r => [r] | .imm _ => []

/-- The address of the AM form (R248). -/
def ApSt.ea (x : ApSt) (a : BitVec 6) : MOff → Word
  | .imm v => x.s' a.toNat + v.signExtend 64
  | .idx b sc => x.s' a.toNat + x.s' b.toNat * BitVec.ofNat 64 (2 ^ sc.toNat)
/-- The registers an address offset names. -/
def offRegs : MOff → List (BitVec 6) | .imm _ => [] | .idx b _ => [b]

/-! ## Guards of two-operand results -/

/-- TVAL of cause 0x08 (R404): kind in bits 63 to 56, index below. -/
def allotVal (kind idx : Nat) : Word := BitVec.ofNat 64 (kind * 2 ^ 56 + idx % 2 ^ 56)
/-- The tokens word 1 names. -/
def tkToks (t : Tok) : List (BitVec 4) := t.sig.toList ++ waitToks t.waits
/-- A token the context has no allotment of (R405). -/
def State.badTok (s : State) (x : Ctx) (l : List (BitVec 4)) : Option (BitVec 4) := l.find? fun t => decide (s.tokensOf x ≤ t.toNat)

/-! ## Issue -/

/-- The issue of an AP instruction of `len` words: a guard that fails leaves no effect but the token of a D form (R200, R268); a pending register it names stalls it (R234); a token beyond the allotment traps (R405); then its own effect. -/
def apIssue (g : Guard) (len : Nat) (regs : List (BitVec 6)) (toks : List (BitVec 4)) (fsig : Option (BitVec 4))
    (body : Nat → Nat → Ctx → State → Res) (s : State) : State :=
  let c := s.cur.core
  let n := s.cur.slot
  match s.ctx c n with
  | none => s
  | some x =>
    finish c n .ap len x.ap.pc
      (if !x.ap.holds g then
        (match fsig with
        | some t => if t.toNat < s.tokensOf x then .done (s.signal c n x.lid .ap (coreMaster mtAP c n 0) t) else .done s
        | none => .done s)
      else if regs.any fun r => x.ap.pend.contains (sPhys x.ap.rrb r.toNat) then .stall s
      else
        match s.badTok x toks with
        | some t => .trap s 0x08 0 (allotVal 3 t.toNat)
        | none => body c n x s)

/-- An AP instruction of one word without tokens. -/
def apSimple (g : Guard) (regs : List (BitVec 6)) (body : Nat → Nat → Ctx → State → Res) (s : State) : State :=
  apIssue g 1 regs [] none body s

/-- An AP instruction that only changes its own AP's registers. -/
def apRegs (g : Guard) (regs : List (BitVec 6)) (f : ApSt → ApSt) (s : State) : State :=
  apSimple g regs (fun c n x s => .done (s.setCtx c n { x with ap := f x.ap })) s

/-- The issue of an EP instruction guarded by a q predicate. -/
def epIssue (g : Guard) (len : Nat) (toks : List (BitVec 4)) (fsig : Option (BitVec 4)) (body : Nat → Nat → Ctx → State → Res) (s : State) : State :=
  let c := s.cur.core
  let n := s.cur.slot
  match s.ctx c n with
  | none => s
  | some x =>
    finish c n .ep len x.ep.pc
      (if !x.ep.holds g then
        (match fsig with
        | some t => if t.toNat < s.tokensOf x then .done (s.signal c n x.lid .ep (coreMaster mtEP c n 0) t) else .done s
        | none => .done s)
      else
        match s.badTok x toks with
        | some t => .trap s 0x08 0 (allotVal 3 t.toNat)
        | none => body c n x s)

/-- An EP instruction of one word without tokens. -/
def epSimple (g : Guard) (body : Nat → Nat → Ctx → State → Res) (s : State) : State := epIssue g 1 [] none body s

/-- An EP instruction that only changes its own EP's registers. -/
def epRegs (g : Guard) (f : EpSt → EpSt) (s : State) : State :=
  epSimple g (fun c n x s => .done (s.setCtx c n { x with ep := f x.ep })) s

end Sys2Proof.Machine
end

