-- ==== Sys2Proof/Machine/Parity.lean ====
section
/-! DEFINITION. Register parity (R402, R404): the registers an instruction reads, by its guard and fields, and the trap when one of them has wrong parity. -/
namespace Sys2Proof.Machine
open Sys2Proof

/-- The kinds of registers in TVAL of cause 0x0D (R404). -/
inductive RKind where
  | s | p | e | q | m
  deriving DecidableEq, Repr
/-- Their codes. -/
def rkNat : RKind → Nat | .s => 0 | .p => 1 | .e => 2 | .q => 3 | .m => 4
/-- A register an instruction names. -/
abbrev RName := RKind × Nat

/-- s registers. -/
def rS (l : List (BitVec 6)) : List RName := l.map fun r => (.s, r.toNat)
/-- e registers. -/
def rE (l : List (BitVec 5)) : List RName := l.map fun r => (.e, r.toNat)
/-- p predicates. -/
def rP (l : List (BitVec 4)) : List RName := l.map fun r => (.p, r.toNat)
/-- q predicates. -/
def rQ (l : List (BitVec 4)) : List RName := l.map fun r => (.q, r.toNat)
/-- Masks. -/
def rM (l : List (BitVec 4)) : List RName := l.map fun r => (.m, r.toNat)
/-- The 15 predicates that hold state. -/
def rAll (k : RKind) : List RName := (natsFrom 1 15).map fun n => (k, n)
/-- A second source of the ES form. -/
def rSrcE : Src 5 → List RName | .reg r => rE [r] | .imm _ => []
/-- A compare's second operand. -/
def rCSrcE : CSrc 5 → List RName | .reg r => rE [r] | .imm _ => []
/-- The old predicates a compare's mode reads (R240). -/
def rOld (k : RKind) (f : CMode) (pt pf : BitVec 4) : List RName := match f with | .set => [] | _ => [(k, pt.toNat), (k, pf.toNat)]
/-- An EV-form operand that names an e register (R211). -/
def rOpnd (v : BitVec 11) : List RName := if 1552 ≤ v.toNat ∧ v.toNat < 1584 then [(.e, v.toNat - 1552)] else []
/-- The operands of an EV-form instruction. -/
def rEV (f : EV) : List RName := rOpnd f.va ++ rOpnd f.vb
/-- A mask in the low bits of an operand field. -/
def rMask (v : BitVec 11) : List RName := [(.m, v.toNat % 16)]
/-- The registers an issue of `VNEST` reads beside the guard of its EV-form word (R309). -/
def rVop (opc : Nat) (f : EV) : List RName :=
  match opc with
  | 0x8D => rEV f ++ [(.m, f.f.toNat % 16)]
  | 0x8F => rEV f ++ (if f.f.toNat % 4 ≠ 0 then [(.m, f.vd.toNat % 16), (.m, f.vd.toNat / 16 % 16)] else [])
  | 0x97 => (match f.f.toNat with | 0 => rEV f | 7 => rEV f | 6 => rMask f.va | 8 => rMask f.va | _ => rMask f.va ++ rMask f.vb)
  | 0x98 => rMask f.va
  | _ => rEV f
/-- The three sources of a copy. -/
def rCpy (f : CpyF) : List RName := rS [f.a, f.b, f.c]

/-- The registers an AP instruction reads when its guard holds, beside the guard. -/
def apReads : Instr → List RName
  | .add f | .sub f | .mul f | .and f | .or f | .xor f | .shl f | .shr f | .sar f => rS (f.a :: srcRegs f.b)
  | .mulh f | .div f | .rem f | .min f | .max f => rS (f.a :: srcRegs f.b)
  | .sel f | .madd f => rS [f.a, f.b, f.c]
  | .bfi f => rS [f.a, f.b, f.c]
  | .clz f | .popc f => rS [f.a]
  | .bfx f => rS (f.a :: srcRegs f.b)
  | .lih f => rS [f.d]
  | .cmp f => rS (f.a :: csrcRegs f.b) ++ rOld .p f.mode f.pt f.pf
  | .plog f => rP (match f.fn with | .not => [f.pa] | _ => [f.pa, f.pb])
  | .pmovGet _ => rAll .p
  | .pmovSet f | .tlbi f | .spawn f => rS [f.r]
  | .br f => rS [f.base]
  | .ret _ => rS [62]
  | .loop f => rS [f.cnt]
  | .waita f => rS [f.a, f.b, f.c]
  | .waitb f => rS [f.a]
  | .csrw f | .csrwSet f | .csrwClr f => rS [f.a]
  | .ld f => rS (f.a :: offRegs f.off)
  | .st f => rS (f.d :: f.a :: offRegs f.off)
  | .amo f | .amoHold f | .amoSc f _ | .amoRetry f _ _ => rS (match f.op with | .cas => [f.a, f.b, f.c] | _ => [f.a, f.b])
  | .wake f | .cmapGet f | .cmapRet f => rS [f.a]
  | .launch f => rS [f.a]
  | .suspend f => rS [f.a, f.b, f.c]
  | .sende f => rS (srcRegs f.v)
  | .ftest f | .ftestRef f | .cmapSet f => rS [f.a, f.b]
  | .sopen f => rS [f.a]
  | .ssave f => rS [f.a]
  | .srest f => rS [f.a]
  | .cpy f | .cpyNb f _ => rCpy f
  | .gload f => rS [f.a]
  | .rot f => rS [f.a, f.b]
  | _ => []

/-- The registers an EP instruction reads when its guard holds, beside the guard. -/
def epReads : Instr → List RName
  | .vadd f | .vsub f | .vmul f | .vfma f | .vmin f | .vmax f | .vabs f | .vclamp f | .vand f | .vor f | .vxor f | .vshl f | .vshr f => rEV f
  | .vmov f | .vcvt f | .vcvtef f | .vsf f | .vred f | .vperm f | .vbcast f | .vmaskNz f | .vmaskFromrow f => rEV f
  | .vcmp f => rEV f ++ (if f.f.toNat % 4 ≠ 0 then [(.m, f.vd.toNat % 16), (.m, f.vd.toNat / 16 % 16)] else [])
  | .vsel f => rEV f ++ [(.m, f.f.toNat % 16)]
  | .vmaskBool f => rMask f.va ++ rMask f.vb
  | .vmaskNot f | .vmaskTorow f | .vmcnt f | .vmcntFirst f => rMask f.va
  | .vnest f => (.m, f.vw.g.idx.toNat) :: rVop f.opc.toNat f.vw
  | .eadd f | .esub f | .emul f | .eand f | .eor f | .exor f | .eshl f => rE [f.a] ++ rSrcE f.b
  | .eshr f => rE [f.a] ++ rSrcE f.b
  | .elih f => rE [f.d]
  | .ecmp f => rE [f.a] ++ rCSrcE f.b ++ rOld .q f.mode f.pt f.pf
  | .ebr f => rE [f.base]
  | .eloop f => rE [f.cnt]
  | .eins f => rE [f.e]
  | .ecsrw f | .ecsrwSet f | .ecsrwClr f => rE [f.a]
  | .epmovGet _ => rAll .q
  | .epmovSet f => rE [f.r]
  | .epmovMget f => rM [f.n]
  | .epmovMset f => rE [f.r]
  | .esend f => rSrcE f.v
  | .sege f => rE [f.a]
  | .ofill f => rOpnd f.zp
  | .accld f | .accst f => rE [f.ea]
  | .mpert f => rE [f.ea]
  | .sqcfg f => rE [f.ea, f.eb]
  | .sqerr f => rE f.ea.toList
  | .sqdec f => rE [f.ea]
  | .sqnext f => rE [f.ea]
  | _ => []

/-- The guard of an instruction word: GP and GN as every form places them (R199). -/
def guardOf (w : Nat) : Guard := ⟨bitN w 55, BitVec.ofNat 4 (fld w 51 4)⟩
/-- The guard of an instruction. -/
def instrGuard (i : Instr) : Guard := guardOf ((encode i).getD 0 0).toNat
/-- The EV form runs under a mask (R199). -/
def maskGuarded : Instr → Bool
  | .vadd _ | .vsub _ | .vmul _ | .vfma _ | .vmin _ | .vmax _ | .vabs _ | .vclamp _ | .vand _ | .vor _ | .vxor _ | .vshl _ | .vshr _ | .vsel _ | .vmov _
  | .vcmp _ | .vcvt _ | .vcvtef _ | .vsf _ | .vred _ | .vperm _ | .vbcast _ | .viota _ | .vmaskNz _ | .vmaskBool _ | .vmaskNot _ | .vmaskFromrow _
  | .vmaskTorow _ | .vmcnt _ | .vmcntFirst _ => true
  | _ => false

/-- The register has wrong parity; s registers are named before rotation (R233). -/
def Ctx.badReg (x : Ctx) (r : RName) : Bool :=
  match r.1 with
  | .s => x.ap.bad.contains (sPhys x.ap.rrb r.2)
  | .p => x.ap.bad.contains (256 + r.2)
  | .e => x.ep.bad.contains r.2
  | .q => x.ep.bad.contains (256 + r.2)
  | .m => x.ep.bad.contains (512 + r.2)
/-- A `VNEST` at the EP's pc has begun: its guard has held (R309). -/
def EpSt.begun (x : EpSt) : Bool := (tfind x.nest x.pc.toNat).isSome
/-- The registers the next instruction of a processor reads: its guard, and its sources when the guard holds (R199, R200). -/
def Ctx.reads (x : Ctx) (p : Proc) (i : Instr) : List RName :=
  let g := instrGuard i
  match p with
  | .ap => (.p, g.idx.toNat) :: (if x.ap.holds g then apReads i else [])
  | .ep => if maskGuarded i then (.m, g.idx.toNat) :: epReads i else if x.ep.begun then epReads i else (.q, g.idx.toNat) :: (if x.ep.holds g then epReads i else [])
/-- TVAL of the parity trap that the instruction takes, if any (R404). -/
def Ctx.parity (x : Ctx) (p : Proc) (i : Instr) : Option Word :=
  if x.ap.bad.isEmpty && x.ep.bad.isEmpty then none else
  ((x.reads p i).find? x.badReg).map fun r => BitVec.ofNat 64 (256 * rkNat r.1 + r.2)

end Sys2Proof.Machine
end

