-- ==== Sys2Proof/Machine/Fetch.lean ====
section
/-! DEFINITION. Which context a processor issues from (R60, R61), and the fetch of its next instruction (R23, R196, R197, R218). -/
namespace Sys2Proof.Machine
open Sys2Proof

/-- The block of a processor. -/
def Core.blk (k : Core) : Proc → Block | .ap => k.apBlk | .ep => k.epBlk
/-- Sets the block of a processor. -/
def Core.setBlk (k : Core) (p : Proc) (b : Block) : Core := match p with | .ap => { k with apBlk := b } | .ep => { k with epBlk := b }

/-- A context whose processor may issue at all (R61): it has neither exited nor been frozen or ended, is not being suspended, and waits for no answer. -/
def Ctx.runnable (x : Ctx) (p : Proc) : Bool :=
  x.frozen.isNone && !x.trapEnded && !x.exitedOf p &&
  (match p with
  | .ap =>
    x.asyncDue p || ((match x.ap.wait with | some (.tlbi _) => false | some (.ftest _ _ _ _ _) => false | _ => true)
      && (match x.ap.armed with | some a => a.st.isSome | none => true))
  | .ep => !x.suspending)

/-- The context a processor is in the middle of a block with. -/
def State.current (s : State) (c : Nat) (p : Proc) : Option Nat :=
  let b := (s.core c).blk p
  if b.ended then none else
  match b.sel with
  | some n => (match s.ctx c n with | some x => if x.runnable p then some n else none | none => none)
  | none => none

/-- The word at an address of a processor's instruction store; all ones where no code is loaded (R197). -/
def codeWord (secs : List CodeSec) (lid : BitVec 32) (a : Nat) : Word :=
  match secs.find? fun c => c.lid == lid && decide (c.base.toNat ≤ a) && decide (a < c.base.toNat + 8 * c.words.length) with
  | some c => c.words.getD ((a - c.base.toNat) / 8) (BitVec.allOnes 64)
  | none => BitVec.allOnes 64

/-- The code sections of a processor. -/
def Core.code (k : Core) : Proc → List CodeSec | .ap => k.apCode | .ep => k.epCode

/-- The words from an address: as many as the longest instruction has. -/
def Core.fetch (k : Core) (p : Proc) (lid : BitVec 32) (pc : Word) : List Word :=
  (List.range 8).map fun i => codeWord (k.code p) lid (pc + BitVec.ofNat 64 (8 * i)).toNat

/-- The wait set a restored task has still to take before its next instruction (R257); a handler that runs first goes before it. -/
def Ctx.waitSet (x : Ctx) : Option WaitSet :=
  match x.ap.wait with
  | some (.take ws later) => if later && x.ap.handler then none else some ws
  | _ => none

/-- What the next issue of a processor is. -/
inductive Plan where
  /-- This instruction. -/
  | run (i : Instr)
  /-- This instruction if it takes a synchronous trap; else the step ends in this state, in which the async trap that is due is taken (R396, R397). -/
  | due (i : Instr) (s : State)
  /-- No instruction: the step ends in this state. -/
  | rest (s : State)

/-- The first of n words from an address of an instruction store that holds an uncorrectable error (R402, R453). -/
def State.badCode (s : State) (c : Nat) (p : Proc) (lid : BitVec 32) (pc : Word) (n : Nat) : Option Word :=
  if s.poisonLoc.isEmpty then none else ((natsFrom 0 n).map fun i => pc + BitVec.ofNat 64 (8 * i)).find? fun a => s.poisonLoc.contains (.code c p lid a)
/-- Replaces the word at an address of the sections of a launch. -/
def putCode (lid : BitVec 32) (a v : Word) (l : List CodeSec) : List CodeSec :=
  l.map fun q => if q.lid == lid && decide (q.base.toNat ≤ a.toNat) then { q with words := q.words.set ((a.toNat - q.base.toNat) / 8) v } else q
/-- The first use of such a word (R453): it is reported, and the word is a free value from then on (log 81). -/
def State.useCode (s : State) (c n : Nat) (p : Proc) (x : Ctx) (a : Word) : State :=
  let v := Config.freeWord s.fresh
  let s1 := ({ s with poisonLoc := s.poisonLoc.filter fun l => l != StoreLoc.code c p x.lid a }).drawn
  let s2 := s1.modCore c fun k => match p with | .ap => { k with apCode := putCode x.lid a v k.apCode } | .ep => { k with epCode := putCode x.lid a v k.epCode }
  s2.report c n x.lid p (s2.ctxRec c n x 11 1 4 (mtProc p) 0 (some a.toNat) [])

/-- The next issue of processor p of core c, once `s.cur` names it, nothing when its block has ended; an illegal instruction traps (R218), and so does one that reads a register of wrong parity (R402), before an async trap that is due (R396, R397); the wait set of a restored task comes before its first instruction (R257). -/
def State.plan (s : State) (c : Nat) (p : Proc) : Plan :=
  match s.current c p with
  | none => .rest s
  | some n =>
    match s.ctx c n with
    | none => .rest s
    | some x =>
      match p, x.waitSet with
      | .ap, some ws =>
        if x.asyncDue p then .rest (s.takeAsync c n p) else
        let y := x.settleAp
        if y.canTake ws then .rest ((s.setCtx c n (let z := y.take ws; { z with ap := { z.ap with wait := none } })).durTaken x (waitToks ws))
        else .rest ((s.setCtx c n y).modCore c fun k => k.endBlock .ap)
      | _, _ =>
      let ws := (s.core c).fetch p x.lid (x.pcOf p)
      match s.badCode c p x.lid (x.pcOf p) (match decodeFor p ws with | .ok i => (encode i).length | .error _ => 1) with
      | some a => .rest (s.useCode c n p x a)
      | none =>
      match decodeFor p ws with
      | .ok i =>
        (match x.parity p i with
        | some v => .rest (s.takeTrap c n p 0x0D 0 v (x.pcOf p))
        | none => if x.asyncDue p then .due i (s.takeAsync c n p) else .run i)
      | .error _ => .rest (s.takeTrap c n p 0x01 0 (ws.getD 0 0) (x.pcOf p))

/-- The wait set a processor is about to take for a context: of a restored task, `WAITT` or `EWAIT` (R36). -/
def State.procWaits (s : State) (c n : Nat) (p : Proc) : Option WaitSet :=
  if s.current c p ≠ some n then none else
  match p, (s.ctx c n).bind Ctx.waitSet with
  | .ap, some ws => some ws
  | _, _ => (match s.plan c p with | .run (.waitt f) => some f.waits | .run (.ewait f) => some f.waits | _ => none)
/-- Two wait sets cannot both be taken now. -/
def Ctx.clash (x : Ctx) (a b : WaitSet) : Bool :=
  x.canTake b && (waitToks a).any fun t => decide (x.token t < countTok t (waitToks a) + countTok t (waitToks b))
/-- The EP of a context can take a wait set: its AP, which takes first, does not stand ready to take the same tokens (R36). -/
def State.epTakes (s : State) (c n : Nat) (x : Ctx) (ws : WaitSet) : Bool :=
  x.canTake ws && ((waitToks ws).isEmpty || match s.procWaits c n .ap with | some a => !x.clash ws a | none => true)

/-- Names the processor that issues. -/
def State.aim (s : State) (c : Nat) (p : Proc) : State := { s with cur := ⟨c, (s.current c p).getD 0, p⟩ }

/-- Device time runs on for some ns; while it slews, it gains or loses one ns in each 10,000 (R11). -/
def State.runTime (s : State) (ns : Nat) : State :=
  let acc := s.slewAcc + ns
  let lag := Nat.min s.slewDebt (acc / 10000)
  let gain := Nat.min s.slewGain (acc / 10000)
  { s with
    time := s.time + BitVec.ofNat 64 (ns - lag + gain), slewDebt := s.slewDebt - lag, slewGain := s.slewGain - gain
    slewAcc := if s.slewDebt = lag ∧ s.slewGain = gain then 0 else acc % 10000 }

/-- Time passes before a move, at least one cycle, and the bytes outside the module change (log 1). -/
def State.advance (s : State) (t : Turn) : State :=
  ({ s.runTime t.ns with cycles := s.cycles + Nat.max 1 t.cycles }).putCells
    (t.far.filter fun p => match regionOf p.1 with | .host => true | .peer _ _ => true | _ => false)

end Sys2Proof.Machine
end

