-- ==== Sys2Proof/Machine/Auto.lean ====
section
/-! DEFINITION. The machine's own next move when none is on the agenda (log 1, 2): the issues and the events that may be next, and a fair deterministic choice among them. Only events that the module itself makes stand here; a move that is not enabled leaves the state as it is. -/
namespace Sys2Proof.Machine
open Sys2Proof

/-! ## Candidates -/

/-- The issues of a core's processors that have a runnable context, the end of a block's slice, and the selection of the next context (R60). -/
def Core.issueMoves (k : Core) (c : Nat) : List Act :=
  [Proc.ap, Proc.ep].flatMap fun p => if k.ctxs.any fun q => q.2.runnable p then [Act.issue c p, .event (.blockSliceExpiry c p), .event (.contextSelect c p)] else []

/-- The queue of a key of `Core.qs`. -/
def qidOf : Nat → Qid
  | 0 => .stream
  | 5 => .matrix
  | 6 => .prism
  | 7 => .proofer
  | n => .ch (n - 1)

/-- What an access in flight may do next (R234, R250, R251, R432). -/
def Access.moves (a : Access) (c n : Nat) : List Instr :=
  match a.kind with
  | .ld => [.loadResponse c n a.id, .requestNoAnswer c n a.id]
  | .st => [.storePerformed c n a.id, .requestNoAnswer c n a.id]
  | .amo => [.amoHomePerform c n a.id, .amoResponse c n a.id, .amoAttemptTimeout c n a.id]

/-- What a context may do next besides issuing. -/
def Ctx.moves (x : Ctx) (c n : Nat) : List Instr :=
  let waits := match x.ap.wait with
    | some (.tlbi _) => [Instr.tlbiComplete c n]
    | some (.barrier _ _) => [Instr.barrierAnswer c n]
    | some (.launch _ _) => [Instr.launchAnswer c n]
    | some (.ftest _ _ _ _ _) => [Instr.ftestComplete c n]
    | _ => []
  waits ++ (if x.ap.tsigs.isEmpty then [] else [.tsigTake c n]) ++ (if x.ep.etsigs.isEmpty then [] else [.etsigTake c n])
    ++ (if x.markers.isEmpty && !(x.ap.exited && x.ep.exited) then [] else [.notifyMarkerReached c n])
    ++ (match x.ap.armed with | some a => [.waitaTimeout c n, .requestNoAnswer c n a.id] | none => []) ++ x.ap.accs.flatMap fun a => a.moves c n

/-- What the engines of a core may do next. -/
def Core.engineMoves (k : Core) (c : Nat) : List Instr :=
  (k.qs.filter fun q => !q.2.isEmpty).map (fun q => Instr.queueHeadStart c (qidOf q.1))
    ++ k.streams.flatMap (fun q => [Instr.streamRowFetch c ⟨q.1, []⟩, .streamRowWrite c ⟨q.1, []⟩, .intercoreRowArrive c q.1, .hostCreditReturn c q.1])
    ++ k.streams.flatMap (fun q => ((q.2.asked.map Prod.fst).toList ++ (q.2.out.map RowOut.id).toList).map fun i => Instr.requestNoAnswer c 0 i)
    ++ k.cmdAsk.map (fun q => Instr.requestNoAnswer c 0 q.2.1)
    ++ (if k.staged.isEmpty && k.running.isEmpty && k.redo.isNone then [] else [.matrixRecordStart c .fill, .matrixRecordStart c .array, .matrixRecordStart c .row, .matrixRecordStart c .control])
    ++ (if k.running.isEmpty then [] else [.matrixSingleIssue c, .ofillRowPop c])
    ++ (if k.results.isEmpty then [] else [.matrixResultWrite c])
    ++ (if k.staged.isEmpty && k.running.isEmpty then [] else [.segmentWatchdog c])
    ++ (if k.grid.running.isNone then [] else (List.range 16).flatMap (fun e => [Instr.gridFiring c e, .splitJoinResume c e]) ++ [.endOfInput c])
    ++ k.grid.outRow.map (fun q => Instr.fabricPortRowWrite c q.1)
    ++ (if k.prf.run.isSome then [.prooferRow c] else [])

/-- What a core may do next. -/
def Core.moves (k : Core) (c : Nat) : List Act :=
  k.issueMoves c ++ ((k.engineMoves c ++ k.ctxs.flatMap (fun (n, x) => Ctx.moves x c n) ++ [Instr.taskPickup c]).map Act.event)

/-- What the scheduler may do for a launch. -/
def Launch.moves (l : Launch) : List Instr :=
  match l.phase with
  | .queued => [.placeLaunch, .preemptGang, .agingIntervalExpiry l.queue]
  | .preempted => [.resumeGang l.lid, .preemptGang, .agingIntervalExpiry l.queue]
  | .ended => [.launchEnd l.lid]
  | .placed =>
    [.launchEnd l.lid, .superstepAdvance ⟨l.lid, true, true⟩, .holdLimitExpiry l.lid]
      ++ (List.range (l.sched.length / 32)).map (fun e => Instr.scheduleEntrySend l.lid e)
      ++ l.xfers.map (fun x => Instr.scheduleTransferLand l.lid x.entry [])
      ++ (if l.rots.isEmpty then [] else [.rotationStart l.lid])
      ++ l.rotating.map (fun r => Instr.rotationComplete l.lid r.rank)
      ++ l.cmpWait.map (fun w => Instr.duplexCompareTimeout w.core w.slot)

/-- The parts of a die that may train in its step of bring-up (R14, R15). -/
def Boot.parts (b : Boot) : List Part :=
  match b.step with
  | 2 => [.bridge]
  | 3 => (List.range 8).map Part.hbm
  | 4 => [.pcie]
  | 5 => (List.range 6).map Part.span
  | _ => []

/-- What a die may do next. Its firmware slots verify, and its parts train (log 9). -/
def DieSt.moves (x : DieSt) (d : Die) : List Instr :=
  (if x.boot.step = 0 then [.bringUp d true true] else x.boot.parts.map fun p => .trainingStepDone d p)
    ++ (if x.ctl.up then [] else [.controllerRestartDone d]) ++ (if x.ftagBusy.isSome then [.ftagActionDone d] else [])
    ++ (if x.copies.isEmpty then [] else [.copyChunkDispatch d]) ++ x.copies.flatMap (fun r => r.flight.map fun h => Instr.copyChunkDone d ⟨h.id, []⟩)
    ++ x.copies.flatMap (fun r => ((r.asked.map Prod.fst).toList ++ r.flight.map Chunk.id).map fun i => Instr.requestNoAnswer r.core 0 i)
    ++ x.walks.map (fun w => Instr.pageWalkComplete d w.id) ++ x.asks.map fun k => Instr.requestNoAnswer 0 0 k.id

/-- What the memories and homes may do next. -/
def State.homeMoves (s : State) : List Instr :=
  s.sparing.map Instr.rowSpareCopyDone ++ (List.range s.replay.length).map Instr.replayCacheExpiry
    ++ (List.range s.merges.length).map (fun i => Instr.reductionMergeTimeout i []) ++ s.dstores.map (fun d => Instr.persistenceDomainReached d.id)
    ++ s.heldAmos.map fun h => Instr.amoHomePerform h.core h.slot h.acc.id

/-- Every move that may be next. -/
def State.autoMoves (s : State) : List Act :=
  if !s.powered then [] else
  (s.cores.flatMap fun q => q.2.moves q.1) ++ ((s.launches.flatMap Launch.moves ++ s.west.moves .west ++ s.east.moves .east ++ s.homeMoves).map Act.event)

/-- The move chosen when the agenda is empty: the candidates take turns. -/
def State.autoTurn (s : State) : Option Turn :=
  let l := s.autoMoves
  (l[s.rr % l.length]?).map fun a => { cycles := 1, ns := 1, far := [], act := a }

end Sys2Proof.Machine
end

