-- ==== Sys2Proof/Machine/ApInt.lean ====
section
/-! DEFINITION. The AP's integer instructions (R235 to R239) and predicates (R240 to R242). -/
namespace Sys2Proof.Machine
open Sys2Proof

/-- The outcome type of a meaning. -/
abbrev Out := Host.Outcome State Fault Refusal

/-! ## Functions on w-bit operands (R236) -/

/-- The low w bits. -/
def lowW (w : Nat) (v : Word) : Nat := v.toNat % 2 ^ w
/-- A w-bit operand as an integer: unsigned with `.U`. -/
def opInt (u : Bool) (w a : Nat) : Int := if u then (a % 2 ^ w : Nat) else sval a w

/-- `ADD`. -/
def iAdd (_ a b : Nat) : Nat := a + b
/-- `SUB`. -/
def iSub (w a b : Nat) : Nat := a + 2 ^ w - b % 2 ^ w
/-- `MUL`. -/
def iMul (_ a b : Nat) : Nat := a * b
/-- `MULH`. -/
def iMulh (u : Bool) (w a b : Nat) : Nat := wrapN (opInt u w a * opInt u w b / 2 ^ w) w
/-- `DIV`: toward zero; all ones for a zero divisor. -/
def iDiv (u : Bool) (w a b : Nat) : Nat := if b % 2 ^ w = 0 then 2 ^ w - 1 else wrapN ((opInt u w a).tdiv (opInt u w b)) w
/-- `REM`: the sign of a; a for a zero divisor. -/
def iRem (u : Bool) (w a b : Nat) : Nat := if b % 2 ^ w = 0 then a else wrapN ((opInt u w a).tmod (opInt u w b)) w
/-- `AND`. -/
def iAnd (_ a b : Nat) : Nat := a &&& b
/-- `OR`. -/
def iOr (_ a b : Nat) : Nat := a ||| b
/-- `XOR`. -/
def iXor (_ a b : Nat) : Nat := a ^^^ b
/-- `SHL`. -/
def iShl (w a b : Nat) : Nat := a * 2 ^ (b % w)
/-- `SHR`. -/
def iShr (w a b : Nat) : Nat := a % 2 ^ w / 2 ^ (b % w)
/-- `SAR`. -/
def iSar (w a b : Nat) : Nat := wrapN (sval a w / 2 ^ (b % w)) w
/-- `MIN`. -/
def iMin (u : Bool) (w a b : Nat) : Nat := if opInt u w b < opInt u w a then b else a
/-- `MAX`. -/
def iMax (u : Bool) (w a b : Nat) : Nat := if opInt u w a < opInt u w b then b else a
/-- The number of significant bits of a w-bit value. -/
def sigBits : Nat → Nat → Nat
  | 0, _ => 0
  | w + 1, a => if bitN a w then w + 1 else sigBits w a
/-- `CLZ`. -/
def iClz (w a : Nat) : Nat := w - sigBits w a
/-- `POPC`. -/
def iPopc : Nat → Nat → Nat
  | 0, _ => 0
  | w + 1, a => iPopc w a + b2n (bitN a w)

/-- The field bits of pos and len (R238): a mask. -/
def fldMask (pos len : Nat) : Nat := ((2 ^ len - 1) * 2 ^ pos) % 2 ^ 64
/-- POS of R238. -/
def bfPos (b : Word) : Nat := fld b.toNat 0 6
/-- LEN of R238. -/
def bfLen (b : Word) : Nat := Nat.min (fld b.toNat 8 7) 64
/-- `BFX`. -/
def iBfx (sgn : Bool) (a b : Word) : Word :=
  let v := fld a.toNat (bfPos b) (bfLen b)
  if sgn then signExt v (bfLen b) else zeroExt v (bfLen b)
/-- `BFI`. -/
def iBfi (a b c : Word) : Word :=
  let m := BitVec.ofNat 64 (fldMask (bfPos b) (bfLen b))
  (a &&& ~~~m) ||| (BitVec.ofNat 64 (c.toNat * 2 ^ bfPos b) &&& m)

/-! ## Shapes -/

/-- Two sources, one w-bit result, sign-extended (R235). -/
def alu2 (op : Nat → Nat → Nat → Nat) (f : Alu) (s : State) : State :=
  apRegs f.g ([f.d, f.a] ++ srcRegs f.b) (fun x =>
    x.setS f.d.toNat (signExt (op (wbits f.w) (lowW (wbits f.w) (x.s' f.a.toNat)) (lowW (wbits f.w) (x.src f.b))) (wbits f.w))) s
/-- The same with X bit 0. -/
def alu2x (op : Bool → Nat → Nat → Nat → Nat) (f : AluX) (s : State) : State := alu2 (op f.x) ⟨f.g, f.w, f.d, f.a, f.b⟩ s
/-- One source. -/
def alu1 (op : Nat → Nat → Nat) (f : Alu1) (s : State) : State :=
  apRegs f.g [f.d, f.a] (fun x => x.setS f.d.toNat (signExt (op (wbits f.w) (lowW (wbits f.w) (x.s' f.a.toNat))) (wbits f.w))) s

/-! ## Meanings -/

/-- `NOP` (R200): nothing, on either processor. -/
def execNop (s : State) : Out :=
  .next (match s.cur.proc with
    | .ap => apSimple ⟨false, 0⟩ [] (fun _ _ _ s => .done s) s
    | .ep => epSimple ⟨false, 0⟩ (fun _ _ _ s => .done s) s)
/-- `ADD` (R236). -/
def execAdd (f : Alu) (s : State) : Out := .next (alu2 iAdd f s)
/-- `SUB` (R236). -/
def execSub (f : Alu) (s : State) : Out := .next (alu2 iSub f s)
/-- `MUL` (R236). -/
def execMul (f : Alu) (s : State) : Out := .next (alu2 iMul f s)
/-- `MULH` (R236). -/
def execMulh (f : AluX) (s : State) : Out := .next (alu2x iMulh f s)
/-- `DIV` (R236). -/
def execDiv (f : AluX) (s : State) : Out := .next (alu2x iDiv f s)
/-- `REM` (R236). -/
def execRem (f : AluX) (s : State) : Out := .next (alu2x iRem f s)
/-- `AND` (R236). -/
def execAnd (f : Alu) (s : State) : Out := .next (alu2 iAnd f s)
/-- `OR` (R236). -/
def execOr (f : Alu) (s : State) : Out := .next (alu2 iOr f s)
/-- `XOR` (R236). -/
def execXor (f : Alu) (s : State) : Out := .next (alu2 iXor f s)
/-- `SHL` (R236). -/
def execShl (f : Alu) (s : State) : Out := .next (alu2 iShl f s)
/-- `SHR` (R236). -/
def execShr (f : Alu) (s : State) : Out := .next (alu2 iShr f s)
/-- `SAR` (R236). -/
def execSar (f : Alu) (s : State) : Out := .next (alu2 iSar f s)
/-- `MIN` (R236). -/
def execMin (f : AluX) (s : State) : Out := .next (alu2x iMin f s)
/-- `MAX` (R236). -/
def execMax (f : AluX) (s : State) : Out := .next (alu2x iMax f s)
/-- `SEL` (R236): the test is on the full 64 bits of S[C]. -/
def execSel (f : Alu3) (s : State) : Out :=
  .next (apRegs f.g [f.d, f.a, f.b, f.c] (fun x =>
    x.setS f.d.toNat (signExt (if x.s' f.c.toNat != 0 then (x.s' f.a.toNat).toNat else (x.s' f.b.toNat).toNat) (wbits f.w))) s)
/-- `CLZ` (R236). -/
def execClz (f : Alu1) (s : State) : Out := .next (alu1 iClz f s)
/-- `POPC` (R236). -/
def execPopc (f : Alu1) (s : State) : Out := .next (alu1 iPopc f s)
/-- `BFX` (R238). -/
def execBfx (f : BfxF) (s : State) : Out :=
  .next (apRegs f.g ([f.d, f.a] ++ srcRegs f.b) (fun x => x.setS f.d.toNat (iBfx f.sgn (x.s' f.a.toNat) (x.src f.b))) s)
/-- `BFI` (R238). -/
def execBfi (f : BfiF) (s : State) : Out :=
  .next (apRegs f.g [f.d, f.a, f.b, f.c] (fun x => x.setS f.d.toNat (iBfi (x.s' f.a.toNat) (x.s' f.b.toNat) (x.s' f.c.toNat))) s)
/-- `LI` (R239). -/
def execLi (f : LiF) (s : State) : Out := .next (apRegs f.g [f.d] (fun x => x.setS f.d.toNat (f.imm.signExtend 64)) s)
/-- `LIH` (R239). -/
def execLih (f : LiF) (s : State) : Out :=
  .next (apRegs f.g [f.d] (fun x => x.setS f.d.toNat (BitVec.ofNat 64 (f.imm.toNat * 2 ^ 32 + (x.s' f.d.toNat).toNat % 2 ^ 32))) s)
/-- `MADD` (R236). -/
def execMadd (f : Alu3) (s : State) : Out :=
  .next (apRegs f.g [f.d, f.a, f.b, f.c] (fun x =>
    x.setS f.d.toNat (signExt ((x.s' f.a.toNat).toNat * (x.s' f.b.toNat).toNat + (x.s' f.c.toNat).toNat) (wbits f.w))) s)
/-- `ADDPC` (R239). -/
def execAddpc (f : LiF) (s : State) : Out := .next (apRegs f.g [f.d] (fun x => x.setS f.d.toNat (x.pc + f.imm.signExtend 64)) s)

/-! ## Predicates -/

/-- The condition of a compare (R240). -/
def ccHolds (cc : CC) (w32 : Bool) (a b : Word) : Bool :=
  let a := if w32 then signExt a.toNat 32 else a
  let b := if w32 then signExt b.toNat 32 else b
  match cc with
  | .eq => a == b
  | .ne => a != b
  | .lt => a.slt b
  | .ge => !a.slt b
  | .ltn => a.ult b
  | .gen => !a.ult b
  | .tz => (a &&& b) == 0
  | .tnz => (a &&& b) != 0

/-- T and F of R240, from the old values of PT and PF. -/
def cmpPair (m : CMode) (cond pt pf : Bool) : Bool × Bool :=
  match m with
  | .set => (cond, !cond)
  | .and => (pt && cond, pf && !cond)
  | .or => (pt || cond, pf || !cond)

/-- `CMP` (R240). -/
def execCmp (f : CmpF 6) (s : State) : Out :=
  .next (apRegs f.g (f.a :: csrcRegs f.b) (fun x =>
    let r := cmpPair f.mode (ccHolds f.cc f.w32 (x.s' f.a.toNat) (x.csrc f.b)) (x.pr f.pt.toNat) (x.pr f.pf.toNat)
    (x.setP f.pf.toNat r.2).setP f.pt.toNat r.1) s)

/-- The functions of `PLOG` (R241). -/
def plogFn (fn : PFn) (a b : Bool) : Bool :=
  match fn with | .and => a && b | .or => a || b | .xor => a != b | .andn => a && !b | .orn => a || !b | .not => !a

/-- `PLOG` (R241). -/
def execPlog (f : PlogF) (s : State) : Out :=
  .next (apRegs f.g [] (fun x => x.setP f.pt.toNat (plogFn f.fn (x.pr f.pa.toNat) (x.pr f.pb.toNat))) s)
/-- `PMOV.GET` (R242). -/
def execPmovGet (f : R1) (s : State) : Out := .next (apRegs f.g [f.r] (fun x => x.setS f.r.toNat (x.preds.setWidth 64)) s)
/-- `PMOV.SET` (R242). -/
def execPmovSet (f : R1) (s : State) : Out := .next (apRegs f.g [f.r] (fun x => { x with p := (x.s' f.r.toNat).setWidth 16 &&& 0xFFFE, bad := x.bad.filter (· < 256) }) s)

end Sys2Proof.Machine
end

