-- ==== Sys2Proof/Machine/ApCtl.lean ====
section
/-! DEFINITION. The AP's control instructions: branches (R243), loops (R244 to R247), waits on tokens, barriers, producers and commands (R254, R61), yielding and exit (R258), traps and their return (R289), the value queues (R259), and notification (R288). -/
namespace Sys2Proof.Machine
open Sys2Proof

/-! ## Branches -/

/-- A taken branch: misaligned targets trap with no link written (R243, R404). -/
def apBranch (link : Nat) (target : Word) (c n : Nat) (x : Ctx) (s : State) : Res :=
  if target.toNat % 8 ≠ 0 then .trap s 0x02 0 target
  else .jump (s.setCtx c n { x with ap := x.ap.setS link (x.ap.pc + 8) }) target

/-- `BR` (R243). -/
def execBr (f : BrF 6) (s : State) : Out :=
  .next (apSimple f.g [f.link, f.base] (fun c n x s =>
    let base := if f.base = 0 then x.ap.pc else x.ap.s' f.base.toNat
    apBranch f.link.toNat (base + f.off.signExtend 64) c n x s) s)
/-- `CALL` (R225): `BR` with link s62. -/
def execCall (f : CallF) (s : State) : Out :=
  .next (apSimple f.g [62] (fun c n x s => apBranch 62 (x.ap.pc + f.off.signExtend 64) c n x s) s)
/-- `RET` (R225): `BR` through s62. -/
def execRet (f : G0) (s : State) : Out := .next (apSimple f.g [62] (fun c n x s => apBranch 0 (x.ap.s' 62) c n x s) s)

/-! ## Loops -/

/-- The entry `LOOP` pushes (R244). -/
def loopEntry (pc : Word) (len : BitVec 16) (cnt : Nat) (stg : BitVec 8) (rot epi : Bool) : LoopEntry :=
  { start := pc + 8, fin := pc + 8 + BitVec.ofNat 64 (8 * len.toNat), n := cnt, total := cnt + (if epi then stg.toNat - 1 else 0), done := 0,
    stg := stg, rot := rot, epi := epi }

/-- `LOOP` (R244). -/
def execLoop (f : LoopF) (s : State) : Out :=
  .next (apSimple f.g [f.cnt] (fun c n x s =>
    let cnt := (x.ap.s' f.cnt.toNat).toNat
    let e := loopEntry x.ap.pc f.len cnt f.stg f.rot f.epi
    if cnt = 0 then .jump s e.fin
    else if x.ap.loops.length = 4 then .trap s 0x0B 0 x.ap.pc
    else
      let a := { x.ap with loops := e :: x.ap.loops, p := if f.rot then x.ap.p &&& 0xFF ||| 0x100 else x.ap.p }
      .jump (s.setCtx c n { x with ap := a }) e.start) s)

/-- `LEXIT` (R246): after the pop, the pass ends of R245 apply to the new top at the popped entry's end. -/
def execLexit (f : G0) (s : State) : Out :=
  .next (apSimple f.g [] (fun c n x s =>
    match x.ap.loops with
    | [] => .trap s 0x0C 0 0
    | e :: r => .left (s.setCtx c n { x with ap := x.ap.passEnd e.fin r })) s)
/-- `LEXIT.POP` (R246): continues at the next instruction. -/
def execLexitPop (f : G0) (s : State) : Out :=
  .next (apSimple f.g [] (fun c n x s =>
    match x.ap.loops with
    | [] => .trap s 0x0C 0 0
    | _ :: r => .left (s.setCtx c n { x with ap := x.ap.passEnd (x.ap.pc + 8) r })) s)

/-! ## Waits -/

/-- `WAITT` (R254, R35). -/
def execWaitt (f : WaitTF) (s : State) : Out :=
  .next (apIssue f.g 1 [] (waitToks f.waits) none (fun c n x s =>
    let y := x.settleAp
    if y.canTake f.waits then .done ((s.setCtx c n (y.take f.waits)).durTaken x (waitToks f.waits)) else .stall (s.setCtx c n y)) s)

/-- The key of a barrier: each member of a duplex launch is a gang with barriers of its own (R74). -/
def barKey (member : Bool) (b : Nat) : Nat := b + 16 * b2n member
/-- The generation and arrivals of a barrier (R68). -/
def Launch.bar (l : Launch) (member : Bool) (b : Nat) : Nat × Nat := tget l.bars (0, 0) (barKey member b)
/-- The generation has passed g (R68). -/
def genPassed (gen g : Nat) : Bool := let d := (gen + 2 ^ 32 - g % 2 ^ 32) % 2 ^ 32; decide (1 ≤ d ∧ d ≤ 2 ^ 31 - 1)

/-- The durable stores released by a barrier's arrivals: of its phase, and of the phases before (R129). -/
def Launch.barIds (l : Launch) (member : Bool) (b : Nat) : List Nat × List Nat := tget l.barRel ([], []) (barKey member b)

/-- `WAITB` (R254, R68): it completes as an acquire of the arrivals of the phases that are over (R129). -/
def execWaitb (f : WaitBF) (s : State) : Out :=
  .next (apSimple f.g [f.a] (fun c n x s =>
    match s.launchOf x with
    | some l =>
      if genPassed (l.bar x.member f.bar.toNat).1 ((x.ap.s' f.a.toNat).toNat % 2 ^ 32) then
        .done (s.setCtx c n (s.acquireAll c n x .gang (l.barIds x.member f.bar.toNat).2))
      else .stall s
    | none => .stall s) s)

/-- A producer is triggered or has completed (R53, R62). -/
def State.trigDone (s : State) (lid : BitVec 32) : Bool :=
  match s.launch lid with | some l => l.triggered | none => true

/-- The durable stores a producer has released: by its `TRIG`s, or all of it once it has ended (R129). -/
def State.trigIds (s : State) (lid : BitVec 32) : List Nat :=
  match s.launch lid with
  | some l => l.trigRel
  | none => (s.dstores.filter fun d => d.lid == lid).map DStore.id

/-- `WAITL` (R254, R62): it completes as an acquire (R129). -/
def execWaitl (f : G0) (s : State) : Out :=
  .next (apSimple f.g [] (fun c n x s =>
    match s.launchOf x with
    | some l => if l.producers.all s.trigDone then .done (s.setCtx c n (s.acquireAll c n x .dev (l.producers.flatMap s.trigIds))) else .stall s
    | none => .done s) s)

/-- A command of the context before a number that has neither completed nor halted, `TSIG` and `ETSIG` among them (R37, R61, R394). -/
def State.busyBefore (s : State) (c n : Nat) (x : Ctx) (upto : Nat) : Bool :=
  ((s.core c).pendingCmds.any fun m => m.slot == n && m.lid == x.lid && decide (m.id < upto))
    || (x.ap.tsigs ++ x.ep.etsigs).any fun t => decide (t.id < upto)

/-- `WAITC` (R254, R61). -/
def execWaitc (f : G0) (s : State) : Out :=
  .next (apSimple f.g [] (fun c n x s =>
    let upto := x.ap.wcUpto.getD s.serial
    if s.busyBefore c n x upto then .stall (s.setCtx c n { x with ap := { x.ap with wcUpto := some upto } })
    else .done (s.setCtx c n { x with ap := { x.ap with wcUpto := none } })) s)

/-- `SSBAR` (R254, R73): it completes once the superstep it was issued for is over. -/
def execSsbar (f : G0) (s : State) : Out :=
  .next (apSimple f.g [] (fun c n x s =>
    match s.launchOf x with
    | none => .trap s 0x10 0 0
    | some l =>
      if !l.flag 6 then .trap s 0x10 0 0 else
      match x.ap.ssIn with
      | some k =>
        if l.ss = k then .stall s else .done (s.setCtx c n { x with ap := { x.ap with ssIn := none } })
      | none => .stall (s.setCtx c n { x with ap := { x.ap with ssIn := some l.ss } })) s)

/-! ## Yield, exit, trap -/

/-- `YIELD` (R258). -/
def execYield (f : G0) (s : State) : Out := .next (apSimple f.g [] (fun _ _ _ s => .last s) s)

/-- `EXIT` (R258, R37): the pc stays at the `EXIT`. -/
def execExit (f : G0) (s : State) : Out :=
  .next (apSimple f.g [] (fun c n x s => .left ((s.setCtx c n (x.exitAp s.serial)).modCore c fun k => k.endBlock .ap)) s)

/-- `TRAP` (R289). -/
def execTrap (f : TrapF) (s : State) : Out := .next (apSimple f.g [] (fun _ _ _ s => .trap s 0x04 0 (f.imm.setWidth 64)) s)

/-- Word 0 of an instruction, as the illegal-instruction trap reports it. -/
def word0 (i : Instr) : Word := (encode i).getD 0 0

/-- `RFT` (R289): illegal outside the handler state. -/
def execRft (f : G0) (s : State) : Out :=
  .next (apSimple f.g [] (fun c n x s =>
    if x.ap.handler then .left (s.setCtx c n (x.leaveAp x.ap.tpc)) else .trap s 0x01 0 (word0 (.rft f))) s)

/-- `RFT.NEXT` (R289): past the instruction at TPC. -/
def execRftNext (f : G0) (s : State) : Out :=
  .next (apSimple f.g [] (fun c n x s =>
    if x.ap.handler then
      let w := codeWord (s.core c).apCode x.lid x.ap.tpc.toNat
      let y := x.leaveAp (x.ap.tpc + BitVec.ofNat 64 (8 * lenWords (opcOf w.toNat)))
      .left (s.setCtx c n { y with ap := { y.ap with ssIn := none } })
    else .trap s 0x01 0 (word0 (.rftNext f))) s)

/-! ## Value queues and notification -/

/-- `SENDE` (R259, R33). -/
def execSende (f : SendF 6) (s : State) : Out :=
  .next (apSimple f.g (srcRegs f.v) (fun c n x s =>
    if 64 ≤ x.toEp.length then .stall s else .done (s.setCtx c n { x with toEp := x.toEp ++ [x.ap.src f.v] })) s)

/-- `RECVE` (R259, R33). -/
def execRecve (f : R1) (s : State) : Out :=
  .next (apSimple f.g [f.r] (fun c n x s =>
    match x.toAp with
    | [] => .stall s
    | v :: r => .done (s.setCtx c n { x with toAp := r, ap := x.ap.setS f.r.toNat v })) s)

/-- `NOTIFY` (R288). -/
def execNotify (f : NotF) (s : State) : Out :=
  .next (apIssue f.g 1 [] [f.tok] none (fun c n x s => .done (s.setCtx c n (x.mark true s.serial (some f.tok)))) s)

end Sys2Proof.Machine
end

