-- ==== Sys2Proof/Machine/Convert.lean ====
section
/-! DEFINITION. The fifteen element types (R77 to R96): values of codes, conversions, comparisons and the two-operand arithmetic of the vector unit. A code is a number below 2^w. -/
namespace Sys2Proof

/-- T[i] of R88. -/
def l6T : Nat → Nat | 0 => 32768 | 1 => 38968 | 2 => 46341 | _ => 55109

/-- The L6 magnitude of log field L in units of 2^-19, which divides every one (R88). -/
def l6Mag (l : Nat) : Nat := if l = 0 then 0 else l6T (l % 4) * 2 ^ (l / 4)

/-- The value of an L6 code (R88): zero codes are +0. -/
def l6Num (c : Nat) : Num := if c % 32 = 0 then .fin false 0 0 else .fin (bitN c 5) (l6Mag (c % 32)) (-19)

/-- Whether type t is a float: F32, F16, BF16, E4M3, E5M2. -/
def tyFloat (t : Nat) : Bool := t < 5

/-- The exact value of code c of type t; z is the zero point of an OB type (R77 to R94). -/
def numOf (t c z : Nat) : Num :=
  if tyFloat t then (fmtF t).num c
  else if t = 5 then l6Num c
  else if tyOB t then Num.ofInt ((c : Int) - z) 0 false
  else if tyI t then Num.ofInt (sval c (tyWidth t)) 0 false
  else if tyN t then .fin false c 0
  else if c = 255 then .nan else .fin false 1 ((c : Int) - 127)

/-- The least value of an integer type. -/
def tyMin (t : Nat) : Int := if tyI t then -(2 ^ (tyWidth t - 1) : Nat) else 0
/-- The largest value of an integer type. -/
def tyMax (t : Nat) : Int := if tyI t then (2 ^ (tyWidth t - 1) : Nat) - 1 else (2 ^ tyWidth t : Nat) - 1

/-- An exact integer result of an integer type: clamped with SV, or wrapped (R83, R95). -/
def intRes (t : Nat) (sat : Bool) (v : Int) : Nat × Flags :=
  let w := tyWidth t
  if sat && decide (v < tyMin t) then (wrapN (tyMin t) w, fSV)
  else if sat && decide (tyMax t < v) then (wrapN (tyMax t) w, fSV)
  else (wrapN v w, 0)

/-- The signed or unsigned value of an integer code. -/
def intVal (t c : Nat) : Int := if tyI t then sval c (tyWidth t) else (c : Int)

/-- The distance of two numbers. -/
def dist (a b : Nat) : Nat := if a ≤ b then b - a else a - b

/-- Of log fields 0 to n, the one nearest to x units of 2^-k x 2^-19; on a tie the even one (R89). -/
def l6Near (x k : Nat) : Nat → Nat
  | 0 => 0
  | n + 1 =>
    let b := l6Near x k n
    let db := dist (l6Mag b * 2 ^ k) x
    let dn := dist (l6Mag (n + 1) * 2 ^ k) x
    if dn < db || (dn == db && (n + 1) % 2 == 0) then n + 1 else b

/-- A conversion to L6 (R89); a NaN source sets NV alone, an infinite one OF and NX (log 13). -/
def toL6 : Num → Nat × Flags
  | .nan => (0, fNV)
  | .inf neg => (31 + (if neg then 32 else 0), fOF ||| fNX)
  | .fin neg m e =>
    if m = 0 then (0, 0) else
    let s := if neg then 32 else 0
    -- x units of 2^-(19 + k)
    let k := (-19 - e).toNat
    let x := m * 2 ^ (e + 19).toNat
    if l6Mag 31 * 2 ^ k < x then (31 + s, fOF ||| fNX) else
    let l := l6Near x k 31
    let nx := fIf (l6Mag l * 2 ^ k != x) fNX
    if l = 0 then (0, fUF ||| nx) else (l + s, nx)

/-- A conversion to E8 (R94); NX when the value of the code differs from |x| (R85; log 13). -/
def toE8 : Num → Nat × Flags
  | .nan => (255, fNV)
  | .inf _ => (255, fNV)
  | .fin _ m e =>
    if m = 0 then (0, 0) else
    let k : Int := e + (bitLen m : Int) - 1 + 127
    let c := if k < 0 then 0 else if 254 < k then 254 else k.toNat
    (c, fIf (decide (k < 0 ∨ 254 < k)) fSV ||| fIf (m != 2 ^ (bitLen m - 1) || decide ((c : Int) ≠ k)) fNX)

/-- A conversion to OB with zero point z (R93). -/
def toOB (t rm z : Nat) : Num → Nat × Flags
  | .nan => (z, fNV)
  | .inf neg => (if neg then 0 else 2 ^ tyWidth t - 1, fSV)
  | .fin neg m e =>
    let (v, nx) := roundInt rm neg m e
    let x := v + z
    let f := fIf nx fNX
    if x < 0 then (0, f ||| fSV) else if (2 ^ tyWidth t : Nat) ≤ x then (2 ^ tyWidth t - 1, f ||| fSV) else (x.toNat, f)

/-- A conversion of a float to an integer type (R96): always clamped. -/
def floatToInt (t rm : Nat) : Num → Nat × Flags
  | .nan => (0, fNV)
  | .inf neg => (wrapN (if neg then tyMin t else tyMax t) (tyWidth t), fSV)
  | .fin neg m e =>
    let (v, nx) := roundInt rm neg m e
    let (c, f) := intRes t true v
    (c, f ||| fIf nx fNX)

/-- A conversion of an exact value from type t to type tt (R87 to R96): zt is the target's zero point; the clamps and flags that those rules leave open are log 13's. -/
def convertNum (t tt rm : Nat) (sat : Bool) (zt : Nat) (x : Num) : Nat × Flags :=
  if tyFloat tt then (fmtF tt).round rm sat x
  else if tt = 5 then toL6 x
  else if tyOB tt then toOB tt rm zt x
  else if tt = 14 then toE8 x
  else if tyI t || tyN t || tyOB t then
    (match x with
    | .fin neg m e => intRes tt sat (Num.at neg m e 0)
    | _ => (0, fNV))
  else floatToInt tt rm x

/-- `Convert` of R305: code c of type t with zero point zs. -/
def convertCode (t tt rm : Nat) (sat : Bool) (zs zt c : Nat) : Nat × Flags := convertNum t tt rm sat zt (numOf t c zs)

/-- `Neg` of R95 on a code of an arithmetic type. -/
def negCode (t c : Nat) : Nat :=
  let w := tyWidth t
  if tyF t then (if bitN c (w - 1) then c - 2 ^ (w - 1) else c + 2 ^ (w - 1)) else (2 ^ w - c) % 2 ^ w

/-- A sum of two codes (R82, R83, R95). -/
def addCode (t rm : Nat) (sat : Bool) (a b : Nat) : Nat × Flags :=
  if tyF t then
    let (v, f) := Num.add (rm == 3) (numOf t a 0) (numOf t b 0)
    let (c, g) := (fmtF t).round rm sat v
    (c, f ||| g)
  else intRes t sat (intVal t a + intVal t b)

/-- A difference of two codes: a + (-b) for F types, exact for integers. -/
def subCode (t rm : Nat) (sat : Bool) (a b : Nat) : Nat × Flags :=
  if tyF t then addCode t rm sat a (negCode t b) else intRes t sat (intVal t a - intVal t b)

/-- a x b + c exactly, rounded once; `VMUL` is `mulCode`. -/
def fmaCode (t rm : Nat) (sat : Bool) (a b c : Nat) : Nat × Flags :=
  if tyF t then
    let (v, f) := Num.fma (rm == 3) (numOf t a 0) (numOf t b 0) (numOf t c 0)
    let (r, g) := (fmtF t).round rm sat v
    (r, f ||| g)
  else intRes t sat (intVal t a * intVal t b + intVal t c)

/-- A product of two codes. -/
def mulCode (t rm : Nat) (sat : Bool) (a b : Nat) : Nat × Flags :=
  if tyF t then
    let (v, f) := Num.mul (numOf t a 0) (numOf t b 0)
    let (r, g) := (fmtF t).round rm sat v
    (r, f ||| g)
  else intRes t sat (intVal t a * intVal t b)

/-- The smaller of two codes (R81, R298); the canonical NaN when either is a NaN. -/
def minCode (t a b : Nat) : Nat :=
  if tyF t then
    let x := numOf t a 0
    let y := numOf t b 0
    if x.isNan || y.isNan then (fmtF t).nanc else if y.below x then b else a
  else if intVal t b < intVal t a then b else a

/-- The larger of two codes (R81, R298). -/
def maxCode (t a b : Nat) : Nat :=
  if tyF t then
    let x := numOf t a 0
    let y := numOf t b 0
    if x.isNan || y.isNan then (fmtF t).nanc else if x.below y then b else a
  else if intVal t a < intVal t b then b else a

/-- The condition cc of R81 on two codes, and NV for an ordered comparison of a NaN. -/
def condCode (cc t a b : Nat) : Bool × Flags :=
  let x := numOf t a 0
  let y := numOf t b 0
  let un := x.isNan || y.isNan
  let nv := fIf (un && decide (2 ≤ cc ∧ cc ≤ 5)) fNV
  (match cc with
    | 0 => x.eq y
    | 1 => !x.eq y
    | 2 => x.lt y
    | 3 => !un && !y.lt x
    | 4 => y.lt x
    | 5 => !un && !x.lt y
    | 6 => un
    | _ => !un, nv)

/-- `VABS` (R298). -/
def absCode (t : Nat) (sat : Bool) (a : Nat) : Nat × Flags :=
  if tyF t then (if (numOf t a 0).isNan then ((fmtF t).nanc, 0) else (a % 2 ^ (tyWidth t - 1), 0))
  else if tyI t then intRes t sat (intVal t a).natAbs
  else (a, 0)

/-- The op of a reduction: SUM, MIN, MAX, AND, OR, XOR (R308). -/
def redOp (op t rm : Nat) (sat : Bool) (a b : Nat) : Nat × Flags :=
  match op with
  | 0 => addCode t rm sat a b
  | 1 => (minCode t a b, 0)
  | 2 => (maxCode t a b, 0)
  | 3 => (a &&& b, 0)
  | 4 => (a ||| b, 0)
  | _ => (a ^^^ b, 0)

/-- The identity of a reduction (R103). -/
def redIdent (op t : Nat) : Nat :=
  match op with
  | 1 => if tyF t then (fmtF t).infc false else wrapN (tyMax t) (tyWidth t)
  | 2 => if tyF t then (fmtF t).infc true else wrapN (tyMin t) (tyWidth t)
  | 3 => 2 ^ tyWidth t - 1
  | _ => 0

/-- One level of the pairwise tree of R103: absent members pass the other up. -/
def redLevel (f : Nat → Nat → Nat × Flags) : List (Option Nat) → List (Option Nat) × Flags
  | some a :: some b :: r => let (c, g) := f a b; let (t, h) := redLevel f r; (some c :: t, g ||| h)
  | some a :: none :: r => let (t, h) := redLevel f r; (some a :: t, h)
  | none :: b :: r => let (t, h) := redLevel f r; (b :: t, h)
  | [x] => ([x], 0)
  | [] => ([], 0)

/-- The tree of R103, n levels. -/
def redTree (f : Nat → Nat → Nat × Flags) : Nat → List (Option Nat) → List (Option Nat) × Flags
  | 0, l => (l, 0)
  | n + 1, l => let (l1, g) := redLevel f l; let (l2, h) := redTree f n l1; (l2, g ||| h)

/-- The reduction of lanes, with the identity when every lane is absent. -/
def reduce (op t rm : Nat) (sat : Bool) (lanes : List (Option Nat)) : Nat × Flags :=
  match redTree (redOp op t rm sat) 8 lanes with
  | (some v :: _, f) => (v, f)
  | (_, f) => (redIdent op t, f)

end Sys2Proof
end

