-- ==== Sys2Proof/Machine/RegMap.lean ====
section
/-! DEFINITION. The MMIO registers of both dies (R13, R16, R49, R50, R57, R59, R106, R108, R113, R187, R193, R458 to R466): where each lies, what it reads, and which functions may reach it. -/
namespace Sys2Proof.Machine
open Sys2Proof

/-! ## Queue registers (R49, R50) -/

/-- LQCFG of queue q. -/
def State.lq (s : State) (q : Nat) : Nat := (tget s.lqcfg 0 q).toNat
/-- LQCFG EN, PRIV, IEN. -/
def lqEn (v : Nat) : Bool := bitN v 63
def lqPriv (v : Nat) : Bool := bitN v 62
def lqIen (v : Nat) : Bool := bitN v 61
/-- MAXPRI, at most 9 without PRIV. -/
def lqMaxPri (v : Nat) : Nat := if lqPriv v then fld v 57 4 else Nat.min (fld v 57 4) 9
/-- FUNC. -/
def lqFunc (v : Nat) : Nat := fld v 53 4
/-- The function FUNC and LNK name. -/
def lqOwner (v : Nat) : Func := ⟨if bitN v 52 then .east else .west, lqFunc v⟩
/-- The function owns the queue; none does while FUNC is 9 to 15. -/
def lqOwned (v : Nat) (fn : Func) : Bool := decide (lqFunc v < 9) && lqOwner v == fn
/-- A write of the function is a protection violation (R48). -/
def lqForeign (v : Nat) (fn : Func) : Bool := decide (lqFunc v < 9) && lqOwner v != fn
/-- VEC and PASID. -/
def lqVec (v : Nat) : Nat := fld v 20 11
def lqPasid (v : Nat) : Nat := fld v 0 20

/-- The die a queue belongs to. -/
def queueDie (q : Nat) : Die := if q < 32 then .west else .east
/-- The submissions of a queue that wait (R50). DESIGN CHOICE: a pre-empted launch back at the head of its queue is no waiting submission, so it counts neither here nor toward the 256 of R48 (log 78). -/
def State.depth (s : State) (q : Nat) : Nat := (s.launches.filter fun l => l.queue == q && l.phase == .queued).length
/-- The depth of a launch queue (R48). -/
def lqDepth : Nat := 256

/-! ## The map of logical cores (R292, R462) -/

/-- A change of the map of logical cores (R292, R462), as the field-test history holds it: pending, retirement, logical core, site. -/
def mapChange (pending retire : Bool) (core site : Nat) : Nat := pack [(1, b2n pending), (1, b2n retire), (9, core), (9, site)]
/-- The fields of a change. -/
def mcPending (v : Nat) : Bool := bitN v 19
def mcRetire (v : Nat) : Bool := bitN v 18
def mcCore (v : Nat) : Nat := fld v 9 9
def mcSite (v : Nat) : Nat := fld v 0 9
/-- V and the site of a logical core; 0 while no map is loaded. -/
def State.site (s : State) (c : Nat) : Nat := (tget s.cmap 0 c).toNat
/-- V of a logical core (R462). -/
def State.coreOk (s : State) (c : Nat) : Bool := bitN (s.site c) 15
/-- P of a logical core: a change is pending (R292). -/
def State.mapPending (s : State) (c : Nat) : Bool := (s.die (dieOf c)).history.any fun v => mcPending v && mcCore v == c
/-- A launch, placed, pre-empted or ending, holds the core (R466). -/
def State.coreHeld (s : State) (c : Nat) : Bool := s.launches.any fun l => l.phase != .queued && l.allCores.contains c

/-! ## The registers -/

/-- A register of the MMIO windows. -/
inductive Reg where
  | dstat (d : Die) | port (q : Nat) | lqcfg (q : Nat) | lqstat (q : Nat)
  | ageint | holdlim | savebase | savesize | astbase
  | fndom (fn : Func) | part (fn : Func) (word : Nat)
  | icfg (n : Nat) | idrop (n : Nat) | rwa (w : Nat) | rwb (w : Nat)
  | fqbase (d : Die) | fqcfg (d : Die) | frzstat (d : Die) | frzrel (d : Die) | sresume (d : Die) | ftag (d : Die) | ftagst (d : Die)
  | ecnt (d : Die) (u : Nat) | cmape (d : Die) (k : Nat) | spare (d : Die) (n : Nat) | mapcmd (d : Die) | mapst (d : Die) | fttgt (d : Die)
  | fwctl (d : Die) | fwlen (d : Die) | fwstat (d : Die) | lnkctl (d : Die) (k : Nat) | brstat (d : Die) (n : Nat)
  deriving DecidableEq, Repr

/-- The index of offset o in an array of n registers from base, a stride apart. -/
def arr (o base stride n : Nat) : Option Nat := if base ≤ o ∧ o < base + stride * n ∧ (o - base) % stride = 0 then some ((o - base) / stride) else none

/-- The register at an offset, a multiple of 8, of a die's window; a launch port spans 64 bytes. -/
def regAt (d : Die) (o : Nat) : Option Reg :=
  let q := 32 * dieNat d
  let fn := fun n => (⟨d, n⟩ : Func)
  match o with
  | 0x100 => some (.dstat d)
  | 0x3000 => some .ageint
  | 0x3008 => some .holdlim
  | 0x3010 => some .savebase
  | 0x3018 => some .savesize
  | 0x4000 => some .astbase
  | 0x8000 => some (.fqbase d)
  | 0x8008 => some (.fqcfg d)
  | 0x8010 => some (.frzstat d)
  | 0x8018 => some (.frzrel d)
  | 0x8020 => some (.sresume d)
  | 0x8028 => some (.ftag d)
  | 0x8030 => some (.ftagst d)
  | 0x8740 => some (.mapcmd d)
  | 0x8748 => some (.mapst d)
  | 0x8750 => some (.fttgt d)
  | 0x8800 => some (.fwctl d)
  | 0x8808 => some (.fwlen d)
  | 0x8810 => some (.fwstat d)
  | _ =>
    (if 0x1000 ≤ o ∧ o < 0x1800 then some (.port (q + (o - 0x1000) / 64)) else none)
      <|> ((arr o 0x2000 16 32).map fun n => .lqcfg (q + n)) <|> ((arr o 0x2008 16 32).map fun n => .lqstat (q + n))
      <|> ((arr o 0x5000 8 9).map fun n => .fndom (fn n))
      <|> (if 0x5100 ≤ o ∧ o < 0x5100 + 0x40 * 9 ∧ (o - 0x5100) % 0x40 < 0x28 then some (.part (fn ((o - 0x5100) / 0x40)) ((o - 0x5100) % 0x40 / 8)) else none)
      <|> (if d = .west then (arr o 0x6000 16 64).map .icfg else none) <|> (if d = .west then (arr o 0x6008 16 64).map .idrop else none)
      <|> (if d = .west then (arr o 0x7000 16 16).map .rwa else none) <|> (if d = .west then (arr o 0x7008 16 16).map .rwb else none)
      <|> ((arr o 0x8100 8 21).map (.ecnt d)) <|> ((arr o 0x8200 8 160).map (.cmape d)) <|> ((arr o 0x8700 8 8).map (.spare d))
      <|> (if d = .west ∨ o < 0x8930 then ((arr o 0x8900 8 12).filter fun k => k < 6 || 8 ≤ k).map (.lnkctl d) else none)
      <|> ((arr o 0x8A00 8 14).map (.brstat d))

/-- The register a physical address lies in. -/
def regOf (pa : Nat) : Option Reg := match regionOf pa with | .mmio d o => regAt d (o / 8 * 8) | _ => none

/-! ## What they read -/

/-- DSTAT (R16). -/
def Boot.word (b : Boot) : Nat :=
  pack [(1, b2n b.ready), (1, b2n b.degr), (2, 0), (4, b.ingest.toNat), (6, b.span.toNat), (1, b2n b.pcie), (8, b.hbm.toNat), (1, b2n b.bridge), (1, b2n b.map),
    (1, b2n b.fwslot), (1, b2n b.fwok), (5, b.step)]
/-- The row of the site a logical core is bound to (R292). -/
def State.siteRow (s : State) (c : Nat) : Nat := s.site c % 16
/-- The channel of the mirror bridge on which packets of a core cross: its row's, or the detour's (R8, R9, R450). -/
def State.channelOf (s : State) (c : Nat) : Nat := s.brVia (s.siteRow c)
/-- The width code of a span link or ingest port (R464). -/
def State.lnkCode (s : State) (d : Die) (k : Nat) : Nat :=
  if k < 6 then (if (s.die d).boot.span.getLsbD k then tget (s.die d).lnkWidth 3 k else 0) else if s.west.boot.ingest.getLsbD (k - 8) then 3 else 0

/-- The value a register reads as. -/
def State.regRead (s : State) : Reg → Nat
  | .dstat d => (s.die d).boot.word
  | .port _ => 0
  | .lqcfg q => s.lq q
  | .lqstat q => pack [(26, tget s.lqseq 0 q), (9, s.depth q), (12, 0), (1, 0), (16, tget s.lqdrop 0 q)]
  | .ageint => s.ageint.toNat
  | .holdlim => s.holdlim.toNat
  | .savebase => s.savebase.toNat
  | .savesize => s.savesize.toNat
  | .astbase => s.astbase.toNat
  | .fndom fn => (s.fndomOf fn).toNat
  | .part fn w => (tget s.part (partReset (8 * fnIdx fn + w)) (8 * fnIdx fn + w)).toNat
  | .icfg n => (tget s.icfg 0 n).toNat
  | .idrop n => (tget s.idrop 0 n).toNat
  | .rwa w => (tget s.rwa 0 w).toNat
  | .rwb w => (tget s.rwb 0 w).toNat
  | .fqbase d => (s.die d).fqbase.toNat
  | .fqcfg d => (s.die d).miss * 2 ^ 32 + (s.die d).fqvec.toNat
  | .frzstat d => let l := (s.die d).frozen; (match l with | z :: _ => z.master.toNat * 2 ^ 32 | [] => 0) + Nat.min l.length 0xFFFF
  | .frzrel _ | .sresume _ | .ftag _ | .mapcmd _ | .fwctl _ => 0
  | .ftagst d => b2n (s.die d).ftagBusy.isSome * 2 ^ 63 + (s.die d).ftagRes.toNat
  | .ecnt d u => (tget (s.die d).ecnt 0 u).toNat
  | .cmape d k => let c := 160 * dieNat d + k; s.site c + 2 ^ 14 * b2n (s.mapPending c)
  | .spare d n => pack [(1, b2n ((s.die d).spareFree.getLsbD n)), (1, b2n ((s.die d).spareBad.getLsbD n)), (9, (Config.spareSite (8 * dieNat d + n)).toNat)]
  | .mapst d => (s.die d).mapst.toNat
  | .fttgt d =>
    let x := s.die d
    2 ^ 63 * b2n x.fttgtEn + 2 ^ 62 * b2n (x.fttgtEn && !s.coreHeld x.fttgtCore) + x.fttgtCore
  | .fwlen d => (s.die d).fwlen.toNat
  | .fwstat d =>
    let x := s.die d
    pack [(32, (tget x.fwVer (Config.fwVersion (2 * dieNat d + b2n x.boot.fwslot)) (b2n x.boot.fwslot)).toNat), (16, 0), (4, x.boots), (1, b2n x.aVal), (1, b2n x.bVal),
      (1, b2n x.fwBusy.isSome), (1, b2n x.boot.fwslot), (8, x.fwLast.toNat)]
  | .lnkctl d k => pack [(16, tget (s.die d).lnkRetry 0 k), (6, 0), (2, s.lnkCode d k), (40, 0)]
  | .brstat _ n => pack [(5, s.brVia n), (3, 0), (1, b2n (!s.brDead.contains n)), (4, tget s.brSpares 2 n)]

/-! ## Access by a function (R13, R106) -/

/-- The function may read the register. -/
def State.regReadable (s : State) (fn : Func) : Reg → Bool
  | .lqcfg q => fn.num == 0 || lqOwned (s.lq q) fn
  | .lqstat q => fn.num == 0 || lqOwned (s.lq q) fn
  | _ => fn.num == 0
/-- The function may write the register. -/
def State.regWritable (s : State) (fn : Func) : Reg → Bool
  | .port q => !lqForeign (s.lq q) fn
  | _ => fn.num == 0

/-- The cause of R468 that an MMIO access breaks, if any; an offset that no register has is one no rule permits. -/
def State.mmioBreach (s : State) (fn : Func) (write : Bool) (pas : List Nat) : Option Nat :=
  pas.findSome? fun a =>
    match regOf a with
    | none => some 2
    | some r =>
      if write then (if s.regWritable fn r then none else match r with | .port _ => some 3 | _ => some 2)
      else if s.regReadable fn r then none else some 2

/-- The first address of a translated access to MMIO that breaks a rule, with its cause: pairs of the physical and the virtual address of each byte. -/
def State.mmioCause (s : State) (fn : Func) (write : Bool) (l : List (Nat × Nat)) : Option (Nat × Nat) :=
  l.findSome? fun p => if isMmio p.1 then (s.mmioBreach fn write [p.1]).map fun v => (v, p.2) else none

/-- An access to a register of a die whose controller restarts waits: every read (R457), and during a SWAP every write but a submission too (R465). -/
def State.mmioWaits (s : State) (read : Bool) (pas : List Nat) : Bool :=
  pas.any fun a => match regionOf a with
    | .mmio d _ => !(s.die d).ctl.up && (read || ((s.die d).ctl.swap && match regOf a with | some (.port _) => false | _ => true))
    | _ => false
/-- The bytes an MMIO read returns. -/
def State.mmioRead (s : State) (pas : List Nat) : List Byte :=
  pas.map fun a => match regOf a with | some r => BitVec.ofNat 8 (s.regRead r / 2 ^ (8 * (a % 8))) | none => 0

end Sys2Proof.Machine
end

