-- ==== Sys2Proof/Machine/Lens.lean ====
section
/-! DEFINITION. Compressed objects (R184 to R186), the lens aperture (R121) and reads of memory by physical address with their faults (R424, R426, R453). -/
namespace Sys2Proof.Machine
open Sys2Proof

/-! ## Compressed objects -/

/-- The header's fixed fields are right (R184): MAGIC, VER, zero fields. -/
def objHeadOk (h : List Byte) : Bool :=
  leAt h 0 4 == 0xB2C00B1E && leAt h 4 2 == 1 && leAt h 6 2 == 0 && leAt h 36 28 == 0
/-- ELEN, NROWS, DATAOFF, CLEN, CRC of a header. -/
def objElen (h : List Byte) : Nat := leAt h 8 8
def objNrows (h : List Byte) : Nat := leAt h 16 4
def objData (h : List Byte) : Nat := leAt h 24 4
def objClen (h : List Byte) : Nat := leAt h 28 4
def objCrc (h : List Byte) : Nat := leAt h 32 4

/-- The stored length of a row that opens with these bytes; none for an invalid tag (R185). -/
def rowLenOf (l : List Byte) : Option Nat :=
  match leAt l 0 1 with
  | 0 => some 257
  | 1 => some 1
  | 2 => some 9
  | 3 => some 69
  | 4 => some 133
  | 5 => some (33 + (((natsFrom 0 256).filter fun b => bitN (leAt l 1 32) b).length))
  | _ => none

/-- The bytes of a bitmap row from bit b on, n of them: each set bit takes the next stored byte. -/
def bitmapRow (bits b : Nat) : Nat → List Byte → List Byte
  | 0, _ => []
  | n + 1, rest =>
    if bitN bits b then (match rest with | x :: r => x :: bitmapRow bits (b + 1) n r | [] => 0 :: bitmapRow bits (b + 1) n [])
    else 0 :: bitmapRow bits (b + 1) n rest

/-- The 256 bytes a stored row expands to (R185). -/
def expandRow (l : List Byte) : List Byte :=
  match leAt l 0 1 with
  | 0 => sliceB l 1 256
  | 1 => List.replicate 256 0
  | 2 => (List.replicate 32 (sliceB l 1 8)).flatten
  | 3 => ((natsFrom 0 64).map fun i => leBytes 4 (wrapN (leAt l 1 4 + sval (leAt l (5 + i) 1) 8) 32)).flatten
  | 4 => ((natsFrom 0 64).map fun i => leBytes 4 (wrapN (leAt l 1 4 + sval (leAt l (5 + 2 * i) 2) 16) 32)).flatten
  | _ => bitmapRow (leAt l 1 32) 0 256 (l.drop 33)

/-- Row n of the object whose head lies at physical address h: its 256 expanded bytes, or none when the row is invalid. -/
def State.objRow (s : State) (h n : Nat) : Option (List Byte) :=
  let hd := s.bytes h 64
  let idx := fun i => s.num (h + 64 + 2 * i) 2
  let start := objData hd + ((natsFrom 0 n).map idx).sum
  let l := s.bytes (h + start) 289
  match rowLenOf l with
  | some len => if idx n = len ∧ start + len ≤ objClen hd then some (expandRow l) else none
  | none => none

/-- Expanded byte `off` of an object: code 13 for a bad header or an invalid row. -/
def State.objByte (s : State) (h off : Nat) : Except Nat Byte :=
  let hd := s.bytes h 64
  if !objHeadOk hd then .error 13
  else if objElen hd ≤ off ∨ objNrows hd ≤ off / 256 then .ok 0
  else match s.objRow h (off / 256) with
    | some r => .ok (r.getD (off % 256) 0)
    | none => .error 13

/-- The CRC of an object is right (R426). -/
def State.objCrcOk (s : State) (h : Nat) : Bool :=
  let hd := s.bytes h 64
  objHeadOk hd && crc32c (s.bytes (h + 64) (objClen hd - 64)) == objCrc hd

/-- The expanded byte that a frame's object holds at an address of HBM or the durable tier: plain where the frame is tagged 0 (R121). -/
def State.lensByte (s : State) (a : Nat) : Except Nat Byte :=
  if s.tag (a / 4096) = 0 then .ok (s.byte a)
  else match s.headFrame (s.tags.length + 1) (a / 4096) with
    | some f => s.objByte (4096 * f) (a - 4096 * f)
    | none => .error 13

/-- The byte a plain read returns at a physical address (R105, R106, R119, R121). -/
def State.readByte (s : State) (pa : Nat) : Except Nat Byte :=
  let a := s.homeAddr pa
  match regionOf a with
  | .lens => s.lensByte (a - 0x040000000000)
  | .mmio _ _ => .ok ((s.mmioRead [a]).headD 0)
  | _ => .ok (s.byte a)

/-- The bytes at physical addresses. -/
def State.readBytes (s : State) (l : List Nat) : Except Nat (List Byte) := l.mapM s.readByte

/-- The read of some byte uses a poisoned word (R453). -/
def State.anyPoison (s : State) (l : List Nat) : Bool := l.any fun a => !(s.badAt a).isEmpty

/-! ## Compression (R186) -/

/-- The 32-bit words of a row. -/
def rowWords (l : List Byte) : List Nat := (natsFrom 0 64).map fun i => leAt l (4 * i) 4
/-- The differences from word 0, as signed 32-bit numbers. -/
def rowDeltas (l : List Byte) : List Int := (rowWords l).map fun (w : Nat) => sval (wrapN ((w : Int) - (leAt l 0 4 : Nat)) 32) 32
/-- Every difference fits n bits, signed. -/
def deltasFit (l : List Byte) (n : Nat) : Bool := (rowDeltas l).all fun d => decide (-(2 ^ (n - 1) : Nat) ≤ d) && decide (d < (2 ^ (n - 1) : Nat))
/-- The stored rows each tag would give, tag 0 first. -/
def rowForms (l : List Byte) : List (List Byte) :=
  let z := l.all fun b => b == 0
  let pat := (List.replicate 32 (sliceB l 0 8)).flatten == l
  let nz := (natsFrom 0 256).filter fun i => l.getD i 0 != 0
  [0 :: l]
    ++ (if z then [[1]] else [])
    ++ (if pat then [2 :: sliceB l 0 8] else [])
    ++ (if deltasFit l 8 then [3 :: (sliceB l 0 4 ++ (rowDeltas l).map fun d => BitVec.ofInt 8 d)] else [])
    ++ (if deltasFit l 16 then [4 :: (sliceB l 0 4 ++ ((rowDeltas l).map fun d => leBytes 2 (wrapN d 16)).flatten)] else [])
    ++ [5 :: (leBytes 32 ((nz.map fun i => 2 ^ i).sum) ++ nz.map fun i => l.getD i 0)]
/-- The shortest, the lowest tag on a tie (R186). -/
def packRow (l : List Byte) : List Byte :=
  (rowForms l).foldl (fun b x => if x.length < b.length then x else b) (0 :: l)

/-- The compressed object of a byte string (R184). -/
def compressObj (src : List Byte) : List Byte :=
  let n := ceilDiv src.length 256
  let rows := (natsFrom 0 n).map fun i => packRow (sliceB src (256 * i) 256)
  let dataOff := 64 + ceilDiv (2 * n) 64 * 64
  let idx := (rows.map fun r => leBytes 2 r.length).flatten
  let body := idx ++ List.replicate (dataOff - 64 - idx.length) 0 ++ rows.flatten
  let clen := 64 + body.length
  leBytes 4 0xB2C00B1E ++ leBytes 4 1 ++ leBytes 8 src.length ++ leBytes 4 n ++ leBytes 4 64 ++ leBytes 4 dataOff ++ leBytes 4 clen
    ++ leBytes 4 (crc32c body) ++ leBytes 28 0 ++ body

end Sys2Proof.Machine
end

