-- ==== Sys2Proof/Machine/Buffer.lean ====
section
/-! DEFINITION. Stream descriptors and tensor maps (R147 to R160), the ring of buffer rows with its markers (R161 to R165, R170), images (R172, R173), and the ports bound to streams (R271, R295, R410). -/
namespace Sys2Proof.Machine
open Sys2Proof

/-! ## Descriptors (R147 to R152) -/

/-- FLAGS. -/
def dFlags (d : BitVec 512) : Nat := bytesAt d 43 1
/-- DIR: outbound. -/
def dOut (d : BitVec 512) : Bool := bitN (dFlags d) 0
/-- KIND. -/
def dKind (d : BitVec 512) : Nat := fld (dFlags d) 1 3
/-- POL. -/
def dPol (d : BitVec 512) : Nat := fld (dFlags d) 4 2
/-- OPERS of an outbound stream. -/
def dOpers (d : BitVec 512) : Bool := dOut d && bitN (dFlags d) 4
/-- UNIT: strides in bits. -/
def dUnit (d : BitVec 512) : Bool := bitN (dFlags d) 6
/-- TMODE. -/
def dTmode (d : BitVec 512) : Bool := bitN (dFlags d) 7
/-- BASE. -/
def dBase (d : BitVec 512) : Nat := bytesAt d 0 8
/-- O0 to O3 of tensor-map mode. -/
def dOrg (d : BitVec 512) (i : Nat) : Int := sval (bytesAt d (2 * i) 2) 16
/-- N0 to N3. -/
def dN (d : BitVec 512) (i : Nat) : Nat := bytesAt d (8 + 4 * i) 4
/-- D0 to D3. -/
def dD (d : BitVec 512) (i : Nat) : Int := sval (bytesAt d (24 + 4 * i) 4) 32
/-- ROWLEN. -/
def dRowlen (d : BitVec 512) : Nat := bytesAt d 40 2
/-- FMT as a type code. -/
def dFmt (d : BitVec 512) : Nat := bytesAt d 42 1 % 16
/-- Element width. -/
def dW (d : BitVec 512) : Nat := tyWidth (dFmt d)
/-- TMAP. -/
def dTmap (d : BitVec 512) : Nat := bytesAt d 44 4
/-- BANK, FIRST and DEPTH (R149). -/
def dBank (d : BitVec 512) : Nat := fld (bytesAt d 48 4) 0 5
def dFirst (d : BitVec 512) : Nat := fld (bytesAt d 48 4) 5 10
def dDepth (d : BitVec 512) : Nat := fld (bytesAt d 48 4) 15 10
/-- REMOTE. -/
def dRemote (d : BitVec 512) : Nat := bytesAt d 52 4
/-- RETAIN and QOS (R150). -/
def dRetain (d : BitVec 512) : Nat := fld (bytesAt d 56 4) 0 10
def dQos (d : BitVec 512) : Nat := fld (bytesAt d 56 4) 16 2
/-- CLASS and BOFF (R151). -/
def dClass (d : BitVec 512) : BitVec 4 := BitVec.ofNat 4 (bytesAt d 60 1)
def dBoff (d : BitVec 512) : Nat := fld (bytesAt d 60 4) 8 3
/-- The product of the trip counts. -/
def dTotal (d : BitVec 512) : Nat := dN d 0 * dN d 1 * dN d 2 * dN d 3

/-! ## Tensor maps (R156) -/

def mOrigin (m : BitVec 512) : Nat := bytesAt m 0 8
def mForm (m : BitVec 512) : Nat := bytesAt m 8 2
def mVlen (m : BitVec 512) : Nat := bytesAt m 10 2
def mVround (m : BitVec 512) : Nat := bytesAt m 12 2
def mDims (m : BitVec 512) : Nat := fld (mForm m) 4 3
/-- EXT of dimension d. -/
def mExt (m : BitVec 512) (d : Nat) : Nat := if d = 0 then bytesAt m 16 4 else bytesAt m (12 + 8 * d) 4
/-- PITCH of dimension d, in bits. -/
def mPitch (m : BitVec 512) (d : Nat) : Int := sval (bytesAt m (16 + 8 * d) 4) 32 * (if bitN (mForm m) 3 then 1 else 8)
def mC4 (m : BitVec 512) : Int := sval (bytesAt m 52 4) 32
def mFH (m : BitVec 512) : Nat := bytesAt m 56 1
def mFW (m : BitVec 512) : Nat := bytesAt m 57 1
/-- A step or spread, 0 reading as 1. -/
def mOne (m : BitVec 512) (b : Nat) : Int := let v := bytesAt m b 1; if v = 0 then 1 else v
def mSpanEn (m : BitVec 512) : Bool := bitN (mForm m) 15
def mSpanZ (m : BitVec 512) : Nat := fld (mForm m) 12 3

/-- The map is valid for a descriptor's FMT and direction (R156). -/
def mapOk (m : BitVec 512) (fmt : Nat) (out : Bool) : Bool :=
  !bitN (mForm m) 7 && bytesAt m 14 2 == 0 && 1 ≤ mDims m && mDims m ≤ 5 && fld (mForm m) 8 4 == fmt
    && ((mFH m == 0) == (mFW m == 0)) && (mFH m == 0 || decide (mFH m * mFW m * mExt m 0 ≤ mVlen m))
    && !(out && (mFH m != 0 || mSpanEn m))

/-- The bit address of element (c0, ..., c4), when it lies inside the tensor (R157). -/
def mElem (m : BitVec 512) (w : Nat) (c : List Int) : Option Int :=
  let inside := (natsFrom 0 5).all fun d =>
    let v := c.getD d 0
    if d < mDims m then decide (0 ≤ v) && decide (v < (mExt m d : Nat)) else v == 0
  if inside then some (8 * (mOrigin m : Int) + (fld (mForm m) 0 3 : Nat) + c.getD 0 0 * w
    + ((natsFrom 1 4).map fun d => c.getD d 0 * mPitch m d).sum) else none

/-! ## Rows (R154 to R159) -/

/-- Position (i0, i1, i2, i3) of row n. -/
def nestPos (d : BitVec 512) (n : Nat) : List Nat :=
  [n % Nat.max 1 (dN d 0), n / Nat.max 1 (dN d 0) % Nat.max 1 (dN d 1), n / Nat.max 1 (dN d 0) / Nat.max 1 (dN d 1) % Nat.max 1 (dN d 2),
   n / Nat.max 1 (dN d 0) / Nat.max 1 (dN d 1) / Nat.max 1 (dN d 2)]

/-- The window walk is on. -/
def gathers (d m : BitVec 512) : Bool := dTmode d && mFH m != 0
/-- The vectors a gather yields (R159). -/
def gatherVecs (d m : BitVec 512) : Nat :=
  if mVround m < 2 then dTotal d else ceilDiv (dTotal d) (mVround m) * mVround m
/-- The rows of the nest. -/
def rowTotal (d m : BitVec 512) : Nat :=
  if gathers d m then ceilDiv (gatherVecs d m * mVlen m) (Nat.max 1 (dRowlen d)) else dTotal d

/-- Element e of the concatenated vectors of a gather (R159). -/
def gatherElem (d m : BitVec 512) (e : Nat) : Option Int :=
  let v := e / mVlen m
  let o := e % mVlen m
  if dTotal d ≤ v ∨ mFH m * mFW m * mExt m 0 ≤ o then none else
  let p := nestPos d v
  let at' := fun i => dOrg d i + (p.getD (i - 1) 0 : Nat) * dD d (i - 1)
  let c := o % mExt m 0
  let tap := o / mExt m 0
  let x := at' 1 * mOne m 59 - (bytesAt m 63 1 : Nat) + (tap % mFW m : Nat) * mOne m 61
  let y := at' 2 * mOne m 58 - (bytesAt m 62 1 : Nat) + (tap / mFW m : Nat) * mOne m 60
  mElem m (dW d) [c, x, y, at' 3, mC4 m + (p.getD 3 0 : Nat) * dD d 3]

/-- The bit address of each element of row n; none for an element that reads as zero. -/
def rowElems (d m : BitVec 512) (n : Nat) : List (Option Int) :=
  let w := dW d
  if gathers d m then
    (natsFrom 0 (dRowlen d)).map fun e =>
      let k := n * dRowlen d + e
      if gatherVecs d m * mVlen m ≤ k then none else gatherElem d m k
  else if dTmode d then
    let p := nestPos d n
    let c := (natsFrom 0 4).map fun i => dOrg d i + (p.getD i 0 : Nat) * dD d i
    (natsFrom 0 (dRowlen d)).map fun (e : Nat) => mElem m w ([c.getD 0 0 + (e : Int)] ++ c.drop 1 ++ [mC4 m])
  else
    let p := nestPos d n
    let u : Int := if dUnit d then 1 else 8
    let b : Int := 8 * (dBase d : Int) + (dBoff d : Nat) + u * ((natsFrom 0 4).map fun i => (p.getD i 0 : Nat) * dD d i).sum
    (natsFrom 0 (dRowlen d)).map fun (e : Nat) => some (b + (e * w : Nat))

/-- Drops numbers equal to the one before. -/
def dedup : List Nat → List Nat
  | a :: b :: r => if a = b then dedup (b :: r) else a :: dedup (b :: r)
  | l => l

/-- A byte address as a 64-bit one. -/
def addr64 (b : Int) : Nat := wrapN b 64

/-- The byte addresses that elements of width w touch. -/
def elemBytes (w : Nat) (l : List (Option Int)) : List Nat :=
  dedup ((l.map fun o => match o with
    | some b => (natsFrom 0 ((b + w - 1) / 8 - b / 8 + 1).toNat).map fun (i : Nat) => addr64 (b / 8 + (i : Int))
    | none => []).flatten)

/-- The row packed from elements, given the byte at each address (R155). -/
def rowOf (w : Nat) (look : Nat → Nat) (l : List (Option Int)) : Row :=
  let val := fun (b : Int) =>
    let n := ((b + w - 1) / 8 - b / 8 + 1).toNat
    fld (((natsFrom 0 n).map fun (i : Nat) => look (addr64 (b / 8 + (i : Int))) * 2 ^ (8 * i)).sum) (b % 8).toNat w
  BitVec.ofNat 2048 (((natsFrom 0 l.length).zip l).foldl (fun acc p => match p.2 with | some b => acc + val b * 2 ^ (p.1 * w) | none => acc) 0)

/-- The swizzle of R160 on logical byte b: where it is stored. -/
def swizByte (z b : Nat) : Nat :=
  let sp := 16 * 2 ^ z
  let p := b / sp
  let c := b % sp / 16
  p * sp + (c ^^^ (p % (sp / 16))) * 16 + b % 16

/-! ## The ring (R161 to R165) -/

/-- The row key of ring index i. -/
def Stream.key (st : Stream) (i : Nat) : Nat := 768 * st.bank + st.first + i % Nat.max 1 st.depth
/-- H of R161. -/
def Stream.hold (st : Stream) : Nat := Nat.max (dRetain st.desc) st.repl
/-- The tail row can be filled: by the engine of an inbound stream, or by a push (R161). -/
def Core.canFill (k : Core) (st : Stream) : Bool := decide (st.count + st.held + 1 ≤ st.depth) && !k.isFull (st.key st.tail)
/-- Fills the tail row; an end-of-stream marker is then written (R163, R172). -/
def Core.fill (k : Core) (i : Nat) (st : Stream) (kind : BitVec 2) (r : Row) : Core :=
  let key := st.key st.tail
  let k1 := ((k.setRow key r).setKind key kind).setFull key true
  { k1 with streams := tset k1.streams i { st with tail := (st.tail + 1) % Nat.max 1 st.depth, count := st.count + 1, eosw := st.eosw || kind == 1 } }

/-- A row is written to the tail of a ring: its words are whole again (R453). -/
def State.fillRow (s : State) (c i : Nat) (st : Stream) (kind : BitVec 2) (r : Row) : State := (s.rowWhole c (st.key st.tail)).modCore c fun k => k.fill i st kind r

/-- An end-of-stream marker row. -/
def eosRow (status : Nat) : Row := BitVec.ofNat 2048 (status % 256)

/-- What stands at the head of an input: gap markers to discard, and then a data row, an end-of-stream marker with its status, or nothing yet (R165). -/
inductive Head where
  | data (gaps : Nat)
  | eos (gaps status : Nat)
  | empty
  deriving DecidableEq, Repr

/-- Scans a ring from index i over n rows. -/
def Core.scan (k : Core) (c : Nat) (st : Stream) : Nat → Nat → Nat → Head
  | _, _, 0 => .empty
  | i, gaps, n + 1 =>
    let key := st.key i
    if !k.isFull key then .empty
    else if k.kindOf key = 2 then k.scan c st (i + 1) (gaps + 1) n
    else if k.kindOf key = 1 then .eos gaps (fld (k.row c key).toNat 0 8)
    else .data gaps
/-- The head of a stream's ring. -/
def Core.headOf (k : Core) (c : Nat) (st : Stream) : Head := k.scan c st st.head 0 st.count

/-- The position of the row after one, past the rows dropped before it (R166). -/
def Stream.after (st : Stream) (p : Nat) : Nat := st.skips.foldl (fun p e => if e.1 = p then p + e.2 else p) (p + 1)
/-- The position of the data row n rows behind one at p. -/
def Stream.posFrom (st : Stream) (p : Nat) : Nat → Nat
  | 0 => p
  | n + 1 => st.posFrom (st.after p) n
/-- The position of the row before one. -/
def Stream.before (st : Stream) (p : Nat) : Nat :=
  match st.skips.find? fun e => e.1 + e.2 == p && e.2 != 0 with | some e => e.1 - 1 | none => p - 1
/-- Takes the head row off the ring: it becomes empty and, of an inbound stream, within H, held (R161). A marker row that is discarded counts among the held rows (log 19). -/
def Core.drop1 (k : Core) (i : Nat) (st : Stream) (replay data : Bool) : Core × Stream :=
  let st1 := { st with
    head := (st.head + 1) % Nat.max 1 st.depth
    count := st.count - 1
    headPos := if data then st.after st.headPos else st.headPos
    repl := if replay then st.repl + 1 else st.repl }
  let st2 := { st1 with held := if dOut st.desc then 0 else Nat.min (st.held + 1) st1.hold }
  let k1 := k.setFull (st.key st.head) false
  ({ k1 with streams := tset k1.streams i st2 }, st2)

/-- Pops the next data row behind n gap markers: the row and the lines the gaps counted (R165). -/
def Core.pop (k : Core) (c i : Nat) (st : Stream) (replay : Bool) : Nat → Core × Row × Nat
  | 0 => let r := k.row c (st.key st.head); ((k.drop1 i st replay true).1, r, 0)
  | n + 1 =>
    let g := fld (k.row c (st.key st.head)).toNat 0 32
    let q := k.drop1 i st replay false
    let z := q.1.pop c i q.2 replay n
    (z.1, z.2.1, g + z.2.2)

/-- Empties every ring row. -/
def Core.clearRing (k : Core) (st : Stream) : Core :=
  (natsFrom 0 st.depth).foldl (fun k i => (k.setFull (st.key i) false).setKind (st.key i) 0) k

/-! ## Ports -/

/-- The key of a port in the bindings: 0 to 7 si, 8 to 15 so, 16 to 23 fp. -/
def portKey (near : Near) (out : Bool) : Nat := match near with | .ep p => if out then 8 + p else p | .fp p => 16 + p
/-- The stream a port of a context is bound to, with its number. -/
def State.portStream (s : State) (c : Nat) (x : Ctx) (key : Nat) : Option (Nat × Stream) :=
  match tfind x.ports key with
  | some i => (tfind (s.core c).streams i).map fun st => (i, st)
  | none => none

/-- The port a command binds, if it is one that binds. -/
def bindsPort : Instr → Option (Bool × Nat)
  | .sopen f => some (f.ne, f.np.toNat)
  | .srest f => some (f.ne, f.np.toNat)
  | _ => none

/-- An EP port, si or so, can still be bound: the AP has not exited, or an `SOPEN` or `SREST` of the context that names it is queued or starting (R295). -/
def State.bindable (s : State) (c n : Nat) (x : Ctx) (num : Nat) (fp : Bool) : Bool :=
  !x.ap.exited || ((s.core c).queue .stream).any fun m => m.slot == n && m.lid == x.lid && bindsPort m.instr == some (fp, num)

/-- What the ports an instruction names allow (R295, R410): go on; stall; trap 0x09 at a port; trap 0x0A with its value. -/
inductive PortRes where
  | go
  | stall
  | unbound (port : Nat)
  | eos (port status : Nat)
  deriving DecidableEq, Repr

/-- One input port, by number 0 to 7. DESIGN CHOICE: a gap marker at the head stays there until a data row stands behind it (R165, R295; log 19). -/
def State.inPort (s : State) (c n : Nat) (x : Ctx) (p : Nat) : PortRes :=
  match s.portStream c x p with
  | none => if s.bindable c n x p false then .stall else .unbound p
  | some (_, st) => if st.saved then .stall else (match (s.core c).headOf c st with
    | .data _ => .go
    | .eos _ v => .eos p v
    | .empty => .stall)
/-- One output port, by number 8 to 15; a marker that `SEOS` still has to write goes first (R275). -/
def State.outPort (s : State) (c n : Nat) (x : Ctx) (p : Nat) : PortRes :=
  match s.portStream c x p with
  | none => if s.bindable c n x (p - 8) false then .stall else .unbound p
  | some (_, st) => if (s.core c).canFill st && !st.saved && st.seos.isNone then .go else .stall

/-- All the ports: an unbound port that cannot be bound traps; a stall goes before a marker (R410). -/
def portsRes (l : List PortRes) : PortRes :=
  match l.find? fun r => match r with | .unbound _ => true | _ => false with
  | some r => r
  | none => if l.contains .stall then .stall
    else (match l.find? fun r => match r with | .eos _ _ => true | _ => false with | some r => r | none => .go)

/-- Pops the input port of a context: the row; gap counts go to GAPC, saturating (R316). -/
def State.popPort (s : State) (c n p : Nat) (replay : Bool) : State × Row :=
  match s.ctx c n with
  | none => (s, 0)
  | some x =>
    match s.portStream c x p with
    | none => (s, 0)
    | some (i, st) =>
      let k := s.core c
      let gaps := match k.headOf c st with | .data g => g | _ => 0
      let q := k.pop c i st replay gaps
      let s1 := s.setCore c q.1
      let add := fun (v : BitVec 32) => BitVec.ofNat 32 (Nat.min (v.toNat + q.2.2) 0xFFFFFFFF)
      (if q.2.2 = 0 then s1 else s1.modCtx c n fun x => { x with gapc := tset x.gapc p (add (tget x.gapc 0 p)) }, q.2.1)

/-- Pushes a row into an output port. -/
def State.pushPort (s : State) (c n p : Nat) (kind : BitVec 2) (r : Row) : State :=
  match s.ctx c n with
  | none => s
  | some x => (match s.portStream c x p with
    | none => s
    | some (i, st) => s.fillRow c i st kind r)

/-! ## Images (R172, R173) -/

/-- The record of a stream. -/
def Stream.rcd (st : Stream) : List Byte :=
  let pos := fun (n : Nat) => ((nestPos st.desc n).map fun i => leBytes 4 i).flatten
  let sfl := 1 + 2 * b2n st.eosw + 4 * b2n st.forkOn + 8 * b2n st.mark.isSome + 16 * b2n st.pend + 32 * b2n st.flt
    + 256 * (match st.sig with | some t => t.toNat + 16 | none => 0)
  leBytes 64 st.desc.toNat ++ pos st.pos ++ pos (st.mark.getD 0) ++ leBytes 2 st.head ++ leBytes 2 st.tail ++ leBytes 2 st.count ++ leBytes 2 sfl
    ++ leBytes 4 (match st.forkTo with | some (r, h) => r + 65536 * h + 2 ^ 31 | none => 0)
    ++ leBytes 4 (st.held + 1024 * st.repl) ++ leBytes 4 st.fhw
    ++ leBytes 4 (st.fcause + 65536 * st.fclass) ++ leBytes 8 st.faddr.toNat

/-- The length of an image. -/
def imageLen (depth : Nat) : Nat := ceilDiv (128 + 257 * depth) 256 * 256

/-- The image of a stream. -/
def Core.image (k : Core) (c : Nat) (st : Stream) : List Byte :=
  let rows := ((natsFrom 0 st.depth).map fun i => rowBytes (k.row c (st.key i))).flatten
  let sts := (natsFrom 0 st.depth).map fun i => BitVec.ofNat 8 (b2n (k.isFull (st.key i)) + 2 * (k.kindOf (st.key i)).toNat)
  sliceB (st.rcd ++ rows ++ sts) 0 (imageLen st.depth)

/-- The row number of four nest indices. -/
def posNat (d : BitVec 512) (l : List Byte) (b : Nat) : Nat :=
  let n := fun i => Nat.max 1 (dN d i)
  leAt l b 4 + n 0 * (leAt l (b + 4) 4 + n 1 * (leAt l (b + 8) 4 + n 2 * leAt l (b + 12) 4))

/-- The position of the row at the head: the fetch position less the data rows held in the ring. -/
def Core.headPosOf (k : Core) (st : Stream) : Nat :=
  st.pos - ((natsFrom 0 st.count).filter fun i => k.kindOf (st.key (st.head + i)) == 0).length

end Sys2Proof.Machine
end

