-- ==== Sys2Proof/Machine/Commands.lean ====
section
/-! DEFINITION. The issue of engine commands: entry into a queue (R31, R32, R266 to R268), the run of commands behind an `SOPEN` (R387), the range scoreboard (R182, R278), and the AP's D-form commands. -/
namespace Sys2Proof.Machine
open Sys2Proof

/-! ## Entry into a queue -/

/-- The stream a command of a run may name: `SMARK` or `SFORK` with no wait set (R387). -/
def runHandle : Instr → Option Nat
  | .smark f => if waitToks f.tk.waits = [] then some f.st.toNat else none
  | .sfork f => if waitToks f.tk.waits = [] then some f.st.toNat else none
  | _ => none

/-- A stream command enters behind the runs that may still grow: it joins its own and ends the others (R387). -/
def Core.growRuns (k : Core) (m : Cmd) : Core :=
  { k with streams := k.streams.map fun (i, st) =>
      (i, if st.runOpen then
          (if runHandle m.instr = some i ∧ st.owner = m.slot ∧ st.lid = m.lid then { st with run := st.run ++ [m.id] } else { st with runOpen := false })
        else st) }

/-- The queue has no free place (R32). -/
def Core.qFull (k : Core) (q : Qid) : Bool := decide (qDepth q ≤ (k.queue q).length)

/-- A command enters the tail of its queue, tagged with its context (R266). -/
def State.enqueue (s : State) (c n : Nat) (x : Ctx) (q : Qid) (i : Instr) (vals : List Word) (rows : List Row) (tk : Tok) (epc : Bool) : State :=
  let m : Cmd := { id := s.serial, slot := n, lid := x.lid, instr := i, vals := vals, rows := rows, tk := tk, epc := epc, dnar := x.dnar }
  (s.modCore c fun k =>
    let k1 := k.setQueue q (k.queue q ++ [m])
    match q with | .stream => k1.growRuns m | _ => k1).tick

/-- An AP command of the D form (R266, R268). -/
def apCmd (g : Guard) (tk : Tok) (q : Qid) (regs : List (BitVec 6)) (i : Instr) (s : State) : State :=
  apIssue g 2 regs (tkToks tk) tk.sig (fun c n x s =>
    if (s.core c).qFull q then .stall s else .done (s.enqueue c n x q i (regs.map fun r => x.ap.s' r.toNat) [] tk false)) s

/-! ## Stream commands (R269 to R275, R280) -/

/-- `SOPEN` (R271). -/
def execSopen (f : SopenF) (s : State) : Out := .next (apCmd f.g f.tk .stream [f.a] (.sopen f) s)
/-- `SCLOSE` (R272). -/
def execSclose (f : StcF) (s : State) : Out := .next (apCmd f.g f.tk .stream [] (.sclose f) s)
/-- `SFORK` (R273). -/
def execSfork (f : SforkF) (s : State) : Out := .next (apCmd f.g f.tk .stream [] (.sfork f) s)
/-- `SMARK` (R169, R273). -/
def execSmark (f : StcF) (s : State) : Out := .next (apCmd f.g f.tk .stream [] (.smark f) s)
/-- `SREWIND` (R170, R273). -/
def execSrewind (f : StcF) (s : State) : Out := .next (apCmd f.g f.tk .stream [] (.srewind f) s)
/-- `SSAVE` (R174, R274). -/
def execSsave (f : SsaveF) (s : State) : Out := .next (apCmd f.g f.tk .stream [f.a] (.ssave f) s)
/-- `SREST` (R274). -/
def execSrest (f : SrestF) (s : State) : Out := .next (apCmd f.g f.tk .stream [f.a] (.srest f) s)
/-- `SEOS` (R275). -/
def execSeos (f : SeosF) (s : State) : Out := .next (apCmd f.g f.tk .stream [] (.seos f) s)
/-- `ROT` (R280): both offsets are read at issue. -/
def execRot (f : RotF) (s : State) : Out := .next (apCmd f.g f.tk .stream [f.a, f.b] (.rot f) s)

/-! ## Copies (R277 to R279) -/

/-- The bound of a compressed side of expanded length len (R278). -/
def objBound (len : Nat) : Nat := 128 + 259 * ceilDiv len 256
/-- The scoreboard entry of a copy: its ranges, a compressed side by its bound, a tensor source not at all (R182, R278). -/
def copyScore (f : CpyF) (id : Nat) (a b len : Nat) : Score :=
  { cmd := id, srcLocal := f.sl, src := a, srcLen := if f.tm then 0 else if f.mode = .expand then objBound len else len,
    dstLocal := f.dl, dst := b, dstLen := if f.mode = .compress then objBound len else len }
/-- The entries of the range scoreboard. -/
def scoreDepth : Nat := 32
/-- A `CPY` takes its scoreboard entry, unless its length is 0, and enters its channel (R278). -/
def State.enterCopy (s : State) (c n : Nat) (x : Ctx) (f : CpyF) (i : Instr) : State :=
  let a := x.ap.s' f.a.toNat
  let b := x.ap.s' f.b.toNat
  let len := x.ap.s' f.c.toNat
  let s1 := if len = 0 then s else s.modCore c fun k => { k with score := k.score ++ [copyScore f s.serial a.toNat b.toNat len.toNat] }
  s1.enqueue c n x (.ch f.ch.toNat) i [a, b, len] [] f.tk false
/-- The channel queue or the scoreboard is full (R278). -/
def Core.copyFull (k : Core) (f : CpyF) : Bool := k.qFull (.ch f.ch.toNat) || decide (scoreDepth ≤ k.score.length)

/-- `CPY` (R278). -/
def execCpy (f : CpyF) (s : State) : Out :=
  .next (apIssue f.g 2 [f.a, f.b, f.c] (tkToks f.tk) f.tk.sig (fun c n x s =>
    if (s.core c).copyFull f then .stall s else .done (s.enterCopy c n x f (.cpy f))) s)
/-- `CPY.NB` (R278): the predicate says whether it entered. -/
def execCpyNb (f : CpyF) (pn : BitVec 4) (s : State) : Out :=
  .next (apIssue f.g 2 [f.a, f.b, f.c] (tkToks f.tk) f.tk.sig (fun c n x s =>
    let put := fun (v : Bool) (s : State) => s.modCtx c n fun x => { x with ap := x.ap.setP pn.toNat v }
    if (s.core c).copyFull f then .done (put false s) else .done (put true (s.enterCopy c n x f (.cpyNb f pn)))) s)
/-- `CPDRAIN` (R279). -/
def execCpdrain (f : CpdF) (s : State) : Out := .next (apCmd f.g f.tk (.ch f.ch.toNat) [] (.cpdrain f) s)

/-! ## Prism commands (R281) and TSIG (R282) -/

/-- `GLOAD` (R281). -/
def execGload (f : GloadF) (s : State) : Out := .next (apCmd f.g f.tk .prism [f.a] (.gload f) s)
/-- `GRUN` (R281); its issue numbers it for the bindings of fabric ports (R349). -/
def execGrun (f : GrunF) (s : State) : Out :=
  .next (apIssue f.g 2 [] (tkToks f.tk) f.tk.sig (fun c n x s =>
    if (s.core c).qFull .prism then .stall s
    else .done ((s.modCore c fun k => { k with grid := { k.grid with gruns := k.grid.gruns ++ [(s.serial, x.lid)] } }).enqueue c n x .prism (.grun f) [] [] f.tk false)) s)
/-- `GHALT` (R281). -/
def execGhalt (f : TkF) (s : State) : Out := .next (apCmd f.g f.tk .prism [] (.ghalt f) s)
/-- `TSIG` (R282): it enters no queue; a fifth pending one stalls. -/
def execTsig (f : TkF) (s : State) : Out :=
  .next (apIssue f.g 2 [] (tkToks f.tk) f.tk.sig (fun c n x s =>
    if 4 ≤ x.ap.tsigs.length then .stall s
    else .done (s.setCtx c n { x with ap := { x.ap with tsigs := x.ap.tsigs ++ [{ id := s.serial, tk := f.tk, taken := false }] } }).tick) s)

/-! ## The start of a command -/

/-- Accesses of a context's AP issued before a number, in a class of the mask, that are not performed yet (R135). -/
def Ctx.owes (x : Ctx) (id : Nat) (mask : BitVec 16) : Bool := x.ap.accs.any fun a => decide (a.id < id) && !a.performed && mask.getLsbD a.cls.toNat
/-- One class as a mask. -/
def clsMask (cls : BitVec 4) : BitVec 16 := BitVec.ofNat 16 (2 ^ cls.toNat)

/-- The head of a queue takes its wait set, leaves the queue and is live (R32, R35, R266). -/
def State.begin (s : State) (c : Nat) (q : Qid) (m : Cmd) : State :=
  (s.modCore c fun k => { (k.setQueue q ((k.queue q).filter fun e => e.id != m.id)) with live := k.live ++ [m] }).modCtx c m.slot fun x =>
    x.settle.take m.tk.waits

/-- The context of a command, while it may run (R399). -/
def State.ctxOf (s : State) (c : Nat) (m : Cmd) : Option Ctx := (s.ctx c m.slot).filter fun x => x.lid == m.lid && x.frozen.isNone

/-- What an engine's read or write meets: it waits for a translation; bytes; a fault with the record of R425; a breach (R113); a local offset beyond the allotment; a poisoned word (R453). -/
inductive Eng (α : Type) where
  | wait
  | ok (a : α)
  | fault (code addr : Nat) (det : List (Nat × Nat × Nat))
  | breach (cause addr : Nat)
  | beyond (off : Nat)
  | poison (addr : Nat)

/-! ## The way to memory -/

/-- Whether the way to an address is open: it waits for a copied frame, a link in retraining or a restarting controller; a link that is down answers with an error (R449, R451, R454, R457, R461). -/
inductive Way where
  | clear | wait | down
  deriving DecidableEq, Repr

/-- A request from core c to a die must cross the mirror bridge, and no channel lets it (R8, R9, R449). -/
def State.crossHeld (s : State) (c : Nat) (d : Die) : Bool := dieOf c != d && s.rowHeld (s.siteRow c)
/-- The way from core c to physical bytes: a request to the other die crosses the bridge on its source row's channel, and one to the host takes the other die's link when its own is not in L0 (R118). -/
def State.way (s : State) (c : Nat) (read : Bool) (pas : List Nat) : Way :=
  let one := fun (a : Nat) =>
    match regionOf (s.homeAddr a) with
    | .peer p _ =>
      let d := dieOf c
      let k := spanLink d p
      if s.spanBusy d k then Way.wait else if (s.die d).boot.span.getLsbD k then .clear else .down
    | .mmio d _ => if s.mmioWaits read [a] || s.crossHeld c d then .wait else .clear
    | .host =>
      let d := dieOf c
      if s.pcieUp d then Way.clear else if s.pcieUp (Die.other d) && !s.crossHeld c (Die.other d) then .clear else .wait
    | .none => .clear
    | _ => if s.frameBusy a || s.crossHeld c (s.dieBehind a) then .wait else .clear
  let l := (pas.map one).eraseDups
  if l.contains .wait then .wait else if l.contains .down then .down else .clear

/-- The DETAIL of R425 from byte 50. -/
def xDet (lvl tag acc pasid entry : Nat) : List (Nat × Nat × Nat) := [(50, 1, lvl), (51, 1, tag), (52, 1, acc), (53, 3, pasid), (56, 8, entry)]

/-- The outcome of a translation that gave no address. -/
def engErr {α : Type} (acc : Acc) (pasid : Nat) : XRes × Nat → Eng α
  | (.fault code lvl tag e, va) => .fault code va (xDet lvl tag (accNat acc) pasid e)
  | (.breach, va) => .breach 1 va
  | (_, _) => .wait

/-- Translates bytes for a command under the mask it carries (R112, R113, R117). -/
def State.engAddrs (s : State) (c : Nat) (lid : BitVec 32) (dnar : BitVec 16) (acc : Acc) (land : Bool) (l : List Nat) : State × Eng (List (Nat × Nat)) :=
  let pasid := s.pasidOf lid
  match s.xlateList c pasid (s.cmdMask lid dnar) acc land none l with
  | (s1, .ok r) =>
    let fn := match s1.launch lid with | some p => p.fn | none => ⟨.west, 0⟩
    (match s1.mmioCause fn (acc == .write) ((r.map fun q => s1.homeAddr q.1).zip l) with
    | some (cause, va) => (s1, .breach cause va)
    | none => (s1, .ok r))
  | (s1, .error e) => (s1, engErr acc pasid e)
/-- What the way to translated bytes makes of an access: a link that is down answers with code 15 (R449, R451). -/
def State.openWay (s : State) (c : Nat) (lid : BitVec 32) (acc : Acc) (l : List Nat) (r : List (Nat × Nat)) : Eng (List (Nat × Nat)) :=
  let rd := acc == .read || acc == .code
  match s.way c rd (r.map Prod.fst) with
  | .wait => .wait
  | .down => .fault 15 (((l.zip r).find? fun q => s.way c rd [q.2.1] == .down).map Prod.fst |>.getD 0) (xDet 255 0 (accNat acc) (s.pasidOf lid) 0)
  | .clear => .ok r
/-- Some byte lies in the host's or a peer's window. -/
def State.anyFar (s : State) (l : List Nat) : Bool := l.any fun p => match regionOf (s.homeAddr p) with | .host => true | .peer _ _ => true | _ => false
/-- Translates bytes for a command whose way to them is open. -/
def State.engXlate (s : State) (c : Nat) (lid : BitVec 32) (dnar : BitVec 16) (acc : Acc) (land : Bool) (l : List Nat) : State × Eng (List (Nat × Nat)) :=
  match s.engAddrs c lid dnar acc land l with
  | (s1, .ok r) => (s1, s1.openWay c lid acc l r)
  | q => q

/-- The request of a starting command to the host or a peer: it goes out once, and has no answer when 180 us have passed (R423, R424). -/
def State.cmdReach (s : State) (c : Nat) (m : Cmd) (acc : Acc) (l : List Nat) (r : List (Nat × Nat)) : State × Eng (List (Nat × Nat)) :=
  let pas := r.map Prod.fst
  let fault := Eng.fault 15 (((l.zip pas).find? fun q => s.anyFar [q.2]).map Prod.fst |>.getD 0) (xDet 255 0 (accNat acc) (s.pasidOf m.lid) 0)
  if !s.anyFar pas then (s, s.openWay c m.lid acc l r) else
  match tfind (s.core c).cmdAsk m.id with
  | some q => (s, if q.2.2 then fault else s.openWay c m.lid acc l r)
  | none => ((s.modCore c fun k => { k with
      cmdAsk := tset (k.cmdAsk.filter fun q => k.pendingCmds.any fun e => e.id == q.1) m.id (s.serial, s.time.toNat, false) }).tick, .wait)
/-- Translates bytes for a starting command whose way to them is open. -/
def State.cmdXlate (s : State) (c : Nat) (m : Cmd) (acc : Acc) (l : List Nat) : State × Eng (List (Nat × Nat)) :=
  match s.engAddrs c m.lid m.dnar acc false l with
  | (s1, .ok r) => s1.cmdReach c m acc l r
  | q => q

/-- n bytes from an address, or a local offset, for a command (R271, R281). -/
def State.engRead (s : State) (c : Nat) (m : Cmd) (loc : Bool) (acc : Acc) (a n : Nat) : State × Eng (List Byte) :=
  if loc then
    (match (s.core c).locBytes c m.lid a n with | some l => (s, if s.locPoison c m.lid (natsFrom a n) then .poison a else .ok l) | none => (s, .beyond a))
  else
    match s.cmdXlate c m acc ((natsFrom a n).map fun v => v % 2 ^ 64) with
    | (s1, .ok r) =>
      let pas := r.map Prod.fst
      if s1.anyPoison pas then (s1.usedBad pas, .poison a)
      else (match s1.readBytes pas with
        | .ok l => (s1, .ok l)
        | .error e =>
          let bad := ((natsFrom a n).zip pas).find? fun q => match s1.readByte q.2 with | .error _ => true | .ok _ => false
          (s1, .fault e ((bad.map Prod.fst).getD a) (xDet 255 ((bad.map fun q => s1.foundTag q.2).getD 0) (accNat acc) (s.pasidOf m.lid) 0)))
    | (s1, .wait) => (s1, .wait)
    | (s1, .fault x y z) => (s1, .fault x y z)
    | (s1, .breach u v) => (s1, .breach u v)
    | (s1, .beyond v) => (s1, .beyond v)
    | (s1, .poison v) => (s1, .poison v)

/-- Freezes the master of an engine's command for a breach: the command halts, the record goes to the device queue and to its context (R395, R399). -/
def State.freezeCmd (s : State) (c : Nat) (m : Cmd) (cause addr acc : Nat) : State :=
  let rank := match s.ctx c m.slot with | some x => x.rank | none => 0xFFFF
  let r := s.mkRec 8 2 cause (cmdMaster c m) (some addr) m.lid rank [(52, 1, acc)]
  (((s.drop c m).addFrozen r.master).toDevice r).report c m.slot m.lid (cmdProc m.instr) r

/-! ## Durable writes -/

/-- The durable stores that persist order places before a store of class cls that the AP issues with number id, or that a command of that number makes (R142 items 2 and 3). -/
def State.durBefore (s : State) (c n : Nat) (id : Nat) (cls : BitVec 4) : List Nat :=
  match s.ctx c n with
  | none => []
  | some x =>
    ((s.dstores.filter fun d => d.ownedBy x &&
      (match d.pos with
      | some p => x.ap.dfences.any fun f => decide (p < f.1 ∧ f.1 ≤ id) && f.2.getLsbD d.cls.toNat && f.2.getLsbD cls.toNat
      | none => false)).map DStore.id)
    ++ ((x.ap.durPreds.filter fun e => e.1.getLsbD cls.toNat && decide (e.2.1 ≤ id)).map fun e => e.2.2)

/-- Cuts cells into persist-atomic units: one for each aligned w bytes, or, for 0, all of them together (R141). -/
def durUnits (w : Nat) (l : List Host.Cell) : List (List Host.Cell) :=
  match w with
  | 0 => [l]
  | 1 => l.map fun p => [p]
  | _ => (l.map fun p => p.1 / w).eraseDups.map fun g => l.filter fun p => p.1 / w == g

/-- Writes bytes for a command, notes those of the durable tier (R141, R142), and keeps those of registers until the end of the step (R106). -/
def State.cmdWrite (s : State) (c : Nat) (slot : Nat) (lid : BitVec 32) (id : Nat) (cls : BitVec 4) (cells : List Host.Cell) (w : Nat) (preds : List Nat)
    (stream : Option (Nat × Nat)) : State :=
  let all := cells.map fun p => (s.homeAddr p.1, p.2)
  let l := all.filter fun p => !isMmio p.1
  let dur := l.filter fun p => isDur p.1
  let pre := if dur.isEmpty then [] else preds ++ s.durBefore c slot id cls
  let s1 := if dur.isEmpty then s else (durUnits w dur).foldl (fun s u => s.addDurable c slot lid cls none u pre stream id) s
  { s1.writeMem l with regq := s1.regq ++ all.filter fun p => isMmio p.1 }

/-- A command that could not reach memory halts: CLASS 7, a breach, the class's cause for a local offset, or CLASS 11 (R424, R453). -/
def State.haltEng {α : Type} (s : State) (c : Nat) (m : Cmd) (acc : Acc) (cls locCause : Nat) (det : List (Nat × Nat × Nat)) (e : Eng α) : State :=
  match e with
  | .fault code va d => s.haltCmd c m 7 code (some va) (det ++ d)
  | .breach cause va => s.freezeCmd c m cause va (accNat acc)
  | .beyond off =>
    let rank := match s.ctx c m.slot with | some x => x.rank | none => 0xFFFF
    let r := s.mkRec cls 1 locCause (cmdMaster c m) (some off) m.lid rank det
    (s.drop c m).report c m.slot m.lid (cmdProc m.instr) { r with isLocal := true }
  | .poison va => s.haltCmd c m 11 4 (some va) det
  | _ => s

end Sys2Proof.Machine
end

