-- ==== Sys2Proof/Machine/Streams.lean ====
section
/-! DEFINITION. What a stream does: arrival and departure of rows (R161 to R168), fork and rewind (R168 to R171), halts and pauses (R411 to R415), the fetch and the write of one row (R154 to R160, R177), and the kind-4 pairs (R167, R388). -/
namespace Sys2Proof.Machine
open Sys2Proof

/-! ## Gang members and partners -/

/-- The member and rank a core has in a launch (R42, R74). -/
def Launch.place (l : Launch) (c : Nat) : Option (Bool × Nat) :=
  match findIdx (fun k => k == c) l.cores 0 with
  | some i => some (false, i)
  | none => (findIdx (fun k => k == c) l.cores1 0).map fun i => (true, i)
/-- The rank of a core in a launch. -/
def State.rankAt (s : State) (lid : BitVec 32) (c : Nat) : Nat :=
  match (s.launch lid).bind fun l => l.place c with | some p => p.2 | none => 0
/-- The core of another rank of the same gang. -/
def State.mateCore (s : State) (lid : BitVec 32) (c rank : Nat) : Option Nat :=
  (s.launch lid).bind fun l => (l.place c).bind fun p => l.coreOf p.1 rank

/-- Stream i of core c. -/
def State.stream (s : State) (c i : Nat) : Option Stream := tfind (s.core c).streams i
/-- Changes stream i of core c, if it is open. -/
def State.modStream (s : State) (c i : Nat) (f : Stream → Stream) : State :=
  match s.stream c i with
  | some st => s.modCore c fun k => { k with streams := tset k.streams i (f st) }
  | none => s
/-- The streams of a core: the open ones, and those of launches pre-empted from it, whose handles and names stay owned (R19). -/
def State.coreStreams (s : State) (c : Nat) : List (Nat × Stream) :=
  (s.core c).streams ++ (s.launches.filter fun l => l.phase == .preempted).flatMap fun l => match tfind l.saved c with | some k => k.streams | none => []
/-- The durable writes of a stream count for the token its `SOPEN` signals (R136, R137). -/
def State.tagStream (s : State) (st : Stream) : State :=
  { s with dstores := s.dstores.map fun d => if d.stream.any fun q => q.1 == st.sid then { d with toks := st.sig.toList ++ d.toks } else d }

/-- Stream i of core c and the open kind-4 stream h of the core of a rank name each other (R167, R168). -/
def State.pair (s : State) (c i : Nat) (lid : BitVec 32) (rank h : Nat) (out : Bool) : Option (Nat × Stream) :=
  match s.mateCore lid c rank with
  | none => none
  | some c2 => (match s.stream c2 h with
    | some t => if t.lid == lid && dOut t.desc == out && dKind t.desc == 4 && dRemote t.desc == s.rankAt lid c + 65536 * i then some (c2, t) else none
    | none => none)
/-- The consumer of an outbound kind-4 stream, or the partner of a fork. -/
def State.sink (s : State) (c i : Nat) (lid : BitVec 32) (rank h : Nat) : Option (Nat × Stream) := s.pair c i lid rank h false
/-- The rank and the handle that REMOTE of kind 4 names. -/
def dFar (d : BitVec 512) : Nat × Nat := (fld (dRemote d) 0 16, fld (dRemote d) 16 5)

/-- A stream takes one more row from its far end, counting those on their way (R161, R167). -/
def Stream.room (t : Stream) : Bool := !t.saved && !t.flt && decide (t.count + t.held + t.transit.length + 1 ≤ t.depth)
/-- No fork partner stands in the way of the next row, or of a marker (R168). -/
def State.forkRoom (s : State) (c i : Nat) (st : Stream) (marker : Bool) : Bool :=
  if !st.forkOn || st.forkEos || (!marker && decide (st.pos < st.fhw)) then true else
  match st.forkTo with
  | some (r, h) => (match s.sink c i st.lid r h with | some (_, t) => t.room | none => false)
  | none => true

/-- A row on its way to stream h of core c2 (R167). -/
def State.send (s : State) (c2 h : Nat) (kind : BitVec 2) (r : Row) : State :=
  s.modStream c2 h fun t => { t with transit := t.transit ++ [{ kind := kind, row := r }] }

/-- The `SOPEN` of a stream completes, or the restored stream's owed signal is given (R164, R174). -/
def State.finishOpen (s : State) (c i : Nat) : State :=
  match s.stream c i with
  | none => s
  | some st =>
    if st.done then s else
    let s1 := s.modStream c i fun st => { st with done := true, pend := false }
    match (s.core c).live.find? fun m => m.id == st.cmd with
    | some m => s1.complete c m
    | none =>
      if st.pend then
        (s1.tagStream st).signalOpt c st.owner st.lid .ap (coreMaster mtStream c st.owner i) st.sig
      else s1

/-- Delivers a row to the own buffer of an inbound stream and, at FHW or above, to its fork partner (R161, R164, R168). -/
def State.rowIn (s : State) (c i : Nat) (kind : BitVec 2) (r : Row) : State :=
  match s.stream c i with
  | none => s
  | some st =>
    let s1 := s.fillRow c i st kind r
    let goes := st.forkOn && !st.forkEos && (kind != 0 || decide (st.fhw ≤ st.pos))
    let s2 := s1.modStream c i fun st =>
      { st with
        pos := if kind = 0 then st.pos + 1 else st.pos
        asked := none
        askPas := []
        early := []
        fhw := if goes && kind == 0 then st.pos + 1 else st.fhw
        forkEos := st.forkEos || (goes && kind == 1)
        runOpen := false }
    let s3 := match goes, st.forkTo with
      | true, some (rk, h) => (match s.sink c i st.lid rk h with | some (c2, _) => s2.send c2 h kind r | none => s2)
      | _, _ => s2
    if kind = 1 then s3.finishOpen c i else s3

/-! ## Far markers, halts, pauses -/

/-- A marker with a status to a kind-4 far end and to a fork partner that has none yet (R272, R412). A producer whose consumer ended sends nothing more. -/
def State.farMark (s : State) (c i status : Nat) : State :=
  match s.stream c i with
  | none => s
  | some st =>
    let f := dFar st.desc
    let s1 :=
      if dKind st.desc ≠ 4 then s
      else if dOut st.desc then
        (if st.sent || st.peerEnd then s else
          match s.sink c i st.lid f.1 f.2 with | some (c2, _) => s.send c2 f.2 1 (eosRow status) | none => s)
      else (match s.pair c i st.lid f.1 f.2 true with
        | some (c2, _) => s.modStream c2 f.2 fun t => { t with peerEnd := true }
        | none => s)
    match st.forkOn && !st.forkEos, st.forkTo with
    | true, some (r, h) =>
      let s2 := s1.modStream c i fun st => { st with forkEos := true }
      (match s.sink c i st.lid r h with | some (c2, _) => s2.send c2 h 1 (eosRow status) | none => s2)
    | _, _ => s1

/-- DETAIL of a stream's record: the position and the opcode (R411). -/
def posDet (st : Option Stream) (opc : Nat) : List (Nat × Nat × Nat) :=
  let p := match st with | some st => nestPos st.desc st.pos | none => []
  [(32, 4, p.getD 0 0), (36, 4, p.getD 1 0), (40, 4, p.getD 2 0), (44, 4, p.getD 3 0), (48, 1, opc)]

/-- The row is 256 bytes aligned to 256 bytes, which persist together (R141; a durable one lands whole too, log 59). -/
def RowOut.whole (o : RowOut) (home : Nat → Nat) : Bool :=
  !o.loc && (let a := home ((o.cells.map Prod.fst).headD 1); a % 256 == 0 && decide ((o.cells.map fun p => home p.1) = natsFrom a 256))
/-- Bytes of the row whose write has begun land: in scratchpad, or in memory, where durable ones join those that must persist (R141, R142 item 4). -/
def State.landRow (s : State) (c : Nat) (t : Stream) (o : RowOut) (cells : List Host.Cell) : State :=
  if o.loc then s.putLoc c t.lid cells else
  let preds := if dOpers t.desc then (s.dstores.filter fun d => d.stream.any fun q => q.1 == t.sid && q.2 != t.pos).map DStore.id else []
  s.cmdWrite c t.owner t.lid t.cmd (dClass t.desc) cells (if o.whole s.homeAddr then 0 else 8) preds (some (t.sid, t.pos))
/-- Aligned 8-byte units of the row whose write has begun land before the others (R127); a durable row that persists whole lands whole. -/
def State.landUnits (s : State) (c i : Nat) (t : Stream) (o : RowOut) (units : List Nat) : State :=
  let now := o.cells.filter fun p => units.contains (p.1 / 8) && !o.landed.contains (p.1 / 8) && (o.loc || !isMmio (s.homeAddr p.1))
  if now.isEmpty || (o.whole s.homeAddr && now.any fun p => isDur (s.homeAddr p.1)) then s else
  (s.landRow c t o now).modStream c i fun t => { t with out := some { o with landed := o.landed ++ (now.map fun p => p.1 / 8).eraseDups } }
/-- What is left of the row of an outbound stream whose write has begun is written (R127, R161). -/
def State.endRow (s : State) (c i : Nat) : State :=
  match s.stream c i with
  | none => s
  | some t =>
    match t.out with
    | none => s
    | some o =>
      (s.landRow c t o (o.cells.filter fun p => !o.landed.contains (p.1 / 8))).modStream c i fun t => { t with out := none, pos := t.pos + 1 }

/-- A stream halts, once the row whose write has begun is written: its fault information, the record, the markers of R412. -/
def State.haltStream (s : State) (c i : Nat) (cls sev cause : Nat) (addr : Option Nat) (isLocal : Bool) (det : List (Nat × Nat × Nat)) : State :=
  let s := s.endRow c i
  match s.stream c i with
  | none => s
  | some st =>
    let m := coreMaster mtStream c st.owner i
    let rank := s.rankAt st.lid c
    let r := { s.mkRec cls sev cause m addr st.lid rank det with isLocal := isLocal }
    let dead := st.cmd :: (st.effects.map Cmd.id ++ (match st.seos with | some q => [q.1.id] | none => []))
    let s1 := s.farMark c i 0xF1
    let s2 := (s1.modStream c i fun st =>
      { st with
        flt := true, done := true, pend := false, fcause := cause, fclass := cls, faddr := BitVec.ofNat 64 (addr.getD 0), paused := none, asked := none, askPas := [], early := [],
        owe := if dOut st.desc || st.eosw then none else some 0xF1, effects := [], seos := none }).modCore c fun k =>
      { k with live := k.live.filter fun m => !dead.contains m.id }
    let s3 := if sev = 2 then (s2.addFrozen m).toDevice r else s2
    s3.report c st.owner st.lid .ap r

/-- What a row that could not be reached does to its stream: pause on codes 3 and 5, else halt (R413, R424, R399, R453). -/
def State.streamErr {α : Type} (s : State) (c i : Nat) (acc : Acc) (e : Eng α) : State :=
  match s.stream c i with
  | none => s
  | some st =>
    let det := posDet (some st) 0x70
    match e with
    | .fault code va d =>
      if code = 3 ∨ code = 5 then
        (s.modStream c i fun st => { st with paused := some (st.pos, BitVec.ofNat 64 va) }).toDevice
          (s.mkRec 7 1 code (coreMaster mtStream c st.owner i) (some va) st.lid (s.rankAt st.lid c) (det ++ [(49, 1, 1)] ++ d))
      else s.haltStream c i 7 1 code (some va) false (det ++ d)
    | .breach cause va => s.haltStream c i 8 2 cause (some va) false [(52, 1, accNat acc)]
    | .beyond off => s.haltStream c i 2 1 14 (some off) true det
    | .poison va => s.haltStream c i 11 1 4 (some va) false det
    | _ => s

/-! ## Reaching the far end -/

/-- Host address h of kind 6 as a device address (R118, R152). -/
def hostBase : Nat := 0x100000000000
/-- Translates far-end addresses of a stream: by its launch's page tables, or for kind 6 by the host. -/
def State.farAddrs (s : State) (c : Nat) (st : Stream) (acc : Acc) : List Nat → State × Eng (List (Nat × Nat)) :=
  if dKind st.desc = 6 then
    fun l => l.foldl (fun (p : State × Eng (List (Nat × Nat))) h =>
      match p.2 with
      | .ok r =>
        let pa := hostBase + h
        (match p.1.viaHost (dieOf c) (p.1.pasidOf st.lid) acc 255 0 (if regionOf pa = .host then .ok pa 0 else .fault 7 255 0 0) with
        | (s1, .ok pa e) => (s1, .ok (r ++ [(pa, e)]))
        | (s1, x) => (s1, engErr acc (p.1.pasidOf st.lid) (x, h)))
      | _ => p) (s, .ok [])
  else s.engAddrs c st.lid st.dnar acc false
/-- The same, once the way to them is open; a row that has been asked for keeps its translation (R113, R117). -/
def State.farXlate (s : State) (c : Nat) (st : Stream) (acc : Acc) (l : List Nat) : State × Eng (List (Nat × Nat)) :=
  if st.asked.isSome && st.askPas.length == l.length then (s, s.openWay c st.lid acc l st.askPas) else
  match s.farAddrs c st acc l with
  | (s1, .ok r) => (s1, s1.openWay c st.lid acc l r)
  | q => q

/-- The head frame of the object that holds an address of a C = 1 page. -/
def State.objOf (s : State) (a : Nat) : Option Nat := s.headFrame (s.tags.length + 1) (a / 4096)

/-- The byte a stream's row reads at a physical address: the expanded byte through a C = 1 page (R121, R153). -/
def State.farByte (s : State) (pa e : Nat) : Except Nat Byte := if pteC e then s.lensByte (s.homeAddr pa) else s.readByte pa

/-- Reads far-end bytes for a row: the bytes by address, and the objects checked meanwhile (R426). -/
def State.farRead (s : State) (c : Nat) (st : Stream) (l : List Nat) : State × Eng (Tbl Byte × List Nat) :=
  if dKind st.desc = 1 then
    (match l.mapM fun a => ((s.core c).locBytes c st.lid a 1).map fun b => (a, b.getD 0 0) with
    | some r => (s, if s.locPoison c st.lid l then .poison (l.getD 0 0) else .ok (r.foldl (fun t p => tset t p.1 p.2) [], st.objOk))
    | none => (s, .beyond (l.find? fun a => ((s.core c).locBytes c st.lid a 1).isNone).get!))
  else
  match s.farXlate c st .read l with
  | (s1, .ok r) =>
    let pairs := l.zip r
    let pasid := s1.pasidOf st.lid
    match pairs.find? fun p => dKind st.desc == 2 && !pteC p.2.2 with
    | some p => (s1, .fault 6 p.1 (xDet 255 (s1.foundTag p.2.1) 0 pasid 0))
    | none =>
      let heads := (pairs.filterMap fun p => if pteC p.2.2 then s1.objOf (s1.homeAddr p.2.1) else none).eraseDups
      match (heads.filter fun f => !st.objOk.contains f).find? fun f => !s1.objCrcOk (4096 * f) with
      | some f =>
        let va := ((pairs.find? fun p => pteC p.2.2 && s1.objOf (s1.homeAddr p.2.1) == some f).map Prod.fst).getD 0
        (s1, .fault 13 va (xDet 255 (s1.foundTag (((pairs.find? fun p => p.1 == va).map fun p => p.2.1).getD 0)) 0 pasid 0))
      | none =>
        let plain := (pairs.filter fun p => !pteC p.2.2).map fun p => p.2.1
        if s1.anyPoison plain || heads.any s1.objPoison then (s1.usedBad (plain ++ heads.flatMap s1.objBad), .poison (l.getD 0 0)) else
        match pairs.find? fun p => match s1.farByte p.2.1 p.2.2 with | .ok _ => false | .error _ => true with
        | some p => (s1, .fault 13 p.1 (xDet 255 (s1.foundTag p.2.1) 0 pasid 0))
        | none =>
          (s1, .ok (pairs.foldl (fun t p => match s1.farByte p.2.1 p.2.2 with | .ok b => tset t p.1 b | .error _ => t) [], (st.objOk ++ heads).eraseDups))
  | (s1, .fault x y z) => (s1, .fault x y z)
  | (s1, .breach u v) => (s1, .breach u v)
  | (s1, _) => (s1, .wait)

/-- The logical rows whose bytes row n of a swizzled stream holds (R160). -/
def swizRows (z n : Nat) : List Nat := ((natsFrom 0 16).map fun k => swizByte z (256 * n + 16 * k) / 256).eraseDups

/-- The row a stream delivers at position n, from the far-end bytes. -/
def rowFrom (d m : BitVec 512) (total n : Nat) (t : Tbl Byte) : Row :=
  let logical := fun k => if total ≤ k then 0 else rowOf (dW d) (fun a => (tget t 0 a).toNat) (rowElems d m k)
  if dTmode d && mSpanEn m then
    let z := mSpanZ m
    let rows := (swizRows z n).map fun k => (k, rowBytes (logical k))
    bytesRow ((natsFrom 0 16).map fun k =>
      let b := swizByte z (256 * n + 16 * k)
      sliceB (tget (rows.foldl (fun t p => tset t p.1 p.2) []) [] (b / 256)) (b % 256) 16).flatten
  else logical n

/-- The far-end addresses that row n needs. -/
def rowAddrs (d m : BitVec 512) (total n : Nat) : List Nat :=
  let rows := if dTmode d && mSpanEn m then (swizRows (mSpanZ m) n).filter fun k => decide (k < total) else [n]
  (rows.map fun k => elemBytes (dW d) (rowElems d m k)).flatten.eraseDups

/-! ## One row of an inbound stream -/

/-- Where an AP goes on behind an instruction, as far as the engine sees; nowhere where the run of commands ends (R387; log 73). -/
def runNext (pc : Word) (len : Nat) : Instr → List Word
  | .sopen _ | .sclose _ | .sfork _ | .smark _ | .srewind _ | .ssave _ | .srest _ | .seos _ | .rot _ => []
  | .exit _ | .rft _ | .rftNext _ | .ret _ | .trap _ | .suspend _ | .lexit _ | .lexitPop _ => []
  | .br f =>
    (if f.base = 0 then [pc + f.off.signExtend 64] else []) ++ (if f.g.idx = 0 ∧ !f.g.neg then [] else [pc + 8])
  | .call f => (pc + f.off.signExtend 64) :: (if f.g.idx = 0 ∧ !f.g.neg then [] else [pc + 8])
  | .loop f => [pc + 8, pc + 8 + BitVec.ofNat 64 (8 * f.len.toNat)]
  | _ => [pc + BitVec.ofNat 64 (8 * len)]
/-- A command that may join the run of handle i lies ahead: looking from the addresses `todo`, past those `seen`; a jump back could wait for the stream itself, and ends the run (R387; log 73). -/
def Core.runScan (k : Core) (lid : BitVec 32) (i : Nat) : Nat → List Word → List Word → Bool → Bool
  | 0, _, _, _ => false
  | _ + 1, [], _, hit => hit
  | n + 1, pc :: todo, seen, hit =>
    if seen.contains pc then k.runScan lid i n todo seen hit else
    match decodeFor .ap (k.fetch .ap lid pc) with
    | .error _ => k.runScan lid i n todo (pc :: seen) hit
    | .ok ins =>
      if runHandle ins == some i then k.runScan lid i n todo (pc :: seen) true else
      let l := runNext pc (encode ins).length ins
      if l.any fun a => decide (a.toNat ≤ pc.toNat) then false else k.runScan lid i n (l ++ todo) (pc :: seen) hit
/-- How many instructions the engine looks over. -/
def runDepth : Nat := 256
/-- The instruction an AP stands at waits, or may wait, for something other than a register or memory: the run ends there (R387; log 73). -/
def State.runWaits (s : State) (c : Nat) (x : Ctx) : Instr → Bool
  | .waitt f => !x.canTake f.waits
  | .waita _ | .waitb _ | .waitl _ | .waitc _ | .ssbar _ | .recve _ | .sende _ | .bara _ | .launch _ | .spawn _ => true
  | .ftest _ | .tlbi _ | .tlbiAs _ | .tlbiAll _ | .dsync _ => true
  | .gload _ | .grun _ | .ghalt _ => (s.core c).qFull .prism
  | .cpy f => (s.core c).copyFull f
  | .cpdrain f => (s.core c).qFull (.ch f.ch.toNat)
  | .tsig _ => decide (4 ≤ x.ap.tsigs.length)
  | .smark _ | .sfork _ => (s.core c).qFull .stream
  | _ => false
/-- The owner's AP may still join the stream's run (R387). -/
def State.runGrows (s : State) (c : Nat) (st : Stream) (i : Nat) : Bool :=
  st.runOpen &&
  (match s.ctx c st.owner with
  | some x => x.lid == st.lid && !x.ap.exited && x.frozen.isNone && !x.trapEnded && x.ap.wait.isNone
    && (match decodeFor .ap ((s.core c).fetch .ap x.lid x.ap.pc) with | .ok ins => !s.runWaits c x ins | .error _ => false)
    && (s.core c).runScan x.lid i runDepth [x.ap.pc] [] false
  | none => false)

/-- The stream may receive a row now: it runs, no command of its run and no fork is open (R168, R273, R387). -/
def State.mayFetch (s : State) (c i : Nat) (st : Stream) : Bool :=
  !dOut st.desc && !st.saved && !st.flt && !st.eosw && st.effects.isEmpty && st.run.isEmpty && !s.runGrows c st i

/-- The end of an inbound nest: its own, or the one `SEOS` set, with the marker's status (R164, R275). -/
def Stream.finish (st : Stream) : Nat × Nat := st.endPos.getD (rowTotal st.desc st.map, 0)

/-- Aligned 8-byte units of the next row that are read before the others (R127). -/
def State.readEarly (s : State) (c i : Nat) (t : Stream) (as units : List Nat) : State :=
  match s.farRead c { t with asked := none } (as.filter fun a => units.contains (a / 8)) with
  | (s1, .ok r) => s1.modStream c i fun t => { t with early := r.1.foldl (fun e q => tset e q.1 q.2) t.early }
  | (s1, .wait) => s1
  | _ => s
/-- The next row of an inbound stream from its far end (R154): a row from the host or a peer is asked for first, keeps its translation, and comes with the answer (R113, R117, R423); some of its units may be read before the others (R127). A row from scratchpad takes its bank a cycle for each row read (R26). -/
def State.fetchRow (s : State) (c i : Nat) (t : Stream) (units : List Nat) : State :=
  let total := rowTotal t.desc t.map
  let as := rowAddrs t.desc t.map total t.pos
  let q := if t.asked.isSome then (s, Eng.ok t.askPas) else s.farAddrs c t .read as
  let far := match q with | (s1, .ok r) => dKind t.desc != 1 && s1.anyFar (r.map Prod.fst) | _ => false
  if far && t.asked.isNone then
    (match q.2 with | .ok r => (q.1.modStream c i fun t => { t with asked := some (q.1.serial, q.1.time.toNat), askPas := r }).tick | _ => q.1)
  else if !units.isEmpty then (if far then s else s.readEarly c i t as units)
  else
    match s.farRead c t as with
    | (s1, .ok r) =>
      let bytes := t.early.foldl (fun (b : Tbl Byte) e => if as.contains e.1 then tset b e.1 e.2 else b) r.1
      let s2 := if dKind t.desc = 1 then { s1 with cycles := s1.cycles + ((as.map (· / 256)).eraseDups).length } else s1
      (s2.modStream c i fun t => { t with objOk := r.2 }).rowIn c i 0 (rowFrom t.desc t.map total t.pos bytes)
    | (s1, .wait) => s1
    | (s1, x) => s1.streamErr c i .read x

/-- `STREAM_ROW_FETCH` (R154): the next row, or the marker, of an inbound stream, or units of the row that are read early (R127). A halted one writes its last marker (R412). -/
def execStreamRowFetch (core : Nat) (a : RowAct) (s : State) : Out :=
  let st := a.st
  .next (match s.stream core st with
  | none => s
  | some t =>
    match t.owe with
    | some v =>
      if (s.core core).canFill t && !t.saved then (s.fillRow core st t 1 (eosRow v)).modStream core st fun t => { t with owe := none } else s
    | none =>
      let e := t.finish
      if !s.mayFetch core st t || !(s.core core).canFill t then s
      else if t.endPos.isSome ∧ e.1 ≤ t.pos then
        (if s.forkRoom core st t true then
          let s1 := s.rowIn core st 1 (eosRow e.2)
          match t.seos with
          | some q => (s1.modStream core st fun t => { t with seos := none }).complete core q.1
          | none => s1
        else s)
      else if !([0, 1, 2, 3, 6].contains (dKind t.desc)) || t.paused.isSome then s
      else if e.1 ≤ t.pos then (if s.forkRoom core st t true then s.rowIn core st 1 (eosRow e.2) else s)
      else if dKind t.desc = 3 || !s.forkRoom core st t false then s
      else s.fetchRow core st t a.units)

/-! ## One row of an outbound stream -/

/-- Puts the elements of a row into far-end bytes (R155). -/
def putElems (w : Nat) (r : Row) (t : Tbl Byte) (l : List (Option Int)) : Tbl Byte :=
  ((natsFrom 0 l.length).zip l).foldl (fun t p => match p.2 with
    | none => t
    | some b =>
      let n := ((b + w - 1) / 8 - b / 8 + 1).toNat
      let as := (natsFrom 0 n).map fun (i : Nat) => addr64 (b / 8 + (i : Int))
      let old := leNat (as.map fun a => tget t 0 a)
      (as.zip (leBytes n (setFld old (b % 8).toNat w (fld r.toNat (p.1 * w) w)))).foldl (fun t q => tset t q.1 q.2) t) t

/-- The head row of an outbound ring becomes empty (R161). -/
def State.dropHead (s : State) (c i : Nat) : State :=
  match s.stream c i with
  | some st => s.modCore c fun k => (k.drop1 i st false true).1
  | none => s
/-- The next position of an outbound stream. -/
def State.nextPos (s : State) (c i : Nat) : State := s.modStream c i fun st => { st with pos := st.pos + 1 }

/-- The launch's divert log: the physical address of its header, when it has one (R190, R191). -/
def State.divertLog (s : State) (lid : BitVec 32) : Option Nat :=
  match s.launch lid with
  | some l => let a := l.at 88 8; if a = 0 ∨ s.num a 8 = 0 then none else some a
  | none => none

/-- The bytes that an outbound row writes at physical addresses. -/
def State.rowCells (s : State) (t : Stream) (as pas : List Nat) (r : Row) : List Host.Cell :=
  let old := (as.zip pas).foldl (fun (o : Tbl Byte) q => tset o q.1 (match s.readByte q.2 with | .ok b => b | .error _ => 0)) []
  let new := putElems (dW t.desc) r old (rowElems t.desc t.map t.pos)
  (as.zip pas).map fun q => (q.2, tget new 0 q.1)
/-- Starts the write of the row at the head of an outbound ring: the row is then empty (R161), and its bytes land from then on (R127). -/
def State.startRow (s : State) (c i : Nat) (t : Stream) (r : Row) : State :=
  let el := rowElems t.desc t.map t.pos
  let as := elemBytes (dW t.desc) el
  if dKind t.desc = 1 then
    (match as.find? fun a => ((s.core c).locBytes c t.lid a 1).isNone with
    | some a => s.streamErr c i .write (.beyond a : Eng Unit)
    | none =>
      let old := as.foldl (fun (o : Tbl Byte) a => tset o a ((((s.core c).locBytes c t.lid a 1).getD []).getD 0 0)) []
      let new := putElems (dW t.desc) r old el
      ((s.dropHead c i).modStream c i fun t => { t with out := some { id := s.serial, since := s.time.toNat, row := r, cells := new, loc := true } }).tick)
  else
  match s.farAddrs c t .write as with
  | (s1, .wait) => s1
  | (s1, .ok p) =>
    let pas := p.map Prod.fst
    let cells := s1.rowCells t as pas r
    ((s1.dropHead c i).modStream c i fun t => { t with
      out := some { id := s1.serial, since := s1.time.toNat, row := r, cells := cells }, dur := t.dur || pas.any fun a => isDur (s1.homeAddr a) }).tick
  | (s1, .fault x y z) => s1.streamErr c i .write (.fault x y z : Eng Unit)
  | (s1, .breach u v) => s1.streamErr c i .write (.breach u v : Eng Unit)
  | (s1, _) => s1
/-- The row whose write has begun gets no acknowledgement: it is dropped, and the stream halts with code 15 (R423, R424, R451). -/
def State.rowLost (s : State) (c i : Nat) (t : Stream) : State :=
  let va := (elemBytes (dW t.desc) (rowElems t.desc t.map t.pos)).headD 0
  (s.modStream c i fun t => { t with out := none }).haltStream c i 7 1 15 (some va) false (posDet (some t) 0x70 ++ xDet 255 0 1 (s.pasidOf t.lid) 0)

/-- Diverts a row of an alarm stream, whose write to the host has begun, to its launch's log, while the log has room (R190, R191). -/
def State.divertRow (s : State) (c i : Nat) (t : Stream) (a : Nat) (r : Row) : State :=
  let cap := s.num a 8
  let w := s.num (a + 8) 8
  if (w + 2 ^ 64 - s.num (a + 16) 8) % 2 ^ 64 = cap then s else
  let own := fun (s : State) => (s.dstores.filter fun d => d.stream.any fun q => q.1 == t.sid).map DStore.id
  let at' := some (t.sid, t.pos)
  let s1 := s.cmdWrite c t.owner t.lid t.cmd (dClass t.desc) (cellsAt (a + 256 + 256 * (w % cap)) (rowBytes r)) 0 (own s) at'
  let s2 := s1.cmdWrite c t.owner t.lid t.cmd (dClass t.desc) (cellsAt (a + 8) (leBytes 8 (w + 1))) 1 (own s1) at'
  (s2.modLaunch t.lid fun l => { l with divRows := l.divRows ++ [{ core := c, handle := i, st := { t with out := none } }] }).modStream c i fun t => { t with out := none, pos := t.pos + 1 }

/-- The write of the row that has begun goes on (R161): units of it land, or what is left (R127), at its far end; or it goes to the log of a diverted stream. -/
def State.outRow (s : State) (c i : Nat) (t : Stream) (o : RowOut) (units : List Nat) : State :=
  if o.loc then (if units.isEmpty then s.endRow c i else s.landUnits c i t o units)
  else if t.divert then (match s.divertLog t.lid with | some a => s.divertRow c i t a o.row | none => s)
  else match s.way c false (o.cells.map Prod.fst) with
    | .wait => s
    | .down => s.rowLost c i t
    | .clear => if units.isEmpty then s.endRow c i else s.landUnits c i t o units

/-- The next row or marker of the ring goes out; behind the marker of a memory, local or host far end the engine stops (R161, R164). -/
def State.ringOut (s : State) (core st : Nat) (t : Stream) : State :=
  if t.count = 0 ∨ !(s.core core).isFull (t.key t.head) then s else
  let key := t.key t.head
  let r := (s.core core).row core key
  let f := dFar t.desc
  let total := rowTotal t.desc t.map
  let gone := fun (s : State) => (s.modStream core st fun t => { t with sent := true }).finishOpen core st
  if t.flt then (if t.fclass = 2 ∧ t.fcause = 9 ∧ (s.core core).kindOf key = 0 then s.dropHead core st else s)
  else if (s.core core).kindOf key = 1 then
    (if t.sent || (t.divert && (match s.launch t.lid with | some l => l.divRows.any fun q => q.core == core && q.handle == st | none => false)) then s
    else if dKind t.desc = 5 then gone s
    else if dKind t.desc = 4 ∧ !t.peerEnd then
      (match s.sink core st t.lid f.1 f.2 with
      | some (c2, u) => if u.room then gone ((s.dropHead core st).send c2 f.2 1 r) else s
      | none => s)
    else gone (s.dropHead core st))
  else if t.sent && !(dKind t.desc == 4 || dKind t.desc == 5) then s
  else if total ≤ t.pos then (s.dropHead core st).haltStream core st 2 1 9 none false (posDet (some t) 0x70)
  else if t.paused.isSome || dKind t.desc == 5 then s
  else if s.badBank core key then
    (s.dropHead core st).haltStream core st 11 1 4 (some ((dBank t.desc) * bankBytes + 256 * (t.first + t.head % Nat.max 1 t.depth))) true (posDet (some t) 0x70)
  else if dKind t.desc = 4 then
    (if t.peerEnd then (s.dropHead core st).nextPos core st else
      match s.sink core st t.lid f.1 f.2 with
      | some (c2, u) => if u.room && !u.eosw then ((s.dropHead core st).nextPos core st).send c2 f.2 0 r else s
      | none => s)
  else s.startRow core st t r

/-- The next write of an outbound stream (R161, R164): the row whose write has begun, else the marker an `SEOS` waits to write when the tail row is empty (R275), else what is oldest in the ring. -/
def State.rowOut (s : State) (core st : Nat) (units : List Nat) : State :=
  match s.stream core st with
  | none => s
  | some t =>
    if !dOut t.desc || t.saved then s else
    match t.out, t.seos with
    | some o, _ => s.outRow core st t o units
    | none, some q =>
      if (s.core core).canFill t then
        ((s.fillRow core st t 1 (eosRow q.2.toNat)).modStream core st fun t => { t with seos := none }).complete core q.1
      else s.ringOut core st t
    | none, none => s.ringOut core st t

/-- `INTERCORE_ROW_ARRIVE` (R167): the oldest row on its way is written to the consumer's tail. A row from the other die waits while the channel of its producer's row retrains (R8, R9, R449). -/
def execIntercoreRowArrive (core : Nat) (st : Nat) (s : State) : Out :=
  .next (match s.stream core st with
  | none => s
  | some t =>
    let held := match s.mateCore t.lid core (dFar t.desc).1 with | some c2 => s.crossHeld c2 (dieOf core) | none => false
    match t.transit with
    | [] => s
    | r :: rest =>
      if t.saved || held then s
      else if t.eosw || t.flt then s.modStream core st fun t => { t with transit := rest }
      else if !s.mayFetch core st t || !(s.core core).canFill t || !s.forkRoom core st t (r.kind != 0) then s
      else (s.modStream core st fun t => { t with transit := rest }).rowIn core st r.kind r.row)

/-! ## Host credit (R190, R191) -/

/-- `ALARM_CREDIT_TIMEOUT` (R190): the host has given no write credit to a row of an alarm stream, outbound to the host at QOS 3, for 10 us; it diverts its rows when its launch has a log. -/
def execAlarmCreditTimeout (core : Nat) (st : Nat) (s : State) : Out :=
  .next (match s.stream core st with
  | some t =>
    if dOut t.desc && dKind t.desc == 6 && dQos t.desc == 3 && (s.divertLog t.lid).isSome && !t.flt && !t.saved
        && t.out.any (fun o => decide (o.since + 10000 ≤ s.time.toNat)) then
      s.modStream core st fun t => { t with divert := true }
    else s
  | none => s)

/-- Sends the rows that a launch's log holds to the host in order, advancing RIDX past each row sent; it stops at a row that must wait, or that the host's translation refuses, whose stream halts (R191, R424). -/
def State.flushLog (s : State) (lid : BitVec 32) (a : Nat) : Nat → State
  | 0 => s
  | n + 1 =>
    match (s.launch lid).map Launch.divRows with
    | some (d :: rest) =>
      let rd := s.num (a + 16) 8
      let r := bytesRow (s.bytes (a + 256 + 256 * (rd % Nat.max 1 (s.num a 8))) 256)
      let as := elemBytes (dW d.st.desc) (rowElems d.st.desc d.st.map d.st.pos)
      (match s.farXlate d.core d.st .write as with
      | (s1, .ok p) =>
        let cells := s1.rowCells d.st as (p.map Prod.fst) r
        (((s1.devWrite cells).devWrite (cellsAt (a + 16) (leBytes 8 (rd + 1)))).modLaunch lid fun l => { l with divRows := rest }).flushLog lid a n
      | (s1, .wait) => s1
      | (s1, .fault code va det) =>
        let det := posDet (some d.st) 0x70 ++ det
        (match s1.stream d.core d.handle with
        | some u => if u.sid == d.st.sid then (if u.flt then s1 else s1.haltStream d.core d.handle 7 1 code (some va) false det)
          else s1.toLaunch lid (s1.mkRec 7 1 code (coreMaster mtStream d.core d.st.owner d.handle) (some va) lid (s1.rankAt lid d.core) det)
        | none => s1.toLaunch lid (s1.mkRec 7 1 code (coreMaster mtStream d.core d.st.owner d.handle) (some va) lid (s1.rankAt lid d.core) det))
      | (s1, _) => s1)
    | _ => s

/-- The launch whose log holds rows of a stream, open or closed since, or whose stream it is. -/
def State.creditFor (s : State) (core st : Nat) : Option (BitVec 32) :=
  match s.launches.find? fun l => l.divRows.any fun q => q.core == core && q.handle == st with
  | some l => some l.lid
  | none => (s.stream core st).map Stream.lid
/-- `HOST_CREDIT_RETURN` (R191): the logged rows of the stream's launch go to the host before any new row; the diversion ends once none is left. -/
def execHostCreditReturn (core : Nat) (st : Nat) (s : State) : Out :=
  .next (match s.creditFor core st with
  | some lid =>
    (match s.divertLog lid with
    | some a =>
      let n := match s.launch lid with | some l => l.divRows.length | none => 0
      let s1 := s.flushLog lid a n
      let left := match s1.launch lid with | some l => l.divRows.isEmpty | none => true
      if left then
        { s1 with cores := s1.cores.map fun (c, k) => (c, { k with streams := k.streams.map fun (i, u) => (i, if u.lid == lid then { u with divert := false } else u) }) }
      else s1
    | none => s)
  | none => s)

end Sys2Proof.Machine
end

