-- ==== Sys2Proof/Machine/StreamCmds.lean ====
section
/-! DEFINITION. What each stream command does when it starts (R153, R169 to R176, R271 to R276), and the close of a stream (R272, R417). -/
namespace Sys2Proof.Machine
open Sys2Proof

/-! ## Validity (R153) -/

/-- Rows of a line of an ingest channel, its header row included (R187, R188). -/
def lineRows (icfg : Word) : Nat := ceilDiv (fld icfg.toNat 27 15 + 1) 256 + b2n (bitN icfg.toNat 58)
/-- ICFG of a channel. -/
def State.icfgOf (s : State) (ch : Nat) : Word := tget s.icfg 0 ch

/-- The kind and direction pair is allowed, with POL and OPERS as the kind admits them (R152, R153). -/
def kindOk (d : BitVec 512) : Bool :=
  let k := dKind d
  if dOut d then !([2, 3, 7].contains k) && !bitN (dFlags d) 5 && (!dOpers d || k == 0)
  else k != 7 && dPol d != 3 && ((dPol d != 0) == (k == 3))
/-- REMOTE has no bit its kind does not name (R152). DESIGN CHOICE: an expander port number that R186 does not list is accepted (log 23). -/
def remoteOk (d : BitVec 512) : Bool :=
  let r := dRemote d
  match dKind d with
  | 2 => decide (r < 256)
  | 3 => decide (r < 64)
  | 4 => decide (r < 2 ^ 21)
  | 5 => decide (r < 8)
  | _ => r == 0

/-- The descriptor's own fields are valid (R147 to R153); the map, the bank and the ring's channel aside. -/
def descOk (d : BitVec 512) (fabric : Bool) : Bool :=
  decide (bytesAt d 42 1 ≤ 14) && decide (1 ≤ dRowlen d) && decide (dRowlen d * dW d ≤ 2048)
    && fld (bytesAt d 48 4) 25 7 == 0 && decide (1 ≤ dDepth d) && decide (dFirst d + dDepth d ≤ 768)
    && fld (bytesAt d 56 4) 18 14 == 0 && fld (bytesAt d 56 4) 10 6 == 0 && decide (dRetain d + 1 ≤ dDepth d)
    && fld (bytesAt d 60 4) 11 21 == 0 && fld (bytesAt d 60 4) 4 4 == 0 && (dUnit d || dBoff d == 0)
    && kindOk d && remoteOk d && !(dKind d == 5 && fabric)
    && (!dTmode d || (!([1, 3, 4, 5].contains (dKind d)) && decide (bytesAt d 44 4 % 64 = 0)))

/-- The descriptor is valid for its gang and channel (R153). -/
def State.descFits (s : State) (c : Nat) (lid : BitVec 32) (d : BitVec 512) : Bool :=
  (dKind d != 4 || (s.mateCore lid c (dFar d).1).isSome)
    && (dKind d != 3 || decide (dRetain d + lineRows (s.icfgOf (dRemote d)) + 1 ≤ dDepth d))

/-- The fabric port a stream uses (R348). -/
def fabricPort (d : BitVec 512) (near : Near) : Option Nat :=
  match near with
  | .fp p => some p
  | .ep _ => if dKind d = 5 then some (dRemote d) else none
/-- The near end's port, or the fabric port, is bound already: an EP port in its context, a fabric port on the core (R271, R348). -/
def State.portBound (s : State) (c : Nat) (x : Ctx) (d : BitVec 512) (near : Near) : Bool :=
  (match near with | .ep _ => (tfind x.ports (portKey near (dOut d))).isSome | .fp _ => false)
    || (match fabricPort d near with
      | some p => (s.coreStreams c).any fun q => fabricPort q.2.desc q.2.near == some p && q.2.depth != 0
      | none => false)

/-- An open stream, one of a pre-empted gang among them, names the ingest channel (R189). -/
def State.chNamed (s : State) (ch : Nat) : Bool :=
  let names := fun (t : Nat × Stream) => !dOut t.2.desc && dKind t.2.desc == 3 && dRemote t.2.desc == ch && !t.2.saved && t.2.depth != 0
  (s.cores.any fun q => q.2.streams.any names)
    || s.launches.any fun l => l.phase == .preempted && l.saved.any fun q => q.2.streams.any names
/-- The ingest port of a channel is trained (R17). -/
def State.chTrained (s : State) (ch : Nat) : Bool := s.west.boot.ingest.getLsbD (fld (s.icfgOf ch).toNat 61 2)

/-- A stream as `SOPEN` leaves it (R271). -/
def Stream.fresh (owner : Nat) (lid : BitVec 32) (cmd : Nat) (d m : BitVec 512) (bank : Nat) (near : Near) (sig : Option (BitVec 4)) (dnar : BitVec 16) : Stream :=
  { owner := owner, lid := lid, cmd := cmd, desc := d, map := m, saved := false, bank := bank, first := dFirst d, depth := dDepth d, near := near, pos := 0,
    mark := none, headPos := 0, head := 0, tail := 0, count := 0, held := 0, repl := 0, eosw := false, pend := sig.isSome, sig := sig, done := false,
    flt := false, fcause := 0, fclass := 0, faddr := 0, paused := none, forkTo := none, forkOn := false, forkEos := false, fhw := 0, endPos := none,
    effects := [], seos := none, transit := [], gap := 0, divert := false, objOk := [], sid := cmd, dnar := dnar, asked := none, out := none,
    sent := false, skips := [], dur := false, peerEnd := false, owe := none, run := [], runOpen := false }

/-- The numbers of the run directly behind an `SOPEN` in the queue, and whether it reaches the queue's end (R387). -/
def runOf (m : Cmd) (i : Nat) : List Cmd → List Nat × Bool
  | [] => ([], true)
  | q :: r =>
    if runHandle q.instr = some i ∧ q.slot = m.slot ∧ q.lid = m.lid then (let z := runOf m i r; (q.id :: z.1, z.2)) else ([], false)

/-- Adds a stream: its ring rows become empty data rows, and its port is bound (R271). -/
def State.addStream (s : State) (c i : Nat) (st : Stream) : State :=
  (s.modCore c fun k => { (k.clearRing st) with streams := tset k.streams i st }).modCtx c st.owner fun x =>
    match st.near with
    | .ep _ => { x with ports := tset x.ports (portKey st.near (dOut st.desc)) i }
    | .fp _ => x

/-- A stream-state error halts the command only (R268, R411). -/
def State.streamBad (s : State) (c : Nat) (m : Cmd) (i cause opc : Nat) : State := s.haltCmd c m 2 cause none (posDet (s.stream c i) opc)

/-- `SOPEN` fails with a cause that halts the stream: its context holds the fault, without ring or port (R411; log 74). -/
def State.openBad (s : State) (c : Nat) (m : Cmd) (i cause : Nat) (d : BitVec 512) (near : Near) (off : Option Nat) : State :=
  let st := { Stream.fresh m.slot m.lid m.id d 0 0 near m.tk.sig m.dnar with first := 0, depth := 0 }
  (s.modCore c fun k => { k with streams := tset k.streams i st }).haltStream c i 2 1 cause off off.isSome (posDet (some st) 0x70)

/-- A waiting `SFORK` whose partner is open takes effect, or is found to name the wrong stream (R168, R273). -/
def State.settleForks (s : State) (c i : Nat) : State :=
  match s.stream c i with
  | none => s
  | some st =>
    match st.effects, st.forkTo with
    | m :: _, some (r, h) =>
      (match s.mateCore st.lid c r with
      | none => s
      | some c2 =>
        match s.stream c2 h with
        | none => s
        | some _ =>
          match s.sink c i st.lid r h with
          | some _ => (s.modStream c i fun st => { st with effects := [], fhw := st.pos, run := st.run.filter (· != m.id) }).complete c m
          | none =>
            (s.modStream c i fun st => { st with effects := [], forkOn := false, forkTo := none, run := st.run.filter (· != m.id) }).streamBad c m i 4 0x72)
    | _, _ => s
/-- Every stream of a gang whose fork waits looks again, once a stream has opened (R273). -/
def State.settleAll (s : State) (lid : BitVec 32) : State :=
  (s.cores.map fun q => (q.2.streams.filter fun t => t.2.lid == lid && !t.2.effects.isEmpty).map fun t => (q.1, t.1)).flatten.foldl (fun s q => s.settleForks q.1 q.2) s

/-- The words an aligned 8-byte unit of a tensor map held before stores of an AP that a command may not see yet: no release or full `FENCE` that covers both classes stands between one and the command, nor behind a later store to the unit (R139). -/
def oldWords (id : Nat) (cls : BitVec 4) : List OldUnit → List Word
  | [] => []
  | o :: r =>
    if (o :: r).any fun e => e.fences.any fun f => decide (f.1 < id) && f.2.getLsbD e.cls.toNat && f.2.getLsbD cls.toNat then oldWords id cls r
    else o.word :: oldWords id cls r
/-- What a command reads of a tensor map: each aligned 8-byte unit holds its new contents or, a free choice, old ones of a store it may not see (R139). -/
def State.mapSeen (s : State) (c : Nat) (m : Cmd) (cls : BitVec 4) (a : Nat) (l : List Byte) : State × List Byte :=
  let notes := ((s.core c).ctxs.filter fun q => q.2.lid == m.lid).flatMap fun q => q.2.ap.mapOld
  let olds := (natsFrom 0 8).map fun u => oldWords m.id cls (notes.filter fun o => o.unit == a / 8 + u)
  if olds.all List.isEmpty then (s, l) else
  let pick := (Config.freeWord s.fresh).toNat
  (s.drawn, (((natsFrom 0 8).zip olds).map fun q => match q.2[pick / 16 ^ q.1 % 16]? with | some w => leBytes 8 w.toNat | none => sliceB l (8 * q.1) 8).flatten)
/-- The tensor map of a descriptor, as its command reads it: its 64 bytes, zero outside tensor-map mode; none beyond the allotment. -/
def State.mapOf (s : State) (c : Nat) (m : Cmd) (d : BitVec 512) : State × Option (BitVec 512) :=
  if dTmode d then
    (match (s.core c).locBytes c m.lid (dTmap d) 64 with
    | some l => let q := s.mapSeen c m (dClass d) (dTmap d) l; (q.1, some (BitVec.ofNat 512 (leNat q.2)))
    | none => (s, none))
  else (s, some 0)

/-- The start of `SOPEN` (R271). -/
def State.startSopen (s : State) (c : Nat) (m : Cmd) (x : Ctx) (f : SopenF) : State :=
  let i := f.st.toNat
  let near := if f.ne then Near.fp f.np.toNat else .ep f.np.toNat
  let a := (m.vals.getD 0 0).toNat
  if (s.coreStreams c).any fun q => q.1 == i then (s.begin c .stream m).streamBad c m i 2 0x70 else
  match s.engRead c m f.loc .read a 64 with
  | (s1, .beyond off) => (s1.begin c .stream m).openBad c m i 14 0 near (some off)
  | (s1, .ok l) =>
    let d := BitVec.ofNat 512 (leNat l)
    if x.owes m.id (clsMask (dClass d)) then s1 else
    let run := runOf m i (((s1.core c).queue .stream).drop 1)
    let s2 := s1.begin c .stream m
    let bad := fun (cause : Nat) => s2.openBad c m i cause d near none
    let k := s2.core c
    if a % 64 ≠ 0 ∨ !descOk d f.ne ∨ !s2.descFits c m.lid d then bad 1 else
    match k.bankOf m.lid (dBank d) with
    | none => bad 14
    | some b =>
      if k.ownedBanks.contains b then bad 14 else
      match s2.mapOf c m d with
      | (_, none) => s2.openBad c m i 14 d near (some (dTmap d))
      | (s2, some map) =>
        if dTmode d && s2.locPoison c m.lid (natsFrom (dTmap d) 64) then s2.haltEng c m .read 2 14 (posDet none 0x70) (.poison (dTmap d) : Eng Unit)
        else if dTmode d && !mapOk map (dFmt d) (dOut d) then s2.openBad c m i 1 d near none
        else if dKind d = 3 ∧ (!s2.chTrained (dRemote d) ∨ s2.chNamed (dRemote d)) then s2.openBad c m i 12 d near none
        else if s2.portBound c x d near then s2.streamBad c m i 3 0x70
        else
          let st := { Stream.fresh m.slot m.lid m.id d map b near m.tk.sig m.dnar with run := run.1, runOpen := run.2 }
          (s2.addStream c i st).settleAll m.lid
  | (s1, .wait) => s1
  | (s1, e) => (s1.begin c .stream m).haltEng c m .read 2 14 (posDet none 0x70) e

/-! ## Close (R272, R417) -/

/-- The end-of-stream marker is written to the buffer of an inbound stream, or has passed to the far end of an outbound one (R272). -/
def Stream.over (st : Stream) : Bool := if dOut st.desc then st.sent else st.eosw
/-- A stream ends: an early close completes `SOPEN` and marks the far end; the rows become empty and the port is free. -/
def State.closeStream (s : State) (c i status : Nat) : State :=
  match s.stream c i with
  | none => s
  | some st =>
    let s1 := match st.seos with | some q => s.complete c q.1 | none => s
    let s2 := st.effects.foldl (fun s m => s.drop c m) s1
    let s3 := if st.over || st.saved then s2 else (s2.finishOpen c i).farMark c i status
    let s4 := s3.modCore c fun k => { (if st.saved then k else k.clearRing st) with streams := tdel k.streams i }
    s4.modCtx c st.owner fun x => { x with ports := x.ports.filter fun p => p.2 != i }

/-- The stream a command names, when its context owns it. -/
def State.ownStream (s : State) (c : Nat) (m : Cmd) (i : Nat) : Option Stream := (s.stream c i).filter fun st => st.owner == m.slot && st.lid == m.lid

/-- The start of `SCLOSE` (R272); a row whose write has begun is written first. -/
def State.startSclose (s : State) (c : Nat) (m : Cmd) (x : Ctx) (f : StcF) : State :=
  let i := f.st.toNat
  match s.ownStream c m i with
  | none => (s.begin c .stream m).streamBad c m i 2 0x71
  | some st =>
    if x.owes m.id (clsMask (dClass st.desc)) || st.out.isSome then s else
    ((s.begin c .stream m).closeStream c i 0xF0).complete c m

/-! ## Fork, mark, rewind (R168 to R170, R273) -/

/-- A command of a run has taken effect or failed (R387). -/
def State.endRun (s : State) (c i id : Nat) : State := s.modStream c i fun st => { st with run := st.run.filter (· != id) }

/-- The start of `SFORK` (R273). -/
def State.startSfork (s : State) (c : Nat) (m : Cmd) (x : Ctx) (f : SforkF) : State :=
  let i := f.st.toNat
  match (s.ownStream c m i).filter fun st => !st.saved with
  | none => (s.begin c .stream m).streamBad c m i 2 0x72
  | some st =>
    if x.owes m.id (clsMask (dClass st.desc)) then s else
    let s1 := s.begin c .stream m
    if dOut st.desc || st.forkOn || (s.mateCore m.lid c f.rank.toNat).isNone then (s1.streamBad c m i 4 0x72).endRun c i m.id
    else (s1.modStream c i fun st => { st with forkOn := true, forkTo := some (f.rank.toNat, f.ph.toNat), effects := [m] }).settleForks c i

/-- The start of `SMARK` (R169). -/
def State.startSmark (s : State) (c : Nat) (m : Cmd) (x : Ctx) (f : StcF) : State :=
  let i := f.st.toNat
  match (s.ownStream c m i).filter fun st => !st.saved with
  | none => (s.begin c .stream m).streamBad c m i 2 0x73
  | some st =>
    if x.owes m.id (clsMask (dClass st.desc)) then s else
    let s1 := s.begin c .stream m
    if dOut st.desc then s1.streamBad c m i 5 0x73
    else ((s1.modStream c i fun st => { st with mark := some st.headPos }).endRun c i m.id).complete c m

/-- How many ring rows before the head hold the data rows from a position on; none when they are not all held (R170). -/
def Core.heldBack (k : Core) (st : Stream) (mark : Nat) : Nat → Nat → Nat → Option Nat
  | n, at', 0 => if at' = mark then some n else none
  | n, at', fuel + 1 =>
    if at' = mark then some n else
    let i := (st.head + st.depth - n - 1) % Nat.max 1 st.depth
    k.heldBack st mark (n + 1) (if k.kindOf (st.key i) = 0 then st.before at' else at') fuel

/-- A rewind of a source that is fetched again (R170): every full row and marker is discarded, held rows are released. -/
def Core.refetch (k : Core) (i : Nat) (st : Stream) (mark : Nat) : Core :=
  let k1 := (natsFrom 0 st.count).foldl (fun k n => k.setFull (st.key (st.head + n)) false) k
  let st1 := { st with head := st.tail, count := 0, held := 0, repl := 0, pos := mark, headPos := mark, eosw := false, paused := none, asked := none, askPas := [], early := [], objOk := [] }
  { k1 with streams := tset k1.streams i st1 }
/-- A rewind within the held rows: n rows before the head become full again, the replay rows first (R170, R171). -/
def Core.refill (k : Core) (i : Nat) (st : Stream) (mark n : Nat) : Core :=
  let k1 := (natsFrom 1 n).foldl (fun k j => k.setFull (st.key (st.head + st.depth - j)) true) k
  let st1 := { st with head := (st.head + st.depth - n) % Nat.max 1 st.depth, count := st.count + n, held := st.held - n, repl := st.repl - n, headPos := mark }
  { k1 with streams := tset k1.streams i st1 }

/-- The start of `SREWIND` (R170, R414). -/
def State.startSrewind (s : State) (c : Nat) (m : Cmd) (x : Ctx) (f : StcF) : State :=
  let i := f.st.toNat
  match (s.ownStream c m i).filter fun st => !st.saved with
  | none => (s.begin c .stream m).streamBad c m i 2 0x74
  | some st =>
    if x.owes m.id (clsMask (dClass st.desc)) then s else
    let s1 := s.begin c .stream m
    match (if dOut st.desc then none else st.mark) with
    | none => s1.streamBad c m i 5 0x74
    | some dest =>
      if [0, 1, 2, 6].contains (dKind st.desc) then (s1.modCore c fun k => k.refetch i st dest).complete c m
      else match (s1.core c).heldBack st dest 0 st.headPos st.held with
        | some n => (s1.modCore c fun k => k.refill i st dest n).complete c m
        | none => s1.streamBad c m i 6 0x74

/-! ## SEOS (R275) -/

/-- The start of `SEOS` (R275); a row whose fetch has begun comes before the marker. DESIGN CHOICE: one that finds an earlier marker still waiting to be written is a stream-state error too (log 26). -/
def State.startSeos (s : State) (c : Nat) (m : Cmd) (x : Ctx) (f : SeosF) : State :=
  let i := f.st.toNat
  match (s.ownStream c m i).filter fun st => !st.saved with
  | none => (s.begin c .stream m).streamBad c m i 2 0x77
  | some st =>
    if x.owes m.id (clsMask (dClass st.desc)) then s else
    let s1 := s.begin c .stream m
    if st.eosw || st.seos.isSome || (!dOut st.desc && (dKind st.desc == 4 || dKind st.desc == 5))
        || ((natsFrom 0 st.count).any fun n => dOut st.desc && (s.core c).kindOf (st.key (st.head + n)) == 1) then s1.streamBad c m i 7 0x77
    else if dOut st.desc then s1.modStream c i fun st => { st with seos := some (m, f.status) }
    else s1.modStream c i fun st => { st with seos := some (m, f.status), endPos := some (st.pos + b2n (st.asked.isSome || !st.early.isEmpty), f.status.toNat) }

/-! ## Save and restore (R172 to R174, R274) -/

/-- The ring rows and the context of a stream are free; its handle and port stay, and rows on their way to it wait (R174, R274). -/
def Core.saveStream (k : Core) (i : Nat) (st : Stream) : Core :=
  let k1 := k.clearRing st
  { k1 with
    streams := tset k1.streams i { st with saved := true, done := true, runOpen := false, run := [], effects := [], asked := none, askPas := [], early := [] }
    live := k1.live.filter fun m => m.id != st.cmd && !st.effects.any fun e => e.id == m.id }
/-- The device notes what a saved stream was: the part of it that the record of R172 does not hold (log 75). -/
def State.noteSaved (s : State) (c i : Nat) (st : Stream) : State :=
  { s with saves := { core := c, handle := i, st := st } :: s.saves.filter fun q => !(q.core == c && q.handle == i && q.st.rcd == st.rcd) }
/-- The stream whose record an image opens with, as it was when it was saved; a saved one that still owns the handle comes first, and rows and markers that have come for it since are not lost. -/
def State.savedAs (s : State) (here : Option Stream) (l : List Byte) : Option Stream :=
  match here.filter fun st => st.rcd == sliceB l 0 128 with
  | some st => some st
  | none => (s.saves.find? fun q => q.st.rcd == sliceB l 0 128).map fun q =>
    match here.filter fun st => st.sid == q.st.sid with
    | some st => { q.st with transit := st.transit, peerEnd := st.peerEnd }
    | none => q.st

/-- Writes bytes for a command at an address or a local offset. -/
def State.engWrite (s : State) (c : Nat) (m : Cmd) (loc : Bool) (cls : BitVec 4) (a : Nat) (l : List Byte) : State × Eng Unit :=
  if loc then
    (if (s.core c).locOk m.lid a l.length then (s.putLoc c m.lid (cellsAt a l), .ok ()) else (s, .beyond a))
  else
    match s.cmdXlate c m .write ((natsFrom a l.length).map fun v => v % 2 ^ 64) with
    | (s1, .ok r) => (s1.cmdWrite c m.slot m.lid m.id cls ((r.map Prod.fst).zip l) 1 [] none, .ok ())
    | (s1, .fault x y z) => (s1, .fault x y z)
    | (s1, .breach u v) => (s1, .breach u v)
    | (s1, _) => (s1, .wait)

/-- The start of `SSAVE` (R174, R274). It waits while a marker of `SEOS` is still to be written, and for a row whose write has begun. -/
def State.startSsave (s : State) (c : Nat) (m : Cmd) (x : Ctx) (f : SsaveF) : State :=
  let i := f.st.toNat
  match (s.ownStream c m i).filter fun st => !st.saved with
  | none => (s.begin c .stream m).streamBad c m i 2 0x75
  | some st =>
    if x.owes m.id (clsMask (dClass st.desc)) || (st.seos.isSome && !st.flt) || st.out.isSome then s else
    let a := (m.vals.getD 0 0).toNat
    if a % 256 ≠ 0 then (s.begin c .stream m).streamBad c m i 14 0x75 else
    match s.engWrite c m f.loc (dClass st.desc) a ((s.core c).image c st) with
    | (s1, .wait) => s1
    | (s1, .ok _) => (((s1.begin c .stream m).modCore c fun k => k.saveStream i st).noteSaved c i st |>.complete c m)
    | (s1, e) => (s1.begin c .stream m).haltEng c m .write 2 14 (posDet (some st) 0x75) e

/-- A record has no reserved bit set, and its descriptor and ring state are those of a stream (R172, R274). -/
def recOk (l : List Byte) (d : BitVec 512) (fabric : Bool) : Bool :=
  let sfl := leAt l 102 2
  descOk d fabric && fld sfl 13 3 == 0 && fld sfl 6 2 == 0 && fld (leAt l 104 4) 21 10 == 0 && fld (leAt l 108 4) 20 12 == 0 && leAt l 119 1 == 0
    && decide (leAt l 96 2 < dDepth d) && decide (leAt l 98 2 < dDepth d) && decide (leAt l 100 2 ≤ dDepth d)

/-- The stream a record describes, placed at a bank and row; what the record does not hold comes from the stream as it was saved (log 75). -/
def streamOf (l : List Byte) (d map : BitVec 512) (m : Cmd) (bank first : Nat) (near : Near) (old : Option Stream) : Stream :=
  let sfl := leAt l 102 2
  let fk := leAt l 104 4
  let eosw := bitN sfl 1
  let flt := bitN sfl 5
  let o := old.getD (Stream.fresh m.slot m.lid m.id d map bank near none m.dnar)
  { Stream.fresh m.slot m.lid m.id d map bank near (if bitN sfl 12 then some (BitVec.ofNat 4 (fld sfl 8 4)) else none) m.dnar with
    first := first, pos := posNat d l 64, mark := if bitN sfl 3 then some (posNat d l 80) else none
    head := leAt l 96 2, tail := leAt l 98 2, count := leAt l 100 2, held := if dOut d then 0 else fld (leAt l 108 4) 0 10, repl := fld (leAt l 108 4) 10 10
    eosw := eosw, pend := bitN sfl 4, flt := flt
    forkOn := bitN sfl 2, forkTo := if bitN fk 31 then some (fld fk 0 16, fld fk 16 5) else none, fhw := leAt l 112 4
    forkEos := bitN sfl 2 && (eosw || o.forkEos)
    fcause := leAt l 116 2, fclass := leAt l 118 1, faddr := BitVec.ofNat 64 (leAt l 120 8)
    owe := if flt && !eosw && !dOut d then some 0xF1 else none
    sid := o.sid, endPos := o.endPos, gap := o.gap, divert := o.divert, objOk := o.objOk, transit := o.transit, peerEnd := o.peerEnd
    paused := o.paused, skips := o.skips, dur := o.dur }

/-- Puts the rows and row states of an image into the ring (R173). -/
def Core.putImage (k : Core) (st : Stream) (l : List Byte) : Core :=
  (natsFrom 0 st.depth).foldl (fun k i =>
    let b := leAt l (128 + 256 * st.depth + i) 1
    ((k.setRow (st.key i) (bytesRow (sliceB l (128 + 256 * i) 256))).setFull (st.key i) (bitN b 0)).setKind (st.key i) (BitVec.ofNat 2 (b / 2))) k

/-- The position of the row at the head of a restored ring, and whether an outbound marker has gone on: it stands in the ring no more, or, for a fabric port, stands at the head (R164, R169). -/
def Core.putBack (k : Core) (i : Nat) (st : Stream) (old : Option Stream) : Core :=
  let full := fun (j : Nat) => k.isFull (st.key (st.head + j)) && k.kindOf (st.key (st.head + j)) == 1
  let gone := dOut st.desc && st.eosw && (if dKind st.desc = 5 then full 0 else !((natsFrom 0 st.count).any full))
  let hp := if dOut st.desc then 0 else match old with | some o => o.headPos | none => k.headPosOf st
  { k with streams := tset k.streams i { st with headPos := hp, sent := gone, done := st.flt || (if dOut st.desc then gone else st.eosw) } }
/-- The start of `SREST` (R274). -/
def State.startSrest (s : State) (c : Nat) (m : Cmd) (x : Ctx) (f : SrestF) : State :=
  let i := f.st.toNat
  let near := if f.ne then Near.fp f.np.toNat else .ep f.np.toNat
  let a := (m.vals.getD 0 0).toNat
  let here := s.stream c i
  if ((s.coreStreams c).any fun q => q.1 == i) && !(here.any fun st => st.saved && st.owner == m.slot && st.lid == m.lid) then (s.begin c .stream m).streamBad c m i 2 0x76 else
  match s.engRead c m f.loc .read a 128 with
  | (s1, .wait) => s1
  | (s1, .ok l) =>
    let d := BitVec.ofNat 512 (leAt l 0 64)
    if x.owes m.id (clsMask (dClass d)) then s1 else
    let bad := fun (s : State) (cause : Nat) => (s.begin c .stream m).streamBad c m i cause 0x76
    if a % 256 ≠ 0 ∨ !recOk l d f.ne ∨ (leAt l 102 2) % 2 = 0 then bad s1 8 else
    match s1.engRead c m f.loc .read a (imageLen (dDepth d)) with
    | (s2, .wait) => s2
    | (s2, .ok img) =>
      let k := s2.core c
      let bank := match f.rl with | some p => p.1.toNat | none => dBank d
      let first := match f.rl with | some p => p.2.toNat | none => dFirst d
      let away := (dKind d == 4 || bitN (leAt l 102 2) 2) && !s2.saves.any fun q => q.core == c && q.handle == i && q.st.lid == m.lid && q.st.desc == d
      if decide (768 < first + dDepth d) || away then bad s2 8 else
      (match k.bankOf m.lid bank with
      | none => bad s2 14
      | some b =>
        if k.ownedBanks.contains b then bad s2 14 else
        match s2.mapOf c m d with
        | (_, none) => (s2.begin c .stream m).haltEng c m .read 2 14 (posDet none 0x76) (.beyond (dTmap d) : Eng Unit)
        | (s2, some map) =>
          if dTmode d && !mapOk map (dFmt d) (dOut d) then bad s2 8
          else if dKind d = 3 ∧ s2.chNamed (dRemote d) then bad s2 12
          else
            let s3 := s2.begin c .stream m
            let s4 := (s3.modCore c fun k => { k with streams := tdel k.streams i }).modCtx c m.slot fun x => { x with ports := x.ports.filter fun p => p.2 != i }
            if (match s4.ctx c m.slot with | some y => s4.portBound c y d near | none => false) then s3.streamBad c m i 3 0x76
            else
              let old := s2.savedAs here l
              let st := streamOf l d map m b first near old
              let s5 := (natsFrom 0 st.depth).foldl (fun s j => s.rowWhole c (st.key j)) (s4.addStream c i st)
              let s6 := s5.modCore c fun k => (k.putImage st img).putBack i st old
              (s6.settleAll m.lid).complete c m)
    | (s2, e) => (s2.begin c .stream m).haltEng c m .read 2 14 (posDet none 0x76) e
  | (s1, e) => (s1.begin c .stream m).haltEng c m .read 2 14 (posDet none 0x76) e

/-! ## SINFO (R276) -/

/-- The word `SINFO` gives for a stream its context owns. -/
def Stream.info (st : Stream) : Nat :=
  2 ^ 48 * (st.held % 2 ^ 16) + 2 ^ 32 * (st.count % 2 ^ 16) + 2 ^ 16 * (st.fhw % 2 ^ 16) + 256 * b2n (dOut st.desc) + 128 * b2n st.flt
    + 64 * b2n st.mark.isSome + 32 * b2n st.forkOn + 16 * b2n st.eosw + 8 * b2n st.saved + 4 * b2n st.pend + 3

/-- `SINFO` (R276): at issue, unordered with queued commands. -/
def execSinfo (f : SinfoF) (s : State) : Out :=
  .next (apSimple f.g [f.d] (fun c n x s =>
    let v := match ((s.coreStreams c).find? fun q => q.1 == f.st.toNat).map Prod.snd with
      | none => 0
      | some st => if st.owner == n && st.lid == x.lid then st.info else 1
    .done (s.setCtx c n { x with ap := x.ap.setS f.d.toNat (BitVec.ofNat 64 v) })) s)

end Sys2Proof.Machine
end

