-- ==== Sys2Proof/Machine/Copies.lean ====
section
/-! DEFINITION. Copies and rotation: the start of a copy (R180, R278, R427), the dispatch of chunks (R178, R179), a chunk's reads and writes (R117, R120, R426), completion (R181), `CPDRAIN`, and `ROT` (R183). -/
namespace Sys2Proof.Machine
open Sys2Proof

/-! ## The start of a copy -/

/-- The fields of a copy command. -/
def cpyOf : Instr → Option CpyF
  | .cpy f => some f
  | .cpyNb f _ => some f
  | _ => none
/-- The chunk size (R178). -/
def chunkBytes : Nat := 2048

/-- The C bit of the page of an address, when it has a leaf. -/
def State.pageC (s : State) (c pasid va : Nat) : Option Bool :=
  if !canonical va then none else
  match ((s.core c).tlb ++ (s.die (dieOf c)).tlb).find? (tlbHit pasid va) with
  | some t => some (pteC t.leaf.toNat)
  | none => (match s.walk (bitN s.astbase.toNat 0) pasid va with | .leaf e _ => some (pteC e) | .fault _ _ _ => none)
/-- The physical address of an address with a leaf, permissions aside. -/
def State.pagePa (s : State) (c pasid va : Nat) : Option Nat :=
  if !canonical va then none else
  match ((s.core c).tlb ++ (s.die (dieOf c)).tlb).find? (tlbHit pasid va) with
  | some t => some (tlbPa t va)
  | none => (match s.walk (bitN s.astbase.toNat 0) pasid va with | .leaf e _ => some (tlbPa (tlbEntry pasid va e) va) | .fault _ _ _ => none)

/-- The offsets below len at which a range from a starts or enters a page. -/
def pageOffs (a len : Nat) : List Nat := (natsFrom 0 ((a % 4096 + len + 4095) / 4096)).map fun k => if k = 0 then 0 else 4096 * k - a % 4096

/-- The elements of the tensor a map describes (R278). -/
def tmCount (m : BitVec 512) : Nat := ((natsFrom 0 (mDims m)).map (mExt m)).foldl (· * ·) 1
/-- Its element width. -/
def tmWidth (m : BitVec 512) : Nat := tyWidth (fld (mForm m) 8 4)
/-- Element k in coordinate order, dimension 0 innermost. -/
def tmElem (m : BitVec 512) (k : Nat) : Option Int :=
  let c := (natsFrom 0 5).map fun d =>
    if d < mDims m then ((k / ((natsFrom 0 d).map (mExt m)).foldl (· * ·) 1 % Nat.max 1 (mExt m d) : Nat) : Int) else 0
  mElem m (tmWidth m) c
/-- The map suits a copy of len bytes (R278). -/
def tmOk (m : BitVec 512) (len : Nat) : Bool :=
  fld (mForm m) 8 4 != 15 && mapOk m (fld (mForm m) 8 4) false && mFH m == 0 && len == ceilDiv (tmCount m * tmWidth m) 8

/-- The byte addresses of a tensor's elements, in coordinate order. -/
def tmAddrs (m : BitVec 512) : List Nat := elemBytes (tmWidth m) ((natsFrom 0 (tmCount m)).map (tmElem m))
/-- The sink and source pages match the mode (R180); a page without a leaf is left to its chunk (R424). A local offset counts as a page with C = 0, and is no object; the pages of a tensor all have the C of the sink. -/
def State.modeOk (s : State) (c pasid : Nat) (f : CpyF) (map : BitVec 512) (src dst len : Nat) : Bool :=
  let cOf := fun (loc : Bool) (a : Nat) => if loc then some false else s.pageC c pasid (a % 2 ^ 64)
  let cs := fun (loc : Bool) (l : List Nat) => (l.filterMap (cOf loc)).eraseDups
  match f.mode with
  | .plain =>
    if f.tm then decide ((cs false ((tmAddrs map).map fun a => a / 4096 * 4096) ++ cs f.dl ((pageOffs dst len).map (dst + ·))).eraseDups.length ≤ 1)
    else ((pageOffs src len ++ pageOffs dst len).filter (· < len)).all fun o =>
      match cOf f.sl (src + o), cOf f.dl (dst + o) with | some a, some b => a == b | _, _ => true
  | .compress =>
    ((pageOffs src len).all fun o => (cOf f.sl (src + o)).getD false == false)
      && ((pageOffs dst len).all fun o => (cOf false (dst + o)).getD true == true)
      && (match s.pagePa c pasid dst with | some pa => pa % 4096 == 0 | none => true)
  | .expand =>
    !f.sl && (cOf false src).getD true == true && ((pageOffs dst len).all fun o => (cOf false (dst + o)).getD false == false)
      && (match s.pagePa c pasid src with | some pa => pa % 4096 == 0 && s.tag (s.homeAddr pa / 4096) == 1 | none => true)

/-- A completed drain: no `CPY` the context issued before it on the channel is queued or running (R181). -/
def Core.drained (k : Core) (m : Cmd) (ch : Nat) : Bool :=
  !(k.pendingCmds.any fun e => decide (e.id < m.id) && e.slot == m.slot && e.lid == m.lid
    && (match cpyOf e.instr with | some f => f.ch.toNat == ch | none => false))
/-- Completes the drains of a core that are met. -/
def State.settleDrains (s : State) (c : Nat) : State :=
  ((s.core c).live.filter fun m => match m.instr with | .cpdrain f => (s.core c).drained m f.ch.toNat | _ => false).foldl (fun s m => s.complete c m) s

/-- The start of a copy (R278, R427). DESIGN CHOICE: the sink may be local, as R277, R278 and the example of 11_engine_isa.md have it, although the path table of R38 gives a `CPY` only a global sink (log 27). -/
def State.startCpy (s : State) (c : Nat) (m : Cmd) (x : Ctx) (f : CpyF) : State :=
  let q := Qid.ch f.ch.toNat
  let src := (m.vals.getD 0 0).toNat
  let dst := (m.vals.getD 1 0).toNat
  let len := (m.vals.getD 2 0).toNat
  if x.owes m.id (clsMask f.cls) then s else
  let s1 := s.begin c q m
  let k := s1.core c
  let bad := fun (cause addr : Nat) (loc : Bool) =>
    let r := { s1.mkRec 3 1 cause (cmdMaster c m) (some addr) m.lid x.rank [] with isLocal := loc }
    ((s1.drop c m).report c m.slot m.lid .ap r).settleDrains c
  if len = 0 then (s1.complete c m).settleDrains c
  else if f.sl && !k.locOk m.lid src len then bad 3 src true
  else if f.dl && !k.locOk m.lid dst len then bad 3 dst true
  else
    let q := match (if f.tm then k.locBytes c m.lid src 64 else none) with | some l => (let z := s1.mapSeen c m f.cls src l; (z.1, some z.2)) | none => (s1, none)
    let s1 := q.1
    let map := q.2
    let tm := match map with | some l => decide (src % 64 = 0) && tmOk (BitVec.ofNat 512 (leNat l)) len | none => false
    if f.tm && map.isNone then bad 3 src true
    else if f.tm && s1.locPoison c m.lid (natsFrom src 64) then
      ((s1.drop c m).report c m.slot m.lid .ap { s1.mkRec 11 1 4 (cmdMaster c m) (some src) m.lid x.rank [] with isLocal := true }).settleDrains c
    else if f.tm && !tm then bad 2 src true
    else if !s1.modeOk c (s1.pasidOf m.lid) f (BitVec.ofNat 512 (leNat (map.getD []))) src dst len then bad 1 (match f.mode with | .expand => src | _ => dst) false
    else
      let run : CopyRun := { cmd := m, core := c, prio := f.prio.toNat, arr := s1.serial, len := len, src := src, dst := dst, next := 0, flight := [], asked := none, taken := [], stop := none, map := BitVec.ofNat 512 (leNat (map.getD [])) }
      (s1.modDie (dieOf c) fun d => { d with copies := d.copies ++ [run] }).tick

/-- The start of `CPDRAIN` (R279). -/
def State.startCpdrain (s : State) (c : Nat) (m : Cmd) (f : CpdF) : State := (s.begin c (.ch f.ch.toNat) m).settleDrains c

/-! ## Dispatch (R178, R179) -/

/-- The copy may dispatch: it has chunks left, has not stopped, and its command is live. -/
def State.copyRuns (s : State) (r : CopyRun) : Bool := r.stop.isNone && decide (chunkBytes * r.next < r.len) && (s.core r.core).isLive r.cmd.id
/-- The size of its next chunk. -/
def CopyRun.nextSize (r : CopyRun) : Nat := Nat.min chunkBytes (r.len - chunkBytes * r.next)
/-- The next copy of a class: round-robin in arrival order after the one served last. -/
def nextCopy (l : List CopyRun) (last : Nat) : Option CopyRun :=
  match l.find? fun r => decide (last < r.arr) with
  | some r => some r
  | none => l.head?
/-- Q of R179. -/
def drrQuantum (c : Nat) : Nat := 2048 * 2 ^ c

/-- The deficit round (R179): a deficit is dropped where the visit of its class finds the queue empty, and kept where the queue empties within the visit; by table `t`: keys 0 to 3 deficits, 4 the class the round is at, 5 whether its quantum has been added, 8 + c the arrival number last served. Copies whose chunk waits, by arrival number, are passed over (R178). The copy it dispatches next. -/
def drrPick (l : List CopyRun) (held : List Nat) : Nat → Tbl Nat → Option CopyRun × Tbl Nat
  | 0, t => (none, t)
  | fuel + 1, t =>
    let c := tget t 3 4
    let go := tset (tset t 4 ((c + 3) % 4)) 5 0
    match nextCopy (l.filter fun r => r.prio == c && !held.contains r.arr) (tget t 0 (8 + c)) with
    | none => drrPick l held fuel (if tget t 0 5 = 1 || l.any (fun r => r.prio == c) then go else tset go c 0)
    | some r =>
      let t1 := if tget t 0 5 = 1 then t else tset (tset t c (tget t 0 c + drrQuantum c)) 5 1
      if r.nextSize ≤ tget t1 0 c then (some r, tset (tset t1 c (tget t1 0 c - r.nextSize)) (8 + c) r.arr)
      else drrPick l held fuel (tset (tset t1 4 ((c + 3) % 4)) 5 0)

/-- Changes the copy with an arrival number. -/
def DieSt.modCopy (d : DieSt) (arr : Nat) (f : CopyRun → CopyRun) : DieSt := { d with copies := d.copies.map fun r => if r.arr == arr then f r else r }

/-- Runs of consecutive numbers. -/
def runsOf (l : List Nat) : List (Nat × Nat) :=
  (l.foldl (fun (acc : List (Nat × Nat)) a => match acc with
    | (b, n) :: r => if b + n = a then (b, n + 1) :: r else (a, 1) :: acc
    | [] => [(a, 1)]) []).reverse
/-- The numbers of runs. -/
def runList (l : List (Nat × Nat)) : List Nat := (l.map fun p => natsFrom p.1 p.2).flatten

/-! ## A chunk -/

/-- The record of a fault at the chunk at an offset (R425, R427). -/
def State.copyRec {α : Type} (s : State) (r : CopyRun) (off : Nat) (acc : Acc) (e : Eng α) : FaultRec :=
  let m := cmdMaster r.core r.cmd
  let rank := s.rankAt r.cmd.lid r.core
  let det := [(32, 8, off), (48, 1, 0x78)]
  match e with
  | .fault code va d => s.mkRec 7 1 code m (some va) r.cmd.lid rank (det ++ d)
  | .breach cause va => s.mkRec 8 2 cause m (some va) r.cmd.lid rank [(52, 1, accNat acc)]
  | .beyond o => { s.mkRec 3 1 3 m (some o) r.cmd.lid rank [] with isLocal := true }
  | .poison va => s.mkRec 11 1 4 m (some va) r.cmd.lid rank []
  | _ => s.mkRec 3 1 1 m none r.cmd.lid rank []

/-- The bytes of an element range of a tensor, packed under R78. -/
def tmBytes (m : BitVec 512) (look : Nat → Nat) (off n : Nat) : List Byte :=
  let w := tmWidth m
  let e0 := 8 * off / w
  let cnt := (8 * (off + n) + w - 1) / w - e0
  let el := (natsFrom e0 cnt).map fun k => if tmCount m ≤ k then none else tmElem m k
  let v := ((natsFrom 0 cnt).zip el).foldl (fun acc p => match p.2 with
    | some b => acc + fld (((natsFrom 0 ((b + w - 1) / 8 - b / 8 + 1).toNat).map fun (i : Nat) => look (addr64 (b / 8 + (i : Int))) * 2 ^ (8 * i)).sum) (b % 8).toNat w * 2 ^ (p.1 * w)
    | none => acc) 0
  leBytes n (v / 2 ^ (8 * off - e0 * w))

/-- Where each byte from an offset of a packed tensor comes from: the address of a source byte that lies in it whole (R120). -/
def tmPlaces (m : BitVec 512) (off n : Nat) : List (Option Nat) :=
  let w := tmWidth m
  (natsFrom off n).map fun o =>
    let e := 8 * o / w
    if w % 8 ≠ 0 then none else
    match tmElem m e with
    | some b => let x := b + (8 * o - e * w : Nat); if x % 8 = 0 then some (addr64 (x / 8)) else none
    | none => none
/-- The source bytes of the chunk at an offset, and for each the address of its source and the C bit of its page. -/
def State.chunkRead (s : State) (r : CopyRun) (f : CpyF) (off n : Nat) : State × Eng (List Byte × List (Nat × Nat)) :=
  let c := r.core
  let pasid := s.pasidOf r.cmd.lid
  let seen := fun (as : List Nat) (l : List Byte) => if r.early.isEmpty then l else (as.zip l).map fun q => tget r.early q.2 q.1
  if f.sl then
    let as := natsFrom (r.src + off) n
    (match (s.core c).locBytes c r.cmd.lid (r.src + off) n with
    | some l => (s, if s.locPoison c r.cmd.lid as then .poison (r.src + off) else .ok (seen as l, l.map fun _ => (0, 0)))
    | none => (s, .beyond (r.src + off)))
  else if f.tm then
    let m := r.map
    let w := tmWidth m
    let e0 := 8 * off / w
    let as := elemBytes w ((natsFrom e0 ((8 * (off + n) + w - 1) / w - e0)).map fun k => if tmCount m ≤ k then none else tmElem m k)
    match s.engXlate c r.cmd.lid r.cmd.dnar .read false as with
    | (s1, .ok p) =>
      let pas := p.map Prod.fst
      let c1 := p.any fun q => pteC q.2
      match (as.zip p).find? fun q => pteC q.2.2 != pteC (p.headD (0, 0)).2 || (f.dl && pteC q.2.2) with
      | some q => (s1, .fault 6 q.1 (xDet 255 (s1.foundTag q.2.1) 0 pasid 0))
      | none =>
      if s1.anyPoison pas then (s1.usedBad pas, .poison (as.getD 0 0)) else
      (match (p.mapM fun (q : Nat × Nat) => if pteC q.2 then Except.ok (s1.byte (s1.homeAddr q.1)) else s1.readByte q.1 : Except Nat (List Byte)) with
      | .ok l =>
        let t := (as.zip (seen as l)).foldl (fun (t : Tbl Byte) q => tset t q.1 q.2) []
        let at' := (as.zip pas).foldl (fun (t : Tbl Nat) q => tset t q.1 (s1.homeAddr q.2)) []
        (s1, .ok (tmBytes m (fun a => (tget t 0 a).toNat) off n,
          (tmPlaces m off n).map fun o => ((o.bind (tfind at')).getD 1, b2n c1)))
      | .error e =>
        let bad := ((as.zip pas).find? fun q => match s1.readByte q.2 with | .error _ => true | .ok _ => false).getD (as.getD 0 0, 0)
        (s1, .fault e bad.1 (xDet 255 (s1.foundTag bad.2) 0 pasid 0)))
    | (s1, .fault x y z) => (s1, .fault x y z)
    | (s1, .breach u v) => (s1, .breach u v)
    | (s1, _) => (s1, .wait)
  else if f.mode = .expand then
    match s.engXlate c r.cmd.lid r.cmd.dnar .read false [r.src] with
    | (s1, .ok p) =>
      let h := s1.homeAddr ((p.getD 0 (0, 0)).1 / 4096 * 4096)
      let clen := Nat.max 64 (objClen (s1.bytes h 64))
      (match s1.engXlate c r.cmd.lid r.cmd.dnar .read false ((pageOffs r.src clen).map fun o => (r.src + o) % 2 ^ 64) with
      | (s2, .ok _) =>
        let bad := (s2, Eng.fault 13 r.src (xDet 255 (s2.tag (h / 4096)) 0 pasid 0))
        if s2.objPoison (h / 4096) then (s2.usedBad (s2.objBad (h / 4096)), .poison r.src)
        else if r.next = 0 ∧ !s2.objCrcOk h then bad
        else (match (natsFrom off n).mapM fun o => s2.objByte h o with
          | .ok l => (s2, .ok (l, l.map fun _ => (0, 0)))
          | .error _ => bad)
      | (s2, .fault x y z) => (s2, .fault x y z)
      | (s2, .breach u v) => (s2, .breach u v)
      | (s2, _) => (s2, .wait))
    | (s1, .fault x y z) => (s1, .fault x y z)
    | (s1, .breach u v) => (s1, .breach u v)
    | (s1, _) => (s1, .wait)
  else
    let as := (natsFrom (r.src + off) n).map fun v => v % 2 ^ 64
    match s.engXlate c r.cmd.lid r.cmd.dnar .read false as with
    | (s1, .ok p) =>
      let pas := p.map Prod.fst
      if s1.anyPoison pas then (s1.usedBad pas, .poison (as.getD 0 0)) else
      (match (p.mapM fun (q : Nat × Nat) => if pteC q.2 then Except.ok (s1.byte (s1.homeAddr q.1)) else s1.readByte q.1 : Except Nat (List Byte)) with
      | .ok l => (s1, .ok (seen as l, p.map fun q => (s1.homeAddr q.1, b2n (pteC q.2))))
      | .error e =>
        let bad := ((as.zip pas).find? fun q => match s1.readByte q.2 with | .error _ => true | .ok _ => false).getD (as.getD 0 0, 0)
        (s1, .fault e bad.1 (xDet 255 (s1.foundTag bad.2) 0 pasid 0)))
    | (s1, .fault x y z) => (s1, .fault x y z)
    | (s1, .breach u v) => (s1, .breach u v)
    | (s1, _) => (s1, .wait)

/-- The tags a copy between C = 1 pages sets: by each sink frame the chunk writes (R120). -/
def State.landTags (s : State) (off : Nat) (pas : List Nat) (src : List (Nat × Nat)) : List (Nat × Nat) :=
  ((natsFrom off pas.length).zip ((pas.map s.homeAddr).zip src)).foldl (fun acc p =>
    let a := p.2.1
    let q := p.2.2
    if a % 4096 = 0 then tset acc (a / 4096) (if q.1 % 4096 = 0 ∧ s.tag (q.1 / 4096) = 1 then 1 else 2)
    else if p.1 < a % 4096 ∧ (tfind acc (a / 4096)).isNone then tset acc (a / 4096) 2 else acc) []

/-- What the compressor writes for the chunk that brings `new` source bytes behind `done`, of len in all: runs of the object, each with its bytes. The rows of the chunk and their index entries come with it, the header and the index padding with the last (R184, R186). -/
def objPieces (len : Nat) (done new : List Byte) : List (Nat × List Byte) :=
  let rows := fun (l : List Byte) => (natsFrom 0 (ceilDiv l.length 256)).map fun i => packRow (sliceB l (256 * i) 256)
  let n := ceilDiv len 256
  let dataOff := 64 + ceilDiv (2 * n) 64 * 64
  let old := rows done
  let here := rows new
  [(64 + 2 * old.length, (here.map fun r => leBytes 2 r.length).flatten), (dataOff + (old.map List.length).sum, here.flatten)]
    ++ (if done.length + new.length = len then
      [(0, sliceB (compressObj (done ++ new)) 0 64), (64 + 2 * n, List.replicate (dataOff - 64 - 2 * n) 0)] else [])
/-- The address of the copy's next chunk that lies in the host's or a peer's window: of its source, or of its sink. -/
def State.farSide (s : State) (r : CopyRun) (f : CpyF) : Option (Nat × Bool) :=
  let at' := fun (loc : Bool) (a : Nat) (acc : Acc) =>
    if loc then none else match s.engAddrs r.core r.cmd.lid r.cmd.dnar acc false [a % 2 ^ 64] with | (s1, .ok p) => if s1.anyFar (p.map Prod.fst) then some (a, acc == .write) else none | _ => none
  match (if f.tm then none else at' f.sl (r.src + chunkBytes * r.next) .read) with
  | some x => some x
  | none => at' f.dl (r.dst + chunkBytes * r.next) .write

/-- A chunk starts: it reads its source and translates its sink; or the copy stops (R117, R394). One that a link holds notes when it asked (R449). -/
def State.startChunk (s : State) (r : CopyRun) (f : CpyF) : State :=
  let d := dieOf r.core
  let off := chunkBytes * r.next
  let n := r.nextSize
  let stop := fun (s : State) (rc : FaultRec) => s.modDie d fun x => x.modCopy r.arr fun y => { y with stop := some rc }
  let wait := fun (s : State) =>
    if r.asked.isNone && (s.farSide r f).isSome then (s.modDie d fun x => x.modCopy r.arr fun y => { y with asked := some (s.serial, s.time.toNat) }).tick else s
  match s.chunkRead r f off n with
  | (s1, .wait) => wait s1
  | (s1, .ok (data, origin)) =>
    let far := s1.farSide r f
    let put := fun (s : State) (bytes : List Byte) (runs tags : List (Nat × Nat)) =>
      let k : Chunk := { id := s.serial, since := s.time.toNat, far := far, off := off, data := bytes, runs := runs, tags := tags }
      (s.modDie d fun x => x.modCopy r.arr fun y =>
        { y with next := y.next + 1, asked := none, early := [], taken := if f.mode = .compress then y.taken ++ data else [], flight := y.flight ++ [k] }).tick
    let mism := fun (s : State) (acc : Acc) (va pa : Nat) => stop s (s.copyRec r off acc (.fault 6 va (xDet 255 (s.foundTag pa) (accNat acc) (s.pasidOf r.cmd.lid) 0) : Eng Unit))
    if f.dl then
      (match ((natsFrom (r.src + off) n).zip origin).find? fun q => q.2.2 == 1 with
      | some q => mism s1 .read q.1 q.2.1
      | none => put s1 data [(r.dst + off, n)] [])
    else
      let pieces := if f.mode = .compress then objPieces r.len r.taken data else [(off, data)]
      let res := ceilDiv r.len 4096
      if f.mode = .compress && pieces.any fun p => decide (4096 * res < p.1 + p.2.length) then
        stop s1 (s1.mkRec 3 1 4 (cmdMaster r.core r.cmd) (some r.dst) r.cmd.lid (s1.rankAt r.cmd.lid r.core) [])
      else
      let head := if f.mode = .compress then [r.dst % 2 ^ 64] else []
      let as := head ++ (pieces.flatMap fun p => natsFrom (r.dst + p.1) p.2.length).map fun v => v % 2 ^ 64
      match s1.engXlate r.core r.cmd.lid r.cmd.dnar .write (f.mode != .expand) as with
      | (s2, .wait) => wait s2
      | (s2, .ok p) =>
        let h := s2.homeAddr ((p.headD (0, 0)).1) / 4096
        let p := p.drop head.length
        let pas := p.map Prod.fst
        let at' := (as.drop head.length).zip p
        let wrong := match f.mode with
          | .plain => ((at'.zip origin).find? fun (q : (Nat × Nat × Nat) × (Nat × Nat)) => b2n (pteC q.1.2.2) != q.2.2).map Prod.fst
          | .compress => at'.find? fun (q : Nat × Nat × Nat) => !pteC q.2.2
          | .expand => at'.find? fun (q : Nat × Nat × Nat) => pteC q.2.2
        match wrong with
        | some q => mism s2 .write q.1 q.2.1
        | none =>
          let tags := match f.mode with
            | .compress => (natsFrom 0 res).map fun i => (h + i, if i = 0 then 1 else 2)
            | .plain => if p.any fun q => pteC q.2 then s2.landTags off pas origin else []
            | .expand => []
          put s2 (pieces.flatMap Prod.snd) (runsOf pas) tags
      | (s2, e) => stop s2 (s2.copyRec r off .write e)
  | (s1, e) => stop s1 (s1.copyRec r off .read e)

/-- A stopped copy without chunks on engines halts; one whose command is gone leaves (R394, R428). -/
def State.reapCopies (s : State) (d : Die) : State :=
  let done := (s.die d).copies.filter fun r => r.flight.isEmpty && (r.stop.isSome || !(s.core r.core).isLive r.cmd.id)
  let s1 := s.modDie d fun x => { x with copies := x.copies.filter fun r => !(done.any fun e => e.arr == r.arr) }
  done.foldl (fun s r =>
    match r.stop, (s.core r.core).isLive r.cmd.id with
    | some rc, true =>
      let s2 := s.drop r.core r.cmd
      let s3 := if rc.sev = 2 then (s2.addFrozen rc.master).toDevice rc else s2
      (s3.report r.core r.cmd.slot r.cmd.lid .ap rc).settleDrains r.core
    | _, _ => s.settleDrains r.core) s1

/-- A free engine takes the next chunk of the deficit round; one that waits for a translation, a link or the host holds back no other copy (R178). -/
def State.dispatch (s : State) (die : Die) (held : List Nat) : Nat → State
  | 0 => s
  | fuel + 1 =>
    let d := s.die die
    match drrPick (d.copies.filter s.copyRuns) held 16 d.deficit with
    | (none, t) => if held.isEmpty then s.setDie die { d with deficit := t } else s
    | (some r, t) =>
      match cpyOf r.cmd.instr with
      | none => s
      | some f =>
        let s1 := s.startChunk r f
        let moved := ((s1.die die).copies.find? fun x => x.arr == r.arr).any fun x => x.next != r.next || x.stop.isSome
        if moved then s1.modDie die fun x => { x with deficit := t } else s1.dispatch die (r.arr :: held) fuel
/-- `COPY_CHUNK_DISPATCH` (R179): while one of the die's eight engines is free. -/
def execCopyChunkDispatch (die : Die) (s : State) : Out :=
  .next (let s := s.reapCopies die
  let d := s.die die
  if 8 ≤ ((d.copies.map fun r => r.flight.length).sum) then s else (s.dispatch die [] d.copies.length).reapCopies die)

/-- Aligned 8-byte units of the source of a copy's next chunk are read before the others (R127). -/
def State.chunkEarly (s : State) (r : CopyRun) (f : CpyF) (units : List Nat) : State :=
  let c := r.core
  let off := chunkBytes * r.next
  let now := fun (l : List Nat) => l.filter fun a => units.contains (a / 8)
  let keep := fun (s : State) (l : List (Nat × Byte)) =>
    s.modDie (dieOf c) fun x => x.modCopy r.arr fun y => { y with early := l.foldl (fun e q => tset e q.1 q.2) y.early }
  if !s.copyRuns r then s else
  match f.mode with
  | .expand => s
  | _ =>
    if f.sl then
      (let as := now (natsFrom (r.src + off) r.nextSize)
      if s.locPoison c r.cmd.lid as then s else
      keep s (as.filterMap fun a => ((s.core c).locBytes c r.cmd.lid a 1).map fun l => (a, l.headD 0)))
    else
      let as := now (if f.tm then
        (let w := tmWidth r.map
        let e0 := 8 * off / w
        elemBytes w ((natsFrom e0 ((8 * (off + r.nextSize) + w - 1) / w - e0)).map fun k => if tmCount r.map ≤ k then none else tmElem r.map k))
        else (natsFrom (r.src + off) r.nextSize).map fun v => v % 2 ^ 64)
      match s.engXlate c r.cmd.lid r.cmd.dnar .read false as with
      | (s1, .ok p) =>
        if s1.anyPoison (p.map Prod.fst) then s else
        (match (p.mapM fun (q : Nat × Nat) => if pteC q.2 then Except.ok (s1.byte (s1.homeAddr q.1)) else s1.readByte q.1 : Except Nat (List Byte)) with
        | .ok l => keep s1 (as.zip l)
        | .error _ => s)
      | (s1, .wait) => s1
      | _ => s

/-- Two chunks write a byte in common (R126). -/
def State.chunksMeet (s : State) (x y : Chunk) : Bool := (runList x.runs).any fun a => (runList y.runs).any fun b => s.homeAddr a == s.homeAddr b
/-- A chunk is held: an earlier chunk of its copy that writes the same bytes has not landed (R126), or a link on the way to its sink retrains (R449). -/
def State.chunkHeld (s : State) (r : CopyRun) (f : CpyF) (k : Chunk) : Bool :=
  ((r.flight.takeWhile fun e => e.id != k.id).any fun e => if f.dl then (runList e.runs).any (runList k.runs).contains else s.chunksMeet e k)
    || (!f.dl && s.way r.core false (runList k.runs) == .wait)
/-- A chunk leaves its engine, with the record of what stopped it, if anything. -/
def State.dropChunk (s : State) (die : Die) (r : CopyRun) (id : Nat) (rc : Option FaultRec) : State :=
  s.modDie die fun x => x.modCopy r.arr fun y => { y with flight := y.flight.filter (fun z => z.id != id), stop := match y.stop with | some v => some v | none => rc }
/-- A chunk to the host or a peer gets no answer, or its link is down: it does not land, and the copy stops with code 15 (R423, R424, R451). -/
def State.chunkLost (s : State) (die : Die) (r : CopyRun) (k : Chunk) : State :=
  let side := k.far.getD (r.dst + k.off, true)
  let acc := if side.2 then Acc.write else .read
  (s.dropChunk die r k.id (some (s.copyRec r k.off acc (.fault 15 side.1 (xDet 255 0 (accNat acc) (s.pasidOf r.cmd.lid) 0) : Eng Unit)))).reapCopies die
/-- Writes cells of a chunk: into scratchpad, each row of a bank in a cycle of its own (R26), or into memory. -/
def State.chunkPut (s : State) (r : CopyRun) (f : CpyF) (cells : List Host.Cell) : State :=
  if f.dl then
    (let s1 := s.putLoc r.core r.cmd.lid cells
    { s1 with cycles := s1.cycles + ((cells.map fun p => p.1 / 256).eraseDups).length })
  else s.cmdWrite r.core r.cmd.slot r.cmd.lid r.cmd.id f.cls cells 8 [] none
/-- Aligned 8-byte units of a chunk land before the others (R127). -/
def State.chunkUnits (s : State) (die : Die) (r : CopyRun) (f : CpyF) (k : Chunk) (units : List Nat) : State :=
  if s.chunkHeld r f k || (!f.dl && s.way r.core false (runList k.runs) == .down)
      || (f.dl && k.runs.any fun p => !(s.core r.core).locOk r.cmd.lid p.1 p.2) then s else
  let cells := (runList k.runs).zip k.data
  let on := fun (p : Host.Cell) => units.contains (p.1 / 8) && (f.dl || !isMmio (s.homeAddr p.1))
  let left := cells.filter fun p => !on p
  (s.chunkPut r f (cells.filter on)).modDie die fun x => x.modCopy r.arr fun y =>
    { y with flight := y.flight.map fun z => if z.id == k.id then { z with data := left.map Prod.snd, runs := runsOf (left.map Prod.fst) } else z }
/-- A chunk's writes are performed; the last one completes the copy (R181). A local sink that a running Prism configuration has come to own is out of reach (R27). -/
def State.chunkDone (s : State) (die : Die) (id : Nat) : State :=
  match (s.die die).copies.find? fun r => r.flight.any fun k => k.id == id with
  | none => s
  | some r =>
    match r.flight.find? (fun k => k.id == id), cpyOf r.cmd.instr with
    | some k, some f =>
      let out := k.runs.find? fun p => f.dl && !(s.core r.core).locOk r.cmd.lid p.1 p.2
      if s.chunkHeld r f k then s
      else if !f.dl && s.way r.core false (runList k.runs) == .down then s.chunkLost die r k
      else match out with
      | some p => (s.dropChunk die r id (some (s.copyRec r k.off .write (.beyond p.1 : Eng Unit)))).reapCopies die
      | none =>
      let cells := (runList k.runs).zip k.data
      let s1 := s.chunkPut r f cells
      let s2 := { s1 with tags := k.tags.foldl (fun (t : Tbl Nat) (p : Nat × Nat) => tput t 0 p.1 p.2) s1.tags }
      let s3 := s2.dropChunk die r id none
      if r.flight.length = 1 ∧ r.len ≤ chunkBytes * r.next ∧ r.stop.isNone then
        let s4 := s3.modDie die fun x => { x with copies := x.copies.filter fun y => y.arr != r.arr }
        (if (s4.core r.core).isLive r.cmd.id then s4.complete r.core r.cmd else s4).settleDrains r.core
      else s3.reapCopies die
    | _, _ => s

/-- A part of a copy's traffic (R127): units of a chunk on an engine land, the rest of it lands, or units of the next chunk of a running copy are read. -/
def State.chunkEvent (s : State) (die : Die) (a : ChunkAct) : State :=
  if a.units.isEmpty then s.chunkDone die a.id else
  match (s.die die).copies.find? fun r => r.arr == a.id || r.flight.any fun k => k.id == a.id with
  | none => s
  | some r =>
    match cpyOf r.cmd.instr, r.flight.find? fun k => k.id == a.id with
    | some f, some k => s.chunkUnits die r f k a.units
    | some f, none => s.chunkEarly r f a.units
    | none, _ => s

/-! ## Rotation (R183, R280) -/

/-- A region of a rotation lies in the launch's allotment (R21, R280). -/
def Core.regionIn (k : Core) (lid : BitVec 32) (off n : Nat) : Bool :=
  (natsFrom (off / bankBytes) ((off + n - 1) / bankBytes - off / bankBytes + 1)).all fun b => (k.bankOf lid b).isSome
/-- The cause of an error of a rotation's region: 5 outside the allotment or not aligned, 3 in a bank the running configuration owns (R27, R427). -/
def Core.rotCause (k : Core) (lid : BitVec 32) (a n : Nat) : Option Nat :=
  if a % 256 ≠ 0 || !k.regionIn lid a n then some 5 else if k.locOk lid a n then none else some 3
/-- A member's rotation halts with a cause at a region. -/
def State.rotHalt (s : State) (c : Nat) (m : Cmd) (cause a : Nat) : State :=
  (s.drop c m).report c m.slot m.lid .ap { s.mkRec 3 1 cause (cmdMaster c m) (some a) m.lid (s.rankAt m.lid c) [] with isLocal := true }
/-- The start of a member's `ROT`, the next of its rotations: it is kept with its launch until every member has started its own (R183). One that halts here counts, and leaves its rotation without it (log 76). -/
def State.startRot (s : State) (c : Nat) (m : Cmd) (x : Ctx) (f : RotF) : State :=
  if x.owes m.id 0xFFFF then s else
  let src := (m.vals.getD 0 0).toNat
  let dst := (m.vals.getD 1 0).toNat
  let rows := f.nr.toNat + 1
  let s1 := s.begin c .stream m
  let k := s1.core c
  let rank := x.rank + 65536 * b2n x.member
  let num := match s1.launch m.lid with | some l => tget l.rotNum 0 rank | none => 0
  let s2 := s1.modLaunch m.lid fun l => { l with rotNum := tset l.rotNum rank (num + 1) }
  match k.rotCause m.lid src (256 * rows), k.rotCause m.lid dst (256 * rows) with
  | some v, _ => s2.rotHalt c m v src
  | none, some v => s2.rotHalt c m v dst
  | none, none => s2.modLaunch m.lid fun l => { l with rots := l.rots ++ [{ rank := rank, k := num, core := c, cmd := m, src := src, dst := dst, rows := rows, data := [] }] }

/-- The started rotations of the ranks of a member that form one rotation: the lowest number that every rank has started. -/
def Launch.rotSet (l : Launch) (member : Bool) : Option (List RotReq) :=
  let ranks := natsFrom 0 (if member then l.cores1 else l.cores).length
  (l.rots.map RotReq.k).findSome? fun n => ranks.mapM fun r => l.rots.find? fun q => q.rank == r + 65536 * b2n member && q.k == n

/-- The bytes of a rotation's source region. -/
def State.rotBytes (s : State) (r : RotReq) : List Byte := ((s.core r.core).locBytes r.core r.cmd.lid r.src (256 * r.rows)).getD []

/-- `ROTATION_START` (R183, R427): every member has started, and the gang is placed; the sources are read in full; lengths that differ halt them all. A member whose region a running configuration owns halts, and the rotation does not start (log 76). -/
def execRotationStart (lid : BitVec 32) (s : State) : Out :=
  .next (match (s.launch lid).filter fun l => l.phase == .placed with
  | none => s
  | some l =>
    let set := match (l.rotSet false).filter fun q => !q.isEmpty with | some q => some q | none => (l.rotSet true).filter fun q => !q.isEmpty
    match set with
    | none => s
    | some q =>
      if l.rotating.any fun r => q.any fun e => e.rank == r.rank then s else
      let rest := l.rots.filter fun r => !q.contains r
      let rows := q.map RotReq.rows
      let owned := q.filter fun r => !((s.core r.core).locOk lid r.src (256 * r.rows) && (s.core r.core).locOk lid r.dst (256 * r.rows))
      if !(rows.all fun n => n == rows.headD 0) then
        q.foldl (fun s r => s.haltCmd r.core r.cmd 3 6 none []) (s.modLaunch lid fun l => { l with rots := rest })
      else if !owned.isEmpty then
        owned.foldl (fun s r => s.rotHalt r.core r.cmd 3 (if (s.core r.core).locOk lid r.src (256 * r.rows) then r.dst else r.src))
          (s.modLaunch lid fun l => { l with rots := l.rots.filter fun r => !owned.contains r })
      else
        let n := q.length
        let go := ((natsFrom 0 n).zip q).map fun (p : Nat × RotReq) => { p.2 with data := ((q[(p.1 + n - 1) % n]?).map s.rotBytes).getD [] }
        s.modLaunch lid fun l => { l with rots := rest, rotating := l.rotating ++ go })

/-- The bytes of a rotation must cross the bridge from the member before, and no channel lets them (R8, R183, R449). -/
def State.rotHeld (s : State) (r : RotReq) : Bool :=
  match s.launch r.cmd.lid with
  | none => false
  | some l =>
    let cs := if r.rank < 65536 then l.cores else l.cores1
    match cs[(r.rank % 65536 + cs.length - 1) % cs.length]? with
    | some c => s.crossHeld c (dieOf r.core)
    | none => false
/-- `ROTATION_COMPLETE` (R183): the member's destination holds its neighbour's source, and its `ROT` completes, a cycle for each row of a bank (R26); a destination that a running configuration has come to own is out of reach (R27). -/
def execRotationComplete (lid : BitVec 32) (rank : Nat) (s : State) : Out :=
  .next (match (s.launch lid).bind fun l => l.rotating.find? fun r => r.rank == rank with
  | none => s
  | some r =>
    let s1 := s.modLaunch lid fun l => { l with rotating := l.rotating.filter fun q => q.rank != rank }
    if !(s.core r.core).isLive r.cmd.id then s1
    else if s.rotHeld r then s
    else if !(s.core r.core).locOk lid r.dst (256 * r.rows) then s1.rotHalt r.core r.cmd 3 r.dst
    else
      let s2 := s1.putLoc r.core r.cmd.lid (cellsAt r.dst r.data)
      { s2 with cycles := s2.cycles + r.rows }.complete r.core r.cmd)

end Sys2Proof.Machine
end

