-- ==== Sys2Proof/Machine/Csr.lean ====
section
/-! DEFINITION. The control and status registers of both processors (R261 to R264, R322) and the instructions that read and write them. -/
namespace Sys2Proof.Machine
open Sys2Proof

/-- The top loop entry's LC of R262, or the EP's ELC. -/
def loopLc : List LoopEntry → Nat | [] => 0 | e :: _ => e.n - e.done
/-- The top loop entry's EC. -/
def loopEc : List LoopEntry → Nat | [] => 0 | e :: _ => e.total - Nat.max e.done e.n
/-- GANG (R263). -/
def State.gangWord (s : State) (x : Ctx) : Word :=
  BitVec.ofNat 64 ((match s.launchOf x with | some l => l.gang | none => 0) * 2 ^ 32 + x.rank)
/-- Word k of the async fault slot (R262). -/
def Ctx.afsWord (x : Ctx) (k : Nat) : Word := match x.afs with | some (r, _) => BitVec.ofNat 64 (leAt r.bytes (8 * k) 8) | none => 0

/-- The registers both maps share (R262, R322). -/
def State.csrShared (s : State) (c n : Nat) (x : Ctx) (num : Nat) : Word :=
  match num with
  | 0x000 => BitVec.ofNat 64 n
  | 0x001 => BitVec.ofNat 64 c
  | 0x002 => x.lid.setWidth 64
  | 0x003 => s.gangWord x
  | 0x004 => x.argp
  | 0x005 => BitVec.ofNat 64 (b2n x.member)
  | 0x006 => BitVec.ofNat 64 (match s.launchOf x with | some l => l.ss | none => 0)
  | 0x020 => x.fflags.setWidth 64
  | 0x021 => x.rmode.setWidth 64
  | 0x022 => x.ftrapen.setWidth 64
  | 0x060 => s.time
  | 0x061 => BitVec.ofNat 64 (s.cycles - x.cycleBase)
  | m => if 0x040 ≤ m ∧ m ≤ 0x047 then x.afsWord (m - 0x040) else 0

/-- CSR[num] of the AP. -/
def State.apCsrRead (s : State) (c n : Nat) (x : Ctx) (num : Nat) : Word :=
  match num with
  | 0x010 => x.ap.rrb.setWidth 64
  | 0x011 => BitVec.ofNat 64 (loopLc x.ap.loops)
  | 0x012 => BitVec.ofNat 64 (loopEc x.ap.loops)
  | 0x013 => BitVec.ofNat 64 x.ap.loops.length
  | 0x030 => x.ap.tvec
  | 0x031 => x.ap.tcause
  | 0x032 => x.ap.tpc
  | 0x033 => x.ap.tval
  | 0x050 => x.dnar.setWidth 64
  | 0x051 => x.ap.amoTag.setWidth 64
  | 0x052 => x.ap.retryTag.setWidth 64
  | m => s.csrShared c n x m

/-- CSR[num] of the EP. -/
def State.epCsrRead (s : State) (c n : Nat) (x : Ctx) (num : Nat) : Word :=
  match num with
  | 0x011 => BitVec.ofNat 64 (loopLc x.ep.loops)
  | 0x013 => BitVec.ofNat 64 x.ep.loops.length
  | 0x030 => x.ep.tvec
  | 0x031 => x.ep.tcause
  | 0x032 => x.ep.tpc
  | 0x033 => x.ep.tval
  | 0x080 => x.segSig.setWidth 64
  | 0x081 => BitVec.ofNat 64 x.segCnt
  | 0x082 => BitVec.ofNat 64 (b2n x.segOpen)
  | m => if 0x070 ≤ m ∧ m ≤ 0x077 then (tget x.gapc 0 (m - 0x070)).setWidth 64 else s.csrShared c n x m

/-- A trap vector: bits 2 to 0 read zero. -/
def vecOf (v : Word) : Word := v &&& ~~~7#64

/-- The writable registers both maps share; a write of 5 to 7 leaves RMODE unchanged (R84). -/
def Ctx.csrPut (x : Ctx) (num : Nat) (v : Word) : Ctx :=
  match num with
  | 0x020 => { x with fflags := v.setWidth 6 }
  | 0x021 => if (v.setWidth 3 : BitVec 3).toNat < 5 then { x with rmode := v.setWidth 3 } else x
  | 0x022 => { x with ftrapen := v.setWidth 6 }
  | 0x048 => { x with afs := none, afsTaken := false }
  | _ => x

/-- CSR[num] := v on the AP; read-only ones keep their values, and DNAR only narrows (R113, R261). -/
def Ctx.apCsrPut (x : Ctx) (num : Nat) (v : Word) : Ctx :=
  match num with
  | 0x004 => { x with argp := v }
  | 0x010 => { x with ap := { x.ap with rrb := v.setWidth 4 } }
  | 0x030 => { x with ap := { x.ap with tvec := vecOf v } }
  | 0x050 => { x with dnar := x.dnar &&& v.setWidth 16 }
  | 0x052 => { x with ap := { x.ap with retryTag := v.setWidth 32 } }
  | m => x.csrPut m v

/-- CSR[num] := v on the EP; a write to a gap counter sets it to 0. -/
def Ctx.epCsrPut (x : Ctx) (num : Nat) (v : Word) : Ctx :=
  match num with
  | 0x030 => { x with ep := { x.ep with tvec := vecOf v } }
  | m => if 0x070 ≤ m ∧ m ≤ 0x077 then { x with gapc := tdel x.gapc (m - 0x070) } else x.csrPut m v

/-- The value a CSR write gives from the old value (R261). -/
inductive CsrOp where
  | write | set | clear
  deriving DecidableEq, Repr
/-- v of R261. -/
def csrVal (op : CsrOp) (old a : Word) : Word := match op with | .write => a | .set => old ||| a | .clear => old &&& ~~~a

/-- `CSRW` and its set and clear forms. The source is read, and the old value written to D, before the CSR takes its value; RRB counts from the next instruction. -/
def apCsrw (op : CsrOp) (f : CsrwF 6) (s : State) : State :=
  apSimple f.g [f.d, f.a] (fun c n x s =>
    let old := s.apCsrRead c n x f.num.toNat
    let a := x.ap.s' f.a.toNat
    .done (s.setCtx c n ({ x with ap := x.ap.setS f.d.toNat old }.apCsrPut f.num.toNat (csrVal op old a)))) s

/-- `ECSRW` and its set and clear forms. -/
def epCsrw (op : CsrOp) (f : CsrwF 5) (s : State) : State :=
  epSimple f.g (fun c n x s =>
    let old := s.epCsrRead c n x f.num.toNat
    let a := x.ep.e' f.a.toNat
    .done (s.setCtx c n ({ x with ep := x.ep.setE f.d.toNat old }.epCsrPut f.num.toNat (csrVal op old a)))) s

/-- `CSRR` (R261). -/
def execCsrr (f : CsrrF 6) (s : State) : Out :=
  .next (apSimple f.g [f.d] (fun c n x s => .done (s.setCtx c n { x with ap := x.ap.setS f.d.toNat (s.apCsrRead c n x f.num.toNat) })) s)
/-- `CSRW` (R261). -/
def execCsrw (f : CsrwF 6) (s : State) : Out := .next (apCsrw .write f s)
/-- `CSRW.SET` (R261). -/
def execCsrwSet (f : CsrwF 6) (s : State) : Out := .next (apCsrw .set f s)
/-- `CSRW.CLR` (R261). -/
def execCsrwClr (f : CsrwF 6) (s : State) : Out := .next (apCsrw .clear f s)
/-- `ECSRR` (R322). -/
def execEcsrr (f : CsrrF 5) (s : State) : Out :=
  .next (epSimple f.g (fun c n x s => .done (s.setCtx c n { x with ep := x.ep.setE f.d.toNat (s.epCsrRead c n x f.num.toNat) })) s)
/-- `ECSRW` (R322). -/
def execEcsrw (f : CsrwF 5) (s : State) : Out := .next (epCsrw .write f s)
/-- `ECSRW.SET` (R322). -/
def execEcsrwSet (f : CsrwF 5) (s : State) : Out := .next (epCsrw .set f s)
/-- `ECSRW.CLR` (R322). -/
def execEcsrwClr (f : CsrwF 5) (s : State) : Out := .next (epCsrw .clear f s)
/-- `TIME` (R260). -/
def execTime (f : R1) (s : State) : Out :=
  .next (apSimple f.g [f.r] (fun c n x s => .done (s.setCtx c n { x with ap := x.ap.setS f.r.toNat s.time })) s)

end Sys2Proof.Machine
end

