-- ==== Sys2Proof/Machine/MatrixMath.lean ====
section
/-! DEFINITION. The arithmetic of the matrix engine: products, group sums and their accumulation (R90, R92, R99 to R101), `MSCACC` (R102), and operand slots with what one single issue reads of them (R324, R334, R337). -/
namespace Sys2Proof.Machine
open Sys2Proof

/-! ## Products, groups, accumulation -/

/-- The opcode byte of an instruction. -/
def opcByte (i : Instr) : Nat := (word0 i).toNat / 2 ^ 56
/-- The group size k of a format (R99). -/
def groupK (fa : Nat) : Nat := match fa with | 1 => 1 | 2 => 1 | 3 => 4 | 4 => 4 | 7 => 4 | _ => 8
/-- The pair of formats and AT is one of R99. -/
def pairOk (fa fb : Nat) (i32 : Bool) : Bool :=
  (([1, 2].contains fa && [1, 2].contains fb) || ([3, 4].contains fa && [3, 4].contains fb) || (fa == 5 && fb == 5)) && !i32
    || ((fa == 6 && fb == 6) || (fa == 7 && fb == 7)) && i32
/-- The product of two L6 codes (R90): their logarithms add. -/
def l6Prod (a b : Nat) : Num :=
  if a % 32 = 0 ∨ b % 32 = 0 then .fin false 0 0 else
  let s : Int := (a % 32 : Nat) + (b % 32 : Nat) - 32
  .fin (bitN a 5 != bitN b 5) (l6T (s % 4).toNat) (s / 4 - 15)
/-- The exact product of two operand codes with their zero points (R100). -/
def mProd (fa fb a za b zb : Nat) : Num × Flags :=
  if fa = 5 then (l6Prod a b, 0)
  else if tyOB fa then (Num.ofInt (((a : Int) - za) * ((b : Int) - zb)) 0 false, 0)
  else Num.mul (numOf fa a 0) (numOf fb b 0)

/-- The exponent of a finite value. -/
def numExpo : Num → Int
  | .fin _ _ e => e
  | _ => 0
/-- The signed mantissa of a finite value at an exponent not above its own. -/
def numMant (e0 : Int) : Num → Int
  | .fin n m e => Num.at n m e e0
  | _ => 0

/-- The exact sum of a group (R100, R101): a NaN operand, 0 x infinity, infinities of both signs; a sum of zeros is +0 unless every product is -0. -/
def groupSum (l : List (Num × Flags)) : Num × Flags :=
  let vs := l.map Prod.fst
  let both := vs.contains (.inf false) && vs.contains (.inf true)
  let f := l.foldl (fun f p => f ||| p.2) (fIf both fNV)
  if vs.any Num.isNan || both then (.nan, f)
  else if vs.contains (.inf false) then (.inf false, f)
  else if vs.contains (.inf true) then (.inf true, f)
  else
    let e := (vs.map numExpo).foldl min 0
    (Num.ofInt ((vs.map (numMant e)).sum) e (vs.all fun v => v.isZero && v.sign), f)

/-- One F32 accumulation of an exact value: rounded once to nearest even; NV and OF only (R100, R101, R85). -/
def accStep (c : Nat) (v : Num) : Nat × Flags :=
  let x := numOf 0 c 0
  let (r, g) := Num.add false x v
  let (d, h) := (fmtF 0).round 0 false r
  (d, (fIf x.isNan fNV ||| g ||| h) &&& (fNV ||| fOF))

/-- One group added into an accumulator element (R100). -/
def accGroup (i32 : Bool) (c : Nat) (l : List (Num × Flags)) : Nat × Flags :=
  if i32 then (wrapN ((c : Int) + ((l.map fun p => numMant 0 p.1)).sum) 32, 0)
  else
    let (s, f) := groupSum l
    let (d, g) := accStep c s
    (d, f ||| g)

/-- A list cut into pieces of k. -/
def cutBy {α : Type} (k : Nat) : Nat → List α → List (List α)
  | 0, _ => []
  | _, [] => []
  | n + 1, l => l.take k :: cutBy k n (l.drop k)

/-- The groups added in ascending order. -/
def accRun (i32 : Bool) (c : Nat) (gs : List (List (Num × Flags))) : Nat × Flags :=
  gs.foldl (fun (p : Nat × Flags) g => let q := accGroup i32 p.1 g; (q.1, p.2 ||| q.2)) (c, 0)

/-- One element of `MSCACC` (R102): codes of C and P and the two scale bytes. -/
def scaleAcc (i32 : Bool) (c p ea eb : Nat) : Nat × Flags :=
  if ea = 255 ∨ eb = 255 then ((fmtF 0).nanc, fNV)
  else
    let x := if i32 then Num.ofInt (sval p 32) 0 false else numOf 0 p 0
    let v := match x with
      | .fin n m e => Num.fin n m (e + (ea : Int) + eb - 254)
      | y => y
    accStep c v

/-! ## Rows of 64 elements -/

/-- Element j of a tile row. -/
def cellOf (r : Row) (j : Nat) : Nat := fld r.toNat (32 * j) 32
/-- A tile row from its 64 elements. -/
def cellRow (l : List Nat) : Row := BitVec.ofNat 2048 (leNat ((l.map fun v => leBytes 4 v).flatten))
/-- A row of `MSCACC`: row i of C and P. -/
def scaleRow (i32 : Bool) (i : Nat) (c p sa sb : Row) : Row × Flags :=
  let l := (natsFrom 0 64).map fun j => scaleAcc i32 (cellOf c j) (cellOf p j) (fld sa.toNat (8 * i) 8) (fld sb.toNat (8 * j) 8)
  (cellRow (l.map Prod.fst), l.foldl (fun f q => f ||| q.2) 0)

/-! ## Operand slots (R324, R325) -/

/-- LFMT of a metadata slot. -/
def lfMeta : Nat := 15
/-- Physical slot n of a core. -/
def Core.slot (k : Core) (n : Nat) : Slot := tget k.slots Slot.reset n
/-- Slot row i; FTEST leaves free contents (R291). -/
def Slot.row (sl : Slot) (c n i : Nat) : BitVec 3072 :=
  match tfind sl.rows i with
  | some r => r
  | none => (match sl.fill with
    | some (sd, du) => (Config.ftestRow c sd du (65536 + 128 * n + 2 * i)).setWidth 3072 ||| ((Config.ftestRow c sd du (65536 + 128 * n + 2 * i + 1)).setWidth 3072 <<< 2048)
    | none => 0)
/-- Element x of a slot row, of width w: bits [wx + w - 1 : wx] (R78, R338). -/
def elemAt (r : BitVec 3072) (w x : Nat) : Nat := fld r.toNat (w * x) w
/-- Sets element x of a slot row. -/
def elemPut (r : BitVec 3072) (w x v : Nat) : BitVec 3072 := BitVec.ofNat 3072 (setFld r.toNat (w * x) w v)
/-- The zero point of block b of slot row i (R92). -/
def Slot.zp (sl : Slot) (w i b : Nat) : Nat := fld sl.zps.toNat (w * (4 * i + b)) w

/-! ## The nest of a record (R334) -/

/-- The fields `MMA` and `SMMA` share, and LIVE and MSLOT. -/
def mmaOf : Instr → Option (MmaF × Option (BitVec 48 × BitVec 4))
  | .mma f => some (f, none)
  | .smma f => some (f.m, some (f.live, f.mslot))
  | _ => none
/-- The four fields as numbers. -/
def q16Nats (q : Q16) : List Nat := [q.l0.toNat, q.l1.toNat, q.l2.toNat, q.l3.toNat]
/-- The four strides as integers. -/
def q4Ints (q : Q4) : List Int := [q.l0.toInt, q.l1.toInt, q.l2.toInt, q.l3.toInt]
/-- The number of single issues. -/
def q16Total (q : Q16) : Nat := (q16Nats q).foldl (· * ·) 1
/-- The indices of issue k, i0 innermost. -/
def q16Idx (q : Q16) (k : Nat) : List Nat :=
  let n := (q16Nats q).map fun v => Nat.max 1 v
  let a := n.getD 0 1
  let b := n.getD 1 1
  let d := n.getD 2 1
  [k % a, k / a % b, k / a / b % d, k / a / b / d]
/-- The offset of indices under strides. -/
def strideSum (idx : List Nat) (st : List Int) : Int := ((idx.zip st).map fun p => (p.1 : Int) * p.2).sum
/-- T, pa and pb of issue k. -/
def mmaAt (f : MmaF) (k : Nat) : Int × Int × Int :=
  let i := q16Idx f.n k
  ((f.tile.toNat : Int) + strideSum i (q4Ints f.ts), 4 * (f.sa.toNat : Int) + strideSum i (q4Ints f.as), 4 * (f.sb.toNat : Int) + strideSum i (q4Ints f.bs))

/-! ## Operands of one issue -/

/-- The operands of one issue: formats, AT, group size, the slots of A, B and the metadata, the first blocks. -/
structure MArgs where
  fa : Nat
  fb : Nat
  i32 : Bool
  kk : Nat
  sa : Nat
  ba : Nat
  sb : Nat
  bb : Nat
  live : Option (Nat × Nat)
  deriving DecidableEq, Repr

/-- The strips of R337 that are live, in ascending order. -/
def liveStrips (live kk : Nat) : List Nat := (natsFrom 0 (kk / 4)).filter fun s => bitN live s
/-- Entry s of the metadata of slot row i (R338): the lower and the higher position. -/
def metaEntry (r : BitVec 3072) (s : Nat) : Nat × Nat := (fld (elemAt r 4 s) 0 2, fld (elemAt r 4 s) 2 2)

/-- The elements of row i of A that form products, as (x, code, zero point), x ascending (R334, R337). -/
def Core.aElems (k : Core) (c : Nat) (a : MArgs) (i : Nat) : List (Nat × Nat × Nat) :=
  let sl := k.slot a.sa
  let w := tyWidth a.fa
  let r := sl.row c a.sa i
  let get := fun (x : Nat) => (elemAt r w (48 * a.ba + x), if tyOB a.fa then sl.zp w i (a.ba + x / 48) else 0)
  match a.live with
  | none => (natsFrom 0 a.kk).map fun x => (x, get x)
  | some (live, ms) =>
    let mr := (k.slot ms).row c ms i
    let ss := liveStrips live a.kk
    (((natsFrom 0 ss.length).zip ss).map fun p =>
      let e := metaEntry mr p.2
      [(4 * p.2 + e.1, get (2 * p.1)), (4 * p.2 + e.2, get (2 * p.1 + 1))]).flatten

/-- Row i of an issue's results from the tile's row; `lim j` groups of element j are added, all of them when it is none (R29, R100, R337). -/
def Core.issueRow (k : Core) (c : Nat) (a : MArgs) (i : Nat) (old : Row) (lim : Nat → Option Nat) : Row × Flags :=
  let w := tyWidth a.fb
  let sb := k.slot a.sb
  let el := k.aElems c a i
  let l := (natsFrom 0 64).map fun j =>
    let r := sb.row c a.sb j
    let ps := el.map fun e => mProd a.fa a.fb e.2.1 e.2.2 (elemAt r w (48 * a.bb + e.1)) (if tyOB a.fb then sb.zp w j (a.bb + e.1 / 48) else 0)
    let gs := cutBy (groupK a.fa) ps.length ps
    accRun a.i32 (cellOf old j) (match lim j with | some n => gs.take (n % (gs.length + 1)) | none => gs)
  (cellRow (l.map Prod.fst), l.foldl (fun f q => f ||| q.2) 0)

/-- An armed perturbation added to element (i, j) (R342). -/
def perturb (i32 : Bool) (rows : List Row) (i j v : Nat) : List Row × Flags :=
  let r := rows.getD i 0
  let c := cellOf r j
  let q := if i32 then ((c + v) % 2 ^ 32, (0 : Flags)) else addCode 0 0 false c v
  (rows.set i (BitVec.ofNat 2048 (setFld r.toNat (32 * j) 32 q.1)), q.2 &&& (fNV ||| fOF))

end Sys2Proof.Machine
end

