-- ==== Sys2Proof/Machine/Matrix.lean ====
section
/-! DEFINITION. The matrix engine: the issue of its records (R328), what each record uses and how the paths start them (R326, R327), slots and their fills (R330 to R333), nests of single issues and their results (R334 to R338, R342, R344), `MZERO`, `MSCACC` and row moves (R340), signature segments (R319, R440) and the replay window (R321, R441, R442). -/
namespace Sys2Proof.Machine
open Sys2Proof

/-! ## What a record uses (R327) -/

/-- The values base + sum of i_l x stride_l that issues of a nest reach within 0 to lim - 1. An issue at (0, ..., i_l, 0, ...) runs before any with a higher index above level l, so a value outside halts the record before what lies behind it. -/
def nestSet (base : Int) (lim : Nat) (n : List Nat) (st : List Int) : List Int :=
  (n.zip st).foldl (fun acc p =>
    ((acc.map fun a => (natsFrom 0 (if p.2 = 0 then Nat.min p.1 1 else Nat.min p.1 (lim + 1))).map fun (i : Nat) => a + (i : Int) * p.2).flatten.eraseDups.filter
      fun v => decide (0 ≤ v) && decide (v < (lim : Int)))) [base]

/-- The logical tiles of a row range. -/
def rowTiles (v n : Nat) : List Nat := natsFrom (v / 64) ((v + n) / 64 - v / 64 + 1)

/-- What a record reads and writes: physical tile t, and slot n as 100 + n (R327). -/
def Core.uses (k : Core) (m : Cmd) : List Nat × List Nat :=
  let tile := fun (l : List Nat) => l.filterMap (k.tileOf m.lid)
  let slot := fun (l : List Nat) => (l.filterMap (k.slotOf m.lid)).map (100 + ·)
  let bits := fun (n w : Nat) => (natsFrom 0 w).filter fun b => bitN n b
  let nest := fun (f : MmaF) (ms : List Nat) =>
    let t := tile ((nestSet f.tile.toNat 24 (q16Nats f.n) (q4Ints f.ts)).map Int.toNat)
    let a := (nestSet (4 * f.sa.toNat) 64 (q16Nats f.n) (q4Ints f.as)).map fun v => v.toNat / 4
    let b := (nestSet (4 * f.sb.toNat) 64 (q16Nats f.n) (q4Ints f.bs)).map fun v => v.toNat / 4
    (t ++ slot (a ++ b ++ ms), t)
  match m.instr with
  | .ofill f => ([], slot [f.slot.toNat])
  | .ofillMeta f => ([], slot [f.slot.toNat])
  | .oclaim f => ([], slot (bits f.smask.toNat 16))
  | .orel f => ([], slot (bits f.smask.toNat 16))
  | .mma f => nest f []
  | .smma f => nest f.m [f.mslot.toNat]
  | .mzero f => ([], tile (bits f.tmask.toNat 24))
  | .mscacc f => (tile [f.tp.toNat, f.tc.toNat], tile [f.tc.toNat])
  | .accld f => ([], tile (rowTiles f.v.toNat f.nrm1.toNat))
  | .accst f => (tile (rowTiles f.v.toNat f.nrm1.toNat), [])
  | _ => ([], [])

/-- No record that left the queue before number id and is not complete conflicts with these reads and writes (R327). -/
def Core.clearFor (k : Core) (id : Nat) (reads writes : List Nat) : Bool :=
  k.live.all fun e => !decide (e.id < id) ||
    (let u := k.uses e
    u.2.all (fun w => !reads.contains w && !writes.contains w) && u.1.all (fun r => !writes.contains r))

/-! ## Accumulator rows and the two sides (R29) -/

/-- The accumulator row of the k-th row that a row move names. -/
def Core.moveAcc (k : Core) (m : Cmd) (v : BitVec 11) (i : Nat) : Option Nat := k.vKey m.lid (v.toNat + i)
/-- A running record writes an accumulator row: a row move its own rows, any other record whole tiles (R327). -/
def Core.writesRow (k : Core) (m : Cmd) (key : Nat) : Bool :=
  match m.instr with
  | .accld f => (natsFrom 0 (f.nrm1.toNat + 1)).any fun i => k.moveAcc m f.v i == some key
  | _ => (k.uses m).2.contains (key / 64)
/-- The record that is writing an accumulator row: one with a pending result on its tile, or one that runs on a path. -/
def Core.mWriter (k : Core) (key : Nat) : Option Cmd :=
  match k.results.find? fun r => r.tile == key / 64 with
  | some r => some r.cmd
  | none => (k.running.find? fun p => k.writesRow p.2.cmd key).map fun p => p.2.cmd
/-- The completion token of the record that an entry names has been waited on (R29). -/
def Core.waited (k : Core) (e : Clob) : Bool :=
  match e.sig, e.need, (tfind k.ctxs e.slot).filter fun x => x.lid == e.lid with
  | some t, some n, some x => decide (n ≤ tget x.taken 0 t.toNat)
  | _, _, _ => false
/-- The contents of an accumulator row are undefined (R29). -/
def Core.undef (k : Core) (key : Nat) : Bool := k.clob.any fun e => e.key == key
/-- A row is written: it is defined again where the record's token has been waited on before (R29). -/
def Core.settleRow (k : Core) (key : Nat) : Core := { k with clob := k.clob.filter fun e => !(e.key == key && k.waited e) }

/-- The operands of issue n of a record, from its addresses alone; the physical tile first. None where an address is beyond the allotment (R334, R336). -/
def Core.mArgs (k : Core) (m : Cmd) (n : Nat) : Option (Nat × MArgs) :=
  (mmaOf m.instr).bind fun q =>
    let f := q.1
    let a := mmaAt f n
    let inR := fun (v : Int) (lim : Nat) => decide (0 ≤ v) && decide (v < (lim : Int))
    if !(inR a.1 24 && inR a.2.1 64 && inR a.2.2 64) then none else
    match k.tileOf m.lid a.1.toNat, k.slotOf m.lid (a.2.1.toNat / 4), k.slotOf m.lid (a.2.2.toNat / 4) with
    | some t, some sa, some sb =>
      let mk' := fun (live : Option (Nat × Nat)) => ({ fa := f.fa.toNat, fb := f.fb.toNat, i32 := f.i32, kk := 48 * (f.kb.toNat + 1), sa := sa, ba := a.2.1.toNat % 4, sb := sb, bb := a.2.2.toNat % 4, live := live } : MArgs)
      (match q.2 with
      | none => some (t, mk' none)
      | some (live, ms) => (k.slotOf m.lid ms.toNat).map fun p => (t, mk' (some (live.toNat, p))))
    | _, _, _ => none

/-- Rows of a tile as a record reads them: one of undefined contents is free (R29). -/
def State.matRows (s : State) (c : Nat) (keys : List Nat) : State × List Row :=
  if keys.any (s.core c).undef then
    ({ s with fresh := s.fresh + keys.length },
      ((natsFrom s.fresh keys.length).zip keys).map fun p => if (s.core c).undef p.2 then Config.freeRow p.1 else (s.core c).accRow c p.2)
  else (s, keys.map ((s.core c).accRow c))

/-- A row of a tile as an EP reads it: of an unfinished issue, some whole number of groups of each element; a row the EP wrote meanwhile is undefined (R29). -/
def State.vecRow (s : State) (c key : Nat) : State × Row :=
  let k := s.core c
  if k.undef key then (s.drawn, Config.freeRow s.fresh) else
  match k.results.find? fun r => r.tile == key / 64 with
  | none => (s, k.accRow c key)
  | some r => (match k.mArgs r.cmd r.k with
    | none => (s, k.accRow c key)
    | some a => (s.drawn, (k.issueRow c a.2 (key % 64) (k.accRow c key) fun j => some (Config.freeSteps s.fresh j)).1))

/-- An EP writes an accumulator row (R29). -/
def State.vecPut (s : State) (c key : Nat) (r : Row) : State :=
  (s.modCore c fun k =>
    match k.mWriter key with
    | some m =>
      { k.setAcc key r with
        clob := { key := key, id := m.id, slot := m.slot, lid := m.lid, sig := m.tk.sig, need := none } :: k.clob.filter fun e => !(e.key == key && e.id == m.id) }
    | none => (k.setAcc key r).settleRow key).clean (.acc c key)
/-- A record writes an accumulator row. -/
def State.mPut (s : State) (c key : Nat) (r : Row) : State := (s.modCore c fun k => (k.setAcc key r).settleRow key).clean (.acc c key)
/-- A record writes the rows of a tile. -/
def State.mPutTile (s : State) (c t : Nat) (rows : List Row) : State :=
  ((natsFrom (64 * t) rows.length).zip rows).foldl (fun s p => s.mPut c p.1 p.2) s

/-! ## Issue (R318, R328) -/

/-- An EP command: what it captures is read at issue. -/
def epCmd (g : Guard) (len : Nat) (tk : Tok) (q : Qid) (i : Instr) (cap : Nat → Ctx → State → State × List Word × List Row) (s : State) : State :=
  epIssue g len (tkToks tk) tk.sig (fun c n x s =>
    if (s.core c).qFull q then .stall s
    else
      let r := cap c x s
      .done (r.1.enqueue c n x q i r.2.1 r.2.2 tk true)) s
/-- Nothing captured. -/
def capNone (_ : Nat) (_ : Ctx) (s : State) : State × List Word × List Row := (s, [], [])
/-- One e register captured. -/
def capE (r : BitVec 5) (_ : Nat) (x : Ctx) (s : State) : State × List Word × List Row := (s, [x.ep.e' r.toNat], [])
/-- Vector registers captured; those beyond the allotment are left out. -/
def capRows (l : List Nat) (c : Nat) (x : Ctx) (s : State) : State × List Word × List Row :=
  let r := l.foldl (fun (p : State × List Row) n => match (p.1.core c).vKey x.lid n with
    | some key => let q := p.1.vecRow c key; (q.1, p.2 ++ [q.2])
    | none => p) (s, [])
  (r.1, [], r.2)
/-- The low w bits of v in every element position (R211). -/
def bcast (w : Nat) (v : Nat) : Row := BitVec.ofNat 2048 ((natsFrom 0 (2048 / Nat.max 1 w)).foldl (fun acc i => acc + v % 2 ^ w * 2 ^ (w * i)) 0)
/-- The zero-point operand captured (R331). -/
def capZp (fmt zp : Nat) (c : Nat) (x : Ctx) (s : State) : State × List Word × List Row :=
  if !tyOB fmt then (s, [], [])
  else if zp < 1536 then capRows [zp] c x s
  else if zp < 1584 then (s, [], [bcast (tyWidth fmt) (x.ep.e' (zp - 1552)).toNat])
  else (s, [], [0])

/-- `MMA` (R334). -/
def execMma (f : MmaF) (s : State) : Out := .next (epCmd f.g 8 f.tk .matrix (.mma f) capNone s)
/-- `SMMA` (R337). -/
def execSmma (f : SmmaF) (s : State) : Out := .next (epCmd f.m.g 8 f.m.tk .matrix (.smma f) capNone s)
/-- `MZERO` (R340). -/
def execMzero (f : MzeroF) (s : State) : Out := .next (epCmd f.g 2 f.tk .matrix (.mzero f) capNone s)
/-- `MSCACC` (R340): both scale rows are captured. -/
def execMscacc (f : MscaccF) (s : State) : Out := .next (epCmd f.g 2 f.tk .matrix (.mscacc f) (capRows [f.vsa.toNat, f.vsb.toNat]) s)
/-- `OCLAIM` (R330). -/
def execOclaim (f : OclF) (s : State) : Out := .next (epCmd f.g 2 f.tk .matrix (.oclaim f) capNone s)
/-- `OREL` (R330). -/
def execOrel (f : OclF) (s : State) : Out := .next (epCmd f.g 2 f.tk .matrix (.orel f) capNone s)
/-- `OFILL` (R332). -/
def execOfill (f : OfillF) (s : State) : Out := .next (epCmd f.g 2 f.tk .matrix (.ofill f) (capZp f.fmt.toNat f.zp.toNat) s)
/-- `OFILL.META` (R332). -/
def execOfillMeta (f : OfillMF) (s : State) : Out := .next (epCmd f.g 2 f.tk .matrix (.ofillMeta f) capNone s)
/-- `ACCLD` (R340). -/
def execAccld (f : AccF) (s : State) : Out := .next (epCmd f.g 2 f.tk .matrix (.accld f) (capE f.ea) s)
/-- `ACCST` (R340). -/
def execAccst (f : AccF) (s : State) : Out := .next (epCmd f.g 2 f.tk .matrix (.accst f) (capE f.ea) s)
/-- `MPERT` (R341). -/
def execMpert (f : MpertF) (s : State) : Out := .next (epCmd f.g 2 f.tk .matrix (.mpert f) (capE f.ea) s)

/-- `TSTART` (R321): an entry of the matrix queue. -/
def execTstart (f : G0) (s : State) : Out := .next (epCmd f.g 1 ⟨none, ⟨none, none, none⟩⟩ .matrix (.tstart f) capNone s)

/-! ## The window, the segment, records -/

/-- Changes the window's entry for a record. -/
def Core.modW (k : Core) (id : Nat) (f : WRec → WRec) : Core := { k with window := k.window.map fun w => if w.cmd.id == id then f w else w }
/-- The records of a context in the window, oldest first. -/
def Core.windowOf (k : Core) (m : Cmd) : List WRec := k.window.filter fun w => w.cmd.slot == m.slot && w.cmd.lid == m.lid
/-- A record lies in its context's open segment (R319). -/
def Ctx.inSeg (x : Ctx) (m : Cmd) : Bool := x.segOpen && decide (x.segFrom ≤ m.id)
/-- The final signature (R319). -/
def Ctx.sigOut (x : Ctx) : Nat := x.segSig.toNat ^^^ 0xFFFFFFFF

/-- The logical tile that an issue or row of a record works on (R439). -/
def mTile (i : Instr) (n : Nat) : Nat :=
  match i, mmaOf i with
  | _, some (f, _) => (mmaAt f n).1.toNat
  | .mzero f, _ => ((natsFrom 0 24).filter fun t => f.tmask.getLsbD t).getD (n / 64) 0
  | .mscacc f, _ => f.tc.toNat
  | .accld f, _ => (f.v.toNat + n) / 64
  | .accst f, _ => (f.v.toNat + n) / 64
  | _, _ => 0
/-- DETAIL of R439: indices, opcode, trigger, replays, ESC, signature, tile. -/
def mDet (x : Option Ctx) (m : Cmd) (n trig esc : Nat) : List (Nat × Nat × Nat) :=
  let i := match mmaOf m.instr with | some (f, _) => q16Idx f.n n | none => [0, 0, 0, 0]
  [(32, 2, i.getD 0 0), (34, 2, i.getD 1 0), (36, 2, i.getD 2 0), (38, 2, i.getD 3 0), (40, 1, opcByte m.instr), (41, 1, trig),
   (42, 1, (x.bind Ctx.window).getD 0), (43, 1, esc), (44, 4, match x with | some x => if x.segOpen then x.sigOut else 0 | none => 0), (52, 1, mTile m.instr n)]

/-- Once a record has signalled, the takes that will have covered its signal are known (R29). -/
def State.clobDone (s : State) (c : Nat) (m : Cmd) : State :=
  match m.tk.sig, (s.ctx c m.slot).filter fun x => x.lid == m.lid with
  | some t, some x => s.modCore c fun k => { k with clob := k.clob.map fun e => if e.id == m.id then { e with need := some (tget x.taken 0 t.toNat + x.token t) } else e }
  | _, _ => s
/-- A record completes (R329). -/
def State.mDone (s : State) (c : Nat) (m : Cmd) : State :=
  ((s.modCore c fun k => k.modW m.id fun w => { w with signalled := m.tk.sig.isSome }).complete c m).clobDone c m
/-- Takes a record off its path. -/
def Core.offPath (k : Core) (id : Nat) : Core :=
  { k with running := k.running.filter fun p => p.2.cmd.id != id, staged := k.staged.filter fun p => p.2.id != id, results := k.results.filter fun r => r.cmd.id != id }
/-- A record halts with a CLASS 4 record; its earlier issues stand (R394, R439). -/
def State.mHalt (s : State) (c : Nat) (m : Cmd) (cause n trig : Nat) : State :=
  (s.modCore c fun k =>
    { k.modW m.id (fun w => { w with halted := true }) with
      running := k.running.filter fun p => p.2.cmd.id != m.id
      staged := k.staged.filter fun p => p.2.id != m.id }).haltCmd c m 4 cause none (mDet (s.ctx c m.slot) m n trig 0)

/-- The flags an engine's issue, firing or row sets, with the CLASS 9 record of the first enabled one of a command (R438). -/
def State.engFlags (s : State) (c : Nat) (m : Cmd) (f : Flags) (unit : Nat) : State :=
  let s1 := s.setFlags c m.slot m.lid f
  match (s.ctx c m.slot).filter fun x => x.lid == m.lid with
  | none => s1
  | some x =>
    let on := (f &&& x.ftrapen).toNat
    if on = 0 ∨ (s.core c).nine.contains m.id then s1 else
    let r := s.mkRec 9 1 (0x20 + bitLen on - 1) (cmdMaster c m) none m.lid x.rank [(32, 1, f.toNat), (33, 1, opcByte m.instr), (34, 2, unit)]
    (s1.modCore c fun k => { k with nine := m.id :: k.nine }).report c m.slot m.lid (cmdProc m.instr) r

/-- Single issue n of a record adds its entry to the open segment; after 65,536 of them the hardware checks stop (R319, R439 cause 14, R440). -/
def State.segEntry (s : State) (c : Nat) (m : Cmd) (n : Nat) : State :=
  match (s.ctx c m.slot).filter fun x => x.lid == m.lid && x.inSeg m with
  | none => s
  | some x =>
    let idx := match mmaOf m.instr with | some (f, _) => q16Idx f.n n | none => [0, 0, 0, 0]
    let sig := BitVec.ofNat 32 (crcRun x.segSig.toNat (BitVec.ofNat 8 (opcByte m.instr) :: (idx.map fun i => leBytes 2 i).flatten))
    if x.segCnt < 65536 then s.setCtx c m.slot { x with segSig := sig, segCnt := x.segCnt + 1 }
    else
      let s1 := s.setCtx c m.slot { x with segSig := sig, segHwOff := true }
      if x.segHwOff then s1 else
      s1.report c m.slot m.lid .ep (s.mkRec 4 1 14 (cmdMaster c m) none m.lid x.rank (mDet (some x) m n 0 0))

/-! ## Poison on the matrix path (R440, R453) -/

/-- A physical tile holds an uncorrectable error. -/
def State.badTile (s : State) (c t : Nat) : Bool := s.poisonLoc.any fun l => match l with | .acc c' r => c' == c && r / 64 == t | _ => false
/-- A physical slot holds one. -/
def State.badSlot (s : State) (c n : Nat) : Bool := s.poisonLoc.contains (.slot c n)

/-! ## Fills (R332, R333) -/

/-- Slot, format (none for metadata), port, swizzle, blocks, of a fill. -/
structure FillF where
  slot : Nat
  fmt : Option Nat
  port : Nat
  z : Nat
  kf : Nat
  deriving DecidableEq, Repr
/-- The fields of a fill. -/
def fillOf : Instr → Option FillF
  | .ofill f => some ⟨f.slot.toNat, some f.fmt.toNat, f.port.toNat, f.z.toNat, f.kfm1.toNat + 1⟩
  | .ofillMeta f => some ⟨f.slot.toNat, none, f.port.toNat, f.z.toNat, 1⟩
  | _ => none
/-- Its element width. -/
def FillF.w (f : FillF) : Nat := match f.fmt with | some t => tyWidth t | none => 4
/-- Elements of a slot row it writes. -/
def FillF.perRow (f : FillF) : Nat := match f.fmt with | some _ => 48 * f.kf | none => 48
/-- Its length in bytes. -/
def FillF.len (f : FillF) : Nat := 64 * f.perRow * f.w / 8

/-- The popped byte that logical byte b comes from (R333). -/
def unswizzle (z b : Nat) : Nat := let sp := 16 * 2 ^ z; b / sp * sp + 16 * ((b % sp / 16) ^^^ (b / sp % (sp / 16))) + b % 16
/-- Byte q of popped rows. -/
def poppedByte (rows : List Row) (q : Nat) : Nat := fld (rows.getD (q / 256) 0).toNat (8 * (q % 256)) 8

/-- Writes to a slot the elements that n popped rows complete and n0 do not. -/
def Slot.fillFrom (sl : Slot) (c n : Nat) (f : FillF) (rows : List Row) (n0 : Nat) : Slot :=
  let w := f.w
  let els := (natsFrom 0 (64 * f.perRow)).filterMap fun e =>
    let b0 := e * w / 8
    let cnt := (e * w + w - 1) / 8 - b0 + 1
    let src := (natsFrom b0 cnt).map (unswizzle f.z)
    let last := src.foldl Nat.max 0
    if 256 * n0 ≤ last ∧ last < 256 * rows.length then
      some (e, fld (((natsFrom 0 cnt).zip src).foldl (fun acc p => acc + poppedByte rows p.2 * 2 ^ (8 * p.1)) 0) (e * w - 8 * b0) w)
    else none
  { sl with rows := els.foldl (fun t p => let i := p.1 / f.perRow; tset t i (elemPut (match tfind t i with | some r => r | none => sl.row c n i) w (p.1 % f.perRow) p.2)) sl.rows }
/-- The layout word a completed fill leaves (R332). -/
def Slot.laidOut (sl : Slot) (f : FillF) : Slot := { sl with lfmt := some (f.fmt.getD lfMeta), lz := f.z, kf := f.kf }
/-- Changes physical slot n. -/
def State.modSlot (s : State) (c n : Nat) (f : Slot → Slot) : State := s.modCore c fun k => { k with slots := tset k.slots n (f (k.slot n)) }

/-! ## Effects of records without nests -/

/-- The slots of a mask. -/
def maskSlots (mask : BitVec 16) : List Nat := (natsFrom 0 16).filter fun b => mask.getLsbD b
/-- The first error of `OCLAIM` or `OREL` (R330). -/
def Core.claimErr (k : Core) (m : Cmd) (mask : BitVec 16) (want : Option Nat) : Option Nat :=
  (maskSlots mask).findSome? fun n => match k.slotOf m.lid n with
    | none => some 1
    | some p => if (k.slot p).owner == want then none else some 2

/-- What is wrong with a record that starts; none if nothing is (R330, R332, R340). -/
def Core.startErr (k : Core) (m : Cmd) : Option Nat :=
  let rowsOk := fun (f : AccF) =>
    let o := (m.vals.getD 0 0).toNat
    if o % 256 ≠ 0 ∨ !k.locOk m.lid o (256 * (f.nrm1.toNat + 1)) then some 9
    else if (k.vKey m.lid (f.v.toNat + f.nrm1.toNat)).isNone ∨ 1536 ≤ f.v.toNat + f.nrm1.toNat then some 1 else none
  match m.instr with
  | .oclaim f => k.claimErr m f.smask none
  | .orel f => k.claimErr m f.smask (some m.slot)
  | .mzero f => if ((natsFrom 0 24).filter fun t => f.tmask.getLsbD t).any fun t => (k.tileOf m.lid t).isNone then some 1 else none
  | .mscacc f => if (k.tileOf m.lid f.tc.toNat).isNone || (k.tileOf m.lid f.tp.toNat).isNone || m.rows.length != 2 then some 1 else none
  | .accld f => rowsOk f
  | .accst f => rowsOk f
  | i => (match fillOf i with
    | none => none
    | some f => (match k.slotOf m.lid f.slot with
      | none => some 1
      | some p =>
        if (k.slot p).owner != some m.slot then some 2
        else if f.len % (16 * 2 ^ f.z) ≠ 0 then some 7
        else if (match f.fmt with | some t => tyOB t && m.rows.isEmpty | none => false) then some 1 else none))

/-- The row key of the k-th scratchpad row of a row move. -/
def Core.moveKey (k : Core) (m : Cmd) (i : Nat) : Nat := match k.locOf m.lid ((m.vals.getD 0 0).toNat + 256 * i) with | some p => p.1 | none => 0

/-- The rows of a record that works row by row: `MZERO`, `MSCACC`, `ACCLD`, `ACCST` (R344). -/
def mRows : Instr → Nat
  | .mzero f => 64 * ((natsFrom 0 24).filter fun t => f.tmask.getLsbD t).length
  | .mscacc _ => 64
  | .accld f => f.nrm1.toNat + 1
  | .accst f => f.nrm1.toNat + 1
  | _ => 0
/-- Row i of such a record (R340), and the flags it sets. -/
def State.mRow (s : State) (c : Nat) (m : Cmd) (i : Nat) : State × Flags :=
  let k := s.core c
  match m.instr with
  | .mzero f =>
    (match (((natsFrom 0 24).filter fun t => f.tmask.getLsbD t)[i / 64]?).bind (k.tileOf m.lid) with
    | some p => (s.mPut c (64 * p + i % 64) 0, 0)
    | none => (s, 0))
  | .mscacc f =>
    (match k.tileOf m.lid f.tc.toNat, k.tileOf m.lid f.tp.toNat with
    | some tc, some tp =>
      let q := s.matRows c [64 * tc + i, 64 * tp + i]
      let r := scaleRow f.pt i (q.2.getD 0 0) (q.2.getD 1 0) (m.rows.getD 0 0) (m.rows.getD 1 0)
      (q.1.mPut c (64 * tc + i) r.1, r.2)
    | _, _ => (s, 0))
  | .accld f =>
    (match k.moveAcc m f.v i with
    | some key => (s.mPut c key (k.row c (k.moveKey m i)), 0)
    | none => (s, 0))
  | .accst f =>
    (match k.moveAcc m f.v i with
    | some key =>
      let q := s.matRows c [key]
      ((q.1.modCore c fun k' => k'.setRow (k.moveKey m i) (q.2.getD 0 0)).rowWhole c (k.moveKey m i), 0)
    | none => (s, 0))
  | _ => (s, 0)

/-- Row i of such a record reads an uncorrectable error, or the array that computes it meets one (R440). -/
def State.mPoisoned (s : State) (c : Nat) (m : Cmd) (i : Nat) : Bool :=
  let k := s.core c
  let bad := fun (key : Option Nat) => match key with | some key => s.poisonLoc.contains (.acc c key) | none => false
  match m.instr with
  | .mscacc f => s.poisonLoc.contains (.array c) || [f.tc.toNat, f.tp.toNat].any fun t => bad ((k.tileOf m.lid t).map fun p => 64 * p + i)
  | .accld _ => s.badBank c (k.moveKey m i)
  | .accst f => bad (k.moveAcc m f.v i)
  | _ => false

/-! ## Replay (R441, R442) -/

/-- The trigger as a number (R439). -/
def trigNat : Trigger → Nat | .error => 1 | .signature => 2 | .watchdog => 3 | .injected => 4
/-- Issue n of a record is the first on its tile (R334). -/
def firstTouch (f : MmaF) (n : Nat) : Bool := !(natsFrom 0 n).any fun j => (mmaAt f j).1 == (mmaAt f n).1

/-- The tiles that replaying leaves right, after a record; none when the record reads a tile the window did not write first (R442). -/
def Core.windowTiles (k : Core) (init : List Nat) (w : WRec) : Option (List Nat) :=
  let m := w.cmd
  let need := fun (l : List Nat) => if l.all fun t => init.contains t then some init else none
  match m.instr with
  | .mzero _ => some (init ++ (k.uses m).2)
  | .mscacc f => need ((k.tileOf m.lid f.tc.toNat).toList)
  | .accst _ => need (k.uses m).1
  | i => (match mmaOf i with
    | none => some init
    | some (f, _) => (natsFrom 0 w.issues).foldl (fun (o : Option (List Nat)) n => o.bind fun init => match k.mArgs m n with
        | none => some init
        | some (t, _) => if f.accz && firstTouch f n then some (t :: init) else if init.contains t then some init else none) (some init))

/-- The records of a context's window that are still in the matrix queue: those before its next marker (R321, R442). -/
def Core.windowTail (k : Core) (m : Cmd) : Nat :=
  (((k.queue .matrix).filter fun e => e.slot == m.slot && e.lid == m.lid).takeWhile fun e => match e.instr with | .tstart _ => false | _ => true).length
/-- The window can be replayed (R442). -/
def State.canReplay (s : State) (c : Nat) (m : Cmd) (x : Ctx) : Bool :=
  let k := s.core c
  let ws := k.windowOf m
  let on := ws.filter WRec.started
  let filled := on.filterMap fun w => (fillOf w.cmd.instr).bind fun f => k.slotOf m.lid f.slot
  let ports := on.filterMap fun w => (fillOf w.cmd.instr).map fun f => (f.port, w.popped.length)
  (match x.window with | some n => decide (n < 2) | none => false)
    && decide (ws.length + k.windowTail m ≤ 64)
    && (on.foldl (fun (o : Option (List Nat)) w => o.bind fun i => k.windowTiles i w) (some [])).isSome
    && (on.all fun w => (natsFrom 0 w.issues).all fun n => match k.mArgs w.cmd n with
      | some (_, a) => ([a.sa, a.sb] ++ (match a.live with | some q => [q.2] | none => [])).all fun p => filled.contains p || !s.badSlot c p
      | none => true)
    && (ports.all fun p =>
      let sum := ((ports.filter fun q => q.1 == p.1).map Prod.snd).sum
      sum == 0 || (match s.portStream c x p.1 with | some (_, st) => decide (sum ≤ st.repl) && decide (sum ≤ st.held) | none => false))

/-- Runs the issue again, unperturbed: a result still pending takes the new rows, any other is written (R441, R342). -/
def State.reissue (s : State) (c : Nat) (m : Cmd) (f : MmaF) (n : Nat) : State :=
  match (s.core c).mArgs m n with
  | none => s
  | some (t, a) =>
    let s0 := if f.accz && firstTouch f n then s.mPutTile c t (List.replicate 64 0) else s
    let old := s0.matRows c (natsFrom (64 * t) 64)
    let s1 := old.1
    let k := s1.core c
    let r := (natsFrom 0 64).map fun i => k.issueRow c a i (old.2.getD i 0) fun _ => none
    let rows := r.map Prod.fst
    if k.results.any fun q => q.cmd.id == m.id && q.k == n then
      s1.modCore c fun k => { k with results := k.results.map fun q =>
        if q.cmd.id == m.id && q.k == n then { q with rows := rows, flags := r.foldl (fun f q => f ||| q.2) 0, trig := none, since := s.time.toNat } else q }
    else (s1.mPutTile c t rows).engFlags c m (r.foldl (fun f q => f ||| q.2) 0) (mTile m.instr n)

/-- Re-runs one issue or row of a started record of the window, or its fill (R441 step 3). -/
def State.rerun (s : State) (c : Nat) (w : WRec) (n : Nat) : State :=
  let m := w.cmd
  match mmaOf m.instr, fillOf m.instr with
  | some (f, _), _ => s.reissue c m f n
  | none, some f =>
    (match (s.core c).slotOf m.lid f.slot with
    | none => s
    | some p =>
      let s1 := s.modSlot c p fun sl => (if (match f.fmt with | some t => tyOB t | none => false) then { sl with zps := m.rows.getD 0 0 } else sl).fillFrom c p f w.popped 0
      if 256 * w.popped.length = f.len then (s1.modSlot c p fun sl => sl.laidOut f).clean (.slot c p) else s1)
  | none, none => let q := s.mRow c m n; q.1.engFlags c m q.2 (mTile m.instr n)
/-- What a replay runs again, in queue order: the issues and rows of the started records, and their fills, up to one that halted (R441, R448). -/
def redoList : List WRec → List (Nat × Nat)
  | [] => []
  | w :: r =>
    if !w.started then redoList r else
    let here := if (fillOf w.cmd.instr).isSome then [(w.cmd.id, 0)] else (natsFrom 0 w.issues).map fun n => (w.cmd.id, n)
    if w.halted then here else here ++ redoList r

/-- A SEV 0 record of a corrected error goes to the device queue, at most one a millisecond and counted unit (R403, R455); the matrix engine of core c, which has no counter, is unit 64 + c. -/
def State.corrected (s : State) (u : Nat) (r : FaultRec) : State :=
  let d := masterDie r.master
  match tfind (s.die d).lastSev0 u with
  | some t => if s.time.toNat < t + 1000000 then s else (s.toDevice r).modDie d fun x => { x with lastSev0 := tset x.lastSev0 u s.time.toNat }
  | none => (s.toDevice r).modDie d fun x => { x with lastSev0 := tset x.lastSev0 u s.time.toNat }

/-- Free contents in the rows of a tile (R441 step 2). -/
def State.freeTile (s : State) (c t : Nat) : State :=
  (natsFrom (64 * t) 64).foldl (fun s key => (s.mPut c key (Config.freeRow s.fresh)).drawn) s

/-- The physical tiles that a started record of a window has written (R441). -/
def Core.wroteTiles (k : Core) (w : WRec) : List Nat :=
  match mmaOf w.cmd.instr with
  | some (f, _) => ((natsFrom 0 w.issues).filterMap fun n =>
      if k.results.any (fun q => q.cmd.id == w.cmd.id && q.k == n) && !(f.accz && firstTouch f n) then none else (k.mArgs w.cmd n).map Prod.fst).eraseDups
  | none => (match w.cmd.instr with
    | .accst _ => []
    | i => ((natsFrom 0 w.issues).filterMap fun n => k.tileOf w.cmd.lid (mTile i n)).eraseDups)
/-- A trigger at issue n of a record: the replay of the window begins, anew if one is in progress, with the results in flight discarded, or the record halts (R441, R442). -/
def State.replayAt (s : State) (c : Nat) (m : Cmd) (n : Nat) (trig : Trigger) : State :=
  let x := s.ctx c m.slot
  let ws := (s.core c).windowOf m
  if (match x with | some x => s.canReplay c m x | none => false) then
    let mine := fun (e : Cmd) => e.slot == m.slot && e.lid == m.lid
    (s.modCtx c m.slot fun x => { x with window := x.window.map (· + 1) }).modCore c fun k => { k with
      redo := some { cmd := m, k := n, trig := trig, esc := ws.any WRec.signalled, todo := redoList ws }
      results := k.results.map fun r => if mine r.cmd then { r with trig := none } else r }
  else
    let tiles := ((ws.filter WRec.started).flatMap (s.core c).wroteTiles).eraseDups
    let s1 := tiles.foldl (fun s t => s.freeTile c t) s
    (s1.modCore c fun k => { k.offPath m.id with redo := none }).mHalt c m 11 n (trigNat trig)
/-- The record a started one consumes an uncorrectable error with, at an issue that is run again. -/
def State.redoBad (s : State) (c : Nat) (w : WRec) (n : Nat) : Bool :=
  match mmaOf w.cmd.instr with
  | some (f, _) => (match (s.core c).mArgs w.cmd n with
    | some (t, a) => ([a.sa, a.sb] ++ (match a.live with | some q => [q.2] | none => [])).any (s.badSlot c)
        || (!(f.accz && firstTouch f n) && s.badTile c t) || s.poisonLoc.contains (.array c)
    | none => false)
  | none => (fillOf w.cmd.instr).isNone && s.mPoisoned c w.cmd n
/-- The next part of a replay: one issue or row runs again, a trigger in it starts the replay again; at its end the record of cause 10 goes out (R441, R442). -/
def State.redoStep (s : State) (c : Nat) (r : Redo) : State :=
  match r.todo with
  | (id, n) :: rest =>
    let s1 := s.modCore c fun k => { k with redo := some { r with todo := rest } }
    (match (s.core c).window.find? fun w => w.cmd.id == id with
    | none => s1
    | some w => if s.redoBad c w n then (s.clean (.array c)).replayAt c w.cmd n .error else s1.rerun c w n)
  | [] =>
    let m := r.cmd
    let x := s.ctx c m.slot
    let rc := s.mkRec 4 (b2n r.esc) 10 (cmdMaster c m) none m.lid (match x with | some x => x.rank | none => 0xFFFF) (mDet x m r.k (trigNat r.trig) (b2n r.esc))
    let s1 := s.modCore c fun k => { k with redo := none }
    if r.esc then s1.report c m.slot m.lid .ep rc else s1.corrected (64 + c) rc

/-! ## The paths (R326) -/

/-- The path of a record, as a key. -/
def pathKey : MPath → Nat | .fill => 0 | .array => 1 | .row => 2 | .control => 3
/-- The path of a record. -/
def pathOf : Instr → MPath
  | .ofill _ => .fill | .ofillMeta _ => .fill
  | .mma _ => .array | .smma _ => .array | .mzero _ => .array | .mscacc _ => .array
  | .accld _ => .row | .accst _ => .row
  | _ => .control

/-- A parked record takes its place on its path, or its staging place, once it is free (R66, R326). -/
def Core.unpark (k : Core) (q : Parked) : Core :=
  match q.run with
  | some r => if (tfind k.running q.path).isSome then k else { k with running := tset k.running q.path r, parked := k.parked.filter (· != q) }
  | none => if (tfind k.staged q.path).isSome then k else { k with staged := tset k.staged q.path q.cmd, parked := k.parked.filter (· != q) }
/-- Entries of commands that halted otherwise leave the paths; results of single issues they had started are still written (R394, R399). Parked records go on. -/
def Core.mPrune (k0 : Core) : Core :=
  let k := (k0.parked.filter fun q => k0.isLive q.cmd.id).foldl Core.unpark k0
  { k with
    parked := k.parked.filter fun q => k.isLive q.cmd.id
    running := k.running.filter fun p => k.isLive p.2.cmd.id
    staged := k.staged.filter fun p => k.isLive p.2.id
    results := k.results.filter fun r => k.isLive r.cmd.id || (k.allot r.cmd.lid).isSome
    redo := k.redo.filter fun r => (tfind k.ctxs r.cmd.slot).any fun x => x.lid == r.cmd.lid && x.frozen.isNone }

/-- A staged record could start: its path is idle and R327 allows it. -/
def Core.ready (k : Core) (p : Nat × Cmd) : Bool :=
  (tfind k.running p.1).isNone && ((mmaOf p.2.instr).isSome || (let u := k.uses p.2; k.clearFor p.2.id u.1 u.2))
/-- Since when the staged record of each path could start (R440). -/
def State.noteReady (s : State) (c : Nat) : State :=
  s.modCore c fun k => { k with mReady := k.staged.filterMap fun p => if k.ready p then some (p.1, tget k.mReady s.time.toNat p.1) else none }
/-- A step of the matrix engine: the next part of a replay, while one is in progress, for which the paths stand still (R441), or what the step itself does. -/
def State.matStep (s : State) (c : Nat) (f : State → State) : State :=
  let s1 := s.modCore c Core.mPrune
  (match (s1.core c).redo with | some r => s1.redoStep c r | none => f s1).noteReady c

/-- The head of the matrix queue takes its wait set, and leaves once its path's staging place is empty (R326). -/
def State.startMatrix (s : State) (c : Nat) (m : Cmd) (x : Ctx) : State :=
  let s := s.modCore c Core.mPrune
  let took := (s.core c).mTook.contains m.id
  if !took && !x.settle.canTake m.tk.waits then s else
  let s1 := if took then s else (s.modCtx c m.slot fun x => x.settle.take m.tk.waits).modCore c fun k => { k with mTook := m.id :: k.mTook }
  let p := pathKey (pathOf m.instr)
  if (tfind (s1.core c).staged p).isSome then s1 else
  (s1.modCore c fun k =>
    { (k.setQueue .matrix ((k.queue .matrix).filter fun e => e.id != m.id)) with
      live := k.live ++ [m]
      staged := tset k.staged p m
      mTook := k.mTook.filter (· != m.id)
      window := if x.window.isSome then k.window ++ [{ cmd := m, started := false, signalled := false, halted := false, issues := 0, popped := [] }] else k.window }).noteReady c

/-- A tile-start marker at the head waits for every earlier record of its context, and leaves: the window restarts and its replay rows are released (R321, R171). -/
def State.startTstart (s : State) (c : Nat) (m : Cmd) : State :=
  let k := s.core c
  if k.live.any fun e => decide (e.id < m.id) && e.slot == m.slot && e.lid == m.lid && cmdProc e.instr == .ep && (cmdMaster c e == cmdMaster c m) then s else
  (s.modCore c fun k =>
    { (k.setQueue .matrix ((k.queue .matrix).filter fun e => e.id != m.id)) with
      window := k.window.filter fun w => !(w.cmd.slot == m.slot && w.cmd.lid == m.lid)
      streams := k.streams.map fun (i, st) =>
        (i, if st.owner == m.slot && st.lid == m.lid && !st.saved then { st with repl := 0, held := Nat.min st.held (dRetain st.desc) } else st) }).modCtx c m.slot fun x => { x with window := some 0 }

/-- The next row of a record that works row by row (R344), with the flags it sets (R438); one that meets an uncorrectable error is a trigger (R440). The last row completes the record (R329). -/
def State.rowStep (s : State) (c p : Nat) (r : MRun) : State :=
  let m := r.cmd
  if (s.ctxOf c m).isNone then s
  else if s.mPoisoned c m r.k then (s.clean (.array c)).replayAt c m r.k .error
  else
  let q := s.mRow c m r.k
  let s1 := (q.1.modCore c fun k =>
    { k.modW m.id (fun w => { w with issues := r.k + 1 }) with running := tset k.running p { r with k := r.k + 1, flags := r.flags ||| q.2 } }).engFlags c m q.2 (mTile m.instr r.k)
  if r.k + 1 < mRows m.instr then s1
  else (s1.modCore c fun k => { k with running := tdel k.running p }).mDone c m

/-- A staged record starts (R326, R327, R330, R332, R340, R342): one without a nest, pops or rows takes its whole effect; `MZERO` and `MSCACC` enter the signature (R319). -/
def State.recordStart (s : State) (core p : Nat) (m : Cmd) : State :=
  let k := s.core core
  let nest := (mmaOf m.instr).isSome
  let u := k.uses m
  if !(nest || k.clearFor m.id u.1 u.2) || (s.ctxOf core m).isNone then s else
  let s1 := s.modCore core fun k => { k.modW m.id (fun w => { w with started := true }) with staged := tdel k.staged p }
  let run := fun (s : State) => s.modCore core fun k => { k with running := tset k.running p { cmd := m, k := 0, popped := [], flags := 0, since := s.time.toNat } }
  match (if nest then none else k.startErr m) with
  | some e => s1.mHalt core m e 0 0
  | none =>
    match m.instr with
    | .oclaim f => ((maskSlots f.smask).foldl (fun s n => match k.slotOf m.lid n with
        | some q => s.modSlot core q fun sl => { sl with owner := some m.slot, lfmt := none, lz := 0, kf := 0 }
        | none => s) s1).mDone core m
    | .orel f => ((maskSlots f.smask).foldl (fun s n => match k.slotOf m.lid n with
        | some q => s.modSlot core q fun sl => { sl with owner := none }
        | none => s) s1).mDone core m
    | .mpert f => (s1.modCtx core m.slot fun x => { x with pert := some (f.pi.toNat, f.pj.toNat, (m.vals.getD 0 0).setWidth 32, f.det) }).mDone core m
    | i =>
      match mmaOf i, fillOf i with
      | some (f, _), _ => if q16Total f.n = 0 then s1.mDone core m else run s1
      | none, some f =>
        (match (match f.fmt with | some t => tyOB t | none => false), k.slotOf m.lid f.slot with
        | true, some q => (run s1).modSlot core q fun sl => { sl with zps := m.rows.getD 0 0 }
        | _, _ => run s1)
      | none, none =>
        let s2 := match i with | .mzero _ => s1.segEntry core m 0 | .mscacc _ => s1.segEntry core m 0 | _ => s1
        if mRows i = 0 then s2.mDone core m else run s2

/-- `MATRIX_RECORD_START` (R326, R327): on an idle path the staged record starts; a record that works row by row does its next row (R344). -/
def execMatrixRecordStart (core : Nat) (path : MPath) (s : State) : Out :=
  .next (s.matStep core fun s =>
    let p := pathKey path
    match tfind (s.core core).running p, tfind (s.core core).staged p with
    | some r, _ => if mRows r.cmd.instr = 0 then s else s.rowStep core p r
    | none, some m => s.recordStart core p m
    | none, none => s)

/-- The error of an issue whose addresses are within the allotment (R336 to R338). -/
def Core.issueErr (k : Core) (c : Nat) (m : Cmd) (f : MmaF) (a : MArgs) : Option Nat :=
  let kb := f.kb.toNat + 1
  let sa := k.slot a.sa
  let sb := k.slot a.sb
  let strips := match a.live with | some q => liveStrips q.1 a.kk | none => []
  if 4 < a.ba + kb ∨ 4 < a.bb + kb then some 5
  else if sa.owner != some m.slot || sb.owner != some m.slot then some 2
  else if sa.lfmt != some a.fa || sb.lfmt != some a.fb then some 3
  else if sa.lz != f.za.toNat || sb.lz != f.zb.toNat then some 4
  else if (match a.live with | none => decide (sa.kf < a.ba + kb) | some _ => decide (48 * sa.kf < 48 * a.ba + 2 * strips.length)) || decide (sb.kf < a.bb + kb) then some 5
  else if !pairOk a.fa a.fb a.i32 then some 6
  else match a.live with
    | none => none
    | some (_, ms) =>
      if (k.slot ms).owner != some m.slot then some 2
      else if (k.slot ms).lfmt != some lfMeta then some 8
      else if (natsFrom 0 64).any fun i => strips.any fun st => let e := metaEntry ((k.slot ms).row c ms i) st; decide (e.2 ≤ e.1) then some 8
      else none

/-- `MATRIX_SINGLE_ISSUE` (R334): the next issue of the running nest; an issue that fails halts the record once the results of the earlier ones are written (R336). -/
def execMatrixSingleIssue (core : Nat) (s : State) : Out :=
  .next (s.matStep core fun s =>
  let k := s.core core
  match tfind k.running 1 with
  | none => s
  | some r =>
    let m := r.cmd
    match mmaOf m.instr, s.ctxOf core m with
    | some (f, _), some x =>
      let halt := fun cause => if k.results.any fun q => q.cmd.id == m.id then s else s.mHalt core m cause r.k 0
      (match k.mArgs m r.k with
      | none => halt 1
      | some (t, a) =>
        let slots := [a.sa, a.sb] ++ (match a.live with | some q => [q.2] | none => [])
        if (k.results.any fun q => q.tile == t) || !k.clearFor m.id (t :: slots.map (100 + ·)) [t] then s else
        match k.issueErr core m f a with
        | some e => halt e
        | none =>
          let zero := f.accz && firstTouch f r.k
          let consumed := slots.any (s.badSlot core) || (!zero && s.badTile core t) || s.poisonLoc.contains (.array core)
          let old := ((if zero then s.mPutTile core t (List.replicate 64 0) else s).clean (.array core)).matRows core (natsFrom (64 * t) 64)
          let s1 := old.1
          let k1 := s1.core core
          let res := (natsFrom 0 64).map fun i => k1.issueRow core a i (old.2.getD i 0) fun _ => none
          let fl := res.foldl (fun f q => f ||| q.2) 0
          let out := match x.pert with
            | some (i, j, v, _) => perturb f.i32 (res.map Prod.fst) i j v.toNat
            | none => (res.map Prod.fst, 0)
          let trig := match x.pert with
            | some (_, _, _, true) => some Trigger.injected
            | _ => if consumed then some Trigger.error else none
          let last := decide (q16Total f.n ≤ r.k + 1)
          let s2 := s1.modCtx core m.slot fun x => { x with pert := none }
          let s3 := s2.segEntry core m r.k
          s3.modCore core fun k =>
            { k.modW m.id (fun w => { w with issues := r.k + 1 }) with
              running := if last then tdel k.running 1 else tset k.running 1 { r with k := r.k + 1 }
              results := k.results ++ [{ cmd := m, k := r.k, tile := t, rows := out.1, flags := fl ||| out.2, last := last, trig := trig, since := s.time.toNat }] })
    | _, _ => s)

/-- `MATRIX_RESULT_WRITE` (R344): the oldest results are written, or meet their trigger; those of a record that has halted are written too (R394). -/
def execMatrixResultWrite (core : Nat) (s : State) : Out :=
  .next (s.matStep core fun s =>
  match (s.core core).results with
  | [] => s
  | r :: rest =>
    match r.trig with
    | some t => if (s.core core).isLive r.cmd.id then s.replayAt core r.cmd r.k t else s.modCore core fun k => { k with results := rest }
    | none =>
      let s1 := (s.modCore core fun k => { k with results := rest }).mPutTile core r.tile r.rows
      let s2 := s1.engFlags core r.cmd r.flags (mTile r.cmd.instr r.k)
      if r.last && (s2.core core).isLive r.cmd.id then s2.mDone core r.cmd else s2)

/-- `OFILL_ROW_POP` (R332, R410): the running fill pops its next row, waits, or halts. -/
def execOfillRowPop (core : Nat) (s : State) : Out :=
  .next (s.matStep core fun s =>
  let k := s.core core
  match tfind k.running 0 with
  | none => s
  | some r =>
    let m := r.cmd
    match fillOf m.instr, s.ctxOf core m with
    | some f, some x =>
      let stop := fun (cause : Nat) (det : List (Nat × Nat × Nat)) =>
        (s.modCore core fun k => { k.modW m.id (fun w => { w with halted := true }) with running := tdel k.running 0 }).haltCmd core m 2 cause none ((48, 1, opcByte m.instr) :: det)
      (match s.inPort core m.slot x f.port, k.slotOf m.lid f.slot with
      | .unbound p, _ => stop 15 [(32, 1, p)]
      | .eos p st, _ => stop 11 [(32, 1, p), (33, 1, st)]
      | .go, some q =>
        let z := s.popPort core m.slot f.port x.window.isSome
        let rows := r.popped ++ [z.2]
        let s1 := z.1.modSlot core q fun sl => sl.fillFrom core q f rows r.popped.length
        let s2 := s1.modCore core fun k => k.modW m.id fun w => { w with popped := rows }
        if f.len ≤ 256 * rows.length then
          ((s2.modSlot core q fun sl => sl.laidOut f).clean (.slot core q)).modCore core (fun k => { k with running := tdel k.running 0 }) |>.mDone core m
        else s2.modCore core fun k => { k with running := tset k.running 0 { r with popped := rows } }
      | _, _ => s)
    | _, _ => s)

/-! ## Triggers -/

/-- A record lies in an open segment whose hardware checks are on (R440). -/
def State.segOn (s : State) (c : Nat) (m : Cmd) : Bool := match s.ctxOf c m with | some x => x.inSeg m && !x.segHwOff | none => false
/-- 50 microseconds of device time. -/
def watchNs : Nat := 50000
/-- The single issues that have started and not written their results, oldest first, with their records and the device times they started: pending results, and a running `MZERO` or `MSCACC` (R334, R440). -/
def Core.pendingIssues (k : Core) : List (Cmd × Nat × Nat) :=
  k.results.map (fun r => (r.cmd, r.k, r.since)) ++ match tfind k.running 1 with | some r => if mRows r.cmd.instr = 0 then [] else [(r.cmd, r.k, r.since)] | none => []
/-- The path of a record is reset: a running `MZERO` or `MSCACC` counts its 50 us anew (R440). -/
def Core.resetRun (k : Core) (now : Nat) : Core := { k with running := k.running.map fun p => if p.1 = 1 then (1, { p.2 with since := now }) else p }

/-- `SEGMENT_WATCHDOG` (R440): an issue without results, or a staged record that could start, for 50 us. -/
def execSegmentWatchdog (core : Nat) (s : State) : Out :=
  .next (s.matStep core fun s =>
  let k := s.core core
  match k.pendingIssues.find? fun r => s.segOn core r.1 && decide (r.2.2 + watchNs ≤ s.time.toNat) with
  | some r => (s.replayAt core r.1 r.2.1 .watchdog).modCore core fun k => k.resetRun s.time.toNat
  | none =>
    match k.staged.find? fun p => k.ready p && s.segOn core p.2 && decide (tget k.mReady s.time.toNat p.1 + watchNs ≤ s.time.toNat) with
    | some p => (s.replayAt core p.2 0 .watchdog).modCore core fun k => { k with mReady := tset k.mReady p.1 s.time.toNat }
    | none => s)

/-- A trigger from the hardware on the oldest pending issue it can meet, or, during a replay, on the issue that is to run again next. -/
def State.matTrigger (s : State) (core : Nat) (trig : Trigger) : State :=
  let k := s.core core
  let now := fun (m : Cmd) => match trig with | .error => true | .signature => s.segOn core m | _ => false
  match k.redo with
  | some r =>
    (match r.todo with
    | (id, n) :: _ => (match k.window.find? fun w => w.cmd.id == id && now w.cmd with | some w => s.replayAt core w.cmd n trig | none => s)
    | [] => s)
  | none =>
    let hit : Option (Cmd × Nat × Nat) := match trig with
      | .watchdog => k.pendingIssues.find? fun r => s.segOn core r.1 && decide (r.2.2 + watchNs ≤ s.time.toNat)
      | .injected => (k.results.find? fun r => r.trig == some Trigger.injected).map fun r => (r.cmd, r.k, r.since)
      | _ => k.pendingIssues.find? fun r => now r.1
    match hit with
    | some r => s.replayAt core r.1 r.2.1 trig
    | none => s

/-- `MATRIX_REPLAY` (R440, R441, R442). -/
def execMatrixReplay (core : Nat) (trig : Trigger) (s : State) : Out := .next (((s.modCore core Core.mPrune).matTrigger core trig).noteReady core)

end Sys2Proof.Machine
end

