-- ==== Sys2Proof/Machine/Special.lean ====
section
/-! DEFINITION. The special functions of R98, correctly rounded. A reciprocal or root is exact with a sticky bit; the others are bracketed at 320 fraction bits, and a bracket that does not decide the rounding is a free value (log 12). -/
namespace Sys2Proof

/-- The fraction bits of the fixed-point work. -/
def sfP : Nat := 320
/-- ln 2 x 2^320, rounded down. -/
def ln2Fx : Nat := 0xb17217f7d1cf79abc9e3b39803f2f6af40f343267298b62d8a0d175b8baafa2be7b876206debac98
/-- 2 / sqrt(pi) x 2^320, rounded down. -/
def twoSqrtPiFx : Nat := 0x120dd750429b6d11ae3a914fed7fd8688281341d7587cea2e7342b06199cc416180eb39f0b24e1e22

/-- The sum of y^k / k! from the term of k = n - 1 on, in fixed point. -/
def expGo : Nat → Nat → Nat → Nat → Nat → Nat
  | 0, _, _, _, acc => acc
  | f + 1, y, n, t, acc => let t' := t * y / 2 ^ sfP / n; expGo f y (n + 1) t' (acc + t')

/-- e^r for a fixed-point r, as mantissa and exponent of 2: r = n ln 2 + y. -/
def expFx (r : Int) : Nat × Int :=
  let n := r / (ln2Fx : Int)
  let y := (r - n * ln2Fx).toNat
  (expGo 100 y 1 (2 ^ sfP) (2 ^ sfP), n)

/-- The sum of z^(2k+1) / (2k+1) from power p on. -/
def atanhGo : Nat → Nat → Nat → Nat → Nat → Nat
  | 0, _, _, _, acc => acc
  | f + 1, z2, n, p, acc => let p' := p * z2 / 2 ^ sfP; atanhGo f z2 (n + 2) p' (acc + p' / n)

/-- log2 of m x 2^e, m > 0, in fixed point. -/
def log2Fx (m : Nat) (e : Int) : Int :=
  let top := bitLen m - 1
  let z := (m - 2 ^ top) * 2 ^ sfP / (m + 2 ^ top)
  let a := atanhGo 110 (z * z / 2 ^ sfP) 3 z z
  (e + top) * 2 ^ sfP + (2 * a * 2 ^ sfP / ln2Fx : Nat)

/-- The alternating series of the error function: sum of (-1)^k x^(2k+1) / (k! (2k+1)). -/
def erfGo : Nat → Nat → Nat → Nat → Bool → Int → Int
  | 0, _, _, _, _, acc => acc
  | f + 1, x2, n, t, s, acc =>
    let t' := t * x2 / 2 ^ sfP / n
    let d : Int := (t' / (2 * n + 1) : Nat)
    erfGo f x2 (n + 1) t' (!s) (if s then acc - d else acc + d)

/-- One bit of a square root: the largest r with r^2 at most x, bits from b - 1 down. -/
def isqrtGo : Nat → Nat → Nat → Nat
  | 0, _, r => r
  | b + 1, x, r => if (r + 2 ^ b) * (r + 2 ^ b) ≤ x then isqrtGo b x (r + 2 ^ b) else isqrtGo b x r

/-- The floor of a square root. -/
def isqrt (x : Nat) : Nat := isqrtGo (bitLen x / 2 + 1) x 0

/-- Rounds a value strictly between (m - err) x 2^e and (m + err + 1) x 2^e; free when the bounds round apart (log 12). -/
def bracket (fn t rm : Nat) (sat neg : Bool) (c m err : Nat) (e : Int) : Nat × Flags :=
  let lo := (fmtF t).round rm sat (.fin neg (2 * (m - err) + 1) (e - 1))
  let hi := (fmtF t).round rm sat (.fin neg (2 * (m + err) + 1) (e - 1))
  if lo = hi then lo else (Config.sfUndecided fn t rm c % 2 ^ tyWidth t, fNX)

/-- A fixed-point number x m 2^e; e is at least -320. -/
def toFx (m : Nat) (e : Int) : Nat := m * 2 ^ (e + sfP).toNat

/-- The slack allowed to the fixed-point work. -/
def sfErr : Nat := 2 ^ 40

/-- An exact division by zero: an infinity with DZ, the largest value with SV under SAT (R83, R98). DESIGN CHOICE: that value sets no NX, as R83 has it for an infinity that no overflow made, where R85 reads the other way (log 12). -/
def dzRes (t rm : Nat) (sat neg : Bool) : Nat × Flags :=
  let (c, f) := (fmtF t).round rm sat (.inf neg)
  (c, f ||| fDZ)

/-- The function on a finite non-zero source (-1)^neg x m x 2^e, of code c. -/
def sfFinite (fn t rm : Nat) (sat neg : Bool) (m : Nat) (e : Int) (c : Nat) : Nat × Flags :=
  let top : Int := e + (bitLen m : Int) - 1
  let rnd := fun n k x => (fmtF t).round rm sat (.fin n k x)
  match fn with
  | 0 =>
    -- exp2
    let big := decide (10 ≤ top)
    if big then rnd false 3 (if neg then -2000 else 2000)
    else if top < -64 then rnd false (if neg then 2 ^ 61 - 1 else 2 ^ 61 + 1) (-61)
    else
      let v := Num.at neg m e (-sfP)
      let n := v / (2 ^ sfP : Int)
      let f := (v - n * 2 ^ sfP).toNat
      if f = 0 then rnd false 1 n else
      let (mm, k) := expFx (f * ln2Fx / 2 ^ sfP : Nat)
      bracket 0 t rm sat false c mm sfErr (n + k - sfP)
  | 1 =>
    -- log2
    if neg then ((fmtF t).nanc, fNV)
    else if m = 2 ^ (bitLen m - 1) then (fmtF t).round rm sat (Num.ofInt top 0 false)
    else
      let v := log2Fx m e
      bracket 1 t rm sat (decide (v < 0)) c v.natAbs sfErr (-sfP)
  | 2 =>
    -- rcp
    let k := bitLen m + 80
    let q := 2 ^ k / m
    rnd neg (2 * q + (if 2 ^ k % m = 0 then 0 else 1)) (-e - k - 1)
  | 3 =>
    -- rsqrt: m x 2^e with e even
    if neg then ((fmtF t).nanc, fNV) else
    let odd := e % 2 ≠ 0
    let m' := if odd then 2 * m else m
    let e' := if odd then e - 1 else e
    let k := bitLen m' + 80
    let x := 2 ^ (2 * k) / m'
    let r := isqrt x
    let exact := r * r * m' = 2 ^ (2 * k)
    rnd false (2 * r + (if exact then 0 else 1)) (-(e' / 2) - k - 1)
  | 4 =>
    -- sqrt
    if neg then ((fmtF t).nanc, fNV) else
    let odd := e % 2 ≠ 0
    let m' := (if odd then 2 * m else m) * 2 ^ 80
    let e' := (if odd then e - 1 else e) - 80
    let r := isqrt m'
    rnd false (2 * r + (if r * r = m' then 0 else 1)) (e' / 2 - 1)
  | 5 =>
    -- tanh
    if 4 < top then rnd neg (2 ^ 61 - 1) (-61)
    else if top < -64 then rnd neg (m * 2 ^ 60 - 1) (e - 60)
    else
      let (mm, k) := expFx (2 * toFx m e : Nat)
      let ex := mm * 2 ^ k.toNat
      bracket 5 t rm sat neg c ((ex - 2 ^ sfP) * 2 ^ sfP / (ex + 2 ^ sfP)) sfErr (-sfP)
  | 6 =>
    -- sigmoid
    if 8 < top && neg then rnd false 3 (-2000)
    else if 5 < top && !neg then rnd false (2 ^ 61 - 1) (-61)
    else if top < -64 then rnd false (if neg then 2 ^ 61 - 1 else 2 ^ 61 + 1) (-62)
    else
      let (mm, k) := expFx (Num.at neg m e (-sfP))
      if 0 ≤ k then
        let ex := mm * 2 ^ k.toNat
        bracket 6 t rm sat false c (ex * 2 ^ sfP / (ex + 2 ^ sfP)) sfErr (-sfP)
      else bracket 6 t rm sat false c (mm * 2 ^ sfP / (2 ^ sfP + mm / 2 ^ (-k).toNat)) sfErr (k - sfP)
  | _ =>
    -- erf
    if 3 ≤ top then rnd neg (2 ^ 61 - 1) (-61)
    else if top < -64 then bracket 7 t rm sat neg c (twoSqrtPiFx * m) (twoSqrtPiFx * m / 2 ^ 120) (e - sfP)
    else
      let x := toFx m e
      let s := erfGo 380 (x * x / 2 ^ sfP) 1 x true x
      bracket 7 t rm sat neg c (s.toNat * twoSqrtPiFx / 2 ^ sfP) (2 ^ 110) (-sfP)

/-- `VSF` on a code of F32, F16 or BF16 (R98, R307): fn 0 exp2, 1 log2, 2 rcp, 3 rsqrt, 4 sqrt, 5 tanh, 6 sigmoid, 7 erf. -/
def sfCode (fn t rm : Nat) (sat : Bool) (c : Nat) : Nat × Flags :=
  let f := fmtF t
  let one := fun n => f.round rm sat (.fin n 1 0)
  match f.num c with
  | .nan => (f.nanc, 0)
  | .inf neg =>
    (match fn with
    | 0 => if neg then (0, 0) else f.round rm sat (.inf false)
    | 1 => if neg then (f.nanc, fNV) else f.round rm sat (.inf false)
    | 2 => f.round rm sat (.fin neg 0 0)
    | 3 => if neg then (f.nanc, fNV) else (0, 0)
    | 4 => if neg then (f.nanc, fNV) else f.round rm sat (.inf false)
    | 5 => one neg
    | 6 => if neg then (0, 0) else one false
    | _ => one neg)
  | .fin neg m e =>
    if m ≠ 0 then sfFinite fn t rm sat neg m e c else
    match fn with
    | 0 => one false
    | 1 => dzRes t rm sat true
    | 2 => dzRes t rm sat neg
    | 3 => dzRes t rm sat neg
    | 4 => (c, 0)
    | 5 => (c, 0)
    | 6 => f.round rm sat (.fin false 1 (-1))
    | _ => (c, 0)

end Sys2Proof
end

