-- ==== Sys2Proof/Machine/EpVec.lean ====
section
/-! DEFINITION. The vector unit: what each EV-form instruction computes on rows (R296 to R308) as a function of its operands, and how one issue reads, pops, computes, writes, pushes and traps (R295, R410, R437). -/
namespace Sys2Proof.Machine
open Sys2Proof

/-! ## What an operation sees and gives -/

/-- The operands of one issue: the row width (2048, or 128 in a Prism bundle, R360), its fields, rounding mode, the rows of VA and VB, the old rows of VD and VB as destinations (0 for a port), the e register VB names, the EP's masks. -/
structure VIn where
  bits : Nat
  f : EV
  rm : Nat
  a : Row
  b : Row
  d : Row
  r : Row
  be : Option Word
  x : EpSt

/-- What one issue gives: the row for VD, the second row for VB, masks in the order they are written, an e register, and the flags by lane. -/
structure VRes where
  d : Option Row
  r : Option Row
  m : List (Nat × BitVec 256)
  e : Option (Nat × Word)
  fl : List (Nat × Flags)

/-- A vector operation: which fields are operands (VA, VB as sources, VD as a row, VB as a second destination), the width of VB's elements, and its function. -/
structure VOp where
  a : Bool
  b : Bool
  d : Bool
  v2 : Bool
  wb : Nat
  run : VIn → VRes

/-- The lane type, its width and lane count. -/
def VIn.t (v : VIn) : Nat := v.f.t.toNat
def VIn.w (v : VIn) : Nat := tyWidth v.t
def VIn.n (v : VIn) : Nat := tyLanes v.bits v.t
/-- Lane i is active (R199). -/
def VIn.act (v : VIn) (i : Nat) : Bool := v.x.active v.f.g i
/-- Lane i of a row. -/
def laneOf (r : Row) (w i : Nat) : Nat := fld r.toNat (w * i) w
/-- A row from lanes of width w. -/
def rowLanes (w : Nat) (l : List Nat) : Row := BitVec.ofNat 2048 (l.foldr (fun v acc => v % 2 ^ w + acc * 2 ^ w) 0)
/-- Source lane i of VA, negated under NA (R296). -/
def VIn.la (v : VIn) (i : Nat) : Nat := let c := laneOf v.a v.w i; if v.f.na then negCode v.t c else c
/-- Source lane i of VB, negated under NB. -/
def VIn.lb (v : VIn) (i : Nat) : Nat := let c := laneOf v.b v.w i; if v.f.nb then negCode v.t c else c

/-- A result that writes a row alone. -/
def VRes.row (d : Row) (fl : List (Nat × Flags)) : VRes := { d := some d, r := none, m := [], e := none, fl := fl }
/-- Lane-wise results: active lanes take fn's value, the others keep the old lane (R296). -/
def VIn.lanes (v : VIn) (fn : Nat → Nat × Flags) : VRes :=
  let l := (natsFrom 0 v.n).map fun i => if v.act i then (fn i, true) else ((laneOf v.d v.w i, 0), false)
  VRes.row (rowLanes v.w (l.map fun p => p.1.1)) (((natsFrom 0 v.n).zip l).filterMap fun p => if p.2.2 && p.2.1.2 != 0 then some (p.1, p.2.1.2) else none)
/-- The same without flags. -/
def VIn.lanes0 (v : VIn) (fn : Nat → Nat) : VRes := v.lanes fun i => (fn i, 0)
/-- Mask results: active lanes below n take fn's bit, inactive ones keep the old bit of mask d, bits from n up are 0 (R303). -/
def VIn.maskBits (v : VIn) (d : Nat) (fn : Nat → Bool) : BitVec 256 :=
  BitVec.ofNat 256 ((natsFrom 0 v.n).foldl (fun acc i => acc + b2n (if v.act i then fn i else (v.x.mr d).getLsbD i) * 2 ^ i) 0)
/-- A result that writes masks alone. -/
def VRes.masks (m : List (Nat × BitVec 256)) (fl : List (Nat × Flags)) : VRes := { d := none, r := none, m := m, e := none, fl := fl }

/-- Both sources and a row destination. -/
def vAB (run : VIn → VRes) (f : EV) : VOp := { a := true, b := true, d := true, v2 := false, wb := tyWidth f.t.toNat, run := run }
/-- One source and a row destination. -/
def vA (run : VIn → VRes) (f : EV) : VOp := { vAB run f with b := false }

/-! ## Element-wise (R298, R299) -/

/-- `VADD`. -/
def vopAdd : EV → VOp := vAB fun v => v.lanes fun i => addCode v.t v.rm v.f.sat (v.la i) (v.lb i)
/-- `VSUB`. -/
def vopSub : EV → VOp := vAB fun v => v.lanes fun i => subCode v.t v.rm v.f.sat (v.la i) (v.lb i)
/-- `VMUL`. -/
def vopMul : EV → VOp := vAB fun v => v.lanes fun i => mulCode v.t v.rm v.f.sat (v.la i) (v.lb i)
/-- `VFMA`: c is the old lane of VD, negated under NC. -/
def vopFma : EV → VOp := vAB fun v => v.lanes fun i =>
  let c := laneOf v.d v.w i
  fmaCode v.t v.rm v.f.sat (v.la i) (v.lb i) (if v.f.f.getLsbD 0 then negCode v.t c else c)
/-- `VMIN`. -/
def vopMin : EV → VOp := vAB fun v => v.lanes0 fun i => minCode v.t (v.la i) (v.lb i)
/-- `VMAX`. -/
def vopMax : EV → VOp := vAB fun v => v.lanes0 fun i => maxCode v.t (v.la i) (v.lb i)
/-- `VABS`. -/
def vopAbs : EV → VOp := vA fun v => v.lanes fun i => absCode v.t v.f.sat (v.la i)
/-- `VCLAMP`. -/
def vopClamp : EV → VOp := vAB fun v => v.lanes0 fun i => minCode v.t (maxCode v.t (v.la i) (v.lb i)) (laneOf v.d v.w i)

/-- A bitwise operation; NA and NB complement their operand (R299). -/
def vopBit (op : Nat → Nat → Nat) : EV → VOp := vAB fun v => v.lanes0 fun i =>
  let all := 2 ^ v.w - 1
  let a := laneOf v.a v.w i
  let b := laneOf v.b v.w i
  op (if v.f.na then all - a else a) (if v.f.nb then all - b else b)
/-- `VSHL`. -/
def vopShl : EV → VOp := vAB fun v => v.lanes fun i => intRes v.t v.f.sat (intVal v.t (v.la i) * 2 ^ (v.lb i % v.w))
/-- `VSHR`. -/
def vopShr : EV → VOp := vAB fun v => v.lanes0 fun i => wrapN (intVal v.t (v.la i) / 2 ^ (v.lb i % v.w)) v.w

/-! ## Compare, select, move (R300 to R302) -/

/-- `VCMP`: MT in VD's bits 3 to 0, MF in 7 to 4; MF is written first. -/
def vopCmp (f : EV) : VOp :=
  { vAB (fun v =>
      let mt := fld v.f.vd.toNat 0 4
      let mf := fld v.f.vd.toNat 4 4
      let c := fun i => condCode v.f.rm.toNat v.t (v.la i) (v.lb i)
      let mode := v.f.f.toNat % 4
      let t := fun i => let q := (c i).1; match mode with | 0 => q | 1 => (v.x.mr mt).getLsbD i && q | _ => (v.x.mr mt).getLsbD i || q
      let e := fun i => let q := (c i).1; match mode with | 0 => !q | 1 => (v.x.mr mf).getLsbD i && !q | _ => (v.x.mr mf).getLsbD i || !q
      VRes.masks [(mf, v.maskBits mf e), (mt, v.maskBits mt t)]
        ((natsFrom 0 v.n).filterMap fun i => if v.act i && (c i).2 != 0 then some (i, (c i).2) else none)) f with d := false }
/-- `VSEL`. -/
def vopSel : EV → VOp := vAB fun v => v.lanes0 fun i => if (v.x.mr (v.f.f.toNat % 16)).getLsbD i then laneOf v.a v.w i else laneOf v.b v.w i
/-- `VMOV`. -/
def vopMov : EV → VOp := vA fun v => v.lanes0 v.la
/-- `VPERM`: the low bits of b index a lane of A. -/
def vopPerm : EV → VOp := vAB fun v => v.lanes0 fun i => laneOf v.a v.w (laneOf v.b v.w i % v.n)
/-- `VBCAST`. -/
def vopBcast : EV → VOp := vA fun v => v.lanes0 fun _ => laneOf v.a v.w v.f.f.toNat
/-- A small number in an arithmetic type, exactly (R302). -/
def smallCode (t k : Nat) : Nat := if tyF t then ((fmtF t).round 0 false (.fin false k 0)).1 else k % 2 ^ tyWidth t
/-- `VIOTA`. -/
def vopIota (f : EV) : VOp :=
  { vA (fun v => v.lanes0 fun i => smallCode v.t (if v.f.f.getLsbD 0 then ((natsFrom 0 i).filter v.act).length else i)) f with a := false }

/-! ## Masks (R303, R304) -/

/-- `VMASK.NZ`. -/
def vopMaskNz (f : EV) : VOp := { vA (fun v => let d := v.f.vd.toNat % 16; VRes.masks [(d, v.maskBits d fun i => laneOf v.a v.w i != 0)] []) f with d := false }
/-- The mask operations 1 to 5. -/
def maskFn (f : Nat) (a b : Bool) : Bool := match f with | 1 => a && b | 2 => a || b | 3 => a != b | 4 => a && !b | _ => a || !b
/-- `VMASK.AND` to `VMASK.ORN`. -/
def vopMaskBool (f : EV) : VOp :=
  { vA (fun v =>
      let d := v.f.vd.toNat % 16
      VRes.masks [(d, v.maskBits d fun i => maskFn v.f.f.toNat ((v.x.mr (v.f.va.toNat % 16)).getLsbD i) ((v.x.mr (v.f.vb.toNat % 16)).getLsbD i))] []) f with a := false, d := false }
/-- `VMASK.NOT`. -/
def vopMaskNot (f : EV) : VOp :=
  { vA (fun v => let d := v.f.vd.toNat % 16; VRes.masks [(d, v.maskBits d fun i => !(v.x.mr (v.f.va.toNat % 16)).getLsbD i)] []) f with a := false, d := false }
/-- `VMASK.FROMROW`. -/
def vopMaskFromrow (f : EV) : VOp := { vA (fun v => let d := v.f.vd.toNat % 16; VRes.masks [(d, v.maskBits d fun i => v.a.getLsbD i)] []) f with d := false }
/-- `VMASK.TOROW`: the whole row is written. -/
def vopMaskTorow (f : EV) : VOp := { vA (fun v => VRes.row (BitVec.ofNat 2048 ((v.x.mr (v.f.va.toNat % 16)).toNat % 2 ^ v.n)) []) f with a := false }
/-- The lanes that are active and set in the mask of VA. -/
def VIn.hits (v : VIn) : List Nat := (natsFrom 0 v.n).filter fun i => v.act i && (v.x.mr (v.f.va.toNat % 16)).getLsbD i
/-- `VMCNT`. -/
def vopMcnt (f : EV) : VOp :=
  { vA (fun v => { d := none, r := none, m := [], e := some (v.f.vd.toNat % 32, BitVec.ofNat 64 v.hits.length), fl := [] }) f with a := false, d := false }
/-- `VMCNT.FIRST`. -/
def vopMcntFirst (f : EV) : VOp :=
  { vA (fun v => { d := none, r := none, m := [], e := some (v.f.vd.toNat % 32, BitVec.ofNat 64 (v.hits.head?.getD v.n)), fl := [] }) f with a := false, d := false }

/-! ## Conversions, special functions, reductions (R305 to R308) -/

/-- The results of a conversion over n elements of width wd: active ones take fn's value, inactive ones the old bits, bits above are zero (R305). -/
def VIn.packed (v : VIn) (n wd : Nat) (fn : Nat → Nat × Flags) : Row × List (Nat × Flags) :=
  let l := (natsFrom 0 n).map fun i => if v.act i then fn i else (laneOf v.d wd i, 0)
  (rowLanes wd (l.map Prod.fst), ((natsFrom 0 n).zip l).filterMap fun p => if p.2.2 != 0 then some (p.1, p.2.2) else none)
/-- The zero point of block b at width w from bit lo of VB; an e register gives its low bits to every block (R305). -/
def VIn.zpAt (v : VIn) (lo w b : Nat) : Nat := match v.be with | some e => e.toNat % 2 ^ w | none => fld v.b.toNat (lo + w * b) w
/-- The zero-point block of element i: one block of the whole word in a bundle (R360). -/
def VIn.zpBlock (v : VIn) (i : Nat) : Nat := if v.bits = 2048 then i / 48 else 0
/-- `VCVT`. -/
def vopCvt (f : EV) : VOp :=
  let t := f.t.toNat
  let tt := f.f.toNat % 16
  { vAB (fun v =>
      let n := cvtLanes v.bits t tt
      let part := fld v.f.f.toNat 4 3
      let wt := tyWidth tt
      let fn := fun i =>
        let e := part * n + i
        let c := laneOf v.a v.w e
        let zs := if tyOB t then v.zpAt 0 (tyWidth t) (v.zpBlock e) else 0
        let zt := if tyOB tt then v.zpAt (if tyOB t then v.bits / 2 else 0) wt (v.zpBlock i) else 0
        convertCode t tt v.rm v.f.sat zs zt (if v.f.na then negCode t c else c)
      let r := v.packed n wt fn
      VRes.row r.1 r.2) f with b := tyOB t || tyOB tt, wb := if tyOB t then tyWidth t else tyWidth tt }
/-- `VCVTEF`: d and the residual r (R97, R306). -/
def vopCvtef (f : EV) : VOp :=
  let t := f.t.toNat
  let tt := f.f.toNat % 16
  { vA (fun v =>
      let one := fun i =>
        let a := numOf t (v.la i) 0
        let d := convertNum t tt v.rm v.f.sat 0 a
        let q := Num.add (v.rm == 3) a (numOf tt d.1 0).neg
        let r := (fmtF t).round v.rm false q.1
        (d, (r.1, q.2 ||| r.2))
      let p := v.packed v.n (tyWidth tt) fun i => ((one i).1.1, (one i).1.2 ||| (one i).2.2)
      let rr := (natsFrom 0 v.n).map fun i => if v.act i then (one i).2.1 else laneOf v.r v.w i
      { d := some p.1, r := some (rowLanes v.w rr), m := [], e := none, fl := p.2 }) f with v2 := true }
/-- `VSF`. -/
def vopSf : EV → VOp := vA fun v => v.lanes fun i => sfCode v.f.f.toNat v.t v.rm v.f.sat (v.la i)
/-- `VRED`: lane 0 takes the result whatever the mask. -/
def vopRed : EV → VOp := vA fun v =>
  let op := v.f.f.toNat % 8
  let rm := if tyF v.t then v.rm else 0
  let sat := v.f.sat && !tyF v.t
  let s := reduce op v.t rm sat ((natsFrom 0 v.n).map fun i => if v.act i then some (v.la i) else none)
  let r := if v.f.f.getLsbD 3 then (let q := redOp op v.t rm sat (laneOf v.d v.w 0) s.1; (q.1, s.2 ||| q.2)) else s
  VRes.row (BitVec.ofNat 2048 (setFld v.d.toNat 0 v.w r.1)) (if r.2 = 0 then [] else [(0, r.2)])

/-- The operation of an EV-form opcode and its F field. -/
def vopOf (opc : Nat) (f : EV) : VOp :=
  match opc with
  | 0x80 => vopAdd f | 0x81 => vopSub f | 0x82 => vopMul f | 0x83 => vopFma f | 0x84 => vopMin f | 0x85 => vopMax f | 0x86 => vopAbs f
  | 0x87 => vopClamp f | 0x88 => vopBit (· &&& ·) f | 0x89 => vopBit (· ||| ·) f | 0x8A => vopBit (· ^^^ ·) f | 0x8B => vopShl f | 0x8C => vopShr f
  | 0x8D => vopSel f | 0x8E => vopMov f | 0x8F => vopCmp f | 0x90 => vopCvt f | 0x91 => vopCvtef f | 0x92 => vopSf f | 0x93 => vopRed f
  | 0x94 => vopPerm f | 0x95 => vopBcast f | 0x96 => vopIota f
  | 0x97 => (match f.f.toNat with | 0 => vopMaskNz f | 6 => vopMaskNot f | 7 => vopMaskFromrow f | 8 => vopMaskTorow f | _ => vopMaskBool f)
  | _ => if f.f = 0 then vopMcnt f else vopMcntFirst f

/-! ## One issue -/

/-- The vector registers an issue names. -/
def vRegs (f : EV) (op : VOp) : List Nat :=
  ((if op.d then [f.vd.toNat] else []) ++ (if op.a then [f.va.toNat] else []) ++ (if op.b || op.v2 then [f.vb.toNat] else [])).filter fun v => decide (v < 1536)
/-- The input ports it names, each once, by number. -/
def vInPorts (f : EV) (op : VOp) : List Nat :=
  (((if op.a then [f.va.toNat] else []) ++ (if op.b then [f.vb.toNat] else [])).filter fun v => decide (1536 ≤ v ∧ v < 1544)).map (· - 1536) |>.eraseDups
/-- The output port it names, by number 8 to 15. -/
def vOutPort (f : EV) (op : VOp) : Option Nat := if op.d && decide (1544 ≤ f.vd.toNat ∧ f.vd.toNat < 1552) then some (f.vd.toNat - 1536) else none

/-- How one issue ends: it stalls; a trap with no effect; issued, with the trap of an enabled flag (R437). -/
inductive VEnd where
  | stall
  | trap (cause : Nat) (tval : Word)
  | done (s : State) (arith : Option (Nat × Nat × Word))

/-- A row operand: a vector register, a popped row, a broadcast or zeros (R211, R296). -/
def State.opdRow (s : State) (c : Nat) (x : Ctx) (w v : Nat) (pops : List (Nat × Row)) : State × Row :=
  if v < 1536 then (match (s.core c).vKey x.lid v with | some key => s.vecRow c key | none => (s, 0))
  else if v < 1544 then (s, match pops.find? fun p => p.1 == v - 1536 with | some p => p.2 | none => 0)
  else if 1552 ≤ v ∧ v < 1584 then (s, bcast w (x.ep.e' (v - 1552)).toNat)
  else (s, 0)

/-- The arithmetic trap of the flags an issue set (R437): cause, SUB and ETVAL. -/
def arithTrap (en : BitVec 6) (fl : List (Nat × Flags)) : Option (Nat × Nat × Word) :=
  let all := fl.foldl (fun f p => f ||| p.2) (0 : Flags)
  let on := (all &&& en).toNat
  if on = 0 then none
  else some (0x20 + bitLen on - 1, all.toNat, BitVec.ofNat 64 (match fl.find? fun p => p.2 &&& en != 0 with | some p => p.1 | none => 0))

/-- One issue of a vector operation by slot n of core c (R295, R296, R405, R410, R437). DESIGN CHOICE: where a nest makes VD and VB of `VCVTEF` one register, the residual is written over the result (R306, log 32). -/
def State.vIssue (s : State) (c n : Nat) (x : Ctx) (f : EV) (op : VOp) : VEnd :=
  match (vRegs f op).find? fun v => ((s.core c).vKey x.lid v).isNone with
  | some v => .trap 0x08 (allotVal 2 v)
  | none =>
    let ins := vInPorts f op
    match portsRes (ins.map (s.inPort c n x) ++ (vOutPort f op).toList.map (s.outPort c n x)) with
    | .stall => .stall
    | .unbound p => .trap 0x09 (BitVec.ofNat 64 p)
    | .eos p st => .trap 0x0A (BitVec.ofNat 64 (st * 256 + p))
    | .go =>
      let pops := ins.foldl (fun (q : State × List (Nat × Row)) p => let z := q.1.popPort c n p false; (z.1, q.2 ++ [(p, z.2)])) (s, [])
      let ra := if op.a then pops.1.opdRow c x (tyWidth f.t.toNat) f.va.toNat pops.2 else (pops.1, 0)
      let rb := if op.b then ra.1.opdRow c x op.wb f.vb.toNat pops.2 else (ra.1, 0)
      let rd := if op.d && decide (f.vd.toNat < 1536) then rb.1.opdRow c x 8 f.vd.toNat [] else (rb.1, 0)
      let rr := if op.v2 then rd.1.opdRow c x 8 f.vb.toNat [] else (rd.1, 0)
      let res := op.run
        { bits := 2048, f := f, rm := if f.rm = 5 then x.rmode.toNat else f.rm.toNat, a := ra.2, b := rb.2, d := rd.2, r := rr.2,
          be := if 1552 ≤ f.vb.toNat ∧ f.vb.toNat < 1584 then some (x.ep.e' (f.vb.toNat - 1552)) else none, x := x.ep }
      let put := fun (s : State) (v : Nat) (r : Row) => match (s.core c).vKey x.lid v with | some key => s.vecPut c key r | none => s
      let s1 := match res.d, vOutPort f op with
        | some r, some p => rr.1.pushPort c n p 0 r
        | some r, none => put rr.1 f.vd.toNat r
        | none, _ => rr.1
      let s2 := match res.r with | some r => put s1 f.vb.toNat r | none => s1
      let all := res.fl.foldl (fun f p => f ||| p.2) (0 : Flags)
      let s3 := s2.modCtx c n fun x =>
        let e1 := res.m.foldl (fun (e : EpSt) p => e.setM p.1 p.2) x.ep
        let e2 := match res.e with | some p => e1.setE p.1 p.2 | none => e1
        { x with ep := e2, fflags := x.fflags ||| all }
      .done s3 (arithTrap x.ftrapen res.fl)

/-- An EV-form instruction: its trap for an enabled flag comes after its whole effect, at the instruction after it (R437). -/
def evExec (op : EV → VOp) (f : EV) (s : State) : Out :=
  .next (epSimple ⟨false, 0⟩ (fun c n x s =>
    match s.vIssue c n x f (op f) with
    | .stall => .stall s
    | .trap cause tval => .trap s cause 0 tval
    | .done s1 none => .done s1
    | .done s1 (some (cause, sub, tval)) =>
      let s2 := s1.modCtx c n fun x => x.pass .ep 1
      .left (s2.takeTrap c n .ep cause sub tval (match s2.ctx c n with | some x => x.ep.pc | none => 0))) s)

/-- `VADD` (R298). -/
def execVadd (f : EV) (s : State) : Out := evExec vopAdd f s
/-- `VSUB` (R298). -/
def execVsub (f : EV) (s : State) : Out := evExec vopSub f s
/-- `VMUL` (R298). -/
def execVmul (f : EV) (s : State) : Out := evExec vopMul f s
/-- `VFMA` (R298). -/
def execVfma (f : EV) (s : State) : Out := evExec vopFma f s
/-- `VMIN` (R298). -/
def execVmin (f : EV) (s : State) : Out := evExec vopMin f s
/-- `VMAX` (R298). -/
def execVmax (f : EV) (s : State) : Out := evExec vopMax f s
/-- `VABS` (R298). -/
def execVabs (f : EV) (s : State) : Out := evExec vopAbs f s
/-- `VCLAMP` (R298). -/
def execVclamp (f : EV) (s : State) : Out := evExec vopClamp f s
/-- `VAND` (R299). -/
def execVand (f : EV) (s : State) : Out := evExec (vopBit (· &&& ·)) f s
/-- `VOR` (R299). -/
def execVor (f : EV) (s : State) : Out := evExec (vopBit (· ||| ·)) f s
/-- `VXOR` (R299). -/
def execVxor (f : EV) (s : State) : Out := evExec (vopBit (· ^^^ ·)) f s
/-- `VSHL` (R299). -/
def execVshl (f : EV) (s : State) : Out := evExec vopShl f s
/-- `VSHR` (R299). -/
def execVshr (f : EV) (s : State) : Out := evExec vopShr f s
/-- `VSEL` (R301). -/
def execVsel (f : EV) (s : State) : Out := evExec vopSel f s
/-- `VMOV` (R301). -/
def execVmov (f : EV) (s : State) : Out := evExec vopMov f s
/-- `VCMP` (R300). -/
def execVcmp (f : EV) (s : State) : Out := evExec vopCmp f s
/-- `VCVT` (R305). -/
def execVcvt (f : EV) (s : State) : Out := evExec vopCvt f s
/-- `VCVTEF` (R306). -/
def execVcvtef (f : EV) (s : State) : Out := evExec vopCvtef f s
/-- `VSF` (R307). -/
def execVsf (f : EV) (s : State) : Out := evExec vopSf f s
/-- `VRED` (R308). -/
def execVred (f : EV) (s : State) : Out := evExec vopRed f s
/-- `VPERM` (R301). -/
def execVperm (f : EV) (s : State) : Out := evExec vopPerm f s
/-- `VBCAST` (R301). -/
def execVbcast (f : EV) (s : State) : Out := evExec vopBcast f s
/-- `VIOTA` (R302). -/
def execViota (f : EV) (s : State) : Out := evExec vopIota f s
/-- `VMASK.NZ` (R303). -/
def execVmaskNz (f : EV) (s : State) : Out := evExec vopMaskNz f s
/-- `VMASK.AND`, `.OR`, `.XOR`, `.ANDN`, `.ORN` (R303). -/
def execVmaskBool (f : EV) (s : State) : Out := evExec vopMaskBool f s
/-- `VMASK.NOT` (R303). -/
def execVmaskNot (f : EV) (s : State) : Out := evExec vopMaskNot f s
/-- `VMASK.FROMROW` (R303). -/
def execVmaskFromrow (f : EV) (s : State) : Out := evExec vopMaskFromrow f s
/-- `VMASK.TOROW` (R303). -/
def execVmaskTorow (f : EV) (s : State) : Out := evExec vopMaskTorow f s
/-- `VMCNT` (R304). -/
def execVmcnt (f : EV) (s : State) : Out := evExec vopMcnt f s
/-- `VMCNT.FIRST` (R304). -/
def execVmcntFirst (f : EV) (s : State) : Out := evExec vopMcntFirst f s

end Sys2Proof.Machine
end

