-- ==== Sys2Proof/Machine/EpNest.lean ====
section
/-! DEFINITION. `VNEST` (R309), lane moves (R311), ports seen without a pop and markers from the EP (R316, R317), `ETSIG` (R318), and segments (R320, R439, R74). -/
namespace Sys2Proof.Machine
open Sys2Proof

/-! ## VNEST -/

/-- The offset of indices under signed 16-bit strides. -/
def q16Off (i : List Nat) (q : Q16) : Int := strideSum i [q.l0.toInt, q.l1.toInt, q.l2.toInt, q.l3.toInt]
/-- The EV fields of an issue; none, with the index, when a computed register leaves 0 to 1535 (R309). -/
def nestEV (f : VnestF) (i : List Nat) : Except Int EV :=
  let fld' := fun (v : BitVec 11) (q : Q16) =>
    let o := (v.toNat : Int) + q16Off i q
    if v.toNat < 1536 ∧ (o < 0 ∨ 1536 ≤ o) then Except.error o else .ok (BitVec.ofInt 11 o)
  match fld' f.vw.vd f.ds, fld' f.vw.va f.as, fld' f.vw.vb f.bs with
  | .error e, _, _ => .error e
  | _, .error e, _ => .error e
  | _, _, .error e => .error e
  | .ok d, .ok a, .ok b => .ok { f.vw with vd := d, va := a, vb := b }
/-- The next indices, i0 innermost; none after the last issue. -/
def nestNext (f : VnestF) (i : Nat × Nat × Nat × Nat) : Option (Nat × Nat × Nat × Nat) :=
  let (i0, i1, i2, i3) := i
  if i0 + 1 < f.c.l0.toNat then some (i0 + 1, i1, i2, i3)
  else if i1 + 1 < f.c.l1.toNat then some (0, i1 + 1, i2, i3)
  else if i2 + 1 < f.c.l2.toNat then some (0, 0, i2 + 1, i3)
  else if i3 + 1 < f.c.l3.toNat then some (0, 0, 0, i3 + 1)
  else none

/-- The record ends: it signals, and the next instruction follows (R309). -/
def State.nestEnd (s : State) (c n : Nat) (f : VnestF) : State :=
  let s1 := s.modCtx c n fun x => { x with ep := { x.ep with nest := tdel x.ep.nest x.ep.pc.toNat } }.pass .ep 8
  match s1.ctx c n with
  | some x => s1.signalOpt c n x.lid .ep (coreMaster mtEP c n 0) f.tk.sig
  | none => s1

/-- One issue of a `VNEST` whose indices the EP holds. -/
def State.nestIssue (s : State) (c n : Nat) (x : Ctx) (f : VnestF) (i : Nat × Nat × Nat × Nat) : Res :=
  let keep := fun (s : State) (j : Nat × Nat × Nat × Nat) => s.modCtx c n fun x => { x with ep := { x.ep with nest := tset x.ep.nest x.ep.pc.toNat j } }
  match nestEV f [i.1, i.2.1, i.2.2.1, i.2.2.2] with
  | .error e => .trap (keep s i) 0x08 0 (allotVal 2 (wrapN e 56))
  | .ok ev =>
    match s.vIssue c n x ev (vopOf f.opc.toNat ev) with
    | .stall => .stall (keep s i)
    | .trap cause tval => .trap (keep s i) cause 0 tval
    | .done s1 tr =>
      let s2 := match nestNext f i with
        | some j => keep s1 j
        | none => s1.nestEnd c n f
      match tr with
      | none => .left s2
      | some (cause, sub, tval) => .left (s2.takeTrap c n .ep cause sub tval (match s2.ctx c n with | some x => x.ep.pc | none => 0))

/-- `VNEST` (R309): it takes its wait set, and then issues once at a time; each of its issues is one issue of the EP. Its indices stay with its address, so that a `VNEST` of a handler has its own (log 77). -/
def execVnest (f : VnestF) (s : State) : Out :=
  .next (
    let c := s.cur.core
    let n := s.cur.slot
    match s.ctx c n with
    | none => s
    | some x0 =>
      match tfind x0.ep.nest x0.ep.pc.toNat with
      | some i => finish c n .ep 8 x0.ep.pc (s.nestIssue c n x0 f i)
      | none => epIssue f.g 8 (tkToks f.tk) f.tk.sig (fun c n x s =>
          let y := x.settle
          if !s.epTakes c n y f.tk.waits then .stall (s.setCtx c n y) else
          let x1 := y.take f.tk.waits
          let s1 := s.setCtx c n x1
          if f.c.l0 = 0 ∨ f.c.l1 = 0 ∨ f.c.l2 = 0 ∨ f.c.l3 = 0 then .left (s1.nestEnd c n f) else s1.nestIssue c n x1 f (0, 0, 0, 0)) s)

/-! ## Lanes (R311) -/

/-- `EXTR` (R311). -/
def execExtr (f : EeF) (s : State) : Out :=
  .next (epSimple f.g (fun c n x s =>
    match (s.core c).vKey x.lid f.v.toNat with
    | none => .trap s 0x08 0 (allotVal 2 f.v.toNat)
    | some key =>
      let q := s.vecRow c key
      let w := tyWidth f.t.toNat
      let v := laneOf q.2 w f.lane.toNat
      .done (q.1.setCtx c n { x with ep := x.ep.setE f.e.toNat (if tyI f.t.toNat then signExt v w else zeroExt v w) })) s)
/-- `EINS` (R311). -/
def execEins (f : EeF) (s : State) : Out :=
  .next (epSimple f.g (fun c _ x s =>
    match (s.core c).vKey x.lid f.v.toNat with
    | none => .trap s 0x08 0 (allotVal 2 f.v.toNat)
    | some key =>
      let q := s.vecRow c key
      let w := tyWidth f.t.toNat
      .done (q.1.vecPut c key (BitVec.ofNat 2048 (setFld q.2.toNat (w * f.lane.toNat) w (x.ep.e' f.e.toNat).toNat)))) s)

/-! ## Ports (R316, R317) -/

/-- The word `EPORT` gives for a port, 0 to 7 si, 8 to 15 so (R316). -/
def State.portWord (s : State) (c : Nat) (x : Ctx) (p : Nat) : Nat :=
  match s.portStream c x p with
  | none => 8
  | some (_, st) =>
    let k := s.core c
    let flt := 4 * b2n st.flt
    if 8 ≤ p then 2 ^ 16 * (st.depth - st.count) + flt
    else if st.saved || st.count == 0 || !k.isFull (st.key st.head) then 2 ^ 16 * (if st.saved then 0 else st.count) + flt + 3
    else
      let r := (k.row c (st.key st.head)).toNat
      let kind := (k.kindOf (st.key st.head)).toNat
      2 ^ 32 * (if kind = 2 then fld r 0 32 else 0) + 2 ^ 16 * st.count + 256 * (if kind = 1 then fld r 0 8 else 0) + flt + kind
/-- `EPORT` (R316). -/
def execEport (f : EportF) (s : State) : Out :=
  .next (epSimple f.g (fun c n x s => .done (s.setCtx c n { x with ep := x.ep.setE f.d.toNat (BitVec.ofNat 64 (s.portWord c x f.port.toNat)) })) s)

/-- `EEOS` (R317): a push of one marker row; a stream that has its marker already gets none (R411 cause 7). -/
def execEeos (f : EeosF) (s : State) : Out :=
  .next (epSimple f.g (fun c n x s =>
    let p := 8 + f.port.toNat
    match s.outPort c n x p with
    | .unbound q => .trap s 0x09 0 (BitVec.ofNat 64 q)
    | .go =>
      (match s.portStream c x p with
      | none => .stall s
      | some (i, st) =>
        if st.eosw then
          .done (s.report c n x.lid .ep (s.mkRec 2 1 7 (coreMaster mtStream c n i) none x.lid x.rank (posDet (some st) 0xDA)))
        else .done (s.pushPort c n p 1 (eosRow f.status.toNat)))
    | _ =>
      (match s.portStream c x p with
      | some (i, st) =>
        if st.eosw && !st.saved then .done (s.report c n x.lid .ep (s.mkRec 2 1 7 (coreMaster mtStream c n i) none x.lid x.rank (posDet (some st) 0xDA)))
        else .stall s
      | none => .stall s)) s)

/-- `ETSIG` (R318): it enters no queue; a fifth pending one stalls. -/
def execEtsig (f : TkF) (s : State) : Out :=
  .next (epIssue f.g 2 (tkToks f.tk) f.tk.sig (fun c n x s =>
    if 4 ≤ x.ep.etsigs.length then .stall s
    else .done (s.setCtx c n { x with ep := { x.ep with etsigs := x.ep.etsigs ++ [{ id := s.serial, tk := f.tk, taken := false }] } }).tick) s)

/-! ## Segments (R320) -/

/-- The record of a segment error (R439 causes 12 and 13). -/
def State.segRec (s : State) (c n : Nat) (x : Ctx) (cause opc sig ea : Nat) : State :=
  s.report c n x.lid .ep (s.mkRec 4 1 cause (coreMaster mtMatrix c n 0) none x.lid x.rank [(40, 1, opc), (42, 1, x.window.getD 0), (44, 4, sig), (48, 4, ea)])

/-- `SEGB` (R320): with a segment open it changes nothing but the record it writes (R440). -/
def execSegb (f : G0) (s : State) : Out :=
  .next (epSimple f.g (fun c n x s =>
    if x.segOpen then .done (s.segRec c n x 13 0xD4 x.sigOut 0)
    else .done (s.setCtx c n { x with segOpen := true, segSig := 0xFFFFFFFF, segCnt := 0, segHwOff := false, segFrom := s.serial })) s)

/-- A matrix record the context issued before now is queued or not complete (R320). -/
def State.matrixBusy (s : State) (c n : Nat) (x : Ctx) : Bool :=
  (s.core c).pendingCmds.any fun m => m.slot == n && m.lid == x.lid && cmdMaster c m == coreMaster mtMatrix c n 0
    && (match m.instr with | .tstart _ => false | _ => true)

/-- What a compare point allows (R74, R420). -/
inductive DupRes where
  | wait (s : State)
  | pass (s : State)
  | differ (s : State)

/-- The context of the other member that pairs with a context: the core of its rank, and the slot in the same place of the launch's context slots. DESIGN CHOICE: R74 does not say which contexts of a core with several pair (log 78). -/
def State.twin (s : State) (l : Launch) (c n : Nat) (x : Ctx) : Option (Nat × Nat) :=
  (l.coreOf (!x.member) x.rank).bind fun c2 =>
    ((s.core c).allot l.lid).bind fun a => ((s.core c2).allot l.lid).bind fun b =>
      (findIdx (fun m => m == n) a.contexts 0).bind fun i => (b.contexts[i]?).map fun m => (c2, m)

/-- A context of a duplex launch reaches a compare point with a signature (R74, R420): the first waits, the second compares; unlike signatures freeze both. -/
def State.dupPoint (s : State) (c n : Nat) (x : Ctx) (sig : BitVec 32) : DupRes :=
  match s.launchOf x with
  | none => .pass s
  | some l =>
    if !l.flag 5 then .pass s else
    match l.cmpWait.find? fun q => q.core == c && q.slot == n with
    | some q => if q.agreed then .pass (s.modLaunch x.lid fun l => { l with cmpWait := l.cmpWait.filter (· != q) }) else .wait s
    | none =>
      match s.twin l c n x with
      | none => .pass s
      | some (c2, n2) =>
        match l.cmpWait.find? fun q => q.core == c2 && q.slot == n2 && !q.agreed with
        | none =>
          .wait (s.modLaunch x.lid fun l => { l with cmpWait := l.cmpWait ++ [{ core := c, slot := n, sig := sig, since := s.time.toNat, noted := false, agreed := false }] })
        | some q =>
          if q.sig = sig then .pass (s.modLaunch x.lid fun l => { l with cmpWait := l.cmpWait.map fun e => if e == q then { e with agreed := true } else e })
          else
            let m0 := if x.member then q.sig else sig
            let m1 := if x.member then sig else q.sig
            let r := fun (core slot : Nat) => s.mkRec 12 2 4 (coreMaster mtEP core slot 0) none x.lid x.rank [(32, 4, m0.toNat), (36, 4, m1.toNat)]
            let s1 := s.modLaunch x.lid fun l => { l with cmpWait := l.cmpWait.filter (· != q) }
            let z0 := if x.member then (c2, n2) else (c, n)
            let all := l.allCores.flatMap fun k => (natsFrom 0 4).map fun j => (k, j)
            .differ ((all.foldl (fun s p => match (s.ctx p.1 p.2).filter fun y => y.lid == x.lid with
              | some y => s.freezeWith p.1 p.2 .ep false { r p.1 p.2 with rank := BitVec.ofNat 16 y.rank }
              | none => s) s1).toDevice (r z0.1 z0.2))

/-- `SEGE` (R320): it stalls until the context's earlier records have completed, closes the segment, and compares. DESIGN CHOICE: with no segment open it is no compare point of a duplex launch (R74, log 57). -/
def execSege (f : SegeF) (s : State) : Out :=
  .next (epSimple f.g (fun c n x s =>
    if s.matrixBusy c n x then .stall s
    else if !x.segOpen then .done ((s.setCtx c n { x with ep := x.ep.setE f.d.toNat 0 }).segRec c n x 13 0xD5 0 0)
    else
      let sig := x.sigOut
      let ea := (x.ep.e' f.a.toNat).toNat % 2 ^ 32
      match s.dupPoint c n x (BitVec.ofNat 32 sig) with
      | .wait s1 => .stall s1
      | .differ s1 => .stall s1
      | .pass s1 =>
        let s2 := s1.setCtx c n { x with segOpen := false, segHwOff := false, ep := x.ep.setE f.d.toNat (BitVec.ofNat 64 sig) }
        if f.a ≠ 0 ∧ ea ≠ sig then .done (s2.segRec c n x 12 0xD5 sig ea) else .done s2) s)

end Sys2Proof.Machine
end

