-- ==== Sys2Proof/Machine/PrismImage.lean ====
section
/-! DEFINITION. Prism configuration images (R351, R352), the operations of a bundle (R358 to R362) and the checks of `GLOAD` (R353, R359, R444). -/
namespace Sys2Proof.Machine
open Sys2Proof

/-! ## Geometry (R346) -/

/-- The neighbour of element e to the north, east, south or west (0 to 3). -/
def gNext (e d : Nat) : Option Nat :=
  match d with
  | 0 => if 4 ≤ e then some (e - 4) else none
  | 1 => if e % 4 < 3 then some (e + 1) else none
  | 2 => if e < 12 then some (e + 4) else none
  | _ => if 0 < e % 4 then some (e - 1) else none
/-- The direction that faces d. -/
def gOpp (d : Nat) : Nat := (d + 2) % 4
/-- The fabric port of an element. -/
def gPort (e : Nat) : Option Nat := if e < 4 then some e else if 12 ≤ e ∧ e < 16 then some (e - 8) else none
/-- The element of a fabric port. -/
def gElem (p : Nat) : Nat := if p < 4 then p else p + 8

/-! ## The image (R351, R352) -/

def imgLen (im : List Byte) : Nat := leAt im 6 2
def imgBanks (im : List Byte) : Nat := leAt im 8 4
/-- FPDIR of a port: 0 unused, 1 input, 2 output. -/
def imgDir (im : List Byte) (p : Nat) : Nat := fld (leAt im 12 2) (2 * p) 2
/-- Constant Kj. -/
def imgK (im : List Byte) (j : Nat) : Nat := leAt im (64 + 4 * j) 4
def imgBoff (im : List Byte) (e : Nat) : Nat := leAt im (128 + 16 * e) 2
def imgNB (im : List Byte) (e : Nat) : Nat := leAt im (130 + 16 * e) 1
def imgDin (im : List Byte) (e : Nat) : Nat := leAt im (131 + 16 * e) 1
def imgDout (im : List Byte) (e : Nat) : Nat := leAt im (132 + 16 * e) 1
/-- The operation word of element e, bundle b, cluster c. -/
def imgWord (im : List Byte) (e b c : Nat) : Nat := leAt im (imgBoff im e + 32 * b + 8 * c) 8

/-! ## Operations of a bundle -/

/-- An element-only access to a bank, a slot or the accumulator (R362): its register, index register, unit offset. -/
structure GMem where
  g : Guard
  x : Nat
  xa : Nat
  ia : Bool
  off : Nat
  deriving DecidableEq, Repr

/-- An operation of a bundle (R358, R360, R362). -/
inductive GOp where
  | nop
  | vec (opc : Nat) (f : EV)
  | split (start : Nat)
  | join (next : Nat)
  | bkrd (m : GMem) (bank : Nat)
  | bkwr (m : GMem) (bank : Nat)
  | owr (m : GMem) (slot fmt z kfm1 : Nat)
  | ard (m : GMem) (q : Nat)
  | toks (g : Guard) (take : Bool) (tok : BitVec 4)
  deriving DecidableEq, Repr

/-- An operand field of a bundle in the terms of R211, so that the rules of the EV form read it: a register, a link or port as a port, a constant or zero as they stand; any other value as one that no column accepts (R361). -/
def gSrc (v : BitVec 11) : BitVec 11 :=
  let n := v.toNat
  if n < 16 then v else if n ≤ 20 then BitVec.ofNat 11 (1536 + n - 16) else if (1552 ≤ n ∧ n ≤ 1567) ∨ n = 1584 then v else 2047
/-- The same for VD. -/
def gDst (v : BitVec 11) : BitVec 11 := let n := v.toNat; if n < 16 then v else if n ≤ 20 then BitVec.ofNat 11 (1544 + n - 16) else 2047

/-- The vector operation is legal in a bundle (R360, R361). -/
def gVecOk (opc : Nat) (f : EV) : Bool :=
  let fs := { f with vd := gDst f.vd, va := gSrc f.va, vb := gSrc f.vb }
  let lt8 := fun (v : BitVec 11) => decide (v.toNat < 8)
  decide (f.g.idx.toNat < 8) &&
  (match opc with
  | 0x8D => okSel fs && decide (f.f.toNat < 8)
  | 0x8F => okCmp { fs with vd := f.vd } && !bitN f.vd.toNat 3 && !bitN f.vd.toNat 7
  | 0x90 => okCvt 128 fs
  | 0x95 => okBcast 128 fs
  | 0x97 =>
    (match f.f.toNat with
    | 0 => okMaskRow 0 { fs with vd := f.vd } && lt8 f.vd
    | 6 => okMaskNot f && lt8 f.vd && lt8 f.va
    | 7 => okMaskRow 7 { fs with vd := f.vd } && lt8 f.vd
    | 8 => okMaskTo { fs with va := f.va } && lt8 f.va
    | _ => okMaskBool f && lt8 f.vd && lt8 f.va && lt8 f.vb)
  | _ => (decide (0x80 ≤ opc ∧ opc ≤ 0x8E) || opc == 0x94 || opc == 0x96) && okEV opc fs)

/-- The guard of an element-only operation names y0 to y7, and XA is zero without an index. -/
def gMemOf (gn gp x xa ia off : Nat) : Option GMem :=
  if gp < 8 ∧ (ia = 1 ∨ xa = 0) then some { g := grd gn gp, x := x, xa := xa, ia := bo ia, off := off } else none

/-- Decodes an operation word; none when it is outside the accepted set or breaks its own field rules (R353 check 3). -/
def gOpOf (w : Nat) : Option GOp :=
  match opcOf w with
  | 0x00 => if fld w 0 55 = 0 then some .nop else none
  | 0xF0 => (match unpack [8, 5, 5, 46] w with | [_, 0, st, 0] => some (.split st) | _ => none)
  | 0xF1 => (match unpack [8, 5, 6, 45] w with | [_, 0, nx, 0] => if nx ≤ 32 then some (.join nx) else none | _ => none)
  | 0xF2 => (match unpack [8, 1, 4, 4, 4, 1, 5, 14, 23] w with
    | [_, gn, gp, x, xa, ia, b, off, 0] => (gMemOf gn gp x xa ia off).map fun m => .bkrd m b
    | _ => none)
  | 0xF3 => (match unpack [8, 1, 4, 4, 4, 1, 5, 14, 23] w with
    | [_, gn, gp, x, xa, ia, b, off, 0] => (gMemOf gn gp x xa ia off).map fun m => .bkwr m b
    | _ => none)
  | 0xF4 => (match unpack [8, 1, 4, 4, 4, 1, 4, 4, 3, 2, 11, 18] w with
    | [_, gn, gp, x, xa, ia, sl, fmt, z, kf, off, 0] => if 1 ≤ fmt ∧ fmt ≤ 7 then (gMemOf gn gp x xa ia off).map fun m => .owr m sl fmt z kf else none
    | _ => none)
  | 0xF5 => (match unpack [8, 1, 4, 4, 4, 1, 11, 4, 27] w with
    | [_, gn, gp, x, xa, ia, v, q, 0] => if v < 1536 then (gMemOf gn gp x xa ia v).map fun m => .ard m q else none
    | _ => none)
  | 0xF6 => (match unpack [8, 1, 4, 1, 4, 46] w with
    | [_, gn, gp, tk, tok, 0] => if gp < 8 then some (.toks (grd gn gp) (bo tk) (bv 4 tok)) else none
    | _ => none)
  | opc => let f := evOf w; if gVecOk opc f then some (.vec opc f) else none

/-- The inputs an operation reads, by direction, 4 the edge port; each once (R359). -/
def gReads : GOp → List Nat
  | .vec opc f =>
    let op := vopOf opc f
    (((if op.a then [f.va.toNat] else []) ++ (if op.b then [f.vb.toNat] else [])).filter fun v => decide (16 ≤ v ∧ v ≤ 20)).map (· - 16) |>.eraseDups
  | _ => []
/-- The output an operation names as VD (R356). -/
def gWrites : GOp → Option Nat
  | .vec opc f => let op := vopOf opc f; if op.d && decide (16 ≤ f.vd.toNat ∧ f.vd.toNat ≤ 20) then some (f.vd.toNat - 16) else none
  | _ => none

/-! ## Split structure (R359) -/

/-- The operation of element e at bundle b, cluster c; `NOP` where the word is not accepted. -/
def gOp (im : List Byte) (e b c : Nat) : GOp := (gOpOf (imgWord im e b c)).getD .nop
def GOp.isSplit : GOp → Bool | .split _ => true | _ => false
def GOp.isJoin : GOp → Bool | .join _ => true | _ => false
/-- The bundle of element e that holds a `SPLIT`. -/
def gSplitAt (im : List Byte) (e : Nat) : Option Nat := (natsFrom 0 (imgNB im e)).find? fun b => (natsFrom 0 4).any fun c => (gOp im e b c).isSplit
/-- Where a cluster's sequence starts. -/
def gStart (im : List Byte) (e c : Nat) : Option Nat :=
  (gSplitAt im e).bind fun b => match gOp im e b c with | .split s => some s | _ => none
/-- Where it ends: the first `JOIN` from its start on. -/
def gJoinAt (im : List Byte) (e c : Nat) : Option Nat :=
  (gStart im e c).bind fun s => (natsFrom s (imgNB im e - s)).find? fun b => (gOp im e b c).isJoin
/-- The operation at (b, c) lies in a split sequence. -/
def gInSeq (im : List Byte) (e b c : Nat) : Bool :=
  match gStart im e c with
  | some s => decide (s ≤ b) && (match gJoinAt im e c with | some j => decide (b ≤ j) | none => true)
  | none => false
/-- NEXT of the first `JOIN`. -/
def gResume (im : List Byte) (e : Nat) : Nat :=
  match (gJoinAt im e 0).map fun b => gOp im e b 0 with | some (.join n) => n | _ => 0

/-- The split structure of element e is right. -/
def gSplitOk (im : List Byte) (e : Nat) : Bool :=
  let nb := imgNB im e
  let all := (natsFrom 0 nb).flatMap fun b => (natsFrom 0 4).map fun c => (b, c)
  match gSplitAt im e with
  | none => all.all fun p => !(gOp im e p.1 p.2).isJoin
  | some sb =>
    (all.all fun p => (gOp im e p.1 p.2).isSplit == (p.1 == sb))
    && (natsFrom 0 4).all (fun c => (match gStart im e c with | some s => decide (sb < s) | none => false) && (gJoinAt im e c).isSome)
    && (all.all fun p => match gOp im e p.1 p.2 with
      | .join n => gJoinAt im e p.2 == some p.1 && n == gResume im e && decide (p.1 < n) && decide (n ≤ nb)
      | _ => true)

/-! ## The checks of GLOAD (R353) -/

/-- A check that fails at an element, a bundle and a cluster. -/
abbrev GBad := Nat × Nat × Nat

/-- The first of a list of places at which a test fails. -/
def gFirst (l : List GBad) (p : GBad → Bool) : Option GBad := l.find? fun q => !p q
/-- Every operation's place. -/
def gPlaces (im : List Byte) : List GBad :=
  (natsFrom 0 16).flatMap fun e => (natsFrom 0 (imgNB im e)).flatMap fun b => (natsFrom 0 4).map fun c => (e, b, c)
/-- The elements as places. -/
def gElems : List GBad := (natsFrom 0 16).map fun e => (e, 0, 0)

/-- Element e writes the link to its neighbour in direction d: as a declared output or in a split sequence. -/
def gFeeds (im : List Byte) (e d : Nat) : Bool :=
  bitN (imgDout im e) d ||
    (natsFrom 0 (imgNB im e)).any fun b => (natsFrom 0 4).any fun c => gInSeq im e b c && gWrites (gOp im e b c) == some d

/-- The header's own fields, the routing entries' fields and the extents (check 1). -/
def gHeadOk (addr : Nat) (im : List Byte) : Bool :=
  decide (addr % 64 = 0) && leAt im 0 4 == 0xB2D00C91 && leAt im 4 2 == 1 && decide (384 ≤ imgLen im) && decide (imgLen im ≤ 20480)
    && decide (imgLen im % 32 = 0) && leAt im 16 48 == 0 && (natsFrom 0 8).all (fun p => imgDir im p != 3)
def gEntryOk (im : List Byte) (e : Nat) : Bool :=
  decide (imgBoff im e % 32 = 0) && decide (imgNB im e ≤ 32) && decide (imgDin im e < 32) && decide (imgDout im e < 32)
    && leAt im (133 + 16 * e) 11 == 0 && (imgNB im e == 0 || decide (imgBoff im e + 32 * imgNB im e ≤ imgLen im))

/-- The first check of R353 that fails, 1 to 9, with its element, bundle and cluster; `banks` and `tokens` are the launch's allotment. -/
def gCheck (banks tokens : Nat) (im : List Byte) : Option (Nat × GBad) :=
  let ops := gPlaces im
  let op := fun (q : GBad) => gOp im q.1 q.2.1 q.2.2
  let ins := fun (q : GBad) => gInSeq im q.1 q.2.1 q.2.2
  let tests : List (Nat × Option GBad) :=
    [(1, gFirst gElems fun q => gEntryOk im q.1),
     (2, if (natsFrom 0 32).any (fun b => bitN (imgBanks im) b && decide (banks ≤ b)) then some (0, 0, 0)
         else gFirst ops fun q => match op q with | .toks _ _ t => decide (t.toNat < tokens) | _ => true),
     (3, gFirst ops fun q => (gOpOf (imgWord im q.1 q.2.1 q.2.2)).isSome),
     (4, gFirst gElems fun q =>
        let side := fun (m want : Nat) => !bitN m 4 || (match gPort q.1 with | some p => imgDir im p == want | none => false)
        side (imgDin im q.1) 1 && side (imgDout im q.1) 2),
     (5, match gFirst gElems (fun q => (natsFrom 0 4).all fun d =>
            (!bitN (imgDin im q.1) d || (match gNext q.1 d with | some n => gFeeds im n (gOpp d) | none => false))
              && (!bitN (imgDout im q.1) d || (gNext q.1 d).isSome)) with
        | some q => some q
        | none => gFirst ops fun q => !ins q || (match gWrites (op q) with | some d => d == 4 || (gNext q.1 d).isSome | none => true)),
     (6, gFirst ops fun q => ins q || ((gReads (op q)).all (bitN (imgDin im q.1)) && (gWrites (op q)).all (bitN (imgDout im q.1)))),
     (7, gFirst ops fun q => !ins q || ((gReads (op q)).all (fun d => !bitN (imgDin im q.1) d) && (gWrites (op q)).all (fun d => !bitN (imgDout im q.1) d))),
     (8, gFirst ops fun q => match op q with
        | .bkrd _ b => q.1 % 4 == 0 && bitN (imgBanks im) b
        | .bkwr _ b => q.1 % 4 == 0 && bitN (imgBanks im) b
        | .owr _ _ _ _ _ => q.1 % 4 == 3
        | .ard _ _ => q.1 % 4 == 3
        | _ => true),
     (9, gFirst gElems fun q => gSplitOk im q.1)]
  tests.findSome? fun t => t.2.map fun q => (t.1, q)

end Sys2Proof.Machine
end

