-- ==== Sys2Proof/Machine/Prism.lean ====
section
/-! DEFINITION. The Prism grid at work: its commands (R281, R365, R366), the ports and the streams they serve (R348 to R350), firings with their bundles (R354 to R364), split sequences (R359), end of input (R367), halts (R444, R445). -/
namespace Sys2Proof.Machine
open Sys2Proof

/-! ## Files and links -/

/-- x register r of cluster c of element e. -/
def Grid.xr (g : Grid) (e c r : Nat) : BitVec 128 := tget g.x 0 (64 * e + 16 * c + r)
/-- Writes an x register. -/
def Grid.setX (g : Grid) (e c r : Nat) (v : BitVec 128) : Grid := { g with x := tset g.x (64 * e + 16 * c + r) v }
/-- y mask m; y0 reads all-true. -/
def Grid.yr (g : Grid) (e c m : Nat) : BitVec 16 := if m = 0 then BitVec.allOnes 16 else tget g.y 0 (32 * e + 8 * c + m)
/-- Writes a y mask; writes to y0 are discarded. -/
def Grid.setY (g : Grid) (e c m : Nat) (v : BitVec 16) : Grid := if m = 0 then g else { g with y := tset g.y (32 * e + 8 * c + m) v }
/-- The key of the sub-channel of cluster c of the link into element e from direction d. -/
def lkKey (e d c : Nat) : Nat := 16 * e + 4 * d + c
/-- The words of a sub-channel. -/
def Grid.link (g : Grid) (key : Nat) : List (BitVec 128) := tget g.links [] key
/-- The words staged at an input port for cluster c; output ports stand 64 further. -/
def Grid.staged (g : Grid) (key : Nat) : List (BitVec 128) := tget g.stage [] key
/-- Changes the grid of core c. -/
def State.modGrid (s : State) (c : Nat) (f : Grid → Grid) : State := s.modCore c fun k => { k with grid := f k.grid }
/-- The image of the running slot. -/
def Grid.image (g : Grid) : List Byte := match g.running with | some (n, _) => tget g.images [] n | none => []

/-! ## Ports and their streams (R348, R349) -/

/-- The run that serves a stream: the first `GRUN` issued after the command that bound it. -/
def Grid.serves (g : Grid) (st : Stream) : Option Nat := (g.gruns.find? fun r => r.2 == st.lid && decide (st.cmd < r.1)).map Prod.fst
/-- The stream of a fabric port that a run serves; a failed `SOPEN` has bound none (R411). -/
def Core.fpStream (k : Core) (p run : Nat) : Option (Nat × Stream) :=
  k.streams.find? fun q => fabricPort q.2.desc q.2.near == some p && q.2.depth != 0 && k.grid.serves q.2 == some run
/-- The grid side of a stream's port is an input. -/
def gridInput (st : Stream) : Bool := match st.near with | .fp _ => !dOut st.desc | .ep _ => dOut st.desc

/-- The head an input port sees: of an inbound stream what its ring holds, paused and halted ones too (R412, R413); of a stream of kind 5 only once its engine would send the row or has passed the marker on. -/
def Core.fpHead (k : Core) (c : Nat) (st : Stream) : Head :=
  if st.saved then .empty else
  match st.near with
  | .fp _ => k.headOf c st
  | .ep _ =>
    if st.flt ∨ st.count = 0 ∨ !k.isFull (st.key st.head) then .empty
    else if k.kindOf (st.key st.head) = 1 then (if st.sent then .eos 0 (fld (k.row c (st.key st.head)).toNat 0 8) else .empty)
    else if st.pos < rowTotal st.desc st.map then .data 0 else .empty

/-- The four items of a row: word c of item q is bytes 64q + 16c on (R350). -/
def rowWord (r : Row) (q c : Nat) : BitVec 128 := BitVec.ofNat 128 (fld r.toNat (512 * q + 128 * c) 128)
/-- A row from the four words of each sub-channel; a missing word is zero. -/
def rowOfWords (l : List (List (BitVec 128))) : Row :=
  BitVec.ofNat 2048 ((natsFrom 0 16).foldl (fun acc i => acc + ((l.getD (i % 4) []).getD (i / 4) 0).toNat * 2 ^ (128 * i)) 0)

/-- An input port pops its stream's head row and stages its items, as the cluster that asks still needs a word; the flag says that the row held an uncorrectable error. None when the port holds no data (R350). -/
def State.gridStage (s : State) (core run p cl : Nat) : Option (State × Bool) :=
  let k := s.core core
  if k.grid.staged (4 * p + cl) ≠ [] then some (s, false) else
  match (k.fpStream p run).filter fun q => gridInput q.2 with
  | none => none
  | some (i, st) =>
    match k.fpHead core st with
    | .data gaps =>
      let q := k.pop core i st false gaps
      let key := st.key (st.head + gaps)
      let s1 := (s.setCore core q.1).modGrid core fun g =>
        { g with stage := (natsFrom 0 4).foldl (fun t c => tset t (4 * p + c) (tget t [] (4 * p + c) ++ (natsFrom 0 4).map fun n => rowWord q.2.1 n c)) g.stage }
      some (match st.near with | .ep _ => s1.nextPos core i | .fp _ => s1, s.badBank core key)
    | _ => none

/-- An output port has room for a word of sub-channel c: it is bound, no finished row waits, and fewer than four are staged (R349, R350). -/
def Core.fpRoom (k : Core) (run p c : Nat) : Bool :=
  (match k.fpStream p run with | some (_, st) => !gridInput st | none => false) && (tget k.grid.outRow [] p).isEmpty
    && decide ((k.grid.staged (64 + 4 * p + c)).length < 4)

/-- Four staged items become a row that waits for the tail (R350). -/
def Grid.finishRow (g : Grid) (run p : Nat) : Grid :=
  let l := (natsFrom 0 4).map fun c => g.staged (64 + 4 * p + c)
  if l.all fun w => decide (4 ≤ w.length) then
    { g with
      outRow := tset g.outRow p (tget g.outRow [] p ++ [(run, { kind := 0, row := rowOfWords l })])
      stage := (natsFrom 0 4).foldl (fun t c => tdel t (64 + 4 * p + c)) g.stage }
  else g

/-- Element e pushes a word to its output in direction d, 4 the edge port. -/
def Grid.push (g : Grid) (e d c : Nat) (v : BitVec 128) : Grid :=
  if d = 4 then
    (match gPort e with
    | some p => { g with stage := tset g.stage (64 + 4 * p + c) (g.staged (64 + 4 * p + c) ++ [v]) }
    | none => g)
  else match gNext e d with
    | some n => let key := lkKey n (gOpp d) c; { g with links := tset g.links key (g.link key ++ [v]) }
    | none => g
/-- Output d of element e has room for a word of sub-channel c. -/
def Core.outRoom (k : Core) (run e d c : Nat) : Bool :=
  if d = 4 then (match gPort e with | some p => imgDir k.grid.image p == 2 && k.fpRoom run p c | none => false)
  else match gNext e d with
    | some n => decide ((k.grid.link (lkKey n (gOpp d) c)).length < 2)
    | none => false
/-- The head word of input d of element e for cluster c. -/
def Grid.headWord (g : Grid) (e d c : Nat) : BitVec 128 :=
  if d = 4 then (match gPort e with | some p => (g.staged (4 * p + c)).headD 0 | none => 0) else (g.link (lkKey e d c)).headD 0
/-- Removes it. -/
def Grid.dropWord (g : Grid) (e d c : Nat) : Grid :=
  if d = 4 then (match gPort e with | some p => { g with stage := tset g.stage (4 * p + c) (g.staged (4 * p + c)).tail } | none => g)
  else let key := lkKey e d c; { g with links := tset g.links key (g.link key).tail }

/-! ## Stops -/

/-- The grid stops: link words, staged items and firings are discarded, and ownership ends (R366, R367, R445). -/
def Grid.stop (g : Grid) : Grid :=
  { g with running := none, firing := [], links := [], stage := [], ending := none, halting := none, faulted := false }

/-- The declared ports of a direction. -/
def imgPorts (im : List Byte) (d : Nat) : List Nat := (natsFrom 0 8).filter fun p => imgDir im p == d

/-- Every bound output port of a run writes a marker behind its finished rows (R367, R445). -/
def Core.markPorts (k : Core) (run status : Nat) : Core :=
  (imgPorts k.grid.image 2).foldl (fun k p => match k.fpStream p run with
    | some (_, st) =>
      if gridInput st then k
      else { k with grid := { k.grid with outRow := tset k.grid.outRow p (tget k.grid.outRow [] p ++ [(run, { kind := 1, row := eosRow status })]) } }
    | none => k) k

/-- The master of a configuration. -/
def gridMaster (core : Nat) (m : Cmd) : BitVec 32 := coreMaster mtPrism core m.slot 0
/-- The configuration is frozen: it starts no firing and does not stop (R399). -/
def State.gridFrozen (s : State) (core : Nat) (m : Cmd) : Bool := s.isFrozen (dieOf core) (gridMaster core m)
/-- The configuration has ended and all its rows are written (R367). -/
def Grid.over (g : Grid) (run : Nat) : Bool := g.firing.isEmpty && !g.faulted && g.ending.isSome && g.outRow.all fun q => q.2.all fun r => r.1 != run
/-- A `GRUN` of the other slot is next on the Prism queue and may start: an ended configuration waits for its switch (R366 item 4). -/
def State.switchDue (s : State) (core : Nat) : Bool :=
  match (s.core core).queue .prism, (s.core core).grid.running with
  | m :: _, some (n, _) =>
    (match m.instr, s.ctxOf core m with
    | .grun f, some x => decide (b2n f.slot ≠ n) && x.settle.canTake m.tk.waits && !x.owes m.id 0xFFFF
    | _, _ => false)
  | _, _ => false

/-- With nothing firing, a halted configuration writes its markers and stops (R445), a `GHALT` stops the grid (R366), an ended one stops once its rows are written (R367), at its switch when one is due. -/
def State.gridSettle (s : State) (core : Nat) : State :=
  let k := s.core core
  match k.grid.running with
  | none => s
  | some (_, m) =>
    if !k.grid.firing.isEmpty || s.gridFrozen core m then s else
    let done := fun (s : State) => match k.grid.halting with | some h => s.complete core h | none => s
    if k.grid.faulted then done (s.modCore core fun k => let k1 := k.markPorts m.id 0xF1; { k1 with grid := k1.grid.stop })
    else if k.grid.ending.isSome then
      (if k.grid.over m.id && (k.grid.halting.isSome || !s.switchDue core) then done ((s.modGrid core Grid.stop).complete core m) else s)
    else if k.grid.halting.isSome then done ((s.modGrid core Grid.stop).complete core m)
    else s

/-- A configuration whose `GRUN` has halted otherwise (R399) halts with it. -/
def Core.gPrune (k : Core) : Core :=
  match k.grid.running with
  | some (_, m) => if k.isLive m.id then k else { k with grid := { k.grid with faulted := true } }
  | none => k

/-- The running configuration halts at a firing of element e: the firing stops without an item, its `GRUN` halts with a record (R363, R445). -/
def State.gridHalt (s : State) (core : Nat) (m : Cmd) (e cls cause : Nat) (det : List (Nat × Nat × Nat)) : State :=
  let s1 := s.modGrid core fun g => { g with firing := tdel g.firing e, faulted := true }
  if (s.core core).grid.faulted then s1 else s1.haltCmd core m cls cause none det

/-! ## The commands (R281, R365, R366) -/

/-- The launch of a command has a Prism image (R42). -/
def State.hasPrism (s : State) (lid : BitVec 32) : Bool := match s.launch lid with | some l => l.prism | none => false
/-- A grid command halts with a CLASS 5 record. -/
def State.gridErr (s : State) (core : Nat) (m : Cmd) (cause : Nat) (det : List (Nat × Nat × Nat)) : State := (s.begin core .prism m).haltCmd core m 5 cause none det

/-- The start of `GLOAD`: the image is read through X pages, checked, and kept or refused (R281, R353, R444). -/
def State.startGload (s : State) (core : Nat) (m : Cmd) (f : GloadF) : State :=
  let n := b2n f.slot
  let a := (m.vals.getD 0 0).toNat
  if !s.hasPrism m.lid then s.gridErr core m 4 []
  else if (match (s.core core).grid.running with | some (r, _) => r == n | none => false) then s.gridErr core m 2 []
  else
    let lose := fun (s : State) => s.modGrid core fun g => { g with images := tdel g.images n }
    match s.engRead core m false .code a 128 with
    | (s1, .wait) => s1
    | (s1, .ok h) =>
      if !gHeadOk a h then (lose s1).gridErr core m 1 [(32, 1, 1)] else
      (match s1.engRead core m false .code a (imgLen h) with
      | (s2, .wait) => s2
      | (s2, .ok im) =>
        let banks := match (s2.core core).allot m.lid with | some x => x.banks.length | none => 0
        let toks := match s2.launch m.lid with | some l => l.tokens | none => 0
        (match gCheck banks toks im with
        | some (t, e, b, c) => (lose s2).gridErr core m 1 [(32, 1, t), (33, 1, e), (34, 1, b), (35, 1, c)]
        | none => ((s2.begin core .prism m).modGrid core fun g => { g with images := tset g.images n im }).complete core m)
      | (s2, x) => ((lose s2).begin core .prism m).haltEng core m .code 5 1 [] x)
    | (s1, x) => ((lose s1).begin core .prism m).haltEng core m .code 5 1 [] x

/-- The first logical bank of a mask in which an open stream of the launch has its ring (R365). -/
def Core.ringIn (k : Core) (lid : BitVec 32) (mask : Nat) : Option Nat :=
  (natsFrom 0 32).find? fun b => bitN mask b && (match k.bankOf lid b with
    | some p => k.streams.any fun q => !q.2.saved && q.2.depth != 0 && q.2.lid == lid && q.2.bank == p
    | none => false)

/-- Streams that the run serves through a port of the other direction halt (R348). -/
def State.dirCheck (s : State) (core run : Nat) (im : List Byte) : State :=
  (natsFrom 0 8).foldl (fun s p =>
    let d := imgDir im p
    match (s.core core).fpStream p run with
    | some (i, st) => if d ≠ 0 ∧ gridInput st ≠ (d == 1) then s.haltStream core i 2 1 10 none false (posDet (some st) 0x7B) else s
    | none => s) s

/-- A configuration starts: registers, masks, links and staging are clear, the banks are owned (R354, R365). -/
def State.startConfig (s : State) (core : Nat) (m : Cmd) (x : Ctx) (n : Nat) : State :=
  let s0 := { s with poisonLoc := s.poisonLoc.filter fun l => match l with | .gridReg c _ _ _ => c != core | _ => true }
  let s1 := (s0.begin core .prism m).modGrid core fun g =>
    { g.stop with running := some (n, m), rm := x.rmode.toNat, x := [], y := [] }
  s1.dirCheck core m.id (s1.core core).grid.image

/-- The start of `GRUN`: at once, by a switch from a configuration without input ports that is between firings or from one that has ended, or after the running one has stopped (R366). -/
def State.startGrun (s : State) (core : Nat) (m : Cmd) (x : Ctx) (f : GrunF) : State :=
  let s := s.modCore core Core.gPrune
  let s := match (s.core core).grid.running with
    | some (_, old) => if (s.core core).grid.over old.id && (s.core core).grid.halting.isNone && !s.gridFrozen core old then (s.modGrid core Grid.stop).complete core old else s
    | none => s
  let n := b2n f.slot
  let k := s.core core
  if !s.hasPrism m.lid then s.gridErr core m 4 [] else
  match tfind k.grid.images n with
  | none => s.gridErr core m 3 [(32, 1, n)]
  | some im =>
    let waits := match k.grid.running with
      | some (_, old) => s.gridFrozen core old || !k.grid.firing.isEmpty || !(imgPorts k.grid.image 1).isEmpty || k.grid.faulted || k.grid.halting.isSome
      | none => false
    if waits then s else
    match k.ringIn m.lid (imgBanks im) with
    | some b => s.gridErr core m 8 [(32, 1, b)]
    | none =>
      match k.grid.running with
      | some (_, old) => ((s.modGrid core Grid.stop).complete core old).startConfig core m x n
      | none => s.startConfig core m x n

/-- The start of `GHALT` (R366); a second one waits until the first has stopped the grid. -/
def State.startGhalt (s : State) (core : Nat) (m : Cmd) : State :=
  if !s.hasPrism m.lid then s.gridErr core m 4 [] else
  if (s.core core).grid.halting.isSome then s else
  let s1 := (s.modCore core Core.gPrune).begin core .prism m
  match (s1.core core).grid.running with
  | none => s1.complete core m
  | some _ => (s1.modGrid core fun g => { g with halting := some m }).gridSettle core

/-! ## Operations (R360 to R364) -/

/-- The masks of a cluster, as the vector rules read them. -/
def Grid.masks (g : Grid) (e c : Nat) : EpSt :=
  { EpSt.start 0 with m := (natsFrom 1 7).map fun m => (m, (g.yr e c m).setWidth 256) }

/-- A bundle operand (R361): a register, an input's word, a constant in every lane, zero. -/
def Grid.opd (g : Grid) (im : List Byte) (e c w v : Nat) : Row :=
  if v < 16 then (g.xr e c v).setWidth 2048
  else if v ≤ 20 then (g.headWord e (v - 16) c).setWidth 2048
  else if 1552 ≤ v ∧ v ≤ 1567 then ((bcast w (imgK im (v - 1552))).setWidth 128).setWidth 2048
  else 0

/-- What an operation comes to: done; it waits; a fault with its cause and address; an uncorrectable error; wrong parity of an x register. -/
inductive GEnd where
  | done (s : State)
  | wait
  | fault (cause addr : Nat)
  | poison
  | parity (num : Nat)

/-- The x registers an operation reads (R360, R363). -/
def gRegs (op : GOp) : List Nat :=
  let mem := fun (q : GMem) => if q.ia then [q.xa] else []
  match op with
  | .vec opc f => let v := vopOf opc f; ((if v.a then [f.va.toNat] else []) ++ (if v.b then [f.vb.toNat] else []) ++ (if v.d then [f.vd.toNat] else [])).filter (decide <| · < 16)
  | .bkrd q _ => mem q
  | .bkwr q _ => q.x :: mem q
  | .owr q _ _ _ _ => q.x :: mem q
  | .ard q _ => mem q
  | _ => []
/-- The first of them whose parity is wrong (R402). -/
def State.gridParity (s : State) (core e c : Nat) (op : GOp) : Option Nat :=
  if s.poisonLoc.isEmpty then none else (gRegs op).find? fun r => s.poisonLoc.contains (.gridReg core e c r)
/-- Cluster c of element e writes an x register: its parity is right. -/
def State.gridX (s : State) (core e c r : Nat) (v : BitVec 128) : State := (s.clean (.gridReg core e c r)).modGrid core fun g => g.setX e c r v
/-- An access of a configuration to a bank it does not own breaks protection: it is frozen (R399, R445). -/
def State.freezeGrid (s : State) (core : Nat) (m : Cmd) (addr acc : Nat) : State :=
  if s.gridFrozen core m then s else
  let rank := match s.ctx core m.slot with | some x => x.rank | none => 0xFFFF
  let r := s.mkRec 8 2 6 (gridMaster core m) (some addr) m.lid rank [(52, 1, acc)]
  ((s.addFrozen r.master).toDevice r).report core m.slot m.lid .ap r

/-- A vector operation of cluster c: its result row, if any, and its masks (R360). -/
def State.gridVec (s : State) (core : Nat) (m : Cmd) (e c opc : Nat) (f : EV) : State × Option (BitVec 128) :=
  let k := s.core core
  let g := k.grid
  let im := g.image
  let op := vopOf opc f
  let res := op.run
    { bits := 128, f := f, rm := if f.rm = 5 then g.rm else f.rm.toNat,
      a := if op.a then g.opd im e c (tyWidth f.t.toNat) f.va.toNat else 0, b := if op.b then g.opd im e c op.wb f.vb.toNat else 0,
      d := if op.d && decide (f.vd.toNat < 16) then (g.xr e c f.vd.toNat).setWidth 2048 else 0, r := 0, be := none, x := g.masks e c }
  let s1 := s.modGrid core fun g =>
    res.m.foldl (fun g p => g.setY e c p.1 (p.2.setWidth 16)) g
  let s2 := match res.d with
    | some r => if op.d && decide (f.vd.toNat < 16) then s1.gridX core e c f.vd.toNat (r.setWidth 128) else s1
    | none => s1
  (s2.engFlags core m (res.fl.foldl (fun f p => f ||| p.2) (0 : Flags)) (4 * e + c), res.d.map fun r => r.setWidth 128)

/-- idx of R363. -/
def Grid.idx (g : Grid) (e c : Nat) (m : GMem) : Nat := if m.ia then (g.xr e c m.xa).toNat % 2 ^ 32 else 0
/-- An element-only operation holds (R360). -/
def Grid.holds (g : Grid) (e c : Nat) (gd : Guard) : Bool := (g.yr e c gd.idx.toNat).getLsbD 0 != gd.neg

/-- Writes 16 logical bytes from byte u of a slot's fill layout (R363). -/
def Slot.putUnit (sl : Slot) (c n w perRow u : Nat) (v : BitVec 128) : Slot :=
  let lo := 8 * u
  let els := natsFrom (lo / w) ((lo + 127) / w - lo / w + 1)
  { sl with rows := els.foldl (fun t e =>
      let i := e / perRow
      let r := match tfind t i with | some r => r | none => sl.row c n i
      let b := Nat.max (e * w) lo
      let l := Nat.min (e * w + w) (lo + 128) - b
      tset t i (elemPut r w (e % perRow) (setFld (elemAt r w (e % perRow)) (b - e * w) l (fld v.toNat (b - lo) l)))) sl.rows }

/-- Signals of `TOKS` whose rows are written are given (R364). -/
def State.flushOwed (s : State) (core : Nat) : State :=
  let g := (s.core core).grid
  (g.owed.filter fun o => o.rows == 0).foldl (fun s o => s.signal core o.cmd.slot o.cmd.lid .ap (coreMaster mtPrism core o.cmd.slot 0) o.tok)
    (s.modGrid core fun g => { g with owed := g.owed.filter fun o => o.rows != 0 })

/-- An element-only operation of cluster c of element e (R363, R364). -/
def State.gridOp (s : State) (core : Nat) (m : Cmd) (e c : Nat) (op : GOp) : GEnd :=
  let k := s.core core
  let g := k.grid
  let bankAt := fun (q : GMem) (bank : Nat) =>
    let a := 16 * (q.off + g.idx e c q)
    if 0x2FFF0 < a then Except.error a else .ok (match k.bankOf m.lid bank with | some p => 768 * p + a / 256 | none => 0, a % 256)
  match op with
  | .bkrd q bank =>
    if !g.holds e c q.g then .done s else
    (match bankAt q bank with
    | .error a => .fault 5 a
    | .ok (key, y) =>
      if !bitN (imgBanks g.image) bank then .done (s.freezeGrid core m (16 * (q.off + g.idx e c q)) 0)
      else if [y / 8, y / 8 + 1].any fun w => s.poisonLoc.contains (.bank core (key / 768) (key % 768) w) then .poison
      else .done (s.gridX core e c q.x (BitVec.ofNat 128 (fld (k.row core key).toNat (8 * y) 128))))
  | .bkwr q bank =>
    if !g.holds e c q.g then .done s else
    (match bankAt q bank with
    | .error a => .fault 5 a
    | .ok (key, y) =>
      if !bitN (imgBanks g.image) bank then .done (s.freezeGrid core m (16 * (q.off + g.idx e c q)) 1)
      else .done ((s.modCore core fun k => k.setRow key (rowPut (k.row core key) y (leBytes 16 (g.xr e c q.x).toNat))).rowFresh core key (natsFrom y 16)))
  | .owr q slot fmt z kfm1 =>
    if !g.holds e c q.g then .done s else
    let u := 16 * (q.off + g.idx e c q)
    let w := tyWidth fmt
    let per := 48 * (kfm1 + 1)
    (match k.slotOf m.lid slot with
    | none => .fault 6 u
    | some p =>
      if (k.slot p).owner != some m.slot || decide (64 * per * w / 8 < u + 16) then .fault 6 u
      else .done (s.modSlot core p fun sl => { sl.putUnit core p w per u (g.xr e c q.x) with lfmt := some fmt, lz := z, kf := kfm1 + 1 }))
  | .ard q unit =>
    if !g.holds e c q.g then .done s else
    let r := q.off + g.idx e c q
    (match (if r < 1536 then k.vKey m.lid r else none) with
    | none => .fault 7 r
    | some key =>
      if s.poisonLoc.contains (.acc core key) then .poison
      else
        let v := s.vecRow core key
        .done (v.1.gridX core e c q.x (BitVec.ofNat 128 (fld v.2.toNat (128 * unit) 128))))
  | .toks gd take t =>
    if !g.holds e c gd then .done s
    else if take then
      (match (s.ctx core m.slot).filter fun x => x.lid == m.lid with
      | some x =>
        let y := x.settle
        if 1 ≤ y.token t then .done (s.setCtx core m.slot (y.take ⟨some t, none, none⟩)) else .wait
      | none => .wait)
    else
      let rows := match gPort e with | some p => (tget g.outRow [] p).length | none => 0
      .done ((s.modGrid core fun g => { g with owed := g.owed ++ [{ port := (gPort e).getD 0, rows := rows, cmd := m, tok := t }] }).flushOwed core)
  | _ => .done s

/-! ## Firings (R355 to R359) -/

/-- An element can start a firing; its edge input is staged meanwhile, and the flag says that a staged row held an uncorrectable error (R355). -/
def State.gridReady (s : State) (core : Nat) (m : Cmd) (e : Nat) : Option (State × Bool) :=
  let k := s.core core
  let im := k.grid.image
  let din := imgDin im e
  let four := fun (p : Nat → Bool) => (natsFrom 0 4).all p
  if imgNB im e = 0 ∨ (tfind k.grid.firing e).isSome then none
  else if !((natsFrom 0 4).all fun d => !bitN din d || four fun c => k.grid.link (lkKey e d c) != []) then none
  else if !((natsFrom 0 5).all fun d => !bitN (imgDout im e) d || four fun c => k.outRoom m.id e d c) then none
  else if !bitN din 4 then some (s, false)
  else match gPort e with
    | some p => (natsFrom 0 4).foldl (fun (o : Option (State × Bool)) c => o.bind fun q => (q.1.gridStage core m.id p c).map fun z => (z.1, q.2 || z.2)) (some (s, false))
    | none => none

/-- A firing ends: its items go out, and one item leaves each declared input (R355, R356). -/
def State.endFiring (s : State) (core : Nat) (m : Cmd) (e : Nat) (fr : Firing) : State :=
  let im := (s.core core).grid.image
  let s1 := s.modGrid core fun g =>
    let g1 := (natsFrom 0 5).foldl (fun g d =>
      if bitN (imgDout im e) d && (natsFrom 0 4).any fun c => (tfind fr.outs (4 * d + c)).isSome then
        (natsFrom 0 4).foldl (fun g c => g.push e d c (tget fr.outs 0 (4 * d + c))) g
      else g) g
    let g2 := (natsFrom 0 5).foldl (fun g d => if bitN (imgDin im e) d then (natsFrom 0 4).foldl (fun g c => g.dropWord e d c) g else g) g1
    { g2 with firing := tdel g2.firing e }
  match gPort e with
  | some p => s1.modGrid core fun g => g.finishRow m.id p
  | none => s1

/-- The record's DETAIL of a fault at element e, bundle b, cluster c (R444). -/
def gDet (e b c addr : Nat) : List (Nat × Nat × Nat) := [(33, 1, e), (34, 1, b), (35, 1, c), (36, 4, addr)]

/-- The operation of cluster c in joined execution; a vector result that names an output is kept for the item. -/
def State.gridJoined (s : State) (core : Nat) (m : Cmd) (e c : Nat) (op : GOp) : GEnd :=
  match s.gridParity core e c op with
  | some r => .parity r
  | none =>
  match op with
  | .vec opc f =>
    let q := s.gridVec core m e c opc f
    .done (match gWrites op, q.2 with
      | some d, some v => q.1.modGrid core fun g => { g with firing := match tfind g.firing e with
          | some fr => tset g.firing e { fr with outs := tset fr.outs (4 * d + c) v }
          | none => g.firing }
      | _, _ => q.1)
  | _ => s.gridOp core m e c op

/-- The operation of cluster c in its split sequence: it pops the words it reads and pushes the word it writes, or waits (R359). -/
def State.gridSplit (s : State) (core : Nat) (m : Cmd) (e c : Nat) (op : GOp) : GEnd :=
  match s.gridParity core e c op with
  | some r => .parity r
  | none =>
  match op with
  | .vec opc f =>
    let im := (s.core core).grid.image
    let ins := gReads op
    if !((ins.filter (· != 4)).all fun d => (s.core core).grid.link (lkKey e d c) != []) || !(gWrites op).all (fun d => (s.core core).outRoom m.id e d c) then .wait else
    let st := if ins.contains 4 then (match gPort e with | some p => if imgDir im p = 1 then s.gridStage core m.id p c else none | none => none) else some (s, false)
    (match st with
    | none => .wait
    | some (_, true) => .poison
    | some (s1, false) =>
      let q := s1.gridVec core m e c opc f
      .done (q.1.modGrid core fun g =>
        let g1 := ins.foldl (fun g d => g.dropWord e d c) g
        match gWrites op, q.2 with
        | some d, some v => (let g2 := g1.push e d c v; match d, gPort e with | 4, some p => g2.finishRow m.id p | _, _ => g2)
        | _, _ => g1))
  | _ => s.gridOp core m e c op

/-- Changes the firing of element e. -/
def State.modFiring (s : State) (core e : Nat) (f : Firing → Firing) : State :=
  s.modGrid core fun g => { g with firing := match tfind g.firing e with | some fr => tset g.firing e (f fr) | none => g.firing }

/-- The outcome of the clusters of a bundle so far: the state, and the first fault. -/
abbrev GRun := State × Option (Nat × GEnd)

/-- Adds the outcome of cluster c. -/
def gridStep (c : Nat) (mark : State → State) (r : GRun) (x : GEnd) : GRun :=
  match x with
  | .done s => (mark s, r.2)
  | .wait => r
  | z => (r.1, match r.2 with | some q => some q | none => some (c, z))

/-- Wrong parity of x register r stops the firing and the configuration, and the context of its `GRUN` takes a synchronous trap: its AP, or its EP once the AP has exited; TVAL's kind of register is a free value (R402, R404; log 79). -/
def State.gridTrap (s : State) (core : Nat) (m : Cmd) (e r : Nat) : State :=
  let v := BitVec.ofNat 64 (256 * ((Config.freeWord s.fresh).toNat % 256) + r)
  let s1 := (s.modGrid core fun g => { g with firing := tdel g.firing e, faulted := true }).drawn
  let s2 := if (s.core core).grid.faulted then s1 else s1.drop core m
  match s2.ctxOf core m with
  | none => s2
  | some x =>
    if x.trapEnded then s2
    else if !x.ap.exited then s2.takeTrap core m.slot .ap 0x0D 0 v x.ap.pc
    else if !x.ep.exited then s2.takeTrap core m.slot .ep 0x0D 0 v x.ep.pc
    else s2.toLaunch m.lid { s2.ctxRec core m.slot x 1 3 0x0D mtPrism 0 none [] with retired := true }
/-- The first fault of a bundle halts the configuration. -/
def State.gridFault (s : State) (core : Nat) (m : Cmd) (e : Nat) (b : Nat) : Option (Nat × GEnd) → Option State
  | some (c, .fault cause addr) => some (s.gridHalt core m e 5 cause (gDet e b c addr))
  | some (c, .poison) => some (s.gridHalt core m e 11 4 (gDet e b c 0))
  | some (_, .parity r) => some (s.gridTrap core m e r)
  | _ => none

/-- One bundle of a firing, or one operation of each cluster of a split (R357, R359). -/
def State.gridBundle (s : State) (core : Nat) (m : Cmd) (e : Nat) (fr : Firing) : State :=
  let im := (s.core core).grid.image
  match fr.split with
  | some seqs =>
    let r : GRun := (natsFrom 0 4).foldl (fun r c => match seqs.getD c none with
      | none => r
      | some b =>
        let op := gOp im e b c
        if op.isJoin then (r.1.modFiring core e fun fr => { fr with split := fr.split.map fun l => l.set c none }, r.2)
        else gridStep c (fun s => s.modFiring core e fun fr => { fr with split := fr.split.map fun l => l.set c (some (b + 1)) }) r (r.1.gridSplit core m e c op)) (s, none)
    (r.1.gridFault core m e (match r.2 with | some (c, _) => (seqs.getD c none).getD 0 | none => 0) r.2).getD r.1
  | none =>
    if (gOp im e fr.bundle 0).isSplit then
      s.modFiring core e fun fr => { fr with left := [], split := some ((natsFrom 0 4).map fun c => gStart im e c) }
    else
      let r : GRun := fr.left.foldl (fun r c =>
        gridStep c (fun s => s.modFiring core e fun fr => { fr with left := fr.left.filter (· != c) }) r (r.1.gridJoined core m e c (gOp im e fr.bundle c))) (s, none)
      match r.1.gridFault core m e fr.bundle r.2 with
      | some s1 => s1
      | none =>
        match tfind (r.1.core core).grid.firing e with
        | none => r.1
        | some f1 =>
          if !f1.left.isEmpty then r.1
          else if imgNB im e ≤ f1.bundle + 1 then r.1.endFiring core m e f1
          else r.1.modFiring core e fun fr => { fr with bundle := fr.bundle + 1, left := natsFrom 0 4 }

/-- `GRID_FIRING` (R355): element `elem` goes on with its firing, or starts one and runs its first bundle. -/
def execGridFiring (core elem : Nat) (s : State) : Out :=
  .next (let s := s.modCore core Core.gPrune
  let g := (s.core core).grid
  match g.running with
  | none => s
  | some (_, m) =>
    match tfind g.firing elem with
    | some fr => (s.gridBundle core m elem fr).gridSettle core
    | none =>
      if g.faulted || g.halting.isSome || g.ending.isSome then s.gridSettle core else
      if s.gridFrozen core m then s else
      match s.gridReady core m elem with
      | none => s
      | some (s1, true) => (s1.gridHalt core m elem 11 4 (gDet elem 0 0 0)).gridSettle core
      | some (s1, false) =>
        let fr : Firing := { bundle := 0, left := natsFrom 0 4, split := none, outs := [] }
        ((s1.modGrid core fun g => { g with firing := tset g.firing elem fr }).gridBundle core m elem fr).gridSettle core)

/-- `SPLIT_JOIN_RESUME` (R359): all four clusters are at their `JOIN`; execution goes on at bundle NEXT, or the firing ends. -/
def execSplitJoinResume (core elem : Nat) (s : State) : Out :=
  .next (let g := (s.core core).grid
  match g.running, tfind g.firing elem with
  | some (_, m), some fr =>
    if (match fr.split with | some l => l.all Option.isNone | none => false) then
      let nx := gResume g.image elem
      let fr1 := { fr with bundle := nx, left := natsFrom 0 4, split := none }
      (if imgNB g.image elem ≤ nx then s.endFiring core m elem fr1 else s.modFiring core elem fun _ => fr1).gridSettle core
    else s
  | _, _ => s)

/-! ## Output rows and the end of input (R350, R367) -/

/-- A finished row or marker of a port goes to its stream's tail; none while it must wait. -/
def State.gridWrite (s : State) (core p run : Nat) (r : KRow) : Option State :=
  let k := s.core core
  match (k.fpStream p run).filter fun q => !gridInput q.2 with
  | none => some s
  | some (i, st) =>
    match st.near with
    | .fp _ => if k.canFill st && !st.saved && st.seos.isNone then some (s.fillRow core i st r.kind r.row) else none
    | .ep _ =>
      if st.eosw || st.flt then some s
      else if s.mayFetch core i st && k.canFill st && s.forkRoom core i st (r.kind != 0) then some (s.rowIn core i r.kind r.row) else none

/-- `FABRIC_PORT_ROW_WRITE` (R350). -/
def execFabricPortRowWrite (core port : Nat) (s : State) : Out :=
  .next (match tget (s.core core).grid.outRow [] port with
  | [] => s
  | (run, r) :: rest =>
    match s.gridWrite core port run r with
    | none => s
    | some s1 =>
      ((s1.modGrid core fun g =>
        { g with outRow := if rest.isEmpty then tdel g.outRow port else tset g.outRow port rest
                 owed := g.owed.map fun o => if o.port = port ∧ 0 < o.rows then { o with rows := o.rows - 1 } else o }).flushOwed core).gridSettle core)

/-- The status of the marker at the head of every declared input port, once they all hold one. -/
def Core.inputEnds (k : Core) (c run : Nat) (im : List Byte) : Option (List Nat) :=
  (imgPorts im 1).mapM fun p => match (k.fpStream p run).filter fun q => gridInput q.2 with
    | some (_, st) => (match k.fpHead c st with | .eos _ v => some v | _ => none)
    | none => none

/-- `END_OF_INPUT` (R367), once every finished row is written (log 14): partial rows are completed with zero items, the markers follow, and the configuration stops once they are written. -/
def execEndOfInput (core : Nat) (s : State) : Out :=
  .next (let s := s.modCore core Core.gPrune
  let k := s.core core
  let g := k.grid
  match g.running with
  | none => s
  | some (_, m) =>
    let im := g.image
    if g.ending.isSome then s.gridSettle core else
    if s.gridFrozen core m || g.faulted || g.halting.isSome || !g.firing.isEmpty || (imgPorts im 1).isEmpty || (g.outRow.any fun q => q.2.any fun r => r.1 == m.id)
        || (natsFrom 0 16).any (fun e => (s.gridReady core m e).isSome) then s else
    match k.inputEnds core m.id im with
    | none => s
    | some l =>
      let status := (l.find? (· != 0)).getD 0
      (s.modCore core fun k =>
        let g1 := (imgPorts im 2).foldl (fun g p =>
          let ws := (natsFrom 0 4).map fun c => g.staged (64 + 4 * p + c)
          if ws.all List.isEmpty then g
          else { g with outRow := tset g.outRow p (tget g.outRow [] p ++ [(m.id, { kind := 0, row := rowOfWords ws })])
                        stage := (natsFrom 0 4).foldl (fun t c => tdel t (64 + 4 * p + c)) g.stage }) k.grid
        ({ k with grid := { g1 with ending := some status } }).markPorts m.id status).gridSettle core)

end Sys2Proof.Machine
end

