-- ==== Sys2Proof/Machine/Proofer.lean ====
section
/-! DEFINITION. The solver sequencer: the tableau and the frame (R371, R372), sample records (R373), its arithmetic (R374 to R376), and the five records (R377 to R383, R446). -/
namespace Sys2Proof.Machine
open Sys2Proof

/-! ## F32 arithmetic with flags (R374) -/

/-- An F32 code with the flags met on the way. -/
abbrev FV := Nat × Flags
/-- A code without flags. -/
def fvOf (c : Nat) : FV := (c, 0)
def fvAdd (a b : FV) : FV := let r := addCode 0 0 false a.1 b.1; (r.1, a.2 ||| b.2 ||| r.2)
def fvSub (a b : FV) : FV := let r := subCode 0 0 false a.1 b.1; (r.1, a.2 ||| b.2 ||| r.2)
def fvMul (a b : FV) : FV := let r := mulCode 0 0 false a.1 b.1; (r.1, a.2 ||| b.2 ||| r.2)
/-- The quotient, exact but for a sticky bit far below the type's precision; 0 / 0 and infinity / infinity are invalid. -/
def Num.div : Num → Num → Num × Flags
  | .nan, _ => (.nan, 0)
  | _, .nan => (.nan, 0)
  | .inf _, .inf _ => (.nan, fNV)
  | .inf a, .fin b _ _ => (.inf (a != b), 0)
  | .fin a _ _, .inf b => (.fin (a != b) 0 0, 0)
  | .fin a m e, .fin b n f =>
    if n = 0 then (if m = 0 then (.nan, fNV) else (.inf (a != b), fDZ)) else
    let k := bitLen n + 80
    (.fin (a != b) (2 * (m * 2 ^ k / n) + (if m * 2 ^ k % n = 0 then 0 else 1)) (e - f - k - 1), 0)
/-- A quotient of an F32 code by an exact value, rounded once. -/
def fvDivN (a : FV) (n : Num) : FV :=
  let q := Num.div ((fmtF 0).num a.1) n
  let r := (fmtF 0).round 0 false q.1
  (r.1, a.2 ||| q.2 ||| r.2)
def fvDiv (a b : FV) : FV := let r := fvDivN a ((fmtF 0).num b.1); (r.1, r.2 ||| b.2)
/-- A special function, correctly rounded (R98): 0 exp2, 1 log2, 4 sqrt. -/
def fvSf (fn : Nat) (a : FV) : FV := let r := sfCode fn 0 0 false a.1; (r.1, a.2 ||| r.2)
def fvNeg (a : FV) : FV := (negCode 0 a.1, a.2)
def fvMin (a b : FV) : FV := (minCode 0 a.1 b.1, a.2 ||| b.2)
def fvMax (a b : FV) : FV := (maxCode 0 a.1 b.1, a.2 ||| b.2)
/-- The exact value of a code. -/
def fvNum (a : FV) : Num := (fmtF 0).num a.1
/-- |x|. -/
def fvAbs (a : Nat) : FV := ((absCode 0 false a).1, 0)

/-- `Comb` of R374 on one element: coefficients with the stage values they weigh. -/
def comb (x : Nat) (l : List (Nat × Nat)) (h : Nat) : FV :=
  if l.all fun p => p.1 == 0 then fvOf x else
  let sum := l.foldl (fun s p => if p.1 = 0 then s else fvAdd s (fvMul (fvOf p.1) (fvOf p.2))) (fvOf 0)
  fvAdd (fvOf x) (fvMul (fvOf h) sum)

/-! ## The tableau (R371) -/

def tS (t : BitVec 1536) : Nat := bytesAt t 4 1
def tQ (t : BitVec 1536) : Nat := bytesAt t 5 1
def tC (t : BitVec 1536) (j : Nat) : Nat := bytesAt t (8 + 4 * j) 4
def tA (t : BitVec 1536) (j i : Nat) : Nat := bytesAt t (32 + 4 * (j * (j - 1) / 2 + i)) 4
def tB (t : BitVec 1536) (i : Nat) : Nat := bytesAt t (92 + 4 * i) 4
def tBH (t : BitVec 1536) (i : Nat) : Nat := bytesAt t (116 + 4 * i) 4
def tSafety (t : BitVec 1536) : Nat := bytesAt t 140 4
def tFmin (t : BitVec 1536) : Nat := bytesAt t 144 4
def tFmax (t : BitVec 1536) : Nat := bytesAt t 148 4
def tHmin (t : BitVec 1536) : Nat := bytesAt t 152 4
def tAtol (t : BitVec 1536) : Nat := bytesAt t 156 4
def tRtol (t : BitVec 1536) : Nat := bytesAt t 160 4

/-- The code is a finite value. -/
def f32Fin (c : Nat) : Bool := match (fmtF 0).num c with | .fin _ _ _ => true | _ => false
/-- a < b on codes. -/
def f32Lt (a b : Nat) : Bool := ((fmtF 0).num a).lt ((fmtF 0).num b)
/-- A value is zero, of either sign. -/
def f32Zero (c : Nat) : Bool := ((fmtF 0).num c).isZero

/-- A valid tableau: its header and zero fields, every value finite and within its bounds, no coefficient that names a stage at or above S. -/
def tabOk (t : BitVec 1536) : Bool :=
  let s := tS t
  bytesAt t 0 4 == 0xB2E05A17 && decide (1 ≤ s ∧ s ≤ 6) && decide (1 ≤ tQ t ∧ tQ t ≤ 7) && bytesAt t 6 2 == 0 && bytesAt t 164 28 == 0
    && (natsFrom 2 39).all (fun i => f32Fin (bytesAt t (4 * i) 4))
    && f32Lt 0 (tSafety t) && f32Lt 0 (tFmin t) && !f32Lt (tFmax t) (tFmin t) && !f32Lt (tHmin t) 0 && !f32Lt (tAtol t) 0 && !f32Lt (tRtol t) 0
    && !(f32Zero (tAtol t) && f32Zero (tRtol t))
    && (natsFrom s (6 - s)).all (fun j => f32Zero (tC t j) && f32Zero (tB t j) && f32Zero (tBH t j) && (natsFrom 0 j).all fun i => f32Zero (tA t j i))

/-! ## The frame and the records (R372, R373) -/

def fNR (f : Word) : Nat := fld f.toNat 40 8 + 1
def fNS (f : Word) : Nat := fld f.toNat 32 8 + 1
def fDrow (f : Word) : Nat := fld f.toNat 16 15
def fTrow (f : Word) : Nat := fld f.toNat 0 15
/-- Rows of the sample vectors. -/
def vecRows (f : Word) (s : Nat) : Nat := fNS f * (s + 2) * fNR f
/-- A valid frame: reserved bits zero, every row within the allotment, the table apart from the vectors. -/
def Core.frameOk (k : Core) (lid : BitVec 32) (f : Word) (s : Nat) : Bool :=
  let tr := ceilDiv (fNS f) 8
  let inside := fun (row n : Nat) => (natsFrom (row / 768) ((row + n - 1) / 768 - row / 768 + 1)).all fun b => (k.bankOf lid b).isSome
  fld f.toNat 48 16 == 0 && !bitN f.toNat 31 && !bitN f.toNat 15 && inside (fTrow f) tr && inside (fDrow f) (vecRows f s)
    && (decide (fTrow f + tr ≤ fDrow f) || decide (fDrow f + vecRows f s ≤ fTrow f))

/-- The local offset of row r of vector v of sample n. -/
def vecOff (f : Word) (s n v r : Nat) : Nat := 256 * (fDrow f + (n * (s + 2) + v) * fNR f + r)
/-- The local offset of sample n's record. -/
def sampOff (f : Word) (n : Nat) : Nat := 256 * fTrow f + 32 * n

def rT (l : List Byte) : Nat := leAt l 0 4
def rH (l : List Byte) : Nat := leAt l 4 4
def rTend (l : List Byte) : Nat := leAt l 8 4
def rAcc (l : List Byte) : Nat := leAt l 16 4
def rNacc (l : List Byte) : Nat := leAt l 20 4
def rNrej (l : List Byte) : Nat := leAt l 24 2
def rStg (l : List Byte) : Nat := leAt l 26 1
def rSt (l : List Byte) : Nat := leAt l 27 1
def rFl (l : List Byte) : Nat := leAt l 28 1
def rClip (l : List Byte) : Bool := bitN (rFl l) 0
def rXsel (l : List Byte) : Nat := fld (rFl l) 1 1
def rEv (l : List Byte) : Bool := bitN (rFl l) 2
/-- Sets n bytes of a record from byte b. -/
def rPut (l : List Byte) (b n v : Nat) : List Byte := l.take b ++ leBytes n v ++ l.drop (b + n)
/-- FL from its three bits. -/
def flOf (clip : Bool) (xsel : Nat) (ev : Bool) : Nat := b2n clip + 2 * (xsel % 2) + 4 * b2n ev

/-! ## Scratchpad accesses -/

/-- Why an access of the Proofer fails: an offset outside the allotment or in an owned bank (cause 5), or an uncorrectable error (R453). -/
inductive PBad where
  | off (o : Nat)
  | poison
  deriving DecidableEq, Repr

/-- n bytes at a local offset within one row. -/
def State.prfRead (s : State) (c : Nat) (lid : BitVec 32) (off n : Nat) : Except PBad (List Byte) :=
  match (s.core c).locBytes c lid off n with
  | none => .error (.off off)
  | some l => if s.locPoison c lid (natsFrom off n) then .error .poison else .ok l
/-- The 64 F32 elements of a row. -/
def rowElts (l : List Byte) : List Nat := (natsFrom 0 64).map fun i => leAt l (4 * i) 4
/-- Writes bytes at a local offset; its offset when it cannot. -/
def State.prfWrite (s : State) (c : Nat) (lid : BitVec 32) (off : Nat) (l : List Byte) : Except PBad State :=
  if (s.core c).locOk lid off l.length then
    .ok (s.putLoc c lid (cellsAt off l))
  else .error (.off off)

/-! ## Issue (R377) -/

/-- `SQCFG` (R379). -/
def execSqcfg (f : SqcfgF) (s : State) : Out :=
  .next (epCmd f.g 2 f.tk .proofer (.sqcfg f) (fun _ x s => (s, [x.ep.e' f.ea.toNat, x.ep.e' f.eb.toNat], [])) s)
/-- `SQCOMB.STAGE` (R381). -/
def execSqcombStage (f : SqcombF) (s : State) : Out := .next (epCmd f.g 2 f.tk .proofer (.sqcombStage f) capNone s)
/-- `SQCOMB.TAKE` (R381). -/
def execSqcombTake (f : SqcombF) (s : State) : Out := .next (epCmd f.g 2 f.tk .proofer (.sqcombTake f) capNone s)
/-- `SQERR` (R382). -/
def execSqerr (f : SqerrF) (s : State) : Out :=
  .next (epCmd f.g 2 f.tk .proofer (.sqerr f) (match f.ea with | some e => capE e | none => capNone) s)
/-- `SQDEC` (R383). -/
def execSqdec (f : SqdecF) (s : State) : Out := .next (epCmd f.g 2 f.tk .proofer (.sqdec f) (capE f.ea) s)
/-- `SQNEXT` (R380). -/
def execSqnext (f : SqnextF) (s : State) : Out := .next (epCmd f.g 2 f.tk .proofer (.sqnext f) (capE f.ea) s)

/-! ## The start of a record (R378, R379, R446) -/

/-- A record of a launch whose PRF is clear, or before the first valid `SQCFG`, is an error. -/
def State.prfMay (s : State) (c : Nat) (m : Cmd) : Bool :=
  (match s.launch m.lid with | some l => l.prf | none => false)
    && (match m.instr with | .sqcfg _ => true | _ => (s.core c).prf.tab.isSome)

/-- The local offset of a list or a partial table that a record names (R446 cause 5). -/
def prfBase (m : Cmd) : Option Nat :=
  let v := (m.vals.getD 0 0).toNat
  match m.instr with
  | .sqnext _ => some v
  | .sqerr f => if f.ea.isSome then some v else none
  | .sqdec f => if f.gm1 = 0 then none else some v
  | _ => none

/-- The head of the Proofer queue starts once the record before it has completed (R378). -/
def State.startProofer (s : State) (c : Nat) (m : Cmd) : State :=
  let s := s.modCore c fun k => match k.prf.run with | some r => if k.isLive r.cmd.id then k else { k with prf := { k.prf with run := none } } | none => k
  if (s.core c).prf.run.isSome then s else
  let err := fun (s : State) (cause : Nat) (det : List (Nat × Nat × Nat)) => (s.begin c .proofer m).haltCmd c m 6 cause none det
  if !s.prfMay c m then err s 1 [] else
  match m.instr with
  | .sqcfg _ =>
    let a := (m.vals.getD 0 0).toNat
    if a % 64 ≠ 0 then err s 2 [(32, 1, 3)] else
    (match s.engRead c m false .read a 192 with
    | (s1, .wait) => s1
    | (s1, .ok l) =>
      let t := BitVec.ofNat 1536 (leNat l)
      let f := m.vals.getD 1 0
      if !tabOk t then err s1 2 [(32, 1, 1)]
      else if !(s1.core c).frameOk m.lid f (tS t) then err s1 2 [(32, 1, 2)]
      else ((s1.begin c .proofer m).modCore c fun k => { k with prf := { tab := some t, frame := f, list := [], run := none } }).complete c m
    | (s1, .fault _ _ _) => err s1 2 [(32, 1, 3)]
    | (s1, x) => (s1.begin c .proofer m).haltEng c m .read 6 5 [] x)
  | _ =>
    match (prfBase m).filter fun o => decide (o % 256 ≠ 0) with
    | some o => err s 5 [(32, 4, o)]
    | none => (s.begin c .proofer m).modCore c fun k => { k with prf := { k.prf with run := some { cmd := m, k := 0, r := 0, stalls := 0, nonfin := 0, first := none } } }

/-! ## Rows -/

/-- The record in progress ends. -/
def State.prfEnd (s : State) (c : Nat) : State := s.modCore c fun k => { k with prf := { k.prf with run := none } }
/-- It halts at an access. -/
def State.prfBad (s : State) (c : Nat) (m : Cmd) : PBad → State
  | .off o => s.prfEnd c |>.haltCmd c m 6 5 none [(32, 4, o)]
  | .poison => s.prfEnd c |>.haltCmd c m 11 4 none []
/-- Changes the record in progress. -/
def State.prfStep (s : State) (c : Nat) (f : PRun → PRun) : State := s.modCore c fun k => { k with prf := { k.prf with run := k.prf.run.map f } }
/-- Flags of a row: NV and OF alone (R375). -/
def State.prfFlags (s : State) (c : Nat) (m : Cmd) (fl : Flags) (n : Nat) : State := s.engFlags c m (fl &&& (fNV ||| fOF)) n

/-- The rows r of the stage vectors whose coefficients are not +0, in order, with a coefficient of each list. -/
def State.prfStages (s : State) (c : Nat) (lid : BitVec 32) (f : Word) (st n r : Nat) (used : Nat → Bool) (m : Nat) : Except PBad (Tbl (List Nat)) :=
  (natsFrom 0 m).foldl (fun o i => o.bind fun t =>
    if used i then (s.prfRead c lid (vecOff f st n (2 + i) r) 256).map fun l => tset t i (rowElts l) else .ok t) (.ok [])

/-- A row of F32 codes as bytes. -/
def eltBytes (l : List Nat) : List Byte := (l.map (leBytes 4)).flatten

/-- `SQCOMB.STAGE` (R381): one row is pushed, or the port is full. -/
def State.prfStage (s : State) (c : Nat) (m : Cmd) (port : Nat) (t : BitVec 1536) (f : Word) (n j r : Nat) : State :=
  match (s.ctx c m.slot).filter fun x => x.lid == m.lid with
  | none => s
  | some x =>
    if (s.portStream c x (8 + port)).isNone then (s.prfEnd c).haltCmd c m 6 3 none [(32, 1, port)] else
    if s.outPort c m.slot x (8 + port) != .go then s else
    let w := fun i => tA t j i
    let st := tS t
    match s.prfRead c m.lid (sampOff f n) 32 with
    | .error b => s.prfBad c m b
    | .ok rec' =>
      match s.prfRead c m.lid (vecOff f st n (rXsel rec') r) 256, s.prfStages c m.lid f st n r (fun i => w i != 0) j with
      | .error b, _ => s.prfBad c m b
      | _, .error b => s.prfBad c m b
      | .ok xl, .ok ks =>
        let out := ((natsFrom 0 64).zip (rowElts xl)).map fun p => comb p.2 ((natsFrom 0 j).map fun i => (w i, (tget ks [] i).getD p.1 0)) (rH rec')
        let s1 := s.pushPort c m.slot (8 + port) 0 (bytesRow (eltBytes (out.map Prod.fst)))
        let s2 := s1.prfFlags c m (out.foldl (fun g p => g ||| p.2) 0) n
        s2.prfStep c fun q => if r + 1 < fNR f then { q with r := r + 1 } else { q with k := q.k + 1, r := 0 }

/-- `SQCOMB.TAKE` (R381, R410): one row is popped. -/
def State.prfTake (s : State) (c : Nat) (m : Cmd) (port : Nat) (t : BitVec 1536) (f : Word) (n j r : Nat) : State :=
  match (s.ctx c m.slot).filter fun x => x.lid == m.lid with
  | none => s
  | some x =>
    let halt := fun (cls cause : Nat) (det : List (Nat × Nat × Nat)) => (s.prfEnd c).haltCmd c m cls cause none det
    if (s.portStream c x port).isNone then halt 6 3 [(32, 1, port)] else
    match s.prfRead c m.lid (sampOff f n) 32 with
    | .error b => s.prfBad c m b
    | .ok rec' =>
      if r = 0 ∧ rStg rec' ≠ j then halt 6 4 [(32, 1, n), (33, 1, j)] else
      match s.inPort c m.slot x port with
      | .eos p v => halt 2 11 [(32, 1, p), (33, 1, v), (48, 1, opcByte m.instr)]
      | .go =>
        let off := vecOff f (tS t) n (2 + j) r
        if !(s.core c).locOk m.lid off 256 then s.prfBad c m (.off off) else
        let z := s.popPort c m.slot port false
        (match z.1.prfWrite c m.lid off (rowBytes z.2) with
        | .error b => s.prfBad c m b
        | .ok s1 =>
          if r + 1 < fNR f then s1.prfStep c fun q => { q with r := r + 1 }
          else match s1.prfWrite c m.lid (sampOff f n + 26) [BitVec.ofNat 8 (j + 1)] with
            | .error b => s1.prfBad c m b
            | .ok s2 => s2.prfStep c fun q => { q with k := q.k + 1, r := 0 })
      | _ => s

/-- The records of samples from n on, in order, up to one that passes a test. -/
def State.prfFind (s : State) (c : Nat) (lid : BitVec 32) (f : Word) (p : List Byte → Bool) : Nat → Nat → Except PBad (Option (Nat × List Byte))
  | _, 0 => .ok none
  | n, k + 1 =>
    match s.prfRead c lid (sampOff f n) 32 with
    | .error b => .error b
    | .ok l => if p l then .ok (some (n, l)) else s.prfFind c lid f p (n + 1) k

/-- One row of `SQERR` (R375, R382). -/
def State.prfErrRow (s : State) (c : Nat) (m : Cmd) (pt : Bool) (t : BitVec 1536) (f : Word) (n r : Nat) (l : List Byte) : State :=
  let st := tS t
  match s.prfRead c m.lid (vecOff f st n (rXsel l) r) 256, s.prfStages c m.lid f st n r (fun i => tB t i != 0 || tBH t i != 0) st with
  | .error b, _ => s.prfBad c m b
  | _, .error b => s.prfBad c m b
  | .ok xl, .ok ks =>
    let one := fun (p : Nat × Nat) =>
      let kv := fun i => (tget ks [] i).getD p.1 0
      let xh := comb p.2 ((natsFrom 0 st).map fun i => (tB t i, kv i)) (rH l)
      let xo := comb p.2 ((natsFrom 0 st).map fun i => (tBH t i, kv i)) (rH l)
      let d := fvSub xh xo
      let sc := fvAdd (fvOf (tAtol t)) (fvMul (fvOf (tRtol t)) (fvMax (fvAbs p.2) (fvAbs xh.1)))
      let q := fvDiv d sc
      (xh.1, fvMul q q)
    let res := ((natsFrom 0 64).zip (rowElts xl)).map one
    let sum := reduce 0 0 0 false (res.map fun p => some p.2.1)
    let acc := fvAdd (fvOf (rAcc l)) (fvOf sum.1)
    let fl := res.foldl (fun g p => g ||| p.2.2) (sum.2 ||| acc.2)
    let last := decide (fNR f ≤ r + 1)
    let ptab := (m.vals.getD 0 0).toNat + 4 * n
    match s.prfWrite c m.lid (vecOff f st n (1 - rXsel l) r) (eltBytes (res.map Prod.fst)) with
    | .error b => s.prfBad c m b
    | .ok s1 =>
      match s1.prfWrite c m.lid (sampOff f n) (let l1 := rPut l 16 4 acc.1; if last then rPut l1 28 1 (flOf (rClip l) (rXsel l) true) else l1) with
      | .error b => s1.prfBad c m b
      | .ok s2 =>
        let s3 := s2.prfFlags c m fl n
        if !last then s3.prfStep c fun q => { q with k := n, r := r + 1 }
        else match (if pt then s3.prfWrite c m.lid ptab (leBytes 4 acc.1) else .ok s3) with
          | .error b => s3.prfBad c m b
          | .ok s4 => s4.prfStep c fun q => { q with k := n + 1, r := 0 }

/-- The decision of R376 on a record, with its flags; its ordered comparisons set NV on a NaN (R81). -/
def decide376 (t : BitVec 1536) (nr g : Nat) (tot : FV) (l : List Byte) : List Byte × Flags :=
  let err := fvSf 4 (fvDivN tot (.fin false (64 * nr * g) 0))
  let l1 := rPut l 12 4 err.1
  if !f32Fin err.1 then (rPut (rPut (rPut (rPut l1 16 4 0) 26 1 0) 27 1 3) 28 1 (flOf (rClip l) (rXsel l) false), err.2) else
  let one : Num := .fin false 1 0
  let ok := !one.lt (fvNum err)
  let f :=
    if f32Zero err.1 then fvOf (tFmax t)
    else
      let e := fvDivN (fvNeg (fvSf 1 err)) (.fin false (tQ t + 1) 0)
      let f0 := fvMul (fvOf (tSafety t)) (fvSf 0 e)
      if ok then fvMin (fvMax f0 (fvOf (tFmin t))) (fvOf (tFmax t)) else fvMax f0 (fvOf (tFmin t))
  let tn := if rClip l then fvOf (rTend l) else fvAdd (fvOf (rT l)) (fvOf (rH l))
  let tnew := if ok then tn else fvOf (rT l)
  let tend : Num := (fmtF 0).num (rTend l)
  let done := ok && !(fvNum tnew).isNan && !tend.isNan && !(fvNum tnew).lt tend
  let hn := fvMul (fvOf (rH l)) f
  let stall := !done && (fvNum hn).lt ((fmtF 0).num (tHmin t))
  let left := (Num.add false tend (fvNum tnew).neg).1
  let clip := !done && !stall && !left.isNan && !(fvNum hn).isNan && !(fvNum hn).lt left
  let hnew := if clip then fvSub (fvOf (rTend l)) tnew else hn
  let xsel := if ok then 1 - rXsel l else rXsel l
  let fl := flOf (if done || stall then rClip l else clip) xsel false
  let nv := (ok && ((fvNum tnew).isNan || tend.isNan)) || (!done && ((fvNum hn).isNan || ((fmtF 0).num (tHmin t)).isNan)) || (!done && !stall && (left.isNan || (fvNum hn).isNan))
  let l2 := if ok then rPut (rPut l1 0 4 tnew.1) 20 4 (rNacc l + 1) else rPut l1 24 2 (Nat.min (rNrej l + 1) 0xFFFF)
  (rPut (rPut (rPut (rPut (rPut l2 4 4 hnew.1) 16 4 0) 26 1 0) 27 1 (if done then 1 else if stall then 2 else 0)) 28 1 fl,
    (if f32Zero err.1 then err.2 else f.2) ||| tnew.2 ||| hn.2 ||| hnew.2 ||| fIf nv fNV)

/-- The sum over gang ranks of a sample's partial sums (R375, R383). -/
def State.prfTotal (s : State) (c : Nat) (m : Cmd) (gm1 n : Nat) (l : List Byte) : Except PBad FV :=
  if gm1 = 0 then .ok (fvOf (rAcc l)) else
  let at' := fun g => (s.prfRead c m.lid ((m.vals.getD 0 0).toNat + 1024 * g + 4 * n) 4).map fun b => fvOf (leNat b)
  (natsFrom 1 gm1).foldl (fun o g => o.bind fun t => (at' g).map fun v => fvAdd t v) (at' 0)

/-- `SQDEC` decides one sample (R383). -/
def State.prfDecide (s : State) (c : Nat) (m : Cmd) (gm1 : Nat) (t : BitVec 1536) (f : Word) (n : Nat) (l : List Byte) : State :=
  match s.prfTotal c m gm1 n l with
  | .error b => s.prfBad c m b
  | .ok tot =>
    let d := decide376 t (fNR f) (gm1 + 1) tot l
    match s.prfWrite c m.lid (sampOff f n) d.1 with
    | .error b => s.prfBad c m b
    | .ok s1 =>
      let st := rSt d.1
      (s1.prfFlags c m d.2 n).prfStep c fun q =>
        { q with k := n + 1, stalls := q.stalls + b2n (st == 2), nonfin := q.nonfin + b2n (st == 3)
                 first := if q.first.isNone && (st == 2 || st == 3) then some n else q.first }

/-- `SQDEC` ends: one record when it stalled a sample or found it non-finite (R446 cause 6). -/
def State.prfDecEnd (s : State) (c : Nat) (r : PRun) : State :=
  let s1 := match r.first with
    | some n =>
      let rank := match s.ctx c r.cmd.slot with | some x => x.rank | none => 0xFFFF
      s.report c r.cmd.slot r.cmd.lid .ep (s.mkRec 6 1 6 (cmdMaster c r.cmd) none r.cmd.lid rank [(32, 1, n), (33, 1, r.stalls), (34, 1, r.nonfin)])
    | none => s
  (s1.prfEnd c).complete c r.cmd

/-- Writes rows of a list from a local offset on, each with the flags of its samples, up to the first it cannot write (R378). -/
def State.prfRows (s : State) (c : Nat) (m : Cmd) (off : Nat) : List (List Byte × List (Flags × Nat)) → State × Option PBad
  | [] => (s, none)
  | (l, fl) :: rest =>
    match s.prfWrite c m.lid off l with
    | .error b => (s, some b)
    | .ok s1 => (fl.foldl (fun s p => s.prfFlags c m p.1 p.2) s1).prfRows c m (off + 256) rest

/-- `SQNEXT` (R380): the list is written row by row, 8 bytes for the count and 8 for each entry, and becomes the current one. Its first row holds the count, so that a sample out of reach ends it before any row (log 80). -/
def State.prfNext (s : State) (c : Nat) (m : Cmd) (t : BitVec 1536) (f : Word) : State :=
  let st := tS t
  match (natsFrom 0 (fNS f)).mapM fun n => (s.prfRead c m.lid (sampOff f n) 32).map fun l => (n, l) with
  | .error b => s.prfBad c m b
  | .ok all =>
    let on := all.filter fun p => rSt p.2 == 0 && !rEv p.2 && decide (rStg p.2 < st)
    let ts := fun (l : List Byte) => fvAdd (fvOf (rT l)) (fvMul (fvOf (tC t (rStg l))) (fvOf (rH l)))
    let out := leBytes 8 on.length ++ (on.map fun p => leBytes 8 ((ts p.2).1 * 2 ^ 32 + rStg p.2 * 256 + p.1)).flatten
    let rows := (natsFrom 0 (ceilDiv out.length 256)).map fun k =>
      ((out.drop (256 * k)).take 256, (((natsFrom 1 on.length).zip on).filter fun p => decide (p.1 / 32 = k)).map fun p => ((ts p.2.2).2, p.2.1))
    match s.prfRows c m (m.vals.getD 0 0).toNat rows with
    | (s1, some b) => s1.prfBad c m b
    | (s2, none) =>
      ((s2.modCore c fun k => { k with prf := { k.prf with list := on.map fun p => (p.1, rStg p.2) } }).prfEnd c).complete c m

/-- `PROOFER_ROW` (R378): the record in progress handles its next row, sample or list, or ends. -/
def execProoferRow (core : Nat) (s : State) : Out :=
  .next (let p := (s.core core).prf
  match p.run, p.tab with
  | some r, some t =>
    let m := r.cmd
    let f := p.frame
    if !(s.core core).isLive m.id then s.prfEnd core else
    let comb := fun (run : Nat → Nat → State) => match p.list[r.k]? with
      | some (n, j) => run n j
      | none => (s.prfEnd core).complete core m
    (match m.instr with
    | .sqcombStage q => comb fun n j => s.prfStage core m q.port.toNat t f n j r.r
    | .sqcombTake q => comb fun n j => s.prfTake core m q.port.toNat t f n j r.r
    | .sqerr q =>
      (match s.prfFind core m.lid f (fun l => decide (0 < r.r) || (rSt l == 0 && !rEv l && decide (tS t ≤ rStg l))) r.k (fNS f - r.k) with
      | .error b => s.prfBad core m b
      | .ok none => (s.prfEnd core).complete core m
      | .ok (some (n, l)) => s.prfErrRow core m q.ea.isSome t f n r.r l)
    | .sqdec q =>
      (match s.prfFind core m.lid f (fun l => rSt l == 0 && rEv l) r.k (fNS f - r.k) with
      | .error b => s.prfBad core m b
      | .ok none => s.prfDecEnd core r
      | .ok (some (n, l)) => s.prfDecide core m q.gm1.toNat t f n l)
    | .sqnext _ => s.prfNext core m t f
    | _ => s)
  | _, _ => s)

end Sys2Proof.Machine
end

