-- ==== Sys2Proof/Machine/Heads.lean ====
section
/-! DEFINITION. What starts on its own in a core: queue heads (R32, R36), pending `TSIG`s and `ETSIG`s (R282, R318), notify markers and the end of a context (R37, R417), async traps (R396), and the timeout of `WAITA` (R71). -/
namespace Sys2Proof.Machine
open Sys2Proof

/-! ## Queue heads -/

/-- The head of a queue takes its wait set, once all of it is available, and starts (R32), as far as its own queue goes; an entry that holds an uncorrectable error halts (R394, R402). -/
def State.headUp (s : State) (core : Nat) (q : Qid) : State :=
  match (s.core core).queue q with
  | [] => s
  | m :: _ =>
    match s.ctxOf core m with
    | none => s
    | some x =>
      let ready := x.settle.canTake m.tk.waits
      if s.poisonLoc.contains (.queue core m.id) then
        ((s.clean (.queue core m.id)).modCore core fun k => k.setQueue q ((k.queue q).filter fun e => e.id != m.id)).haltCmd core m 11 4 none []
      else
      match m.instr with
      | .tstart _ => s.startTstart core m
      | .sopen f => if ready then s.startSopen core m x f else s
      | .sclose f => if ready then s.startSclose core m x f else s
      | .sfork f => if ready then s.startSfork core m x f else s
      | .smark f => if ready then s.startSmark core m x f else s
      | .srewind f => if ready then s.startSrewind core m x f else s
      | .ssave f => if ready then s.startSsave core m x f else s
      | .srest f => if ready then s.startSrest core m x f else s
      | .seos f => if ready then s.startSeos core m x f else s
      | .rot f => if ready then s.startRot core m x f else s
      | .cpy f => if ready then s.startCpy core m x f else s
      | .cpyNb f _ => if ready then s.startCpy core m x f else s
      | .cpdrain f => if ready then s.startCpdrain core m f else s
      | .gload f => if ready && !x.owes m.id 0xFFFF then s.startGload core m f else s
      | .grun f => if ready && !x.owes m.id 0xFFFF then s.startGrun core m x f else s
      | .ghalt _ => if ready && !x.owes m.id 0xFFFF then s.startGhalt core m else s
      | _ =>
        match q with
        | .matrix => s.startMatrix core m x
        | .proofer => if ready then s.startProofer core m else s
        | _ => s

/-- The queues in the order of R36. -/
def qOrder : List Qid := [.stream, .ch 0, .ch 1, .ch 2, .ch 3, .matrix, .prism, .proofer]
/-- A party of the same context that comes first in the order of R36 is ready to take tokens that the head of a queue needs. -/
def State.yields (s : State) (c : Nat) (q : Qid) (m : Cmd) : Bool :=
  match s.ctxOf c m with
  | none => false
  | some x =>
    !(waitToks m.tk.waits).isEmpty &&
    (([Proc.ap, Proc.ep].any fun p => match s.procWaits c m.slot p with | some ws => x.settle.clash m.tk.waits ws | none => false)
      || (qOrder.filter fun o => decide (qKey o < qKey q)).any fun o =>
        match (s.core c).queue o with
        | h :: _ => h.slot == m.slot && h.lid == m.lid && x.settle.clash m.tk.waits h.tk.waits &&
            (match (s.headUp c o).ctx c m.slot with | some y => y.tok != x.settle.tok | none => true)
        | [] => false)
/-- The head of a queue takes and starts unless a party before it takes first (R32, R36). -/
def State.startHead (s : State) (core : Nat) (q : Qid) : State :=
  match (s.core core).queue q with
  | [] => s
  | m :: _ => if s.yields core q m then s else s.headUp core q

/-! ## TSIG and ETSIG -/

/-- `TSIG_TAKE` (R282): pending `TSIG`s take in issue order, and those whose earlier accesses are performed signal. -/
def execTsigTake (core slot : Nat) (s : State) : Out :=
  .next (match (s.ctx core slot).filter fun x => x.frozen.isNone with
  | some x => (s.setCtx core slot x.settleAp).flushTsigs core slot
  | none => s)
/-- `ETSIG_TAKE` (R318): the same for the EP, after the AP's. -/
def execEtsigTake (core slot : Nat) (s : State) : Out :=
  .next (match (s.ctx core slot).filter fun x => x.frozen.isNone with
  | some x => (s.setCtx core slot x.settle).flushTsigs core slot
  | none => s)

/-! ## Notify markers and the end of a context (R37) -/

/-- The command is the `SOPEN` of a running stream of a context that a trap ended, which no row that still goes out keeps open: the close of R417 completes it (log 7). -/
def Core.closesAtEnd (k : Core) (n : Nat) (x : Ctx) (id : Nat) : Bool :=
  x.trapEnded && k.streams.any fun q => q.2.cmd == id && q.2.owner == n && q.2.lid == x.lid && (!dOut q.2.desc || q.2.count == 0)

/-- Every earlier entry of the context in the marker's queues has completed or halted (R37, R394). -/
def Core.reached (k : Core) (n : Nat) (x : Ctx) (m : Marker) : Bool :=
  !k.pendingCmds.any fun e => e.slot == n && e.lid == x.lid && decide (e.id < m.upto) && cmdProc e.instr == (if m.ap then Proc.ap else .ep)
    && !k.closesAtEnd n x e.id

/-- The open streams of a context are closed, early ones with the status of R417. -/
def State.closeAll (s : State) (c n : Nat) (x : Ctx) : State :=
  ((s.core c).streams.filter fun q => q.2.owner == n && q.2.lid == x.lid).foldl (fun s q => s.closeStream c q.1 (if x.trapEnded then 0xF3 else 0xF0)) s

/-- The slots a context still owns are released, and its replay window goes (R321, R330). -/
def Core.releaseSlots (k : Core) (n : Nat) (lid : BitVec 32) : Core :=
  let mine := match k.allot lid with | some a => a.slots | none => []
  { k with
    slots := k.slots.map fun (p, sl) => (p, if mine.contains p && sl.owner == some n then { sl with owner := none } else sl)
    window := k.window.filter fun w => !(w.cmd.slot == n && w.cmd.lid == lid) }

/-- The context is complete: both processors have exited, all its markers are reached, its accesses in flight and the rows its streams are writing have performed. Its streams close, its slots are released, an untaken record goes to the launch queue, and its context slot is empty (R37, R330, R395, R417). -/
def State.endCtx (s : State) (c n : Nat) : State :=
  match s.ctx c n with
  | none => s
  | some x =>
    if !(x.ap.exited && x.ep.exited) || x.frozen.isSome || !x.markers.isEmpty || !x.ap.accs.isEmpty
        || ((s.core c).streams.any fun q => q.2.owner == n && q.2.lid == x.lid && q.2.out.isSome) then s else
    let s1 := (s.closeAll c n x).modCore c fun k => k.releaseSlots n x.lid
    let s2 := match x.afs with
      | some (r, _) => if x.afsTaken then s1 else s1.toLaunch x.lid { r with retired := true }
      | none => s1
    s2.dropCtx c n

/-- The signal of a `NOTIFY` or `ENOTIFY` counts for the durable writes of every command before its markers (R137, R288). -/
def State.markDurable (s : State) (c n : Nat) (lid : BitVec 32) (m : Marker) : State :=
  match m.sig with
  | none => s
  | some t => { s with dstores := s.dstores.map fun d =>
      if d.core == c && d.slot == n && d.lid == lid && d.pos.isNone && decide (d.cmd < m.upto) then { d with toks := t :: d.toks } else d }
/-- `NOTIFY_MARKER_REACHED` (R37, R288): the markers whose entries have completed are reached; those of `NOTIFY` and `ENOTIFY` signal; the context may be complete. -/
def execNotifyMarkerReached (core slot : Nat) (s : State) : Out :=
  .next (match (s.ctx core slot).filter fun x => x.frozen.isNone with
  | none => s
  | some x =>
    let k := s.core core
    let on := x.markers.filter (k.reached slot x)
    let s1 := s.setCtx core slot { x with markers := x.markers.filter fun m => !k.reached slot x m }
    let s2 := on.foldl (fun s m => (s.markDurable core slot x.lid m).signalOpt core slot x.lid (if m.ap then .ap else .ep) (coreMaster (if m.ap then mtAP else mtEP) core slot 0) m.sig) s1
    s2.endCtx core slot)

/-! ## Async traps and the timeout of WAITA -/

/-- `ASYNC_TRAP` (R396): the taking processor of a full slot takes the trap in place of its next issue. -/
def execAsyncTrap (core slot : Nat) (s : State) : Out :=
  .next (match s.ctx core slot with
  | none => s
  | some x => if x.asyncDue .ap then s.takeAsync core slot .ap else if x.asyncDue .ep then s.takeAsync core slot .ep else s)

/-- `WAITA_TIMEOUT` (R71): the armed wait completes with status 2. -/
def execWaitaTimeout (core slot : Nat) (s : State) : Out :=
  .next (s.modCtx core slot fun x => match x.ap.armed with
    | some a => if a.st.isNone && a.timeout != 0 && decide (a.start + a.timeout ≤ s.time.toNat) then { x with ap := { x.ap with armed := some { a with st := some 2 } } } else x
    | none => x)

end Sys2Proof.Machine
end

