-- ==== Sys2Proof/Machine/Launches.lean ====
section
/-! DEFINITION. Launch queues (R46 to R51): the check of a launch record (R42, R43, R73, R195), a submission's acceptance or discard, the end of a launch (R52, R418) and the return of its allotments (R22). -/
namespace Sys2Proof.Machine
open Sys2Proof

/-! ## The record (R42, R43) -/

/-- The least byte offset of a field that breaks R42, R43 or R73; the schedule's contents are checked apart. -/
def recBad (r : BitVec 1024) : Option Nat :=
  let f := fun b n => bytesAt r b n
  let gang := f 32 2
  let w := f 34 1
  let h := f 35 1
  let sstep := bitN (f 36 1) 6
  let shape := decide (1 ≤ gang ∧ gang ≤ 320) && ((w == 0 && h == 0) || (w != 0 && h != 0 && w * h == gang))
  let checks : List (Nat × Bool) :=
    [(0, f 0 8 % 8 == 0), (8, f 8 8 % 8 == 0), (32, shape), (34, decide (w ≤ 20)), (35, decide (h ≤ 16)),
     (36, decide (f 36 1 % 16 ≤ 11) && !(sstep && bitN (f 36 1) 4)),
     (37, decide (1 ≤ f 37 1 ∧ f 37 1 ≤ 4) && !(sstep && f 37 1 != 1)),
     (38, decide (1 ≤ f 38 2 ∧ f 38 2 ≤ 32)), (40, decide (1 ≤ f 40 1 ∧ f 40 1 ≤ 24)), (41, decide (f 41 1 ≤ 16)), (42, decide (f 42 1 ≤ 8)),
     (43, decide (f 43 1 ≤ 16)), (44, decide (f 44 4 ≤ 64)), (56, f 56 8 % 8 == 0), (72, (f 72 8 != 0) == sstep), (96, f 96 1 < 2), (97, f 97 31 == 0)]
  (checks.find? fun c => !c.2).map Prod.fst

/-- NSTEP and NENT of a schedule. -/
def schedSteps (l : List Byte) : Nat := leAt l 16 4
def schedEnts (l : List Byte) : Nat := leAt l 20 4
/-- Entry i of a schedule: n bytes at b. -/
def schedAt (l : List Byte) (i b n : Nat) : Nat := leAt l (64 + 64 * i + b) n
/-- The schedule meets R195. -/
def schedOk (l : List Byte) : Bool := decide (1 ≤ schedSteps l) && (natsFrom 0 (schedEnts l)).all fun i => decide (schedAt l i 0 4 < schedSteps l)

/-- n bytes the scheduler reads for a queue under a domain mask. -/
def State.schedRead (s : State) (d : Die) (pasid : Nat) (mask : BitVec 16) (va n : Nat) : Except XRes (List Byte) :=
  match s.xlateNowAll d pasid mask .read va n with
  | .ok l => (match s.readBytes l with
    | .ok b => .ok b
    | .error c => .error (.fault c 255 (((l.find? fun a => match s.readByte a with | .error _ => true | .ok _ => false).map s.foundTag).getD 0) 0))
  | .error e => .error e

/-- The CLASS 7 record of a read or write of the scheduler that failed (R424, R425). -/
def schedFault (pasid acc va : Nat) (e : XRes) : Bad :=
  match e with
  | .fault code lvl tag en => { cls := 7, cause := code, addr := some va, det := [(50, 1, lvl), (51, 1, tag), (52, 1, acc), (53, 3, pasid), (56, 8, en)] }
  | _ => { cls := 7, cause := 5, addr := some va, det := [(52, 1, acc), (53, 3, pasid)] }

/-- The producers' launch ids. -/
def idList : List Byte → List (BitVec 32)
  | a :: b :: c :: d :: r => BitVec.ofNat 32 (leNat [a, b, c, d]) :: idList r
  | _ => []

/-- What an accepted record brings: the record's bytes with overrides and the lowered level, the producers, the schedule, and why it cannot be placed (R42, R49, R51, R195, R418). Of a record that cannot be read the overrides stand alone (R47). The lowest offset that breaks a rule is the one reported (R418). In place of it all, the bytes that the scheduler must still wait for (R118). -/
def State.readRecord (s : State) (q rec ovArg ovDone : Nat) : Except (Nat × Nat) (BitVec 1024 × List (BitVec 32) × List Byte × Option Bad) :=
  let v := s.lq q
  let d := queueDie q
  let pasid := lqPasid v
  let put := fun (l : List Byte) (p w : Nat) => if w = 0 then l else l.take p ++ leBytes 8 w ++ l.drop (p + 8)
  let unread := BitVec.ofNat 1024 (leNat (put (put (List.replicate 128 0) 16 ovArg) 56 ovDone))
  let rule := fun (off : Nat) => some ({ cls := 12, cause := 1, addr := none, det := [(32, 1, off)] } : Bad)
  if rec % 128 ≠ 0 then .ok (unread, [], [], rule 0xFF) else
  match s.schedRead d pasid 0xFFFF rec 128 with
  | .error .wait => .error (rec, 128)
  | .error e => .ok (unread, [], [], some (schedFault pasid 0 rec e))
  | .ok b =>
    let b1 := put (put b 16 ovArg) 56 ovDone
    let raw := BitVec.ofNat 1024 (leNat b1)
    let fl := leAt b1 36 1
    let r := BitVec.ofNat 1024 (leNat (b1.take 36 ++ leBytes 1 (fl / 16 * 16 + Nat.min (fl % 16) (lqMaxPri v)) ++ b1.drop 37))
    let sa := leAt b1 72 8
    let sched : Except (Nat × Nat × XRes) (List Byte) :=
      if sa = 0 then .ok [] else
      match s.schedRead d pasid 0xFFFF sa 64 with
      | .error e => .error (sa, 64, e)
      | .ok hd => (match s.schedRead d pasid 0xFFFF sa (64 + 64 * schedEnts hd) with | .error e => .error (sa, 64 + 64 * schedEnts hd, e) | .ok sl => .ok sl)
    match recBad raw with
    | some off =>
      if off ≤ 72 then .ok (r, [], [], rule off) else
      (match sched with
      | .error (va, n, .wait) => .error (va, n)
      | .ok sl => .ok (r, [], [], rule (if sa ≠ 0 && !schedOk sl then 72 else off))
      | _ => .ok (r, [], [], rule off))
    | none =>
      if bitN fl 7 && !lqPriv v then .ok (r, [], [], some { cls := 12, cause := 7, addr := none, det := [] }) else
      let np := leAt b1 44 4
      match (if np = 0 then .ok [] else s.schedRead d pasid 0xFFFF (leAt b1 48 8) (4 * np)) with
      | .error .wait => .error (leAt b1 48 8, 4 * np)
      | .error e => .ok (r, [], [], some (schedFault pasid 0 (leAt b1 48 8) e))
      | .ok pl =>
        if sa = 0 then .ok (r, idList pl, [], none) else
        match sched with
        | .error (va, n, .wait) => .error (va, n)
        | .error (_, _, e) => .ok (r, idList pl, [], some (schedFault pasid 0 sa e))
        | .ok sl =>
          if !schedOk sl then .ok (r, idList pl, sl, rule 72)
          else if (natsFrom 0 (schedEnts sl)).any fun i =>
              let k := schedAt sl i 28 1
              !(decide (k < 12) && bitN ((s.die (if k < 6 then .west else .east)).boot.span.toNat) (k % 6)) then
            .ok (r, idList pl, sl, some { cls := 12, cause := 6, addr := none, det := [] })
          else .ok (r, idList pl, sl, none)

/-! ## Submission (R47, R48, R51) -/

/-- The queue discards a submission and counts it (R48). -/
def State.discard (s : State) (q : Nat) : State := { s with lqdrop := tset s.lqdrop q (Nat.min (tget s.lqdrop 0 q + 1) 0xFFFF) }

/-- Why queue q discards a submission of a function, the violation of R48 aside. -/
def State.discards (s : State) (q : Nat) (fn : Func) (whole : Bool) : Bool :=
  let v := s.lq q
  !lqEn v || decide (9 ≤ lqFunc v) || !(s.die (queueDie q)).boot.ready || decide (lqDepth ≤ s.depth q) || !whole || s.fnFrozen.contains (fnIdx fn)

/-- The scheduler reads the record of an accepted launch, or waits for a part of it (R42, R118). -/
def State.readLaunch (s : State) (l : Launch) : State × Launch :=
  match l.pend with
  | none => (s, l)
  | some (rec, ovArg, ovDone) =>
    match s.readRecord l.queue rec ovArg ovDone with
    | .error (va, n) => (s.schedMet (queueDie l.queue) l.pasid 0xFFFF .read va n, l)
    | .ok (r, producers, sched, bad) =>
      (s.asksMet (queueDie l.queue) l.pasid, { l with rcd := r, producers := producers, sched := sched, bad := bad, ssStart := leAt sched 0 8, pend := none })
/-- The same of a launch that stands in its queue. -/
def State.fillLaunch (s : State) (l : Launch) : State := let q := s.readLaunch l; if l.pend.isNone then s else q.1.modLaunch l.lid fun _ => q.2
/-- It goes on with the records it still waits for. -/
def State.fillLaunches (s : State) : State := (s.launches.filter fun l => l.pend.isSome).foldl State.fillLaunch s
/-- A submission to queue q: the launch's id, or none when the queue discards it. -/
def State.submit (s : State) (q : Nat) (fn : Func) (whole : Bool) (rec ovArg ovDone : Nat) : State × Option (BitVec 32) :=
  if s.discards q fn whole then (s.discard q, none) else
  let seq := tget s.lqseq 0 q
  let lid := BitVec.ofNat 32 (q % 64 * 2 ^ 26 + seq % 2 ^ 26)
  let l : Launch :=
    { lid := lid, rcd := 0, queue := q, fn := fn, pasid := lqPasid (s.lq q), priv := lqPriv (s.lq q), producers := [], accepted := s.time.toNat,
      phase := .queued, bad := none, everPlaced := false, triggered := false, blocking := false, kept := [], incoming := false, passedSince := none, holdWant := none, holdOver := false,
      order := s.serial, cores := [], cores1 := [], bars := [], barRel := [], trigRel := [], trig := [], tasks := [], recorded := false, status := 0, sched := [], ss := 0,
      ssStart := 0, ssSent := [], xfers := [], rots := [], rotNum := [], rotating := [], saved := [], savedCopies := [], savedPoison := [], retained := false,
      cmpWait := [], divRows := [], pend := some (rec, ovArg, ovDone) }
  let r := ({ s.tick with lqseq := tset s.lqseq q ((seq + 1) % 2 ^ 26) }).readLaunch l
  ({ r.1 with launches := r.1.launches ++ [r.2] }, some lid)

/-! ## The end of a launch (R52, R22) -/

/-- The commands of a launch. -/
def Cmd.of (lid : BitVec 32) (m : Cmd) : Bool := m.lid == lid

/-- A core without a launch: its contexts, commands, streams, code and allotment are gone. -/
def Core.without (k : Core) (lid : BitVec 32) : Core :=
  let a := k.allot lid
  let ids := (k.pendingCmds.filter (Cmd.of lid)).map Cmd.id
  { k with
    ctxs := k.ctxs.filter fun q => q.2.lid != lid
    apCode := k.apCode.filter fun c => c.lid != lid
    epCode := k.epCode.filter fun c => c.lid != lid
    allots := k.allots.filter fun a => a.lid != lid
    qs := k.qs.map fun (i, l) => (i, l.filter fun m => m.lid != lid)
    live := k.live.filter fun m => m.lid != lid
    score := k.score.filter fun e => !ids.contains e.cmd
    streams := k.streams.filter fun q => q.2.lid != lid
    staged := k.staged.filter fun q => q.2.lid != lid
    running := k.running.filter fun q => q.2.cmd.lid != lid
    results := k.results.filter fun r => r.cmd.lid != lid
    window := k.window.filter fun w => w.cmd.lid != lid
    parked := k.parked.filter fun q => q.cmd.lid != lid
    mTook := k.mTook.filter fun i => !ids.contains i
    clob := k.clob.filter fun q => q.lid != lid
    nine := k.nine.filter fun i => !ids.contains i
    redo := k.redo.filter fun r => r.cmd.lid != lid
    mReady := k.mReady.filter fun q => !(tfind k.staged q.1).any fun m => m.lid == lid
    cmdAsk := k.cmdAsk.filter fun q => !ids.contains q.1
    grid := match a with | some a => if a.grid then Grid.reset else k.grid | none => k.grid
    prf := match a with | some a => if a.prf then Proofer.reset else k.prf | none => k.prf }

/-- The launch leaves its cores: allotments, commands and copies go (R22); blocking heads keep the cores (R55). -/
def State.unplace (s : State) (l : Launch) : State :=
  let s1 := l.allCores.foldl (fun s c => s.modCore c fun k => k.without l.lid) s
  let f := fun (d : DieSt) => { d with copies := d.copies.filter fun r => r.cmd.lid != l.lid }
  let s2 := (s1.modDie .west f).modDie .east f
  { s2 with
    launches := s2.launches.map fun b => if b.blocking then { b with kept := (b.kept ++ l.allCores).eraseDups } else b
    poisonLoc := s2.poisonLoc.filter fun z => match z with | .code _ _ lid _ => lid != l.lid | _ => true }

/-- The change of one core takes effect: the map, the spares and the history (R462). -/
def State.applyMap (s : State) (c site : Nat) (retire : Bool) : State :=
  let d := dieOf c
  let old := s.site c
  let spare := fun n => (Config.spareSite (8 * dieNat d + n)).toNat
  let s1 := { s with cmap := tset s.cmap c (if retire then 0 else BitVec.ofNat 16 (2 ^ 15 + site)) }
  s1.modDie d fun x =>
    { x with
      history := x.history.map fun v => if mcPending v && mcCore v == c then mapChange false (mcRetire v) c (mcSite v) else v
      spareFree := (natsFrom 0 8).foldl (fun b n => if !retire && spare n == site then putBit b n false else b) x.spareFree
      spareBad := (natsFrom 0 8).foldl (fun b n => if bitN old 15 && spare n == old % 512 then putBit b n true else b) x.spareBad }

/-- The pending changes of cores that no launch holds take effect, each with its record (R457, R462). -/
def State.applyMaps (s : State) : State :=
  let todo := (s.west.history ++ s.east.history).filter fun v => mcPending v && !s.coreHeld (mcCore v)
  todo.foldl (fun s v =>
    let c := mcCore v
    let s1 := s.applyMap c (mcSite v) (mcRetire v)
    let site := if mcRetire v then (Config.freeWord s1.fresh).toNat % 2 ^ 16 else mcSite v
    let s2 := if mcRetire v then s1.drawn else s1
    s2.toDevice (s2.mkRec 13 0 5 (dieMaster mtCtl 0 (dieOf c)) none noLid 0xFFFF [(32, 2, c), (34, 2, site)])) s

/-- The completion status of a launch (R418). -/
def Launch.finalStatus (l : Launch) : Nat := if l.status ≠ 0 then l.status else if l.recorded then 2 else 0

/-- The completion word, a release at system scope of what the launch wrote (R129), and MSI-X of a launch, then its end (R52); a write that must wait for the host, a link or a copied frame holds the end back (R118); one that cannot be made is dropped with a record (R424), and one to registers breaks protection (R106, log 82). -/
def State.finishLaunch (s : State) (l : Launch) : State :=
  let d := queueDie l.queue
  let a := l.at 56 8
  let done := if a = 0 then .ok [] else s.xlateNowAll d l.pasid 0xFFFF .write a 8
  match done with
  | .error .wait =>
    (s.modLaunch l.lid fun m => { m with phase := .ended, status := l.status }).schedMet d l.pasid 0xFFFF .write a 8
  | _ =>
  let s1 :=
    if a = 0 then s else
    match done with
    | .ok pas =>
      if pas.any isMmio then s.toDevice (s.mkRec 8 2 2 (dieMaster mtCtl 0 d) (some a) l.lid 0xFFFF [(52, 1, 1)]) else
      let ids := (s.dstores.filter fun z => z.lid == l.lid).map DStore.id
      (s.devWrite (pas.zip (leBytes 8 (l.lid.toNat + 2 ^ 32 * l.finalStatus)))).hold pas
        (if ids.isEmpty then [] else [{ ids := ids, scope := .sys, core := 0x1FF, slot := 0, lid := l.lid }])
    | .error e =>
      let b := schedFault l.pasid 1 a e
      (s.toDevice (s.mkRec b.cls 1 b.cause (dieMaster mtCtl 0 d) b.addr l.lid 0xFFFF b.det)).asksMet d l.pasid
  let v := s1.lq l.queue
  let s2 := if lqIen v then s1.msix (lqOwner v) (lqVec v) else s1
  let s3 := s2.unplace l
  ({ s3 with launches := s3.launches.filter (fun m => m.lid != l.lid), saves := s3.saves.filter fun q => q.st.lid != l.lid }).applyMaps

/-- A launch that cannot be placed ends with status 4, its record in the device queue (R418, R424). -/
def State.rejectLaunch (s : State) (l : Launch) (b : Bad) : State :=
  (s.toDevice (s.mkRec b.cls (if b.cls = 8 then 2 else 1) b.cause (dieMaster mtCtl 0 (queueDie l.queue)) b.addr l.lid 0xFFFF b.det)).finishLaunch { l with status := 4 }

/-- Ends a launch on every core without saving, with a status; its completion follows (R75, R400). -/
def State.abortLaunch (s : State) (lid : BitVec 32) (status : Nat) : State :=
  match s.launch lid with
  | none => s
  | some l =>
    let gone := fun (m : BitVec 32) => m.toNat / 2 ^ 28 < 2 && l.allCores.contains (m.toNat / 2 ^ 19 % 512) &&
      (match s.ctx (m.toNat / 2 ^ 19 % 512) (m.toNat / 2 ^ 17 % 4) with | some x => x.lid == lid | none => false)
    let s1 := (s.unplace l).modLaunch lid fun l =>
      { l with status := status, tasks := [], xfers := [], rots := [], rotating := [], cmpWait := [], divRows := [], saved := [], savedCopies := [], savedPoison := [] }
    let f := fun (d : DieSt) => { d with frozen := d.frozen.filter fun z => !gone z.master }
    (s1.modDie .west f).modDie .east f

end Sys2Proof.Machine
end

