-- ==== Sys2Proof/Machine/Sched.lean ====
section
/-! DEFINITION. The scheduler: levels and arbitration (R53 to R55, R70), placement by first fit (R56 to R58, R467), code loading (R23), gang start (R40), pre-emption and resumption (R63 to R67), tasks (R41, R257), and the ends that time brings (R52, R419). -/
namespace Sys2Proof.Machine
open Sys2Proof

/-! ## Levels (R54, R70) -/

/-- The granules a launch's contexts hold, resident or saved (R69), each with its context: core and slot, of a saved one 1000 more. -/
def State.holders (s : State) (l : Launch) : List (Nat × Nat × Nat) :=
  (l.allCores.flatMap fun c => (s.core c).ctxs.flatMap fun q => if q.2.lid == l.lid then q.2.hold.map fun g => (g, c, q.1) else [])
    ++ l.saved.flatMap fun q => q.2.ctxs.flatMap fun x => x.2.hold.map fun g => (g, q.1 + 1000, x.1)
/-- The granules themselves. -/
def State.holds (s : State) (l : Launch) : List Nat := (s.holders l).map Prod.fst
/-- PRI as the scheduler counts it: a TEST launch runs at level 1 (R75). -/
def Launch.base (l : Launch) : Nat := if l.flag 7 then 1 else l.pri
/-- The highest priority of a context that waits in `WAITA` on a granule of another context's hold set: its launch's level, or its task's (R44, R70). -/
def State.waitLevel (s : State) (hs : List (Nat × Nat × Nat)) : Nat :=
  if hs.isEmpty then 0 else
  (s.cores.flatMap fun q => q.2.ctxs.filterMap fun p =>
    match p.2.ap.armed with
    | some a => if a.st.isNone && hs.any (fun h => h.1 == a.granule / 8 && h.2 != (q.1, p.1)) then (s.launchOf p.2).map (fun _ => p.2.prio) else none
    | none => none).foldl Nat.max 0
/-- AGEINT as it acts (R59). -/
def State.ageOf (s : State) : Nat := Nat.max s.ageint.toNat 100000
/-- The level of a placed gang (R54, R70). -/
def State.placedLevel (s : State) (l : Launch) : Nat := Nat.max l.base (s.waitLevel (s.holders l))
/-- The level of a waiting launch (R54); a pre-empted gang is served at its raised level (R70). DESIGN CHOICE: the time it has waited counts from its acceptance whether or not the gang has run meanwhile (log 78). -/
def State.waitingLevel (s : State) (l : Launch) : Nat :=
  let aged := if 9 ≤ l.base then l.base else Nat.min 9 (l.base + (s.time.toNat - l.accepted) / s.ageOf)
  if l.phase = .preempted then Nat.max aged (s.waitLevel (s.holders l)) else aged

/-! ## Heads (R53) -/

/-- The launch waits in its queue. -/
def Launch.waiting (l : Launch) : Bool := l.phase == .queued || l.phase == .preempted
/-- The heads of the queues, by queue. -/
def headsOf : List Launch → List Nat → List Launch
  | [], _ => []
  | l :: r, seen => if l.waiting && !seen.contains l.queue then l :: headsOf r (l.queue :: seen) else headsOf r seen
/-- The heads of all queues. -/
def State.heads (s : State) : List Launch := headsOf s.launches []
/-- A launch id whose launch has been placed, or names none (R53). -/
def State.placedOnce (s : State) (lid : BitVec 32) : Bool := match s.launch lid with | some l => l.everPlaced | none => true
/-- The head is eligible: its record has been read, its producers have been placed, translation is on, its die's controller runs (R53, R108, R457). -/
def State.eligible (s : State) (l : Launch) : Bool :=
  l.bad.isNone && l.pend.isNone && l.producers.all s.placedOnce && bitN s.astbase.toNat 0 && (s.die (queueDie l.queue)).ctl.up

/-- x comes before y in the order of R55, round-robin from queue rr within a level. -/
def State.ahead (s : State) (x y : Launch) : Bool :=
  let lx := s.waitingLevel x
  let ly := s.waitingLevel y
  decide (ly < lx) || (lx == ly && decide ((x.queue + 64 - s.schedRR % 64) % 64 ≤ (y.queue + 64 - s.schedRR % 64) % 64))
/-- Inserts a head in order. -/
def State.insertHead (s : State) (x : Launch) : List Launch → List Launch
  | [] => [x]
  | y :: r => if s.ahead x y then x :: y :: r else y :: s.insertHead x r
/-- The eligible heads that no blocking head keeps back, in the order of R55; a launch for which gangs have been pre-empted comes first (log 83). -/
def State.ordered (s : State) : List Launch :=
  let el := s.heads.filter s.eligible
  let block := (el.filter Launch.blocking).foldl (fun m l => Nat.max m (s.waitingLevel l)) 0
  let l := (el.filter fun l => decide (block ≤ s.waitingLevel l)).foldl (fun a l => s.insertHead l a) []
  l.filter Launch.incoming ++ l.filter fun l => !l.incoming
/-- A one-core TEST launch (R467). -/
def Launch.oneTest (l : Launch) : Bool := l.flag 7 && l.gang == 1 && !l.flag 5
/-- The drain of a core for field test keeps a launch off it: only a one-core TEST launch, or one of level 10 or 11, may take it (R467). -/
def State.drainBars (s : State) (l : Launch) (c : Nat) : Bool :=
  let x := s.die (dieOf c)
  x.fttgtEn && x.fttgtCore == c && !l.oneTest && decide (s.waitingLevel l < 10)
/-- A blocking head that comes before l, or any if l is none, keeps the core for itself (R55), if it may take it at all (R467). -/
def State.keptFrom (s : State) (l : Launch) (c : Nat) : Bool :=
  s.launches.any fun b => b.lid != l.lid && b.waiting && b.blocking && b.kept.contains c && !(l.blocking && !s.ahead b l) && !s.drainBars b c

/-! ## Code (R23) -/

/-- The word of code at a physical address, expanded behind the lens aperture (R121, R426). -/
def State.codeRead (s : State) (pa : Nat) : Except XRes Word :=
  match s.readBytes (natsFrom pa 8) with
  | .ok l => .ok (BitVec.ofNat 64 (leNat l))
  | .error e => .error (.fault e 255 (s.foundTag pa) 0)
/-- The words the scheduler reads from an address through X pages, n of them, or up to the loader's padding (log 20). -/
def State.readCode (s : State) (d : Die) (pasid : Nat) (mask : BitVec 16) (pad : Bool) : Nat → Nat → Except (Nat × XRes) (List Word)
  | 0, _ => .ok []
  | n + 1, va =>
    match s.xlateNow d pasid mask .code va with
    | .ok pa _ =>
      (match s.codeRead pa with
      | .error e => .error (va, e)
      | .ok w =>
        if pad && w == BitVec.allOnes 64 then .ok [] else
        (match s.readCode d pasid mask pad n (va + 8) with
        | .ok l => .ok (w :: l)
        | .error (v, .wait) => .error (v, .wait)
        | .error e => if pad then .ok [w] else .error e))
    | e => .error (va, e)

/-- The section of a launch that holds an entry, as the loader told, or else what follows the entry (log 20), within the domains of its function (R113). -/
def State.codeAt (s : State) (l : Launch) (p : Proc) (entry : Nat) : Except (Nat × XRes) CodeSec :=
  let d := queueDie l.queue
  let mask := s.fndomOf l.fn
  let sec := s.sections.find? fun z => z.proc == p && z.pasid == l.pasid && decide (z.base ≤ entry) && decide (entry < z.base + 8 * z.words)
  let base := match sec with | some z => z.base | none => entry
  let r := match sec with | some z => s.readCode d l.pasid mask false (Nat.min z.words 4096) z.base | none => s.readCode d l.pasid mask true 4096 entry
  match r with
  | .ok ws => .ok { lid := l.lid, base := BitVec.ofNat 64 base, words := ws }
  | .error e => .error e

/-- The words a processor's instruction store holds. -/
def codeWords (l : List CodeSec) : Nat := (l.map fun c => c.words.length).sum

/-! ## Free cores (R56, R57, R467) -/

/-- PART of a function: the core belongs to its partition (R57). -/
def State.inPart (s : State) (fn : Func) (c : Nat) : Bool :=
  let k := 8 * fnIdx fn + c / 64
  bitN (tget s.part (partReset k) k).toNat (c % 64)
/-- Numbers below n that a list does not name. -/
def freeOf (n : Nat) (used : List Nat) : List Nat := (List.range n).filter fun i => !used.contains i
/-- The free context slots, banks, tiles and operand slots of a core. -/
def Core.freeCtxs (k : Core) : List Nat := freeOf 4 (k.allots.flatMap Allot.contexts)
def Core.freeBanks (k : Core) : List Nat := freeOf 32 (k.allots.flatMap Allot.banks)
def Core.freeTiles (k : Core) : List Nat := freeOf 24 (k.allots.flatMap Allot.tiles)
def Core.freeSlots (k : Core) : List Nat := freeOf 16 (k.allots.flatMap Allot.slots)
/-- The free wheel positions (R72). -/
def State.freeWheel (s : State) : List Nat :=
  let used := s.cores.flatMap fun q => q.2.allots.flatMap Allot.wheel
  if used.isEmpty then List.range 1024 else freeOf 1024 used

/-- What the drain of a core for field test allows (R467). -/
def State.drainOk (s : State) (l : Launch) (c : Nat) : Bool :=
  let here := s.die (queueDie l.queue)
  !s.drainBars l c
    && (if l.oneTest && here.fttgtEn then here.fttgtCore == c && !s.coreHeld c else true)
/-- A TEST gang holds the core: others wait for it (R75). -/
def State.testOn (s : State) (c : Nat) : Bool := s.launches.any fun v => (v.phase == .placed || v.phase == .ended) && v.flag 7 && v.allCores.contains c
/-- A core is free for a launch that needs aw and ew words of code (R55, R56, R75). -/
def State.coreFree (s : State) (l : Launch) (aw ew c : Nat) : Bool :=
  let k := s.core c
  s.inPart l.fn c && s.coreOk c && !s.mapPending c
    && decide (l.at 37 1 ≤ k.freeCtxs.length) && decide (l.at 38 2 ≤ k.freeBanks.length) && decide (l.at 40 1 ≤ k.freeTiles.length)
    && decide (l.at 41 1 ≤ k.freeSlots.length)
    && decide (codeWords k.apCode + aw ≤ 4096) && decide (codeWords k.epCode + ew ≤ 4096)
    && !(l.prism && k.allots.any Allot.grid) && !(l.prf && k.allots.any Allot.prf)
    && !s.keptFrom l c && !s.testOn c
    && (if l.flag 7 then k.allots.isEmpty && !s.coreHeld c else true) && s.drainOk l c

/-! ## First fit (R58) -/

/-- The logical core at a column and row of the grid of R56. -/
def coreAt (col row : Nat) : Nat := if col < 10 then 10 * row + col else 160 + 10 * row + (col - 10)
/-- The cores of a rectangle, in rank order. -/
def rectOf (ox oy w h : Nat) : List Nat := (List.range h).flatMap fun y => (List.range w).map fun x => coreAt (ox + x) (oy + y)
/-- The first rectangle with free cores whose origin column lies in [lo, lo + n). -/
def fitRect (free : Nat → Bool) (w h lo n : Nat) : Option (List Nat) :=
  ((List.range (17 - h)).flatMap fun oy => (natsFrom lo n).map fun ox => rectOf ox oy w h).find? fun r => r.all free
/-- The gang's cores by first fit, from a die (R58). -/
def fitGang (free : Nat → Bool) (d : Die) (n w h : Nat) : Option (List Nat) :=
  if w = 0 then
    let l := (natsFrom (160 * dieNat d) 160 ++ natsFrom (160 * dieNat (Die.other d)) 160).filter free
    if n ≤ l.length then some (l.take n) else none
  else
    let lo := 10 * dieNat d
    ((if w ≤ 10 then fitRect free w h lo (11 - w) else none) <|> fitRect free w h 0 (21 - w))
/-- The cores of both members of a launch: member 1 is tried on the other die (R74); its list is empty without DUP. -/
def fitLaunch (free : Nat → Bool) (l : Launch) : Option (List Nat × List Nat) :=
  let d := queueDie l.queue
  match fitGang free d l.gang (l.at 34 1) (l.at 35 1) with
  | none => none
  | some m0 =>
    if !l.flag 5 then some (m0, []) else
    (fitGang (fun c => free c && !m0.contains c) (Die.other d) l.gang (l.at 34 1) (l.at 35 1)).map fun m1 => (m0, m1)

/-- The cores a queued launch can be placed on now. -/
def State.fit (s : State) (l : Launch) (aw ew : Nat) : Option (List Nat × List Nat) :=
  if s.freeWheel.length < l.at 42 1 * l.gang * (if l.flag 5 then 2 else 1) then none else fitLaunch (s.coreFree l aw ew) l

/-! ## Resumption (R66) -/

/-- A saved core fits back where it was. -/
def State.backOk (s : State) (l : Launch) (wheel : List Nat) (q : Nat × Core) : Bool :=
  let k := s.core q.1
  let o := k.allots.filter fun a => a.lid != l.lid
  !s.keptFrom l q.1 && !s.testOn q.1 && !(q.2.redo.isSome && k.redo.isSome) && q.2.allots.all fun a =>
    a.contexts.all (!(o.flatMap Allot.contexts).contains ·) && a.banks.all (!(o.flatMap Allot.banks).contains ·)
      && a.tiles.all (!(o.flatMap Allot.tiles).contains ·) && a.slots.all (!(o.flatMap Allot.slots).contains ·)
      && a.wheel.all wheel.contains && !(a.grid && o.any Allot.grid) && !(a.prf && o.any Allot.prf)
      && decide (codeWords k.apCode + codeWords q.2.apCode ≤ 4096) && decide (codeWords k.epCode + codeWords q.2.epCode ≤ 4096)
/-- A pre-empted gang can resume on its cores. -/
def State.canResume (s : State) (l : Launch) : Bool := let w := s.freeWheel; l.saved.all (s.backOk l w)

/-- The cores on which a launch can be placed, or resumed, now. -/
def State.room (s : State) (l : Launch) (aw ew : Nat) : Option (List Nat) :=
  if l.phase = .preempted then (if s.canResume l then some l.allCores else none) else (s.fit l aw ew).map fun m => m.1 ++ m.2
/-- The launch can be placed or resumed now. -/
def State.canPlace (s : State) (l : Launch) (aw ew : Nat) : Bool := (s.room l aw ew).isSome

/-! ## Victims (R63, R65, R67) -/

/-- The bytes of a launch's image on its cores, the grid image included (R67, R368). DESIGN CHOICE: 16 KiB count for every context slot the launch was granted, taken or empty (log 41). -/
def Launch.imageSize (l : Launch) (retained : Bool) : Nat :=
  l.allCores.length * (16 * 1024 * l.at 37 1 + (if l.prism then 24 * 1024 else 0) + if retained then 0 else 192 * 1024 * l.at 38 2 + 16 * 1024 * l.at 40 1 + 24 * 1024 * l.at 41 1)
/-- The bytes of the save pool in use. -/
def State.poolUsed (s : State) : Nat := ((s.launches.filter fun l => l.phase == .preempted).map fun l => l.imageSize l.retained).sum
/-- Some context of the launch is frozen (R399). -/
def State.hasFrozen (s : State) (l : Launch) : Bool := l.allCores.any fun c => (s.core c).ctxs.any fun q => q.2.lid == l.lid && q.2.frozen.isSome
/-- The gang may be pre-empted for a launch of a level, its hold sets aside (R63, R73, R75, R399). -/
def State.victimOk (s : State) (lvl : Nat) (v : Launch) : Bool :=
  v.phase == .placed && v.status == 0 && v.flag 4 && !v.flag 7 && !s.hasFrozen v && decide (s.placedLevel v + 2 ≤ lvl)
/-- Lowest level first, then the most recently placed (R63). -/
def State.insertVictim (s : State) (v : Launch) : List Launch → List Launch
  | [] => [v]
  | w :: r =>
    if s.placedLevel v < s.placedLevel w || (s.placedLevel v == s.placedLevel w && decide (w.order ≤ v.order)) then v :: w :: r else w :: s.insertVictim v r
/-- The shortest run of candidates, in order, without which the launch fits. -/
def State.victimsFrom (s : State) (l : Launch) (aw ew : Nat) : List Launch → List Launch → Option (List Launch)
  | [], _ => none
  | v :: r, acc =>
    let s1 := s.unplace v
    if s1.canPlace l aw ew then some (acc ++ [v]) else s1.victimsFrom l aw ew r (acc ++ [v])
/-- The victims for a launch that does not fit (R63); `held` lets gangs with hold sets in. -/
def State.victims (s : State) (l : Launch) (aw ew : Nat) (held : Bool) : Option (List Launch) :=
  let cand := s.launches.filter fun v => s.victimOk (s.waitingLevel l) v && (held || (s.holds v).isEmpty || v.holdOver)
  s.victimsFrom l aw ew (cand.foldl (fun a v => s.insertVictim v a) []) []
/-- The core keeps a victim's storage for it (R65). -/
def keepOnly (k : Core) (lid : BitVec 32) : Core :=
  { k.without lid with
    allots := k.allots.map fun a => if a.lid == lid then { a with contexts := [], grid := false, prf := false, wheel := [] } else a }
/-- The launch fits without the victims' storage (R65). -/
def State.fitsRetained (s : State) (l : Launch) (aw ew : Nat) (vs : List Launch) : Bool :=
  (vs.foldl (fun s v => v.allCores.foldl (fun s c => s.modCore c fun k => keepOnly k v.lid) s) s).canPlace l aw ew

/-! ## The choice (R55) -/

/-- What the scheduler would do for a head. -/
inductive Choice where
  | place (l : Launch) (m0 m1 : List Nat) (ap ep : CodeSec)
  | reject (l : Launch) (b : Bad)
  | resume (l : Launch)
  | abortTests (l : Launch) (tests : List Launch)
  | preempt (l : Launch) (v : Launch) (retained : Bool) (vs : List Launch)
  | want (vs : List Launch)
  | ask (l : Launch) (va : Nat)
  | none

/-- The shape fits no gang of the function's partition, whatever else it holds (R57, cause 6). -/
def State.neverFits (s : State) (l : Launch) : Bool := (fitLaunch (fun c => s.inPart l.fn c && s.coreOk c) l).isNone

/-- The TEST gangs that a launch of level 10 or 11 aborts on cores it takes (R75). -/
def State.testsOn (s : State) (m : List Nat) : List Launch := s.launches.filter fun v => v.phase == .placed && v.flag 7 && v.status == 0 && v.allCores.any m.contains
/-- The state in which a launch looks for room: one of level 10 or 11 does not see TEST gangs (R75). -/
def State.seenBy (s : State) (l : Launch) : State :=
  if 10 ≤ s.waitingLevel l then (s.launches.filter fun v => v.phase == .placed && v.flag 7 && v.status == 0).foldl (fun s v =>
      let t := s.unplace v
      { t with launches := t.launches.filter fun m => m.lid != v.lid }) s
  else s
/-- What the scheduler does for a launch without room now: it aborts TEST gangs, or pre-empts the next of its victims, when the save pool holds all their images, or wants the gangs that only their hold sets protect (R63, R65, R67, R75, R419). -/
def State.makeRoom (s : State) (l : Launch) (aw ew : Nat) : Choice :=
  let s0 := s.seenBy l
  match s0.room l aw ew with
  | some m => let ts := s.testsOn m; if ts.isEmpty then .none else .abortTests l ts
  | none =>
    let pool := fun (vs : List Launch) (ret : Bool) => decide (s.poolUsed + (vs.map fun v => v.imageSize ret).sum ≤ s.savesize.toNat)
    match s0.victims l aw ew false with
    | some (v :: r) =>
      let ret := s0.fitsRetained l aw ew (v :: r)
      let ts := match ((v :: r).foldl State.unplace s0).room l aw ew with | some m => s.testsOn m | none => []
      if !pool (v :: r) ret then .none else if ts.isEmpty then .preempt l v ret (v :: r) else .abortTests l ts
    | _ =>
      match s0.victims l aw ew true with
      | some vs => if pool vs (s0.fitsRetained l aw ew vs) then .want vs else .none
      | none => .none
/-- The record of a read of the scheduler's under a function's mask that failed: of code, or of what a link schedule sends (R113, R424). -/
def codeFault (pasid acc va : Nat) (e : XRes) : Bad :=
  match e with
  | .breach => { cls := 8, cause := 1, addr := some va, det := [(52, 1, acc)] }
  | e => schedFault pasid acc va e

/-- The choice for one eligible head. -/
def State.choose (s : State) (l : Launch) : Choice :=
  if l.phase = .preempted then (if s.canResume l then .resume l else s.makeRoom l 0 0)
  else if s.neverFits l then .reject l { cls := 12, cause := 6, addr := Option.none, det := [] }
  else
    match s.codeAt l .ap (l.at 0 8), s.codeAt l .ep (l.at 8 8) with
    | .error (va, .wait), _ => .ask l va
    | .error e, _ => .reject l (codeFault l.pasid 3 e.1 e.2)
    | _, .error (va, .wait) => .ask l va
    | _, .error e => .reject l (codeFault l.pasid 3 e.1 e.2)
    | .ok ap, .ok ep =>
      match s.fit l ap.words.length ep.words.length with
      | some (m0, m1) => .place l m0 m1 ap ep
      | none => s.makeRoom l ap.words.length ep.words.length

/-- The first head that the scheduler can do something for, with what it does; the heads it passes over before. -/
def State.pick (s : State) : List Launch → List Launch → Choice × List Launch
  | [], passed => (.none, passed)
  | l :: r, passed =>
    match s.choose l with
    | .none => s.pick r (passed ++ [l])
    | .want vs => (match s.pick r (passed ++ [l]) with | (.none, p) => (.want vs, p) | x => x)
    | .ask l va => (match s.pick r (passed ++ [l]) with | (.none, p) => (.ask l va, p) | x => x)
    | c => (c, passed)

/-- Notes the heads passed over (R55). -/
def State.passOver (s : State) (l : List Launch) : State :=
  l.foldl (fun s v => s.modLaunch v.lid fun v => { v with passedSince := some (v.passedSince.getD s.time.toNat) }) s

/-! ## Gang start (R22, R40) -/

/-- Allotted storage reads as zero, its rows empty (R22). -/
def Core.zeroed (k : Core) (a : Allot) : Core :=
  let nb := fun (key : Nat) => !a.banks.contains (key / 768)
  let nt := fun (key : Nat) => !a.tiles.contains (key / 64)
  { k with
    banks := k.banks.filter fun q => nb q.1
    full := k.full.filter fun q => nb q.1
    kind := k.kind.filter fun q => nb q.1
    bankFill := k.bankFill.filter fun q => !a.banks.contains q.1
    acc := k.acc.filter fun q => nt q.1
    accFill := k.accFill.filter fun q => !a.tiles.contains q.1
    clob := k.clob.filter fun q => nt q.key
    slots := k.slots.filter fun q => !a.slots.contains q.1
    grid := if a.grid then Grid.reset else k.grid
    prf := if a.prf then Proofer.reset else k.prf }

/-- A location of stored words lies in an allotment of core c. -/
def locIn (c : Nat) (a : Allot) : StoreLoc → Bool
  | .bank core b _ _ => core == c && a.banks.contains b
  | .acc core row => core == c && a.tiles.contains (row / 64)
  | .slot core n => core == c && a.slots.contains n
  | .gridReg core _ _ _ => core == c && a.grid
  | .reg core n _ _ => core == c && a.contexts.contains n
  | _ => false

/-- A place that holds a release's value is a byte of an allotment of core c (R130). -/
def markIn (c : Nat) (a : Allot) (p : Nat) : Bool :=
  decide (2 ^ 60 ≤ p) && (p - 2 ^ 60) / 256 / 24576 == c && a.banks.contains ((p - 2 ^ 60) / 256 % 24576 / 768)
/-- The AMO tag a context goes on from: the one given, or the first after a tag a replay cache holds, so that no tag of the next million recurs while it is held (R252, R429). -/
def State.amoFrom (s : State) (c n : Nat) (t : BitVec 32) : BitVec 32 :=
  let used := (s.replay.filter fun r => r.tray == s.tray && r.core == c && r.slot == n).map Replay.tag
  ((t :: used).find? fun t => used.all fun u => decide (2 ^ 20 ≤ (u - t - 1).toNat)).getD t

/-- The starting AMO tag of a context, from the device's choice (R252). -/
def State.amoStart (s : State) (c n : Nat) : BitVec 32 := s.amoFrom c n (Config.amoTag s.fresh)
/-- Places a launch on one core: allotment, code, and the first context (R19, R22, R23, R40). -/
def State.startOn (s : State) (l : Launch) (member : Bool) (rank c : Nat) (wheel : List Nat) (ap ep : CodeSec) : State :=
  let k := s.core c
  let a : Allot :=
    { lid := l.lid, contexts := k.freeCtxs.take (l.at 37 1), banks := k.freeBanks.take (l.at 38 2), tiles := k.freeTiles.take (l.at 40 1),
      slots := k.freeSlots.take (l.at 41 1), grid := l.prism, prf := l.prf, wheel := wheel }
  let x := Ctx.start l.lid rank member (BitVec.ofNat 64 (l.at 0 8)) (BitVec.ofNat 64 (l.at 8 8)) (BitVec.ofNat 64 (l.at 16 8)) l.base s.cycles (s.amoStart c (a.contexts.headD 0))
  let x := { x with uid := s.serial }
  let s1 := { s with poisonLoc := s.poisonLoc.filter (fun p => !locIn c a p), durRel := s.durRel.filter fun q => !markIn c a q.1 }
  let k1 := k.zeroed a
  (s1.setCore c { k1 with allots := k1.allots ++ [a], apCode := k1.apCode ++ [ap], epCode := k1.epCode ++ [ep], ctxs := tset k1.ctxs (a.contexts.headD 0) x }).drawn.tick

/-- Places a member's gang, core by core; wheel positions come from the free ones (R72). -/
def State.startGang (s : State) (l : Launch) (member : Bool) (ap ep : CodeSec) : Nat → List Nat → List Nat → State
  | _, [], _ => s
  | rank, c :: r, wheel =>
    let n := l.at 42 1
    (s.startOn l member rank c (wheel.take n) ap ep).startGang l member ap ep (rank + 1) r (wheel.drop n)

/-- Places a launch (R40, R55, R58). -/
def State.placeOn (s : State) (l : Launch) (m0 m1 : List Nat) (ap ep : CodeSec) : State :=
  let w := s.freeWheel
  let s1 := s.startGang l false ap ep 0 m0 w
  let s2 := s1.startGang l true ap ep 0 m1 (w.drop (l.at 42 1 * m0.length))
  { (s2.modLaunch l.lid fun l =>
      { l with phase := .placed, everPlaced := true, cores := m0, cores1 := m1, order := s.serial, blocking := false, kept := [], incoming := false, passedSince := none }).tick with
    schedRR := (l.queue + 1) % 64 }

/-! ## Pre-emption (R64) -/

/-- A context as it is saved: an armed monitor is released, to complete with status 0 at resumption (R64 step 7, R66). -/
def Ctx.atSave (x : Ctx) : Ctx :=
  match x.ap.armed with
  | some a => { x with ap := { x.ap with armed := some { a with st := some (a.st.getD 0) } } }
  | none => x

/-- What pre-emption saves of a core: everything of the launch, its storage unless retained (R64, R65); a replay starts over from its first record after resumption (R442). -/
def Core.savedPart (k : Core) (lid : BitVec 32) (retained : Bool) : Core :=
  let as := k.allots.filter fun a => a.lid == lid
  let ids := (k.pendingCmds.filter (Cmd.of lid)).map Cmd.id
  let inB := fun (b : Nat) => !retained && as.any fun a => a.banks.contains b
  let inT := fun (t : Nat) => !retained && as.any fun a => a.tiles.contains t
  let inS := fun (n : Nat) => !retained && as.any fun a => a.slots.contains n
  { Core.reset with
    ctxs := (k.ctxs.filter fun q => q.2.lid == lid).map fun q => (q.1, q.2.atSave)
    apCode := k.apCode.filter fun c => c.lid == lid
    epCode := k.epCode.filter fun c => c.lid == lid
    allots := as
    qs := k.qs.map fun (i, l) => (i, l.filter (Cmd.of lid))
    live := k.live.filter (Cmd.of lid)
    score := k.score.filter fun e => ids.contains e.cmd
    streams := (k.streams.filter fun q => q.2.lid == lid).map fun q => (q.1, { q.2 with asked := none, askPas := [], early := [] })
    staged := k.staged.filter fun q => q.2.lid == lid
    running := k.running.filter fun q => q.2.cmd.lid == lid
    window := k.window.filter fun w => w.cmd.lid == lid
    redo := (k.redo.filter fun r => r.cmd.lid == lid).map fun r => { r with todo := redoList (k.windowOf r.cmd) }
    results := if k.redo.any (fun r => r.cmd.lid == lid) then k.results.filter (fun r => r.cmd.lid == lid) else []
    parked := k.parked.filter fun q => q.cmd.lid == lid
    mTook := k.mTook.filter fun i => ids.contains i
    clob := k.clob.filter fun q => q.lid == lid
    nine := k.nine.filter fun i => ids.contains i
    banks := k.banks.filter fun q => inB (q.1 / 768)
    full := k.full.filter fun q => inB (q.1 / 768)
    kind := k.kind.filter fun q => inB (q.1 / 768)
    bankFill := k.bankFill.filter fun q => inB q.1
    acc := k.acc.filter fun q => inT (q.1 / 64)
    accFill := k.accFill.filter fun q => inT q.1
    slots := k.slots.filter fun q => inS q.1
    grid := if as.any Allot.grid then k.grid else Grid.reset
    prf := if as.any Allot.prf then k.prf else Proofer.reset }

/-- The gang stands at the boundaries of R64: no access, chunk, matrix result, rotation, row of a stream, firing or split sequence of it is in flight (R368). -/
def State.atBoundary (s : State) (l : Launch) : Bool :=
  l.rotating.isEmpty
    && !((s.west.copies ++ s.east.copies).any fun r => r.cmd.lid == l.lid && !r.flight.isEmpty)
    && l.allCores.all fun c => let k := s.core c
      (!(k.results.any fun r => r.cmd.lid == l.lid) || k.redo.any fun r => r.cmd.lid == l.lid) && !(k.streams.any fun q => q.2.lid == l.lid && q.2.out.isSome)
        && (!(match k.allot l.lid with | some a => a.grid | none => false) || k.grid.firing.isEmpty)
        && k.ctxs.all fun q => q.2.lid != l.lid || (q.2.ap.accs.isEmpty && match q.2.ap.wait with | some (.tlbi _) => false | _ => true)

/-- Moves a launch to stand in front of its queue, behind the head it made room for (R66). -/
def requeue (l : Launch) (incoming : BitVec 32) (ls : List Launch) : List Launch :=
  let rest := ls.filter fun m => m.lid != l.lid
  match rest.find? fun m => m.lid == incoming && m.queue == l.queue with
  | some _ => rest.flatMap fun m => if m.lid == incoming then [m, l] else [m]
  | none => l :: rest

/-- Pre-empts a gang for an incoming launch (R64, R65), which is served next (log 83). -/
def State.preempt (s : State) (incoming : BitVec 32) (l : Launch) (retained : Bool) : State :=
  let saved := l.allCores.map fun c => (c, (s.core c).savedPart l.lid retained)
  let copies := ((s.west.copies ++ s.east.copies).filter fun r => r.cmd.lid == l.lid).map fun r => { r with asked := none, early := [] }
  let bad := if retained then [] else s.poisonLoc.filter fun z => saved.any fun q => q.2.allots.any fun a => locIn q.1 a z
  let s0 := s.unplace l
  let s1 := if retained then { s0 with cores := (l.allCores.foldl (fun s c => s.modCore c fun k => keepOnly k l.lid) s).cores } else s0
  let l1 := { l with phase := .preempted, saved := saved, savedCopies := copies, savedPoison := bad, retained := retained, holdWant := none, holdOver := false }
  ({ s1 with launches := requeue l1 incoming s1.launches }).modLaunch incoming fun l => { l with incoming := true }

/-- Joins two tables; entries of the first win. -/
def tjoin {α : Type} (a b : Tbl α) : Tbl α := a.foldl (fun t q => tset t q.1 q.2) b

/-- What of the matrix paths was saved and finds another launch's record in its place (R326). -/
def parkedOf (sv k : Core) : List Parked :=
  sv.parked ++ ((sv.running.filter fun q => (tfind k.running q.1).isSome).map fun q => ⟨q.1, q.2.cmd, some q.2⟩)
    ++ (sv.staged.filter fun q => (tfind k.staged q.1).isSome).map fun q => ⟨q.1, q.2, none⟩
/-- Restores what was saved of a core (R66). -/
def Core.restored (k : Core) (sv : Core) (lid : BitVec 32) (retained : Bool) (cyc now : Nat) : Core :=
  let k0 := { k with allots := k.allots.filter fun a => a.lid != lid }
  let k1 := if retained then k0 else sv.allots.foldl (fun k a => k.zeroed { a with grid := false, prf := false }) k0
  { k1 with
    ctxs := tjoin (sv.ctxs.map fun q => (q.1, { q.2 with cycleBase := cyc })) k1.ctxs
    apCode := k1.apCode ++ sv.apCode
    epCode := k1.epCode ++ sv.epCode
    allots := k1.allots ++ sv.allots
    qs := sv.qs.foldl (fun t q => tset t q.1 (q.2 ++ tget t [] q.1)) k1.qs
    live := k1.live ++ sv.live
    score := k1.score ++ sv.score
    streams := tjoin sv.streams k1.streams
    staged := tjoin k1.staged sv.staged
    running := tjoin k1.running (sv.running.map fun q => (q.1, { q.2 with since := now }))
    window := k1.window ++ sv.window
    redo := match k1.redo with | some r => some r | none => sv.redo
    results := k1.results ++ sv.results.map fun r => { r with since := now }
    parked := k1.parked ++ parkedOf sv k1
    mTook := k1.mTook ++ sv.mTook
    clob := k1.clob ++ sv.clob
    nine := k1.nine ++ sv.nine
    banks := tjoin sv.banks k1.banks
    full := tjoin sv.full k1.full
    kind := tjoin sv.kind k1.kind
    bankFill := tjoin sv.bankFill k1.bankFill
    acc := tjoin sv.acc k1.acc
    accFill := tjoin sv.accFill k1.accFill
    slots := tjoin sv.slots k1.slots
    grid := if sv.allots.any Allot.grid then sv.grid else k1.grid
    prf := if sv.allots.any Allot.prf then sv.prf else k1.prf }

/-- Resumes a pre-empted gang (R66): its copies arrive anew (R178), and its AMO tags keep clear of those a replay cache holds (R429). -/
def State.resume (s : State) (l : Launch) : State :=
  let fresh := fun (c : Nat) (k : Core) => { k with ctxs := k.ctxs.map fun q => (q.1, { q.2 with ap := { q.2.ap with amoTag := s.amoFrom c q.1 q.2.ap.amoTag } }) }
  let s1 := l.saved.foldl (fun s q => s.modCore q.1 fun k => k.restored (fresh q.1 q.2) l.lid l.retained s.cycles s.time.toNat) s
  let copies := ((natsFrom s.serial l.savedCopies.length).zip l.savedCopies).map fun (q : Nat × CopyRun) => { q.2 with arr := q.1 }
  let back := fun (d : Die) (x : DieSt) => { x with copies := x.copies ++ copies.filter fun r => dieOf r.core == d }
  let s2 := ({ s1 with serial := s1.serial + copies.length }.modDie .west (back .west)).modDie .east (back .east)
  let bad := if l.retained then s2.poisonLoc else (s2.poisonLoc.filter fun z => !l.saved.any fun q => q.2.allots.any fun a => locIn q.1 a z) ++ l.savedPoison
  { (s2.modLaunch l.lid fun l =>
      { l with phase := .placed, saved := [], savedCopies := [], savedPoison := [], retained := false, order := s.serial, blocking := false, kept := [], incoming := false, passedSince := none }).tick with
    poisonLoc := bad
    schedRR := (l.queue + 1) % 64 }

/-! ## Events of the scheduler -/

/-- A bad head leaves its queue (R43, R51, R418). -/
def State.badHead (s : State) : Option (Launch × Bad) := s.heads.findSome? fun l => l.bad.map fun b => (l, b)

/-- The gangs with hold sets that the scheduler wants to pre-empt now (R63). -/
def State.wanted (s : State) : List (BitVec 32) :=
  s.ordered.flatMap fun l =>
    let vs : List Launch := match s.choose l with | .want vs => vs | .preempt _ _ _ vs => vs | _ => []
    (vs.filter fun v => !(s.holds v).isEmpty).map Launch.lid
/-- Notes which they are, and since when; what is wanted no more starts anew (R63, R76, R419). -/
def State.noteWanted (s : State) : State :=
  let ws := if s.launches.any Launch.waiting then s.wanted else []
  { s with launches := s.launches.map fun (v : Launch) =>
      { v with holdWant := if ws.contains v.lid then some (v.holdWant.getD s.time.toNat) else none, holdOver := v.holdOver && ws.contains v.lid } }

/-- `PLACE_LAUNCH` (R55): the scheduler reads the records it still waits for; a launch that cannot be placed ends with status 4; else the first head that can be placed is. -/
def execPlaceLaunch (s : State) : Out :=
  let s := s.fillLaunches
  let t : State :=
    match s.badHead with
  | some (l, b) => s.rejectLaunch l b
  | none =>
    match s.pick s.ordered [] with
    | (.place l m0 m1 ap ep, p) => (s.placeOn l m0 m1 ap ep).passOver p
    | (.reject l b, _) => (s.rejectLaunch l b).asksMet (queueDie l.queue) l.pasid
    | (.abortTests _ ts, _) => ts.foldl (fun s v => s.abortLaunch v.lid 1) s
    | (.ask l va, p) => (s.schedMet (queueDie l.queue) l.pasid (s.fndomOf l.fn) .code va 8).passOver p
    | (_, p) => s.passOver p
  .next t.noteWanted

/-- `PREEMPT_GANG` (R64): the next victim stops at its boundaries and is saved. -/
def execPreemptGang (s : State) : Out :=
  .next (match s.badHead with
  | some _ => s
  | none =>
    match s.pick s.ordered [] with
    | (.preempt l v ret _, p) => if s.atBoundary v then ((s.preempt l.lid v ret).passOver p).noteWanted else s
    | _ => s)

/-- `RESUME_GANG` (R66): a pre-empted gang that is the next to be served resumes. -/
def execResumeGang (lid : BitVec 32) (s : State) : Out :=
  .next (match s.badHead with
  | some _ => s
  | none =>
    match s.pick s.ordered [] with
    | (.resume l, p) => if l.lid = lid then ((s.resume l).passOver p).noteWanted else s
    | _ => s)

/-- `AGING_INTERVAL_EXPIRY` (R55): a head passed over for a whole AGEINT becomes blocking. -/
def execAgingIntervalExpiry (queue : Nat) (s : State) : Out :=
  .next (match s.heads.find? fun l => l.queue == queue with
  | some l =>
    (match l.passedSince with
    | some t => if t + s.ageOf ≤ s.time.toNat then s.modLaunch l.lid fun l => { l with blocking := true } else s
    | none => s)
  | none => s)

/-- `HOLD_LIMIT_EXPIRY` (R419): a gang with a hold set that is still wanted becomes a victim; one record, whose address is its first held granule. -/
def execHoldLimitExpiry (lid : BitVec 32) (s : State) : Out :=
  .next (match s.launch lid with
  | some l =>
    (match l.holdWant with
    | some t =>
      if l.phase == .placed && !l.holdOver && decide (t + s.holdlim.toNat ≤ s.time.toNat) && s.wanted.contains lid then
        let r := s.mkRec 12 0 3 (dieMaster mtCtl 0 (queueDie l.queue)) ((s.holds l).head?.map fun g => 8 * g) lid 0xFFFF []
        ((s.modLaunch lid fun l => { l with holdOver := true }).toDevice { r with phys := true })
      else s
    | none => s)
  | none => s)

/-- The link schedule's entries of the supersteps that have begun have been sent: nothing is dropped (R195). -/
def Launch.allSent (l : Launch) : Bool :=
  !l.flag 6 || (List.range (schedEnts l.sched)).all fun i => decide (l.ss < schedAt l.sched i 0 4) || l.ssSent.contains i
/-- Every context of the launch has completed, its task queue is empty (R39), and what its link schedule, its halted copies and its divert log still write has landed (R52, R191), and no record of it waits for its queue. -/
def State.launchDone (s : State) (l : Launch) : Bool :=
  l.phase == .placed && l.tasks.isEmpty && l.xfers.isEmpty && l.divRows.isEmpty && l.allSent
    && !((s.west.recWait ++ s.east.recWait ++ s.west.ctl.buf ++ s.east.ctl.buf).any fun h => h.lid == some l.lid) && !((s.west.copies ++ s.east.copies).any fun r => r.cmd.lid == l.lid && !r.flight.isEmpty)
    && l.allCores.all fun c => !(s.core c).ctxs.any fun q => q.2.lid == l.lid

/-- `LAUNCH_END` (R52); an end whose completion word had to wait is tried again. -/
def execLaunchEnd (lid : BitVec 32) (s : State) : Out :=
  .next (match s.launch lid with
  | some l => if l.phase == .ended || s.launchDone l then s.finishLaunch l else s
  | none => s)

/-! ## Tasks (R41, R44, R45, R257) -/

/-- The wait set of a record of wait kind 1 (R257). -/
def taskWaits (v : Nat) : WaitSet :=
  let f := fun lo => if bitN v lo then some (BitVec.ofNat 4 (fld v (lo + 1) 4)) else none
  ⟨f 10, f 5, f 0⟩
/-- The condition of a queued record (R257). -/
def State.taskReady (s : State) (l : Launch) (member : Bool) (t : Task) : Bool :=
  match t.kind with
  | 2 => t.woken
  | 3 => genPassed (l.bar member (fld t.operand 32 4)).1 (t.operand % 2 ^ 32)
  | 4 => l.producers.all s.trigDone
  | _ => true
/-- The rank and member of a core of the launch. -/
def Launch.rankOf (l : Launch) (c : Nat) : Option (Nat × Bool) :=
  match findIdx (fun d => d == c) l.cores 0 with
  | some r => some (r, false)
  | none => (findIdx (fun d => d == c) l.cores1 0).map fun r => (r, true)
/-- The context a record starts (R41, R45): the saved state where its save area holds one. DESIGN CHOICE: the wait of a record of kind 1 is the AP's, so that it stays where APX is set (R257, log 52). -/
def State.taskCtx (s : State) (l : Launch) (rank : Nat) (member : Bool) (c n : Nat) (t : Task) : Ctx :=
  let w := fun b => BitVec.ofNat 64 (bytesAt t.rcd b 8)
  let fl := bytesAt t.rcd 39 1
  let x0 := Ctx.start l.lid rank member (w 0) (w 8) (w 24) (bytesAt t.rcd 38 1) s.cycles (s.amoStart c n)
  let sv := if bitN fl 0 then
      (match s.xlateNow (queueDie l.queue) l.pasid 0xFFFF .read (bytesAt t.rcd 16 8) with
      | .ok pa _ => tfind s.areas (s.homeAddr pa)
      | _ => none)
    else none
  let x := match sv with
    | some y => { y with lid := l.lid, rank := rank, member := member, argp := w 24, cycleBase := s.cycles, prio := bytesAt t.rcd 38 1, ap := { y.ap with pc := w 0, amoTag := s.amoFrom c n y.ap.amoTag }, ep := { y.ep with pc := w 8 } }
    | none => { x0 with uid := s.serial }
  { x with
    ap := { x.ap with exited := bitN fl 1, wait := if t.kind = 1 then some (.take (taskWaits t.operand) false) else none }
    ep := { x.ep with exited := bitN fl 2 } }

/-- The first record of a launch that core c can take up. -/
def State.taskFor (s : State) (l : Launch) (c : Nat) : Option (Task × Nat × Nat × Bool) :=
  match l.rankOf c, (s.core c).allot l.lid with
  | some (rank, member), some a =>
    (match a.contexts.find? fun n => (s.ctx c n).isNone with
    | some n => ((l.tasks.find? fun t => (bytesAt t.rcd 36 2 == rank || bytesAt t.rcd 36 2 == 0xFFFF) && s.taskReady l member t)).map fun t => (t, n, rank, member)
    | none => none)
  | _, _ => none

/-- `TASK_PICKUP` (R41): the first record that core c can take up leaves its queue and starts; one with both processors exited is complete, and one whose save area must wait for the host, a link or a copied frame stays. -/
def execTaskPickup (core : Nat) (s : State) : Out :=
  .next (match s.launches.findSome? fun l => if l.phase == .placed then (s.taskFor l core).map fun q => (l, q) else none with
  | some (l, t, n, rank, member) =>
    let s1 := s.modLaunch l.lid fun l => { l with tasks := l.tasks.erase t }
    let area := bytesAt t.rcd 16 8
    if fld (bytesAt t.rcd 39 1) 1 2 = 3 then s1
    else if bitN (bytesAt t.rcd 39 1) 0 && s.xlateNow (queueDie l.queue) l.pasid 0xFFFF .read area == .wait then s.schedMet (queueDie l.queue) l.pasid 0xFFFF .read area 1
    else (s1.setCtx core n (s.taskCtx l rank member core n t)).drawn.tick
  | none => s)

end Sys2Proof.Machine
end

