-- ==== Sys2Proof/Machine/Registers.lean ====
section
/-! DEFINITION. The MMIO registers of both dies (R13, R16, R49, R50, R57, R59, R106, R108, R113, R187, R193, R458 to R466): what a write does, by a function or an engine; the release of frozen masters (R400, R460) and of paused streams (R413). -/
namespace Sys2Proof.Machine
open Sys2Proof

/-! ## Release (R400, R413, R460) -/

/-- The fields of MASTER. -/
def mType (m : BitVec 32) : Nat := m.toNat / 2 ^ 28
def mCore (m : BitVec 32) : Nat := fld m.toNat 19 9
def mSlot (m : BitVec 32) : Nat := fld m.toNat 17 2
def mUnit (m : BitVec 32) : Nat := fld m.toNat 8 9
/-- Takes a master off the frozen ones. -/
def State.thaw (s : State) (m : BitVec 32) : State := s.modDie (masterDie m) fun d => { d with frozen := d.frozen.filter fun z => z.master != m }

/-- Abort: the freeze record goes to the launch queue with RETIRED, and the launch ends on every core with status 3 (R400). -/
def State.releaseAbort (s : State) (d : Die) (m : BitVec 32) : State :=
  if !s.isFrozen d m || decide (2 ≤ mType m) then s else
  match s.ctx (mCore m) (mSlot m) with
  | some x =>
    (match x.frozen with
    | some z => ((s.toLaunch x.lid { z.rcd with retired := true }).abortLaunch x.lid 3).thaw m
    | none => s)
  | none => s

/-- Unfreezes one context: its freeze record goes to its slot, or to the launch queue with SPILL (R400). -/
def State.unfreeze (s : State) (c n : Nat) : State :=
  match s.ctx c n with
  | some x =>
    (match x.frozen with
    | some z =>
      let y := { x with frozen := none }
      let s1 := s.thaw z.rcd.master
      (match y.offer z.proc z.rcd with
      | some y' => s1.setCtx c n y'
      | none => (s1.setCtx c n y).toLaunch x.lid { z.rcd with spill := true })
    | none => s)
  | none => s
/-- Trap: the context runs on under R396; of a duplex mismatch both members do (R400, R420). -/
def State.releaseTrap (s : State) (d : Die) (m : BitVec 32) : State :=
  if !s.isFrozen d m || decide (2 ≤ mType m) then s else
  match (s.ctx (mCore m) (mSlot m)).bind fun x => x.frozen.map fun z => (x, z) with
  | some (x, z) =>
    if z.rcd.cls = 12 then
      (match s.launchOf x with
      | some l => (l.allCores.flatMap fun c => (natsFrom 0 4).map fun n => (c, n)).foldl (fun s p =>
          match s.ctx p.1 p.2 with
          | some y => if y.lid == x.lid && (match y.frozen with | some w => w.rcd.cls == 12 | none => false) then s.unfreeze p.1 p.2 else s
          | none => s) s
      | none => s)
    else s.unfreeze (mCore m) (mSlot m)
  | none => s

/-- The tray of a span peer arrives on this link (log 15). -/
def peerLink (tray : Nat) : Nat := Config.spanRoute 0 tray % 6
/-- Clear: a function, peer, port, stream, copy channel, configuration or Proofer is frozen no more (R400). -/
def State.releaseClear (s : State) (d : Die) (m : BitVec 32) : State :=
  if !s.isFrozen d m || decide (mType m < 2) then s else
  let s1 := s.thaw m
  match mType m with
  | 7 => { s1 with fnFrozen := s1.fnFrozen.filter (· != fnIdx ⟨masterDie m, mUnit m⟩) }
  | 8 => { s1 with peerFrozen := s1.peerFrozen.filter fun t => peerLink t != mUnit m }
  | 9 => { s1 with ingFrozen := s1.ingFrozen.filter (· != mUnit m) }
  | _ => s1

/-- A paused stream of a context. -/
def State.pausedAt (s : State) (c n i : Nat) : Option Stream := (s.stream c i).filter fun st => st.owner == n && st.paused.isSome
/-- RESUME: the row is translated again (R413). -/
def State.resumeStream (s : State) (c n i : Nat) : State :=
  match s.pausedAt c n i with
  | some _ => s.modStream c i fun st => { st with paused := none }
  | none => s
/-- ABORT: the stream halts with cause 13 at the address that failed (R411, R413). -/
def State.abortStream (s : State) (c n i : Nat) : State :=
  match s.pausedAt c n i with
  | some st => s.haltStream c i 2 1 13 (st.paused.map fun p => p.2.toNat) false (posDet (some st) 0x70)
  | none => s

/-! ## Frame tags (R120, R461) -/

/-- The frames of the object that starts at a head frame: the head and the body frames behind it. -/
def State.objFrames (s : State) : Nat → Nat → List Nat
  | 0, _ => []
  | n + 1, f => if s.tag f = 2 then f :: s.objFrames n (f + 1) else []
/-- Ends a frame-tag action with a result. -/
def State.ftagDone (s : State) (d : Die) (res : Nat) : State := s.modDie d fun x => { x with ftagBusy := none, ftagRes := BitVec.ofNat 2 res }
/-- Starts a frame-tag action (1 FREE, 2 RETIRE, 3 REMAP), unless one is in progress. -/
def State.ftagStart (s : State) (d : Die) (act frame : Nat) : State :=
  if (s.die d).ftagBusy.isSome || act = 0 then s else s.modDie d fun x => { x with ftagBusy := some { kind := act, arg := frame } }
/-- The effect of a frame-tag action and its result (R461). -/
def State.ftagAct (s : State) (d : Die) (act f : Nat) : State :=
  let a := 4096 * f
  if !isStore a || !s.mapped a then s.ftagDone d 3 else
  match act with
  | 1 =>
    if s.tag f ≠ 1 then s.ftagDone d 1 else
    ({ s with tags := (f :: s.objFrames (s.tags.length + 1) (f + 1)).foldl tdel s.tags }).ftagDone d 0
  | 2 =>
    ({ s with retired := s.retired ++ [f], mem := s.mem.filter fun p => p.1 / 4096 != f, poison := s.poison.filter fun w => w / 512 != f, tags := tdel s.tags f }).ftagDone d 0
  | _ =>
    if !isDur a || decide (durSpares ≤ s.chanSpares a) then s.ftagDone d 2
    else ({ s with remapped := s.remapped ++ [f] }).ftagDone d 0

/-! ## The core map (R462) -/

/-- Site s is a spare of the die that is free and not bad. -/
def State.spareOk (s : State) (d : Die) (site : Nat) : Bool :=
  let x := s.die d
  (natsFrom 0 8).any fun n => (Config.spareSite (8 * dieNat d + n)).toNat == site && x.spareFree.getLsbD n && !x.spareBad.getLsbD n
    && !(x.history.any fun v => mcPending v && !mcRetire v && mcSite v == site)
/-- The status of a change of the map, the gang's check aside (R292, R462). -/
def State.mapStatus (s : State) (retire : Bool) (c site : Nat) : Nat :=
  let d := dieOf c
  if 320 ≤ c then 1
  else if !retire && site / 256 != dieNat d then 3
  else if s.mapPending c then 4
  else if !retire && !s.spareOk d site then 1
  else 0
/-- Records a change, if its status is 0; it takes effect once the core holds no launch. -/
def State.mapRequest (s : State) (retire : Bool) (c site : Nat) : State :=
  if s.mapStatus retire c site ≠ 0 then s else
  s.modDie (dieOf c) fun x => { x with history := x.history ++ [mapChange true retire c (if retire then 0 else site)] }
/-- A MAPCMD write (R462). -/
def State.mapcmd (s : State) (d : Die) (retire : Bool) (c site : Nat) : State :=
  let st := s.mapStatus retire c site
  ((s.mapRequest retire c site).modDie d fun x => { x with mapst := BitVec.ofNat 3 st }).applyMaps

/-! ## Firmware (R463) and links (R464) -/

/-- FWCTL: STAGE starts; SWAP starts, or is refused where the other slot is not verified. -/
def State.fwAct (s : State) (d : Die) (act src : Nat) : State :=
  let x := s.die d
  if x.fwBusy.isSome then s else
  match act with
  | 1 => s.setDie d { x with fwBusy := some { kind := 1, arg := src } }
  | 2 =>
    if (if x.act then x.aVal else x.bVal) then
      s.setDie d { x with fwBusy := some { kind := 2, arg := 0 }, ctl := { x.ctl with up := false, swap := true } }
    else s.setDie d { x with fwLast := 4 }
  | _ => s

/-- The link that LNKCTL k of a die serves: a span link, or an ingest port as a number. -/
def State.spanDown (s : State) (d : Die) (k : Nat) : State :=
  s.modDie d fun x => { x with boot := { x.boot with span := putBit x.boot.span k false }, lnkWidth := tset x.lnkWidth k 0 }
/-- An ingest port loses lock. -/
def State.unlock (s : State) (port : Nat) : State :=
  { s with
    west := { s.west with boot := { s.west.boot with ingest := putBit s.west.boot.ingest port false } }
    ptpPort := if s.ptpPort = some port then (natsFrom 0 4).find? fun p => p != port && s.west.boot.ingest.getLsbD p else s.ptpPort }
/-- An LNKCTL write (R464): 1 RETRAIN, 2 DISABLE, 3 ENABLE and train. -/
def State.lnkAct (s : State) (d : Die) (k act : Nat) : State :=
  if k < 6 then
    let l := LinkId.span d k
    match act with
    | 1 => if (s.die d).lnkOff.contains k then s else { s with retrain := s.retrain.filter (fun r => r.link != l) ++ [{ link := l, lane := 0, asked := true }] }
    | 2 => ({ s with retrain := s.retrain.filter fun r => r.link != l }).spanDown d k |>.modDie d fun x => { x with lnkOff := k :: x.lnkOff }
    | 3 => { s.modDie d fun x => { x with lnkOff := x.lnkOff.filter (· != k) } with
             retrain := s.retrain.filter (fun r => r.link != l) ++ [{ link := l, lane := 0, asked := true }] }
    | _ => s
  else if d = .west ∧ 8 ≤ k ∧ k < 12 then
    match act with
    | 1 => if s.west.lnkOff.contains k then s else (s.unlock (k - 8)).modDie .west fun x => { x with lnkAsked := x.lnkAsked.filter (· != k) ++ [k] }
    | 2 => (s.unlock (k - 8)).modDie .west fun x => { x with lnkOff := k :: x.lnkOff, lnkAsked := x.lnkAsked.filter (· != k) }
    | 3 => s.modDie .west fun x => { x with lnkOff := x.lnkOff.filter (· != k), lnkAsked := x.lnkAsked.filter (· != k) ++ [k] }
    | _ => s
  else s

/-! ## FTTGT (R466) -/

/-- A write of FTTGT; EN 1 with a core of the other die is ignored. -/
def State.fttgtPut (s : State) (d : Die) (v : Nat) : State :=
  let c := fld v 0 9
  if bitN v 63 && (decide (320 ≤ c) || dieOf c != d) then s else s.modDie d fun x => { x with fttgtEn := bitN v 63, fttgtCore := c }

/-! ## Where registers lie -/

/-! ## What a write does -/

/-- Bits hi to lo of a register value, in place. -/
def keep (v hi lo : Nat) : Nat := fld v lo (hi + 1 - lo) * 2 ^ lo

/-- A write of a whole value to a register that is no launch port. -/
def State.regWrite (s : State) (r : Reg) (v : Nat) : State :=
  let w := fun n => BitVec.ofNat 64 n
  match r with
  | .lqcfg q => { s with lqcfg := tset s.lqcfg q (w (keep v 63 52 + keep v 30 0)) }
  | .lqstat q => { s with lqdrop := tdel s.lqdrop q }
  | .ageint => { s with ageint := w v }
  | .holdlim => { s with holdlim := w v }
  | .savebase => { s with savebase := w (keep v 63 16) }
  | .savesize => { s with savesize := w (keep v 63 16) }
  | .astbase => { s with astbase := w (keep v 46 23 + keep v 0 0) }
  | .fndom fn => { s with fndom := tset s.fndom (fnIdx fn) (BitVec.ofNat 16 v) }
  | .part fn k => { s with part := tset s.part (8 * fnIdx fn + k) (w v) }
  | .icfg n => { s with icfg := tset s.icfg n (w (keep v 63 27)) }
  | .idrop n => { s with idrop := tdel s.idrop n }
  | .rwa n => { s with rwa := tset s.rwa n (w (keep v 46 12 + keep v 0 0)) }
  | .rwb n => { s with rwb := tset s.rwb n (w (keep v 63 12)) }
  | .fqbase d => s.modDie d fun x => { x with fqbase := w (keep v 46 6 + keep v 0 0) }
  | .fqcfg d => s.modDie d fun x => { x with fqvec := BitVec.ofNat 11 v }
  | .frzrel d =>
    let m := BitVec.ofNat 32 (v / 2 ^ 32)
    (match v % 4 with | 1 => s.releaseAbort d m | 2 => s.releaseTrap d m | 3 => s.releaseClear d m | _ => s)
  | .sresume _ =>
    (match v % 4 with
    | 1 => s.resumeStream (fld v 55 9) (fld v 53 2) (fld v 48 5)
    | 2 => s.abortStream (fld v 55 9) (fld v 53 2) (fld v 48 5)
    | _ => s)
  | .ftag d => s.ftagStart d (v % 4) (fld v 12 35)
  | .ecnt d u => s.modDie d fun x => { x with ecnt := tdel x.ecnt u }
  | .mapcmd d =>
    (match v % 4 with | 1 => s.mapcmd d false (fld v 55 9) (fld v 46 9) | 2 => s.mapcmd d true (fld v 55 9) 0 | _ => s)
  | .fttgt d => s.fttgtPut d v
  | .fwctl d => s.fwAct d (v % 4) (fld v 6 41 * 64)
  | .fwlen d => s.modDie d fun x => { x with fwlen := BitVec.ofNat 32 v }
  | .lnkctl d k => s.lnkAct d k (v % 4)
  | _ => s

/-- An MMIO write of cells: each register takes its bytes beside those it reads; bytes at a launch port make no submission (R48). -/
def State.mmioWrite (s : State) (cells : List Host.Cell) : State :=
  (granulesOf cells).foldl (fun s g =>
    match regOf (8 * g) with
    | none => s
    | some (.port q) => s.discard q
    | some r =>
      let v := (cells.filter fun p => p.1 / 8 == g).foldl (fun v p => setFld v (8 * (p.1 % 8)) 8 p.2.toNat) (s.regRead r)
      s.regWrite r v) s

/-- Ends a step of an engine: the bytes it wrote to registers reach them (R106). -/
def State.flushRegs (s : State) : State := if s.regq.isEmpty then s else ({ s with regq := [] }).mmioWrite s.regq
/-- `QUEUE_HEAD_START` (R32). -/
def execQueueHeadStart (core : Nat) (q : Qid) (s : State) : Out := .next (s.startHead core q).flushRegs
/-- `STREAM_ROW_WRITE` (R161, R164). -/
def execStreamRowWrite (core : Nat) (a : RowAct) (s : State) : Out := .next (s.rowOut core a.st a.units).flushRegs
/-- `COPY_CHUNK_DONE` (R181). -/
def execCopyChunkDone (die : Die) (a : ChunkAct) (s : State) : Out := .next (s.chunkEvent die a).flushRegs

/-- Freezes a PCIe function for a breach (R399, R468). -/
def State.freezeFn (s : State) (fn : Func) (cause addr acc : Nat) : State :=
  let m := dieMaster mtFunc fn.num fn.link
  if s.fnFrozen.contains (fnIdx fn) then s else
  (({ s with fnFrozen := s.fnFrozen ++ [fnIdx fn] }).addFrozen m).toDevice { s.mkRec 8 2 cause m (some addr) noLid 0xFFFF [(52, 1, acc)] with phys := true }

/-- Answers a requester; none stands for a peer. -/
def State.reply (s : State) (fn : Option Func) (ok : Bool) (l : List Byte) : State := { s with outbox := s.outbox ++ [.reply fn ok l] }
/-- A request of a frozen function ends with Completer Abort, which AER reports (R399). -/
def State.abortFn (s : State) (fn : Func) : State := let t := s.reply (some fn) false []; { t with outbox := t.outbox ++ [.aer fn.link true] }

/-! ## The register rows of the table -/

/-- A register write of a function: aborted while it is frozen, a breach where no rule permits it (R399); it waits in a SWAP (R465). -/
def State.byFn (s : State) (fn : Func) (addr : Nat) (f : State → State) : State :=
  if s.fnFrozen.contains (fnIdx fn) then s.abortFn fn
  else if s.mmioWaits false [addr] then s
  else if fn.num = 0 then f s else s.freezeFn fn 2 addr 1
/-- The physical address of an offset of a die's window. -/
def mmioAddr (d : Die) (o : Nat) : Nat := 0x7F0000000000 + 0x1000000 * dieNat d + o

/-- `LAUNCH_PORT_WRITE` (R47, R48). -/
def execLaunchPortWrite (fn : Func) (queue : Nat) (whole : Bool) (data : BitVec 512) (s : State) : Out :=
  .next (let q := queue % 64
  let a := mmioAddr (queueDie q) (0x1000 + 0x40 * (q % 32))
  if s.fnFrozen.contains (fnIdx fn) then (if lqForeign (s.lq q) fn then s else s.discard q).abortFn fn
  else if lqForeign (s.lq q) fn then s.freezeFn fn 3 a 1
  else (s.submit q fn whole (bytesAt data 0 8) (bytesAt data 8 8) (bytesAt data 16 8)).1)
/-- `REGISTER_WRITE` (R4): a write of 1, 2, 4 or 8 bytes by a function; other sizes, and addresses outside MMIO, name no register. -/
def execRegisterWrite (fn : Func) (addr size : Nat) (value : Word) (s : State) : Out :=
  .next (if !([1, 2, 4, 8].contains size) || addr % size ≠ 0 then s
  else if s.fnFrozen.contains (fnIdx fn) then s.abortFn fn else
  let pas := natsFrom addr size
  if s.mmioWaits false pas then s else
  match s.mmioBreach fn true pas with
  | some cause => s.freezeFn fn cause addr 1
  | none => s.mmioWrite (cellsAt addr (leBytes size value.toNat)))
/-- `FREEZE_RELEASE_ABORT` (R400). -/
def execFreezeReleaseAbort (fn : Func) (die : Die) (master : BitVec 32) (s : State) : Out :=
  .next (s.byFn fn (mmioAddr die 0x8018) fun s => s.releaseAbort die master)
/-- `FREEZE_RELEASE_TRAP` (R400). -/
def execFreezeReleaseTrap (fn : Func) (die : Die) (master : BitVec 32) (s : State) : Out :=
  .next (s.byFn fn (mmioAddr die 0x8018) fun s => s.releaseTrap die master)
/-- `FREEZE_RELEASE_CLEAR` (R400). -/
def execFreezeReleaseClear (fn : Func) (die : Die) (master : BitVec 32) (s : State) : Out :=
  .next (s.byFn fn (mmioAddr die 0x8018) fun s => s.releaseClear die master)
/-- `STREAM_RESUME` (R413). -/
def execStreamResume (fn : Func) (core slot st : Nat) (s : State) : Out :=
  .next (s.byFn fn (mmioAddr (dieOf core) 0x8020) fun s => s.resumeStream core slot st)
/-- `STREAM_RESUME_ABORT` (R413). -/
def execStreamResumeAbort (fn : Func) (core slot st : Nat) (s : State) : Out :=
  .next (s.byFn fn (mmioAddr (dieOf core) 0x8020) fun s => s.abortStream core slot st)
/-- `FTAG_FREE` (R461). -/
def execFtagFree (fn : Func) (die : Die) (frame : Nat) (s : State) : Out := .next (s.byFn fn (mmioAddr die 0x8028) fun s => s.ftagStart die 1 frame)
/-- `FTAG_RETIRE` (R461). -/
def execFtagRetire (fn : Func) (die : Die) (frame : Nat) (s : State) : Out := .next (s.byFn fn (mmioAddr die 0x8028) fun s => s.ftagStart die 2 frame)
/-- `FTAG_REMAP` (R461). -/
def execFtagRemap (fn : Func) (die : Die) (frame : Nat) (s : State) : Out := .next (s.byFn fn (mmioAddr die 0x8028) fun s => s.ftagStart die 3 frame)
/-- `FTAG_ACTION_DONE` (R461): the action in progress takes effect and posts its result. -/
def execFtagActionDone (die : Die) (s : State) : Out :=
  .next (match (s.die die).ftagBusy with
  | some z => (s.ftagAct die z.kind z.arg).settleRecs
  | none => s)
/-- `MAPCMD_SET` (R462). -/
def execMapcmdSet (fn : Func) (die : Die) (lcore site : Nat) (s : State) : Out := .next (s.byFn fn (mmioAddr die 0x8740) fun s => s.mapcmd die false lcore site)
/-- `MAPCMD_RETIRE` (R462). -/
def execMapcmdRetire (fn : Func) (die : Die) (lcore : Nat) (s : State) : Out := .next (s.byFn fn (mmioAddr die 0x8740) fun s => s.mapcmd die true lcore 0)
/-- `FWCTL_STAGE` (R463). -/
def execFwctlStage (fn : Func) (die : Die) (src : Nat) (s : State) : Out := .next (s.byFn fn (mmioAddr die 0x8800) fun s => s.fwAct die 1 src)
/-- `FWCTL_SWAP` (R463). -/
def execFwctlSwap (fn : Func) (die : Die) (s : State) : Out := .next (s.byFn fn (mmioAddr die 0x8800) fun s => s.fwAct die 2 0)
/-- `FIRMWARE_ACTION_DONE` (R463): a STAGE ends with its result, a rejected image with a record (R457); a SWAP ends once the controller is up again. -/
def execFirmwareActionDone (die : Die) (result : BitVec 8) (ver : BitVec 32) (s : State) : Out :=
  .next (let x := s.die die
  match x.fwBusy with
  | none => s
  | some z =>
    if z.kind = 1 then
      let s1 := if result = 0 then
          s.setDie die { x with fwBusy := none, fwLast := 0, aVal := x.aVal || x.act, bVal := x.bVal || !x.act, fwVer := tset x.fwVer (b2n !x.act) ver }
        else s.setDie die { x with fwBusy := none, fwLast := result }
      if result = 0 then s1 else s1.toDevice (s1.mkRec 13 1 4 (dieMaster mtCtl 0 die) none noLid 0xFFFF [])
    else if x.ctl.up then s.setDie die { x with fwBusy := none, fwLast := 0 }
    else s)
/-- `LNKCTL_RETRAIN` (R464). -/
def execLnkctlRetrain (fn : Func) (die : Die) (k : Nat) (s : State) : Out := .next (s.byFn fn (mmioAddr die (0x8900 + 8 * k)) fun s => s.lnkAct die k 1)
/-- `LNKCTL_DISABLE` (R464). -/
def execLnkctlDisable (fn : Func) (die : Die) (k : Nat) (s : State) : Out := .next (s.byFn fn (mmioAddr die (0x8900 + 8 * k)) fun s => s.lnkAct die k 2)
/-- `LNKCTL_ENABLE` (R464). -/
def execLnkctlEnable (fn : Func) (die : Die) (k : Nat) (s : State) : Out := .next (s.byFn fn (mmioAddr die (0x8900 + 8 * k)) fun s => s.lnkAct die k 3)
/-- `FTTGT_WRITE` (R466). -/
def execFttgtWrite (fn : Func) (die : Die) (value : Word) (s : State) : Out := .next (s.byFn fn (mmioAddr die 0x8750) fun s => s.fttgtPut die value.toNat)

end Sys2Proof.Machine
end

