-- ==== Sys2Proof/Machine/ApMem.lean ====
section
/-! DEFINITION. The AP's accesses to memory and scratchpad: loads and stores (R248 to R250), atomics (R251, R252, R132 to R134), `WAITA` and `WAKE` (R71, R255, R256), fences and durability (R128, R142, R143, R253), and how accesses in flight are performed and answered (R124 to R127, R429 to R432). -/
namespace Sys2Proof.Machine
open Sys2Proof

/-! ## Order among the accesses of an AP (R124 to R126, R131) -/

/-- Two accesses name a common byte. -/
def Access.overlaps (a b : Access) : Bool := a.isLocal == b.isLocal && a.addrs.any b.addrs.contains
/-- b, earlier and not performed, holds a back: same class but for a load past a store of other bytes; MMIO after MMIO; common bytes, but for a load of another class, which takes the store's bytes. -/
def Access.holdsBack (b a : Access) : Bool :=
  (b.cls == a.cls && !(b.kind == .st && a.kind == .ld && !b.overlaps a))
    || (b.mmio && a.mmio)
    || (b.overlaps a && !(b.kind == .st && a.kind == .ld))
/-- The access may be performed now, as far as its own processor's order goes. -/
def ApSt.mayPerform (x : ApSt) (a : Access) : Bool := !x.accs.any fun b => decide (b.id < a.id) && !b.performed && b.holdsBack a
/-- The bytes of an access that are not performed: of a misaligned one those that are left (R127). -/
def Access.openAddrs (a : Access) : List Nat := if a.left.isEmpty then a.addrs else a.left.map fun i => a.addrs.getD i 0
/-- The byte an earlier unperformed store of the processor holds for an address: the latest one's (R250). -/
def ApSt.ahead (x : ApSt) (a : Access) (addr : Nat) : Option Byte :=
  ((x.accs.filter fun b => decide (b.id < a.id) && !b.performed && b.kind == .st && b.isLocal == a.isLocal && b.openAddrs.contains addr).getLast?).bind fun b =>
    (findIdx (fun d => d == addr) b.addrs 0).map fun i => BitVec.ofNat 8 (b.data.toNat / 2 ^ (8 * i))

/-! ## Durable order (R142) -/

/-- What a store or atomic releases: by the release fences before it that cover its class, and by itself (R129). -/
def State.releases (s : State) (c n : Nat) (x : Ctx) (a : Access) : List RelRec :=
  if s.dstores.isEmpty then [] else
  let r := fun (mask : BitVec 16) (pos : Nat) (sc : Scope) =>
    let ids := s.relSet x mask pos false
    if ids.isEmpty then [] else [({ ids := ids, scope := sc, core := c, slot := n, lid := x.lid, mask := mask } : RelRec)]
  ((x.ap.relFences.filter fun f => decide (f.1 ≤ a.id) && f.2.1.getLsbD a.cls.toNat).flatMap fun f => r f.2.1 f.1 f.2.2)
    ++ (if a.kind == .amo && (a.sc || a.ord == .rel || a.ord == .ar) then r (clsMask a.cls) a.id a.scope else [])
/-- The releases whose values bytes hold. -/
def State.seen (s : State) (pas : List Nat) : List RelRec := if s.durRel.isEmpty then [] else (pas.flatMap fun a => tget s.durRel [] (s.homeAddr a)).eraseDups
/-- The bytes of an access as the places that hold values of releases: physical addresses, or the marks of scratchpad bytes (R130). -/
def State.places (s : State) (c : Nat) (x : Ctx) (a : Access) : List Nat :=
  if a.isLocal then a.addrs.filterMap fun o => ((s.core c).locOf x.lid o).map fun p => locMark c p.1 p.2 else a.addrs
/-- A read of a class with a number meets releases. -/
def Ctx.meet (x : Ctx) (cls : BitVec 4) (id : Nat) (l : List RelRec) : Ctx :=
  { x with ap := { x.ap with seenRel := (x.ap.seenRel ++ l.map fun r => (cls, id, r)).eraseDups } }
/-- A fence that releases stands behind the stores to scratchpad noted so far, at core scope or wider (R139). -/
def OldUnit.fenced (o : OldUnit) (mask : BitVec 16) (pos : Nat) : OldUnit := { o with fences := o.fences ++ [(pos, mask)] }
/-- What a fence makes happen before later accesses: with a full one what happens before the accesses before it, with an acquire one what happens before the reads among them; a release fence does so for later stores alone (R128). -/
def State.fenceHb (s : State) (x : Ctx) (kind : FKind) (mask : BitVec 16) (pos : Nat) : List (BitVec 16 × Nat × Nat) :=
  (s.relSet x mask pos (kind == .acq)).map fun i => (mask, pos, i)
/-- The part of a fence that happens-before, releases and acquires are made of: it stands at position pos (R128, R129, R139). -/
def State.fenceAt (s : State) (c n : Nat) (x : Ctx) (kind : FKind) (mask : BitVec 16) (sc : Scope) (pos : Nat) : Ctx :=
  let y := if kind == .rel then x else s.acquire c n x mask pos sc ((x.ap.seenRel.filter fun v => mask.getLsbD v.1.toNat).map fun v => v.2.2)
  let before := s.fenceHb x kind mask pos
  { y with ap := { y.ap with
    hb := if kind == .rel then y.ap.hb else s.pruneDur (y.ap.hb ++ before)
    hbStores := s.pruneDur (if kind == .rel then y.ap.hbStores ++ before else y.ap.hbStores)
    mapOld := if kind == .acq || sc == .ctx then y.ap.mapOld else y.ap.mapOld.map fun o => o.fenced mask pos
    relFences := if kind == .acq then y.ap.relFences else y.ap.relFences.filter (fun f => f.2 != (mask, sc)) ++ [(pos, mask, sc)]
    seenRel := y.ap.seenRel.filter fun v => v.2.2.ids.any s.unpersisted } }

/-! ## Performing -/

/-- The AP's record for an access (R395, R425, R432, R453); of a poisoned word of memory its row is copied to a spare (R454). -/
def State.accRecord (s0 : State) (c n : Nat) (x : Ctx) (a : Access) (cls cause : Nat) (det : List (Nat × Nat × Nat)) : State :=
  let s := if cls = 11 ∧ !a.isLocal then s0.usedBad a.addrs else s0
  s.report c n x.lid .ap (s.ctxRec c n x cls 1 cause mtAP 0 (some a.va.toNat) det)

/-- Takes an access out of the AP's list; its register is pending no more. -/
def State.retire (s : State) (c n : Nat) (a : Access) : State :=
  s.modCtx c n fun x => { x with ap := { x.ap with accs := x.ap.accs.filter fun b => b.id != a.id, pend := if a.kind == .st then x.ap.pend else x.ap.pend.filter (· != a.dreg) } }
/-- The value lands in the destination register (R234). -/
def State.deliver (s : State) (c n : Nat) (a : Access) (v : Word) : State := (s.retire c n a).modCtx c n fun x => { x with ap := x.ap.setPhys a.dreg v }
/-- Changes an access in place. -/
def State.modAcc (s : State) (c n id : Nat) (f : Access → Access) : State :=
  s.modCtx c n fun x => { x with ap := { x.ap with accs := x.ap.accs.map fun a => if a.id == id then f a else a } }

/-- The byte at a local offset, 0 outside the allotment. -/
def Core.locByte (k : Core) (c : Nat) (lid : BitVec 32) (o : Nat) : Byte := match k.locOf lid o with | some p => BitVec.ofNat 8 (fld (k.row c p.1).toNat (8 * p.2) 8) | none => 0

/-- The bytes a load reads now: those of earlier stores of its processor first (R250), then memory, scratchpad or registers; none for a poisoned word, an error code for a bad object. -/
def State.loadBytes (s : State) (c : Nat) (x : Ctx) (a : Access) : Except Nat (Option (List Byte)) :=
  let own := a.addrs.map (x.ap.ahead a)
  let open' := (a.addrs.zip own).filterMap fun p => if p.2.isNone then some p.1 else none
  let mix := fun (l : List Byte) => (own.zip l).map fun p => p.1.getD p.2
  if a.isLocal then
    (if s.locPoison c x.lid open' then .ok none else .ok (some (mix (a.addrs.map ((s.core c).locByte c x.lid)))))
  else if a.mmio then .ok (some (mix (s.mmioRead a.addrs)))
  else if s.anyPoison open' then .ok none
  else match s.readBytes a.addrs with
    | .ok l => .ok (some (mix l))
    | .error e => .error e

/-- The value a load writes to D (R248). -/
def loadValue (sgn : Bool) (l : List Byte) : Word := if sgn then signExt (leNat l) (8 * l.length) else zeroExt (leNat l) (8 * l.length)

/-- Performs a load and delivers it; a poisoned word gives 0 and a record (R453). -/
def State.performLoad (s : State) (c n : Nat) (x : Ctx) (a : Access) : State :=
  match s.loadBytes c x a with
  | .ok (some l) =>
    (s.modCtx c n fun y => y.meet a.cls a.id (s.seen (s.places c x a))).deliver c n a (loadValue a.sgn l)
  | .ok none => (s.deliver c n a 0).accRecord c n x a 11 4 []
  | .error _ => (s.drawn).deliver c n a (Config.freeWord s.fresh)

/-- The place at which a context issued a durable store, for a `DFENCE` before it: of a command's write, its command's (R142 item 2). -/
def DStore.issued (d : DStore) : Nat := if d.cmd = 0 then d.pos.getD 0 else d.cmd
/-- A `DFENCE` of a context stands between its access a and a durable store it issued behind it, in classes of its mask (R142 item 2). -/
def Ctx.fencedOff (x : Ctx) (a : Access) (d : DStore) : Bool :=
  d.lid == x.lid && d.uid == x.uid && x.ap.dfences.any fun f => decide (a.id < f.1 ∧ f.1 ≤ d.issued) && f.2.getLsbD a.cls.toNat && f.2.getLsbD d.cls.toNat
/-- The durable stores numbered from `lo` on belong to access a: those of the context that a `DFENCE` places behind it, performed before it, wait for them too (R142 item 2). -/
def State.backOrder (s : State) (x : Ctx) (a : Access) (lo : Nat) : State :=
  let ids := (s.dstores.filter fun d => decide (lo ≤ d.id)).map DStore.id
  { s with dstores := s.dstores.map fun d => if decide (d.id < lo) && x.fencedOff a d then { d with preds := d.preds ++ ids } else d }
/-- Writes a global store's bytes, and notes those of the durable tier with their persist order (R141, R142). -/
def State.storeCells (s : State) (c n : Nat) (x : Ctx) (a : Access) (cells : List Host.Cell) : State :=
  let l := cells.map fun p => (s.homeAddr p.1, p.2)
  let dur := l.filter fun p => isDur p.1
  let rel := s.releases c n x a
  let pre := if dur.isEmpty then [] else s.durBefore c n a.id a.cls
  let whole := a.addrs.headD 0 % a.size == 0
  let units := if whole then [dur] else dur.map fun p => [p]
  let s1 := if dur.isEmpty then s else (units.foldl (fun s u => s.addDurable c n x.lid a.cls (some a.id) u pre none 0) s).backOrder x a s.serial
  (s1.writeMem l).hold (l.map Prod.fst) rel

/-- At most this many stores to one unit of scratchpad are noted. -/
def oldDepth : Nat := 7
/-- Notes what the aligned 8-byte units of scratchpad that a store writes held before it (R139); notes that every command can see past are dropped. -/
def State.noteOld (s : State) (c n : Nat) (x : Ctx) (a : Access) : State :=
  let k := s.core c
  let word := fun (u : Nat) => BitVec.ofNat 64 (leNat ((natsFrom (8 * u) 8).map (k.locByte c x.lid)))
  let keep := fun (l : List OldUnit) => if k.pendingCmds.isEmpty then l.filter fun o => !o.fences.any fun f => f.2 == 0xFFFF else l
  let put := fun (l : List OldUnit) (u : Nat) =>
    let same := l.filter fun o => o.unit == u
    l.filter (fun o => o.unit != u) ++ same.drop (same.length + 1 - oldDepth) ++ [{ unit := u, cls := a.cls, word := word u, fences := [] }]
  s.modCtx c n fun y => { y with ap := { y.ap with mapOld := ((a.addrs.map fun o => o / 8).eraseDups).foldl put (keep y.ap.mapOld) } }
/-- The effect of a store on scratchpad, registers or memory. -/
def State.storeNow (s : State) (c n : Nat) (x : Ctx) (a : Access) : State :=
  let bytes := leBytes a.size a.data.toNat
  if a.isLocal then (((s.noteOld c n x a).putLoc c x.lid (a.addrs.zip bytes)).hold (s.places c x a) (s.releases c n x a))
  else if a.mmio then
    (match s.launchOf x with
    | some l =>
      (match s.mmioBreach l.fn true a.addrs with
      | some cause => s.freezeCtx c n .ap false cause a.va.toNat 1
      | none => s.mmioWrite (a.addrs.zip bytes))
    | none => s)
  else s.storeCells c n x a (a.addrs.zip bytes)
/-- Performs a store. -/
def State.performStore (s : State) (c n : Nat) (x : Ctx) (a : Access) : State := (s.storeNow c n x a).retire c n a

/-- The byte of a misaligned access that is performed next: they are separate accesses in no order (R127; log 3). -/
def State.nextByte (s : State) (a : Access) : Nat := a.left.getD ((Config.freeWord s.fresh).toNat % a.left.length) 0
/-- One byte of a misaligned access, as an access of its own. -/
def Access.byteOf (a : Access) (i : Nat) : Access :=
  { a with addrs := [a.addrs.getD i 0], size := 1, left := [], sgn := false, data := BitVec.ofNat 64 (a.data.toNat / 2 ^ (8 * i) % 256) }
/-- Performs one byte of a misaligned access; the others stay in flight, and the last one ends it (R127). -/
def State.performByte (s : State) (c n : Nat) (x : Ctx) (a : Access) : State :=
  let i := s.nextByte a
  let b := a.byteOf i
  let rest := a.left.filter (· != i)
  if a.kind == .st then
    let s1 := s.drawn.storeNow c n x b
    if rest.isEmpty || (match s1.ctx c n with | some y => y.frozen.isSome | none => true) then s1.retire c n a
    else s1.modAcc c n a.id fun a => { a with left := rest }
  else
    match s.drawn.loadBytes c x b with
    | .ok (some l) =>
      let v := BitVec.ofNat 64 (setFld a.result.toNat (8 * i) 8 (leNat l))
      let s1 := s.drawn.modCtx c n fun y => y.meet a.cls a.id (s.seen (s.places c x b))
      if rest.isEmpty then s1.deliver c n a (loadValue a.sgn (leBytes a.size v.toNat))
      else s1.modAcc c n a.id fun a => { a with left := rest, result := v }
    | .ok none => (s.drawn.deliver c n a 0).accRecord c n x a 11 4 []
    | .error _ => s.drawn.drawn.deliver c n a (Config.freeWord (s.fresh + 1))

/-! ## Atomics (R132) -/

/-- The new value of an atomic on w bits. -/
def amoNew (op : AmoOp) (w o b c : Nat) : Nat :=
  match op with
  | .add => (o + b) % 2 ^ w
  | .min => if sval b w < sval o w then b else o
  | .max => if sval o w < sval b w then b else o
  | .minn => Nat.min o b
  | .maxn => Nat.max o b
  | .and => o &&& b
  | .or => o ||| b
  | .xor => o ^^^ b
  | .swap => b
  | .cas => if o = c then b else o
  | .fadd => (addCode 0 0 false o b).1
/-- The operation writes: min, max, minn, maxn and cas only where the result differs (R132). -/
def amoWrites (op : AmoOp) (o v : Nat) : Bool :=
  match op with | .min | .max | .minn | .maxn | .cas => o != v | _ => true
/-- The width of an atomic in bits. -/
def Access.bits (a : Access) : Nat := 8 * a.size

/-- The reduction window that holds an address (R193). -/
def State.windowOf (s : State) (a : Nat) : Option Nat :=
  (natsFrom 0 16).find? fun w =>
    let v := (tget s.rwa 0 w).toNat
    let base := keep v 46 12
    bitN v 0 && decide (base ≤ a) && decide (a < base + 4096 * fld (tget s.rwb 0 w).toNat 12 28)
/-- MT of a window in ns (R193). -/
def State.mergeTime (s : State) (w : Nat) : Nat := fld (tget s.rwb 0 w).toNat 48 16
/-- The tray contributes to a window. -/
def State.contributes (s : State) (w tray : Nat) : Bool := bitN (fld (tget s.rwb 0 w).toNat 40 8) tray

/-- Performs an atomic at the home of its bytes: the old value, the state after, or none for a poisoned word (R132, R453). -/
def State.amoAt (s : State) (pas : List Nat) (op : AmoOp) (b c : Nat) (write : State → List Host.Cell → State) : Option (Nat × State) :=
  if s.anyPoison pas then none else
  let w := 8 * pas.length
  let o := leNat (pas.map fun a => s.byte (s.homeAddr a))
  let v := amoNew op w o (b % 2 ^ w) (c % 2 ^ w)
  some (o, if amoWrites op o v then write s (pas.zip (leBytes pas.length v)) else s)

/-- An `AMO.SC` before it in the total order has not been performed (R133): they are numbered in the order of their issue. -/
def State.scBefore (s : State) (id : Nat) : Bool :=
  s.cores.any fun q => q.2.ctxs.any fun p => p.2.ap.accs.any fun a => a.sc && !a.performed && decide (a.id < id)

/-- Two requests name the same operation (R431). -/
def Access.same (a b : Access) : Bool :=
  a.phys == b.phys && a.op == b.op && a.size == b.size && a.data == b.data && (a.op != .cas || a.cmp == b.cmp) && a.ord == b.ord && a.sc == b.sc
    && a.cls == b.cls && a.scope == b.scope
/-- A retry repeats a request that was performed, within 800 us of the original's issue (R431). -/
def Access.repeats (a b : Access) : Bool := a.same b && decide (a.issued ≤ b.orig + 800000)
/-- The home's replay cache holds an attempt of an `AMO` of this module, and answers with the old value; a retry that is another operation, or too late, is a new one (R429, R431). -/
def State.replayHit (s : State) (c n : Nat) (a : Access) : Option Word :=
  (s.replay.find? fun r => r.tray == s.tray && r.core == c && r.slot == n && r.tag == a.tag &&
    (match r.req with | some b => !a.retry || a.repeats b | none => false)).map Replay.old
/-- The replay cache of a frame's home is full (R429). -/
def State.replayFull (s : State) (frame : Nat) : Bool :=
  decide (Config.replayDepth (Config.homeOf frame) < (s.replay.filter fun r => Config.homeOf r.frame == Config.homeOf frame).length)
/-- An access's entry for the replay cache. -/
def State.cacheAmo (s : State) (c n : Nat) (a : Access) (old : Word) : State :=
  { s with replay := s.replay ++ [{ tray := s.tray, core := c, slot := n, tag := a.tag, old := old, since := s.time.toNat, frame := a.addrs.headD 0 / 4096, req := some a }] }

/-- An AMO is performed: its old value is kept for its response and in the replay cache; it acquires and releases as its order says (R129, R130, R133); a full cache holds it (R429). -/
def State.performAmo (s : State) (c n : Nat) (x : Ctx) (a : Access) : State :=
  let done := fun (s : State) (v : Word) => s.modAcc c n a.id fun a => { a with performed := true, result := v }
  match s.replayHit c n a with
  | some v => done s v
  | none =>
    match (s.windowOf a.phys).filter fun w => s.contributes w s.tray with
    | some w =>
      let mine := (s.tray, a.data, some (c, n, a.id))
      let pa := a.phys
      if s.merges.any fun m => m.parts.contains mine then s else
      (match s.merges.find? fun m => m.win == w && m.addr == pa && m.op == a.op && m.w32 == (a.size == 4) && decide (s.time.toNat ≤ m.since + s.mergeTime w) with
      | some m => { s with merges := s.merges.map fun q => if q == m then { q with parts := q.parts ++ [mine] } else q }
      | none => { s with merges := s.merges ++ [{ win := w, addr := pa, op := a.op, w32 := a.size == 4, since := s.time.toNat, parts := [mine] }] })
    | none =>
      if s.replayFull (a.addrs.headD 0 / 4096) then s else
      let saw := s.seen a.addrs
      match s.amoAt a.addrs a.op a.data.toNat a.cmp.toNat (fun s l => s.storeCells c n x a l) with
      | none => done (s.accRecord c n x a 11 4 []) 0
      | some (o, s1) =>
        let s2 := s1.modCtx c n fun y =>
          let y1 := y.meet a.cls a.id saw
          if a.sc then s1.fenceAt c n y1 .full (clsMask a.cls) a.scope a.id
          else if a.ord == .acq || a.ord == .ar then s1.acquire c n y1 (clsMask a.cls) a.id a.scope saw
          else y1
        let wrote := amoWrites a.op o (amoNew a.op a.bits o (a.data.toNat % 2 ^ a.bits) (a.cmp.toNat % 2 ^ a.bits))
        let s3 := if wrote then s2.hold a.addrs ((saw ++ s2.seen a.addrs).eraseDups) else s2
        done (s3.cacheAmo c n a (BitVec.ofNat 64 o)) (BitVec.ofNat 64 o)

/-! ## Issue of an access -/

/-- The loads, or stores, in flight of a core's AP (R250): an `AMO` counts as a load. -/
def Core.inFlight (k : Core) (st : Bool) : Nat := (k.ctxs.map fun q => (q.2.ap.accs.filter fun a => (a.kind == .st) == st).length).sum
/-- The limit of R250. -/
def flightLimit : Nat := 32

/-- Ranges [a, a + n) and [b, b + m) meet. -/
def meets (a n b m : Nat) : Bool := decide (a < b + m) && decide (b < a + n)
/-- A scoreboard entry stalls an access of a context (R182). -/
def State.scored (s : State) (c : Nat) (x : Ctx) (isLocal store : Bool) (a n : Nat) : Bool :=
  let k := s.core c
  k.score.any fun e =>
    (match k.pendingCmds.find? fun m => m.id == e.cmd with
    | some m => if isLocal then m.lid == x.lid else s.pasidOf m.lid == s.pasidOf x.lid
    | none => false)
    && ((e.dstLocal == isLocal && meets a n e.dst e.dstLen) || (store && e.srcLocal == isLocal && meets a n e.src e.srcLen))

/-- A new access; one to MMIO is never split (R131; log 3). -/
def Access.new (s : State) (x : Ctx) (kind : AKind) (cls : BitVec 4) (va : Word) (size : Nat) (isLocal : Bool) (addrs : List Nat) (data : Word) (dreg : Nat) (sgn : Bool) : Access :=
  { id := s.serial, pc := x.ap.pc, kind := kind, cls := cls, va := va, size := size, isLocal := isLocal,
    mmio := !isLocal && addrs.any fun a => (match regionOf (s.homeAddr a) with | .mmio _ _ => true | _ => false),
    durable := !isLocal && addrs.any fun a => isDur (s.homeAddr a),
    addrs := if isLocal then addrs else addrs.map s.homeAddr, phys := addrs.headD 0, orig := s.time.toNat,
    left := if addrs.headD 0 % size = 0 || !isLocal && addrs.any (fun a => isMmio (s.homeAddr a)) then [] else List.range size,
    dreg := dreg, sgn := sgn, data := data, cmp := 0, op := .add, ord := .rlx, scope := .ctx, sc := false, hold := false, retry := false, tag := 0,
    performed := false, result := 0, attempts := 0, issued := s.time.toNat }
/-- The access joins those in flight; a destination register is pending (R234). -/
def State.launchAcc (s : State) (c n : Nat) (a : Access) : State :=
  (s.modCtx c n fun y =>
    let x := y.carry a
    { x with ap := { x.ap with accs := x.ap.accs ++ [a], pend := if a.kind == .st || a.dreg == 0 then x.ap.pend else a.dreg :: x.ap.pend } }).tick

/-- What the translation of an AP access ends in when it gives no address (R392, R399, R424). -/
def State.apXlateErr (s : State) (c n : Nat) (acc : Acc) (ea : Word) (e : XRes × Nat) : Res :=
  match e with
  | (.fault code _ _ _, _) => .trap s 0x07 code ea
  | (.breach, _) => .done (s.freezeCtx c n .ap false 1 ea.toNat (accNat acc))
  | _ => .stall s

/-- Translates an AP access. -/
def State.apXlate (s : State) (c : Nat) (x : Ctx) (acc : Acc) (ea : Word) (n : Nat) : State × Except (XRes × Nat) (List Nat) :=
  match s.xlateAll c (s.pasidOf x.lid) (s.domMask x) acc false ea.toNat n with
  | (s1, .ok l) => (s1, .ok (l.map Prod.fst))
  | (s1, .error e) => (s1, .error e)

/-- The breach an MMIO access of a context makes (R106). -/
def State.apMmioBreach (s : State) (x : Ctx) (a : Access) : Option Nat :=
  if !a.mmio then none else match s.launchOf x with | some l => s.mmioBreach l.fn (a.kind == .st) a.addrs | none => some 2

/-- Some byte is read through the lens aperture (R121). -/
def State.inLens (s : State) (pas : List Nat) : Bool := pas.any fun a => match regionOf (s.homeAddr a) with | .lens => true | _ => false

/-- A local offset range: its checks for an AP access (R21, R24, R27, R405). -/
def State.localOk (s : State) (c : Nat) (x : Ctx) (ea : Word) (n : Nat) : Bool := decide (ea.toNat + n ≤ 2 ^ 64) && (s.core c).locOk x.lid ea.toNat n

/-- A full/empty access at an offset (R25, R249): it waits for the bit and for the accesses ordered before it, then acts at once. -/
def State.fullEmpty (s : State) (c n : Nat) (x : Ctx) (a : Access) : Res :=
  let k := s.core c
  match k.locOf x.lid (a.addrs.headD 0) with
  | none => .trap s 0x08 0 (allotVal 1 (a.addrs.headD 0))
  | some (key, _) =>
    let early := x.ap.accs.any fun b => !b.performed && (b.cls == a.cls || b.overlaps a)
    if early || (k.isFull key == (a.kind == AKind.st)) then .stall s else
    let s1 := s.launchAcc c n a
    let s2 := match s1.ctx c n with
      | some y => if a.kind == AKind.st then s1.performStore c n y a else s1.performLoad c n y a
      | none => s1
    .done (s2.modCore c fun k => k.setFull key (a.kind == AKind.st))

/-- A plain local access: performed at once when it is aligned and nothing before it holds it back, else it joins those in flight. -/
def State.localAccess (s : State) (c n : Nat) (a : Access) : State :=
  let s1 := s.launchAcc c n a
  match s1.ctx c n with
  | some y => if y.ap.mayPerform a && a.left.isEmpty then (if a.kind == .st then s1.performStore c n y a else s1.performLoad c n y a) else s1
  | none => s1

/-- The issue of `LD` or `ST` with its address, size, register and value (R248 to R250). -/
def State.memIssue (s : State) (c n : Nat) (x : Ctx) (kind : AKind) (sp : Space) (cls : BitVec 4) (ea : Word) (sz : Nat) (dreg : Nat) (sgn : Bool) (v : Word) : Res :=
  let st := kind == .st
  match sp with
  | .global =>
    if s.scored c x false st ea.toNat sz || decide (flightLimit ≤ (s.core c).inFlight st) then .stall s else
    (match s.apXlate c x (if st then .write else .read) ea sz with
    | (s1, .error e) => s1.apXlateErr c n (if st then .write else .read) ea e
    | (s1, .ok pas) =>
      let a := Access.new s1 x kind cls ea sz false pas v dreg sgn
      (match s1.apMmioBreach x a with
      | some cause => .done (s1.freezeCtx c n .ap false cause ea.toNat (b2n st))
      | none =>
        if s1.inLens pas then
          (if (x.ap.accs.any fun b => !b.performed && b.holdsBack a) || s1.way c true pas != .clear then .stall s1
          else match s1.loadBytes c x a with
            | .error code => .trap s1 0x07 code ea
            | .ok (some l) => .done (s1.launchAcc c n { a with performed := true, result := loadValue sgn l })
            | .ok none => .done ((s1.launchAcc c n { a with performed := true, result := 0 }).accRecord c n x a 11 4 []))
        else
          let s2 := s1.launchAcc c n a
          let gs := (pas.map fun a => s1.homeAddr a / 8).eraseDups
          .done (if st then s2.modCtx c n fun y => { y with hold := y.hold.filter fun g => !gs.contains g } else s2)))
  | .loc =>
    if !s.localOk c x ea sz then .trap s 0x08 0 (allotVal 1 ea.toNat)
    else if s.scored c x true st ea.toNat sz || decide (flightLimit ≤ (s.core c).inFlight st) then .stall s
    else .done (s.localAccess c n (Access.new s x kind cls ea sz true (natsFrom ea.toNat sz) v dreg sgn))
  | .fe =>
    if ea.toNat % sz ≠ 0 then .trap s 0x06 0 ea
    else if !s.localOk c x ea sz then .trap s 0x08 0 (allotVal 1 ea.toNat)
    else if s.scored c x true st ea.toNat sz || decide (flightLimit ≤ (s.core c).inFlight st) then .stall s
    else s.fullEmpty c n x (Access.new s x kind cls ea sz true (natsFrom ea.toNat sz) v dreg sgn)

/-- `LD` (R248). -/
def execLd (f : LdF) (s : State) : Out :=
  .next (apSimple f.g ([f.d, f.a] ++ offRegs f.off) (fun c n x s =>
    s.memIssue c n x .ld f.sp f.cls (x.ap.ea f.a f.off) (wbytes f.w) (sPhys x.ap.rrb f.d.toNat) f.sgn 0) s)
/-- `ST` (R248). -/
def execSt (f : StF) (s : State) : Out :=
  .next (apSimple f.g ([f.d, f.a] ++ offRegs f.off) (fun c n x s =>
    s.memIssue c n x .st f.sp f.cls (x.ap.ea f.a f.off) (wbytes f.w) 0 false (x.ap.s' f.d.toNat)) s)

/-- The wheel step now: it advances every 4 cycles (R72). -/
def State.wheelStep (s : State) : Nat := s.cycles / 4
/-- The core owns the wheel's position for a launch, and no `AMO.SC` has issued at it (R72). -/
def State.scSlot (s : State) (c : Nat) (lid : BitVec 32) : Bool :=
  (match (s.core c).allot lid with | some a => a.wheel.contains (s.wheelStep % 1024) | none => false) && (s.core c).lastSc != some s.wheelStep

/-- The hold set of a context after an `AMO` on a granule: with four entries H counts for nothing (R69). -/
def holdAfter (l : List Nat) (h : Bool) (g : Nat) : List Nat :=
  if h && decide (l.length < 4) then (if l.contains g then l else l ++ [g]) else l.filter (· != g)

/-- A retry with the time its original issued, if it repeats an `AMO` of unknown outcome (R430, R431). -/
def ApSt.original (x : ApSt) (a : Access) : Access :=
  match x.unknown.find? fun b => b.tag == a.tag && a.same b with | some b => { a with orig := b.orig } | none => a
/-- The issue of an `AMO` (R251, R252, R69, R72, R431). -/
def amoIssue (f : AmoF) (sc h rt : Bool) (s : State) : State :=
  apSimple f.g ([f.d, f.a, f.b] ++ (if f.op = .cas then [f.c] else [])) (fun c n x s =>
    let ea := x.ap.s' f.a.toNat
    let sz := if f.w32 then 4 else 8
    let wheel := match s.launchOf x with | some l => l.at 42 1 | none => 0
    if sc && wheel == 0 then .trap s 0x0F 0 ea
    else if ea.toNat % sz ≠ 0 then .trap s 0x07 9 ea
    else if s.scored c x false true ea.toNat sz || decide (flightLimit ≤ (s.core c).inFlight false) then .stall s
    else match s.apXlate c x .atomic ea sz with
      | (s1, .error e) => s1.apXlateErr c n .atomic ea e
      | (s1, .ok pas) =>
        if (s1.windowOf (pas.headD 0)).isSome && (sc || h || rt || f.op == .swap || f.op == .cas) then .trap s1 0x07 10 ea
        else if sc && !s1.scSlot c x.lid then .stall s1
        else
          let tag := if rt then x.ap.retryTag else x.ap.amoTag + 1
          let a := { Access.new s1 x .amo f.cls ea sz false pas (x.ap.s' f.b.toNat) (sPhys x.ap.rrb f.d.toNat) false with
            cmp := x.ap.s' f.c.toNat, op := f.op, ord := f.ord, scope := f.scope, sc := sc, hold := h, retry := rt, tag := tag }
          let b := if rt then x.ap.original a else a
          let s2 := (s1.launchAcc c n b).modCtx c n fun y =>
            { y with hold := holdAfter y.hold h (s1.homeAddr (pas.headD 0) / 8),
                     ap := if rt then y.ap else { y.ap with amoTag := tag } }
          .done (if sc then s2.modCore c fun k => { k with lastSc := some s1.wheelStep } else s2)) s

/-- `AMO` (R251). -/
def execAmo (f : AmoF) (s : State) : Out := .next (amoIssue f false false false s)
/-- `AMO` with SC set (R72, R133). -/
def execAmoSc (f : AmoF) (h : Bool) (s : State) : Out := .next (amoIssue f true h false s)
/-- `AMO` with H set (R69). -/
def execAmoHold (f : AmoF) (s : State) : Out := .next (amoIssue f false true false s)
/-- `AMO` with RT set (R252, R431). -/
def execAmoRetry (f : AmoF) (sc h : Bool) (s : State) : Out := .next (amoIssue f sc h true s)

/-! ## Fences (R128, R142, R143, R253) -/

/-- An earlier access that a fence of a kind and mask orders is not performed. -/
def Ctx.fenceWaits (x : Ctx) (kind : FKind) (mask : BitVec 16) : Bool :=
  x.ap.accs.any fun a => !a.performed && mask.getLsbD a.cls.toNat && !(kind == .acq && a.kind == .st)
/-- `FENCE` (R128, R253). -/
def execFence (f : FenceF) (s : State) : Out :=
  .next (apSimple f.g [] (fun c n x s =>
    if x.fenceWaits f.kind f.mask then .stall s
    else if f.mask = 0 ∨ (s.dstores.isEmpty ∧ x.ap.mapOld.isEmpty) then .done s
    else .done (s.setCtx c n (s.fenceAt c n x f.kind f.mask f.scope s.serial)).tick) s)
/-- `DFENCE` (R142, R143). -/
def execDfence (f : MaskF) (s : State) : Out :=
  .next (apSimple f.g [] (fun c n x s =>
    let live := s.dstores.any fun d => d.lid == x.lid && d.uid == x.uid
    let old := if live || x.ap.accs.any Access.durable then x.ap.dfences else []
    .done (s.setCtx c n { x with ap := { x.ap with dfences := old ++ [(s.serial, f.mask)] } }).tick) s)
/-- A durable store in a class of the mask, the context's own or taken with a token, has not reached the persistence domain (R143). -/
def State.dsyncWaits (s : State) (x : Ctx) (mask : BitVec 16) : Bool :=
  (x.ap.accs.any fun a => a.durable && a.kind != .ld && !a.performed && mask.getLsbD a.cls.toNat)
    || s.dstores.any fun d => d.ownedBy x && mask.getLsbD d.cls.toNat
/-- `DSYNC` (R143). -/
def execDsync (f : MaskF) (s : State) : Out :=
  .next (apSimple f.g [] (fun c n x s =>
    if s.dsyncWaits x f.mask then .stall s else .done (s.setCtx c n { x with lastDsync := some s.time })) s)

/-! ## WAITA and WAKE (R71, R255, R256) -/

/-- The die whose monitor table serves a granule (R71; log 15). -/
def homeDie (a : Nat) : Die :=
  match regionOf a with
  | .hbm => stackDie a
  | _ => if a < 0x020000000000 then .west else .east
/-- The monitors armed in a die's table. -/
def State.armedIn (s : State) (d : Die) : Nat :=
  (s.cores.map fun q => (q.2.ctxs.filter fun p => match p.2.ap.armed with | some a => a.st.isNone && homeDie a.granule == d | none => false).length).sum
/-- The entries of a monitor table. -/
def monitorDepth : Nat := 4096
/-- `WAITA` (R255). -/
def execWaita (f : WaitAF) (s : State) : Out :=
  .next (apSimple f.g [f.d, f.a, f.b, f.c] (fun c n x s =>
    let out := fun (s : State) (v : Nat) => Res.done (s.modCtx c n fun y => { y with ap := { (y.ap.setS f.d.toNat (BitVec.ofNat 64 v)) with armed := none } })
    match x.ap.armed with
    | some a => (match a.st with | some v => out s v | none => .stall s)
    | none =>
      let ea := x.ap.s' f.a.toNat &&& ~~~7#64
      match s.apXlate c x .read ea 8 with
      | (s1, .error e) => s1.apXlateErr c n .read ea e
      | (s1, .ok pas) =>
        let g := s1.homeAddr (pas.headD 0)
        if !isStore g then .trap s1 0x07 8 ea
        else if x.ap.accs.any fun b => !b.performed && !b.isLocal && b.openAddrs.any (pas.map s1.homeAddr).contains then .stall s1
        else if s1.num g 8 ≠ (x.ap.s' f.b.toNat).toNat then out s1 0
        else if monitorDepth ≤ s1.armedIn (homeDie g) then out s1 1
        else .stall (s1.modCtx c n fun y => { y with ap := { y.ap with
          armed := some { id := s1.serial, granule := g, start := s1.time.toNat, timeout := (x.ap.s' f.c.toNat).toNat, st := none } } }).tick) s)

/-- An earlier access of the AP is not performed: a release for all classes waits (R129). -/
def Ctx.unperformed (x : Ctx) : Bool := x.ap.accs.any fun a => !a.performed
/-- The monitors armed on a granule. -/
def State.armedOn (s : State) (g : Nat) : Nat :=
  (s.cores.map fun q => (q.2.ctxs.filter fun p => match p.2.ap.armed with | some a => a.st.isNone && a.granule / 8 == g | none => false).length).sum
/-- `WAKE` (R256); an address that does not translate names no granule. -/
def execWake (f : R2) (s : State) : Out :=
  .next (apSimple f.g [f.d, f.a] (fun c n x s =>
    if x.unperformed then .stall s else
    let put := fun (s : State) (v : Nat) => Res.done (s.modCtx c n fun y => { y with ap := y.ap.setS f.d.toNat (BitVec.ofNat 64 v) })
    match s.apXlate c x .read (x.ap.s' f.a.toNat &&& ~~~7#64) 8 with
    | (s1, .error (.wait, _)) => .stall s1
    | (s1, .error _) => put s1 0
    | (s1, .ok pas) =>
      let g := s1.homeAddr (pas.headD 0) / 8
      put ((s1.wakeMonitors [g]).wakeTasks [g]) (s1.armedOn g)) s)

/-! ## What becomes of accesses in flight -/

/-- The resident context of a launch with a number of its own. -/
def State.ctxUid (s : State) (lid : BitVec 32) (uid : Nat) : Option Ctx :=
  s.cores.findSome? fun q => (q.2.ctxs.find? fun p => p.2.lid == lid && p.2.uid == uid).map Prod.snd
/-- The context in a slot and its access with a number. -/
def State.accOf (s : State) (c n id : Nat) : Option (Ctx × Access) :=
  (s.ctx c n).bind fun x => (x.ap.accs.find? fun a => a.id == id).map fun a => (x, a)
/-- The way an access takes; a local one waits while the running Prism configuration owns a bank of it (R27; log 72). -/
def State.accWay (s : State) (c : Nat) (x : Ctx) (a : Access) : Way :=
  if a.isLocal then (if a.addrs.all fun o => (s.core c).locOk x.lid o 1 then .clear else .wait) else s.way c (a.kind != .st) a.addrs

/-- A load gets no answer (R432, R451): its register is not written, and the AP traps with code 15 at it. -/
def State.loadLost (s : State) (c n : Nat) (x : Ctx) (a : Access) : State :=
  let s1 := s.retire c n a
  if x.ap.exited || x.frozen.isSome then s1 else s1.takeTrap c n .ap 0x07 15 a.va a.pc
/-- A store gets no acknowledgement: it is dropped with a record (R432). -/
def State.storeLost (s : State) (c n : Nat) (x : Ctx) (a : Access) : State :=
  (s.retire c n a).accRecord c n x a 7 15 (xDet 255 0 1 (s.pasidOf x.lid) 0)

/-- `LOAD_RESPONSE` (R234): a load is performed and its data lands in its register. -/
def execLoadResponse (core slot id : Nat) (s : State) : Out :=
  .next (match s.accOf core slot id with
  | some (x, a) =>
    if a.kind != .ld then s
    else if a.performed then s.deliver core slot a a.result
    else if !x.ap.mayPerform a then s
    else (match s.accWay core x a with
      | .clear => if a.left.isEmpty then s.performLoad core slot x a else s.performByte core slot x a
      | .down => s.loadLost core slot x a
      | .wait => s)
  | none => s)
/-- `STORE_PERFORMED` (R250). -/
def execStorePerformed (core slot id : Nat) (s : State) : Out :=
  .next (match s.accOf core slot id with
  | some (x, a) =>
    if a.kind != .st || !x.ap.mayPerform a then s
    else (match s.accWay core x a with
      | .clear => if a.left.isEmpty then s.performStore core slot x a else s.performByte core slot x a
      | .down => s.storeLost core slot x a
      | .wait => s)
  | none => s)
/-- An `AMO` of unknown outcome that a full replay cache has held is performed: once, and with it what it releases (R429, R430, R431). -/
def State.performHeld (s : State) (h : HeldAmo) : State :=
  let s0 := { s with heldAmos := s.heldAmos.filter (· != h) }
  let a := h.acc
  if (s.replayHit h.core h.slot a).isSome then s0 else
  let x := (s.ctxUid h.lid h.uid).getD { Ctx.start h.lid 0 false 0 0 0 0 0 0 with uid := h.uid }
  match s0.amoAt a.addrs a.op a.data.toNat a.cmp.toNat (fun s l => s.storeCells h.core h.slot x a l) with
  | none => s0.accRecord h.core h.slot x a 11 4 []
  | some (o, s1) =>
    let wrote := amoWrites a.op o (amoNew a.op a.bits o (a.data.toNat % 2 ^ a.bits) (a.cmp.toNat % 2 ^ a.bits))
    (if wrote then s1.hold a.addrs ((s.seen a.addrs ++ s1.seen a.addrs).eraseDups) else s1).cacheAmo h.core h.slot a (BitVec.ofNat 64 o)
/-- `AMO_HOME_PERFORM` (R132, R133, R134, R429); also of a request that a full replay cache has held past its last attempt. -/
def execAmoHomePerform (core slot id : Nat) (s : State) : Out :=
  .next (match s.accOf core slot id with
  | some (x, a) =>
    if a.kind != .amo || a.performed || !x.ap.mayPerform a || (a.sc && s.scBefore id) then s
    else if s.accWay core x a = .clear then s.performAmo core slot x a else s
  | none =>
    match s.heldAmos.find? fun h => h.core == core && h.slot == slot && h.acc.id == id with
    | some h => if s.replayFull (h.acc.addrs.headD 0 / 4096) then s else s.performHeld h
    | none => s)
/-- `AMO_RESPONSE` (R251): the old value returns to D. -/
def execAmoResponse (core slot id : Nat) (s : State) : Out :=
  .next (match s.accOf core slot id with
  | some (_, a) => if a.kind == .amo && a.performed then s.deliver core slot a (zeroExt a.result.toNat a.bits) else s
  | none => s)
/-- The last attempt of an `AMO` is held at the input of its home, whose replay cache is full: it may still be performed (R429, R430; log 57). -/
def State.heldAt (s : State) (x : Ctx) (a : Access) : Bool :=
  !a.performed && x.ap.mayPerform a && ((s.windowOf a.phys).filter fun w => s.contributes w s.tray).isNone && s.replayFull (a.addrs.headD 0 / 4096)
/-- An `AMO` ends with its outcome unknown: it is kept for its retries, and no acquire of it took place (R430, R431). -/
def Ctx.unknownAmo (y : Ctx) (a : Access) (now : Nat) : Ctx :=
  let hb := y.ap.hb.filter fun e => e.2.1 != a.id
  let hs := y.ap.hbStores.filter fun e => e.2.1 != a.id
  { y with ap := { y.ap with
    hb := hb, hbStores := hs, durPreds := y.ap.durPreds.filter fun e => e.2.1 != a.id, seenRel := y.ap.seenRel.filter fun v => v.2.1 != a.id
    carried := y.ap.carried.filter fun e => hb.any (fun v => v.2.2 == e.1) || hs.any fun v => v.2.2 == e.1
    unknown := (y.ap.unknown.filter fun b => decide (now ≤ b.orig + 800000)) ++ [a] } }
/-- `AMO_ATTEMPT_TIMEOUT` (R429, R430): the same request goes again, or after the ninth attempt the outcome is unknown, and no acquire took place. -/
def execAmoAttemptTimeout (core slot id : Nat) (s : State) : Out :=
  .next (match s.accOf core slot id with
  | some (x, a) =>
    if a.kind != .amo || decide (s.time.toNat < a.issued + 20000 * (a.attempts + 1)) then s
    else if a.attempts < 8 then s.modAcc core slot id fun a => { a with attempts := a.attempts + 1 }
    else
      let s0 := { s with
        merges := s.merges.map fun (m : Merge) => { m with parts := m.parts.filter fun p => p.2.2 != some (core, slot, id) }
        heldAmos := if s.heldAt x a then s.heldAmos ++ [({ core := core, slot := slot, uid := x.uid, lid := x.lid, acc := a } : HeldAmo)] else s.heldAmos }
      let s1 := s0.modCtx core slot fun y => y.unknownAmo a s.time.toNat
      (s1.deliver core slot a 0).accRecord core slot x a 7 16
        ([(32, 4, a.tag.toNat), (40, 8, a.va.toNat), (48, 1, 0x42)] ++ xDet 255 0 2 (s.pasidOf x.lid) 0)
  | none => s)
/-- `REPLAY_CACHE_EXPIRY` (R429): 1 ms after the atomic was performed. -/
def execReplayCacheExpiry (idx : Nat) (s : State) : Out :=
  .next (match s.replay[idx]? with
  | some r => if r.since + 1000000 ≤ s.time.toNat then { s with replay := s.replay.eraseIdx idx } else s
  | none => s)
/-- 180 microseconds of device time. -/
def answerNs : Nat := 180000
/-- A far access of an AP has no answer for that long (R432). -/
def State.accNoAnswer (s : State) (c n : Nat) (x : Ctx) (a : Access) : State :=
  if a.isLocal || !s.anyFar a.addrs || decide (s.time.toNat < a.issued + answerNs) then s else
  match a.kind with
  | .ld => s.loadLost c n x a
  | .st => s.storeLost c n x a
  | .amo => s
/-- A row a stream has asked the host or a peer for, or is writing there, has no answer for that long: the stream halts with code 15 (R423, R424). -/
def State.streamNoAnswer (s : State) (c i : Nat) (t : Stream) : State :=
  match t.asked, t.out with
  | some q, _ =>
    if s.time.toNat < q.2 + answerNs then s else
    let va := (rowAddrs t.desc t.map (rowTotal t.desc t.map) t.pos).headD 0
    s.streamErr c i .read (.fault 15 va (xDet 255 0 0 (s.pasidOf t.lid) 0) : Eng Unit)
  | none, some o => if t.divert || !s.anyFar (o.cells.map Prod.fst) || decide (s.time.toNat < o.since + answerNs) then s else s.rowLost c i t
  | none, none => s
/-- A chunk a copy has asked the host or a peer for, or is writing there, has no answer for that long: the copy stops with code 15 (R423, R424). -/
def State.copyNoAnswer (s : State) (d : Die) (r : CopyRun) (id : Nat) : State :=
  match r.asked, r.flight.find? fun k => k.id == id, cpyOf r.cmd.instr with
  | some q, none, some f =>
    if s.time.toNat < q.2 + answerNs then s else
    let off := chunkBytes * r.next
    let side := (s.farSide r f).getD (r.src + off, false)
    let acc := if side.2 then Acc.write else .read
    let rc := s.copyRec r off acc (.fault 15 side.1 (xDet 255 0 (accNat acc) (s.pasidOf r.cmd.lid) 0) : Eng Unit)
    (s.modDie d fun x => x.modCopy r.arr fun y => { y with stop := some rc, asked := none }).reapCopies d
  | _, some k, _ => if k.far.isNone || decide (s.time.toNat < k.since + answerNs) then s else s.chunkLost d r k
  | _, _, _ => s
/-- The request of an armed `WAITA` has lost its response: it completes with status 0 (R432). -/
def Ctx.waitaNoAnswer (x : Ctx) (id now : Nat) : Ctx :=
  match x.ap.armed with
  | some a => if a.id = id ∧ a.st.isNone ∧ a.start + answerNs ≤ now then { x with ap := { x.ap with armed := some { a with st := some 0 } } } else x
  | none => x
/-- A request of the scheduler has no answer for that long: what it is for ends with code 15, and records that waited for it go on (R423, R424). -/
def State.schedNoAnswer (s : State) (d : Die) (id : Nat) : State :=
  (s.modDie d fun x => { x with asks := x.asks.map fun (k : SchedAsk) => if k.id == id && decide (k.since + answerNs ≤ s.time.toNat) then { k with late := true } else k }).settleRecs
/-- The request of a command that starts has no answer for that long: it halts with code 15 when it goes on (R423, R424). -/
def Core.cmdNoAnswer (k : Core) (id now : Nat) : Core :=
  { k with cmdAsk := k.cmdAsk.map fun q => if q.2.1 == id && decide (q.2.2.1 + answerNs ≤ now) then (q.1, q.2.1, q.2.2.1, true) else q }
/-- `REQUEST_NO_ANSWER` (R423, R424, R432): 180 us without an answer to a request: of an AP's access, of its `WAITA`, of a stream's row, of a copy's chunk, of a command that starts, of the scheduler. -/
def execRequestNoAnswer (core slot id : Nat) (s : State) : Out :=
  .next (match s.accOf core slot id with
  | some (x, a) => s.accNoAnswer core slot x a
  | none =>
    match (s.core core).streams.find? fun q => q.2.asked.any (fun e => e.1 == id) || q.2.out.any fun e => e.id == id with
    | some (i, t) => s.streamNoAnswer core i t
    | none =>
      match (s.die (dieOf core)).copies.find? fun r => r.core == core && (r.asked.any (fun e => e.1 == id) || r.flight.any fun k => k.id == id) with
      | some r => s.copyNoAnswer (dieOf core) r id
      | none =>
        if (s.core core).cmdAsk.any fun q => q.2.1 == id then s.modCore core fun k => k.cmdNoAnswer id s.time.toNat
        else if s.west.asks.any fun k => k.id == id then s.schedNoAnswer .west id
        else if s.east.asks.any fun k => k.id == id then s.schedNoAnswer .east id
        else s.modCtx core slot fun x => x.waitaNoAnswer id s.time.toNat)

/-- The contributions of a merge in ascending tray identity, folded with its operation (R134). -/
def foldMerge (op : AmoOp) (w : Nat) : List Nat → Nat
  | [] => 0
  | v :: r => r.foldl (fun a b => amoNew op w a (b % 2 ^ w) 0) (v % 2 ^ w)
/-- Inserts a contribution behind those of lower or equal tray identity. -/
def insertTray (p : Nat × Nat) : List (Nat × Nat) → List (Nat × Nat)
  | [] => [p]
  | q :: r => if p.1 < q.1 then p :: q :: r else q :: insertTray p r
/-- `REDUCTION_MERGE_TIMEOUT` (R134, R193): MT after the first contribution the merged update is performed at its home; every contributor of this module gets the old value. Contributions of frozen peers, and of trays not in MASK, are dropped (R399). -/
def execReductionMergeTimeout (idx : Nat) (others : List (Nat × Word)) (s : State) : Out :=
  .next (match s.merges[idx]? with
  | none => s
  | some m =>
    if s.time.toNat < m.since + s.mergeTime m.win || s.replayFull (s.homeAddr m.addr / 4096) then s else
    let w := if m.w32 then 32 else 64
    let far := others.filter fun p => p.1 != s.tray && s.contributes m.win p.1 && !s.peerFrozen.contains p.1
    let all := ((m.parts.map fun p => (p.1, p.2.1.toNat)) ++ far.map fun p => (p.1, p.2.toNat)).foldl (fun l p => insertTray p l) []
    let s0 := { s with merges := s.merges.eraseIdx idx }
    if all.isEmpty then s0 else
    let pas := natsFrom m.addr (w / 8)
    let fin := fun (s : State) (v : Word) => m.parts.foldl (fun s p => match p.2.2 with
      | some (c, n, id) =>
        let s1 := s.modAcc c n id fun a => { a with performed := true, result := v }
        (match s.accOf c n id with | some (_, a) => s1.cacheAmo c n a v | none => s1)
      | none => s) s
    match s0.amoAt pas m.op (foldMerge m.op w (all.map Prod.snd)) 0 State.unitWrite with
    | some (o, s1) => fin s1 (BitVec.ofNat 64 o)
    | none => m.parts.foldl (fun (s : State) p => match p.2.2 with
        | some (c, n, id) => (match s.accOf c n id with | some (x, a) => s.accRecord c n x a 11 4 [] | none => s)
        | none => s) (fin s0 0))

/-! ## Persistence (R142 to R144) -/

/-- A durable store that persist order places before d is not performed or has not persisted. -/
def State.persistWaits (s : State) (d : DStore) : Bool :=
  (d.preds.any fun i => s.dstores.any fun e => e.id == i)
    || (match s.ctxUid d.lid d.uid with
      | some x => x.ap.accs.any fun a => a.durable && a.kind != .ld && !a.performed && x.fencedOff a d
      | none => false)
/-- `PERSISTENCE_DOMAIN_REACHED` (R143): a durable store reaches the persistence domain, whole, after all that persist order places before it. -/
def execPersistenceDomainReached (id : Nat) (s : State) : Out :=
  .next (match s.dstores.find? fun d => d.id == id with
  | some d =>
    if s.persistWaits d then s
    else { s with dstores := s.dstores.filter fun e => e.id != id, durImg := d.cells.foldl (fun t p => tput t memDefault p.1 p.2) s.durImg }
  | none => s)

end Sys2Proof.Machine
end

