-- ==== Sys2Proof/Machine/EpScalar.lean ====
section
/-! DEFINITION. The EP's scalar and control instructions: ES-form arithmetic (R310), compares, predicates and masks (R310, R312), branches and loops (R313), waits, exit, notification (R314) and the value queues (R315). -/
namespace Sys2Proof.Machine
open Sys2Proof

/-- Two sources, one w-bit result, sign-extended (R310, R235). -/
def ealu2 (op : Nat → Nat → Nat → Nat) (f : EAlu) (s : State) : State :=
  epRegs f.g (fun x =>
    x.setE f.d.toNat (signExt (op (wbits f.w) (lowW (wbits f.w) (x.e' f.a.toNat)) (lowW (wbits f.w) (x.src f.b))) (wbits f.w))) s

/-- `EADD` (R310). -/
def execEadd (f : EAlu) (s : State) : Out := .next (ealu2 iAdd f s)
/-- `ESUB` (R310). -/
def execEsub (f : EAlu) (s : State) : Out := .next (ealu2 iSub f s)
/-- `EMUL` (R310). -/
def execEmul (f : EAlu) (s : State) : Out := .next (ealu2 iMul f s)
/-- `EAND` (R310). -/
def execEand (f : EAlu) (s : State) : Out := .next (ealu2 iAnd f s)
/-- `EOR` (R310). -/
def execEor (f : EAlu) (s : State) : Out := .next (ealu2 iOr f s)
/-- `EXOR` (R310). -/
def execExor (f : EAlu) (s : State) : Out := .next (ealu2 iXor f s)
/-- `ESHL` (R310). -/
def execEshl (f : EAlu) (s : State) : Out := .next (ealu2 iShl f s)
/-- `ESHR` (R310). -/
def execEshr (f : EShrF) (s : State) : Out := .next (ealu2 (if f.sgn then iSar else iShr) ⟨f.g, f.w, f.d, f.a, f.b⟩ s)
/-- `ELI` (R310, R239). -/
def execEli (f : EliF) (s : State) : Out := .next (epRegs f.g (fun x => x.setE f.d.toNat (f.imm.signExtend 64)) s)
/-- `ELIH` (R310, R239). -/
def execElih (f : EliF) (s : State) : Out :=
  .next (epRegs f.g (fun x => x.setE f.d.toNat (BitVec.ofNat 64 (f.imm.toNat * 2 ^ 32 + (x.e' f.d.toNat).toNat % 2 ^ 32))) s)
/-- `ECMP` (R310, R240). -/
def execEcmp (f : CmpF 5) (s : State) : Out :=
  .next (epRegs f.g (fun x =>
    let r := cmpPair f.mode (ccHolds f.cc f.w32 (x.e' f.a.toNat) (x.csrc f.b)) (x.qr f.pt.toNat) (x.qr f.pf.toNat)
    (x.setQ f.pf.toNat r.2).setQ f.pt.toNat r.1) s)

/-- `EPMOV.GET` (R312). -/
def execEpmovGet (f : E1) (s : State) : Out := .next (epRegs f.g (fun x => x.setE f.r.toNat (x.preds.setWidth 64)) s)
/-- `EPMOV.SET` (R312). -/
def execEpmovSet (f : E1) (s : State) : Out := .next (epRegs f.g (fun x => { x with q := (x.e' f.r.toNat).setWidth 16 &&& 0xFFFE, bad := x.bad.filter fun b => !(256 ≤ b && b < 512) }) s)
/-- `EPMOV.MGET` (R312). -/
def execEpmovMget (f : EpmF) (s : State) : Out :=
  .next (epRegs f.g (fun x => x.setE f.r.toNat (BitVec.ofNat 64 (fld (x.mr f.n.toNat).toNat (64 * f.k.toNat) 64))) s)
/-- `EPMOV.MSET` (R312). -/
def execEpmovMset (f : EpmF) (s : State) : Out :=
  .next (epRegs f.g (fun x =>
    x.setM f.n.toNat (BitVec.ofNat 256 (setFld (x.mr f.n.toNat).toNat (64 * f.k.toNat) 64 (x.e' f.r.toNat).toNat))) s)

/-- The EP's loop stack after a taken `EBR`: without a link, a target outside the top body pops the entry (R313). -/
def ebrLoops (link : Nat) (target : Word) : List LoopEntry → List LoopEntry
  | [] => []
  | e :: r => if link = 0 ∧ ¬(e.start.toNat ≤ target.toNat ∧ target.toNat < e.fin.toNat) then r else e :: r

/-- `EBR` (R313); taken with LINK 0 and BASE ≠ 0 it leaves the handler state (R392). -/
def execEbr (f : BrF 5) (s : State) : Out :=
  .next (epSimple f.g (fun c n x s =>
    let base := if f.base = 0 then x.ep.pc else x.ep.e' f.base.toNat
    let target := base + f.off.signExtend 64
    if target.toNat % 8 ≠ 0 then .trap s 0x02 0 target else
    let y := { x.ep.setE f.link.toNat (x.ep.pc + 8) with
      loops := ebrLoops f.link.toNat target x.ep.loops
      handler := x.ep.handler && !(f.link == 0 && f.base != 0) }
    .jump (s.setCtx c n { x with ep := y }) target) s)

/-- `ELOOP` (R313, R244). -/
def execEloop (f : EloopF) (s : State) : Out :=
  .next (epSimple f.g (fun c n x s =>
    let cnt := (x.ep.e' f.cnt.toNat).toNat
    let e := loopEntry x.ep.pc f.len cnt 0 false false
    if cnt = 0 then .jump s e.fin
    else if x.ep.loops.length = 4 then .trap s 0x0B 0 x.ep.pc
    else .jump (s.setCtx c n { x with ep := { x.ep with loops := e :: x.ep.loops } }) e.start) s)

/-- `EWAIT` (R314, R36). -/
def execEwait (f : WaitTF) (s : State) : Out :=
  .next (epIssue f.g 1 (waitToks f.waits) none (fun c n x s =>
    let y := x.settle
    if s.epTakes c n y f.waits then .done (s.setCtx c n (y.take f.waits)) else .stall (s.setCtx c n y)) s)

/-- `EEXIT` (R314, R37). -/
def execEexit (f : G0) (s : State) : Out :=
  .next (epSimple f.g (fun c n x s => .left ((s.setCtx c n (x.exitEp s.serial)).modCore c fun k => k.endBlock .ep)) s)

/-- `ENOTIFY` (R314). -/
def execEnotify (f : NotF) (s : State) : Out :=
  .next (epIssue f.g 1 [f.tok] none (fun c n x s => .done (s.setCtx c n (x.mark false s.serial (some f.tok)))) s)

/-- `ESEND` (R315, R33). -/
def execEsend (f : SendF 5) (s : State) : Out :=
  .next (epSimple f.g (fun c n x s =>
    if 16 ≤ x.toAp.length then .stall s else .done (s.setCtx c n { x with toAp := x.toAp ++ [x.ep.src f.v] })) s)

/-- `ERECV` (R315, R33). -/
def execErecv (f : E1) (s : State) : Out :=
  .next (epSimple f.g (fun c n x s =>
    match x.toEp with
    | [] => .stall s
    | v :: r => .done (s.setCtx c n { x with toEp := r, ep := x.ep.setE f.r.toNat v })) s)

end Sys2Proof.Machine
end

