-- ==== Sys2Proof/Machine/Gang.lean ====
section
/-! DEFINITION. The AP's gang and system instructions: barrier arrival (R283, R68), `TRIG` (R284, R62), `LAUNCH`, `SPAWN` and `SUSPEND` (R285 to R287, R41), `TLBI` (R290, R116), field test and the core map (R291, R292), and the answers that end their waits. -/
namespace Sys2Proof.Machine
open Sys2Proof

/-- The AP waits for an answer, with a destination register pending (R234). -/
def Ctx.awaits (x : Ctx) (d : BitVec 6) (w : Nat → ApWait) : Ctx :=
  let p := sPhys x.ap.rrb d.toNat
  { x with ap := { x.ap with wait := some (w p), pend := if p = 0 then x.ap.pend else p :: x.ap.pend } }
/-- The answer lands in physical register p. -/
def Ctx.answered (x : Ctx) (p : Nat) (v : Word) : Ctx :=
  let a := x.ap.setPhys p v
  { x with ap := { a with wait := none, pend := a.pend.filter (· != p) } }
/-- Writes D. -/
def State.putD (s : State) (c n : Nat) (d : BitVec 6) (v : Nat) : State :=
  s.modCtx c n fun y => { y with ap := y.ap.setS d.toNat (BitVec.ofNat 64 v) }

/-! ## Barriers and triggers -/

/-- One arrival at a barrier of a member (R68), which releases durable stores to the waits for its phase and later ones (R129). -/
def Launch.arrive (l : Launch) (member : Bool) (b : Nat) (ids : List Nat) : Launch :=
  let (gen, cnt) := l.bar member b
  let (now, before) := l.barIds member b
  let full := decide (cnt + 1 = l.gang)
  { l with
    bars := tset l.bars (barKey member b) (if full then ((gen + 1) % 2 ^ 32, 0) else (gen, cnt + 1))
    barRel := tset l.barRel (barKey member b) (if full then ([], (now ++ before ++ ids).eraseDups) else ((now ++ ids).eraseDups, before)) }
/-- `BARA` (R283): a release, then one arrival; the generation at it comes with the unit's answer. -/
def execBara (f : BaraF) (s : State) : Out :=
  .next (apSimple f.g [f.d] (fun c n x s =>
    match s.launchOf x with
    | none => .stall s
    | some l =>
      if x.unperformed || x.ap.wait.isSome then .stall s else
      let b := f.bar.toNat
      let s1 := s.setCtx c n (x.awaits f.d fun p => .barrier p (BitVec.ofNat 64 (l.bar x.member b).1))
      .done (s1.modLaunch x.lid fun l => l.arrive x.member b (s.relAll x))) s)
/-- `BARRIER_ANSWER` (R283). -/
def execBarrierAnswer (core slot : Nat) (s : State) : Out :=
  .next (s.modCtx core slot fun x => match x.ap.wait with | some (.barrier p v) => x.answered p v | _ => x)

/-- A rank of a member executes `TRIG`; the launch is triggered once every rank has (R62). It releases durable stores (R129). -/
def Launch.trigger (l : Launch) (member : Bool) (rank : Nat) (ids : List Nat) : Launch :=
  let k := rank + 65536 * b2n member
  let t := if l.trig.contains k then l.trig else k :: l.trig
  { l with trig := t, trigRel := (l.trigRel ++ ids).eraseDups, triggered := l.triggered || decide (t.length = l.allCores.length) }
/-- `TRIG` (R284). -/
def execTrig (f : G0) (s : State) : Out :=
  .next (apSimple f.g [] (fun _ _ x s =>
    if x.unperformed then .stall s else .done (s.modLaunch x.lid fun l => l.trigger x.member x.rank (s.relAll x))) s)

/-! ## Launches and tasks -/

/-- `LAUNCH` (R285): a release, then a submission for the issuer's function. -/
def execLaunch (f : LaunchF) (s : State) : Out :=
  .next (apSimple f.g [f.d, f.a] (fun c n x s =>
    match s.launchOf x with
    | none => .stall s
    | some l =>
      if x.unperformed || x.ap.wait.isSome then .stall s else
      let q := f.queue.toNat
      let rec' := x.ap.s' f.a.toNat
      if lqForeign (s.lq q) l.fn then .done (s.freezeCtx c n .ap false 4 rec'.toNat 0) else
      let (s1, lid) := s.submit q l.fn true rec'.toNat 0 0
      let v := match lid with | some i => i.setWidth 64 | none => BitVec.allOnes 64
      .done (s1.modCtx c n fun y => y.awaits f.d fun p => .launch p v)) s)
/-- `LAUNCH_ANSWER` (R285). -/
def execLaunchAnswer (core slot : Nat) (s : State) : Out :=
  .next (s.modCtx core slot fun x => match x.ap.wait with | some (.launch p v) => x.answered p v | _ => x)

/-- The wait operand of a record has no bit set that its kind leaves zero (R257). -/
def operandOk (kind v : Nat) : Bool :=
  match kind with
  | 1 => v / 2 ^ 15 == 0
  | 2 => v % 8 == 0
  | 3 => v / 2 ^ 36 == 0
  | _ => v == 0
/-- A continuation record meets R44, with a wait kind that `SPAWN` takes (R286). -/
def taskOk (lid : BitVec 32) (r : BitVec 512) : Bool :=
  let fl := bytesAt r 39 1
  let area := bytesAt r 16 8
  bytesAt r 32 4 == lid.toNat && decide (bytesAt r 38 1 ≤ 11) && decide (fl / 8 = 0) && decide (bytesAt r 40 1 ≤ 5) && bytesAt r 41 7 == 0
    && (if bitN fl 0 then area % 256 == 0 else area == 0) && operandOk (bytesAt r 40 1) (bytesAt r 48 8)
/-- The record of a `SPAWN` or `SUSPEND` command error (R418). -/
def State.taskError (s : State) (c n : Nat) (x : Ctx) : State := s.report c n x.lid .ap (s.ctxRec c n x 12 1 8 mtAP 0 none [])
/-- What a translation of the scheduler's for an AP's command that gives no address ends in (R399, R424). -/
def State.taskXlateErr (s : State) (c n : Nat) (x : Ctx) (acc : Acc) (e : XRes × Nat) : Res :=
  match e with
  | (.fault code lvl tag en, va) =>
    let b := schedFault (s.pasidOf x.lid) (accNat acc) va (.fault code lvl tag en)
    .done (s.report c n x.lid .ap (s.ctxRec c n x 7 1 code mtAP 0 b.addr b.det))
  | (.breach, va) => .done (s.freezeCtx c n .ap false 1 va (accNat acc))
  | _ => .stall s
/-- Some byte is an MMIO register. -/
def State.inMmio (s : State) (pas : List Nat) : Bool := pas.any fun a => match regionOf (s.homeAddr a) with | .mmio _ _ => true | _ => false

/-- The scheduler writes the Next link of a record at physical bytes `pas` (R44, R286): a value of its own (log 52), where the record's page can be written. -/
def State.writeLink (s : State) (lid : BitVec 32) (a : Word) (pas : List Nat) : State :=
  let d := match s.launch lid with | some l => if l.queue < 32 then Die.west else .east | none => .west
  match s.xlateNowAll d (s.pasidOf lid) 0xFFFF .write (a.toNat + 56) 8 with
  | .ok _ =>
    let link := pas.drop 56
    if link.all fun p => isStore (s.homeAddr p) then s.drawn.devWrite (link.zip (leBytes 8 (Config.freeWord s.fresh).toNat)) else s
  | .error .wait => if (pas.drop 56).all fun p => isStore (s.homeAddr p) then s.drawn.devWrite ((pas.drop 56).zip (leBytes 8 (Config.freeWord s.fresh).toNat)) else s
  | .error _ => s
/-- A record joins the task queue (R41); the scheduler links it there (R44). -/
def State.appendTask (s : State) (lid : BitVec 32) (a : Word) (pas : List Nat) (r : BitVec 512) : State :=
  (s.writeLink lid a pas).modLaunch lid fun l => { l with tasks := l.tasks ++ [{ addr := a, rcd := r, woken := false }] }
/-- `SPAWN` (R286). -/
def execSpawn (f : R1) (s : State) : Out :=
  .next (apSimple f.g [f.r] (fun c n x s =>
    match s.launchOf x with
    | none => .stall s
    | some l =>
      if x.unperformed then .stall s else
      let a := x.ap.s' f.r.toNat
      if l.flag 6 || a.toNat % 64 ≠ 0 then .done (s.taskError c n x) else
      match s.apXlate c x .read a 64 with
      | (s1, .error e) => s1.taskXlateErr c n x .read e
      | (s1, .ok pas) =>
        if s1.way c true pas = .wait then .stall s1
        else if s1.way c true pas = .down then s1.taskXlateErr c n x .read (.fault 15 255 0 0, a.toNat)
        else if s1.anyPoison pas then .done ((s1.usedBad pas).report c n x.lid .ap (s1.ctxRec c n x 11 1 4 mtAP 0 (some a.toNat) [])) else
        match s1.readBytes pas with
        | .error code =>
          let p := ((natsFrom a.toNat 64).zip pas).find? fun q => match s1.readByte q.2 with | .error _ => true | .ok _ => false
          s1.taskXlateErr c n x .read (.fault code 255 ((p.map fun q => s1.foundTag q.2).getD 0) 0, (p.map Prod.fst).getD a.toNat)
        | .ok b =>
          let r := BitVec.ofNat 512 (leNat b)
          if taskOk x.lid r then .done (s1.appendTask x.lid a pas r) else .done (s1.taskError c n x)) s)

/-- The wait kind of `SUSPEND` (R287). -/
def wkNat : WKind → Nat | .none => 0 | .t => 1 | .a => 2 | .b => 3 | .l => 4 | .c => 5
/-- The record `SUSPEND` writes (R287). -/
def suspRecord (x : Ctx) (pri kind : Nat) (operand area : Word) : BitVec 512 :=
  BitVec.ofNat 512 (leNat (leBytes 8 (x.ap.pc + 8).toNat ++ leBytes 8 x.ep.pc.toNat ++ leBytes 8 area.toNat ++ leBytes 8 x.argp.toNat
    ++ leBytes 4 x.lid.toNat ++ leBytes 2 x.rank ++ leBytes 1 pri ++ leBytes 1 (1 + 4 * b2n x.ep.exited) ++ leBytes 1 kind ++ leBytes 7 0
    ++ leBytes 8 operand.toNat ++ leBytes 8 0))
/-- The bytes of the save area (R41). -/
def saveBytes : Nat := 0x4000
/-- The context leaves its slot for the task queue: save area, record, queue (R41); the block of a processor that has it selected ends (R60), and its replay window goes (R321). A `SUSPEND` that ends a loop's pass ends it in the saved state (R245; log 53). -/
def State.suspendCtx (s : State) (c n : Nat) (x : Ctx) (a : Word) (pas area : List Nat) (r : BitVec 512) : State :=
  let img := (List.range saveBytes).map fun i => Config.saveByte s.fresh i
  let x1 := { (x.pass .ap 1) with suspending := false, hold := [], window := none }
  let s1 := (s.drawn.devWrite (area.zip img)).devWrite (pas.zip (leBytes 64 r.toNat))
  let s2 := { s1 with areas := tset s1.areas (s1.homeAddr (area.headD 0)) x1 }
  ((s2.dropCtx c n).modCore c fun k => ((k.releaseSlots n x.lid).endBlockOf n .ap).endBlockOf n .ep).appendTask x.lid a pas r
/-- `SUSPEND` (R287, R41): the stream handles are checked once, when it first issues; then it waits, stalled, until the context's commands and accesses are done, the EP standing still meanwhile; a record or area that cannot be written gives the record of R424 (log 53). -/
def execSuspend (f : SuspF) (s : State) : Out :=
  .next (apSimple f.g [f.a, f.b, f.c] (fun c n x s =>
    match s.launchOf x with
    | none => .stall s
    | some l =>
      let quit := fun (s : State) => Res.done ((s.modCtx c n fun y => { y with suspending := false }).taskError c n x)
      let a := x.ap.s' f.a.toNat
      let area := x.ap.s' f.c.toNat
      let k := s.core c
      if l.flag 6 || a.toNat % 64 ≠ 0 || area.toNat % 256 ≠ 0 || (!x.suspending && k.streams.any fun q => q.2.owner == n && q.2.lid == x.lid) then quit s else
      let s := if x.suspending then s else s.modCtx c n fun y => { y with suspending := true }
      match s.apXlate c x .write a 64 with
      | (s1, .error (.wait, _)) => .stall s1
      | (s1, .error e) => (s1.modCtx c n fun y => { y with suspending := false }).taskXlateErr c n x .write e
      | (s1, .ok pas) =>
        match s1.apXlate c x .write area saveBytes with
        | (s2, .error (.wait, _)) => .stall s2
        | (s2, .error e) => (s2.modCtx c n fun y => { y with suspending := false }).taskXlateErr c n x .write e
        | (s2, .ok apas) =>
          if s2.inMmio (pas ++ apas) then .done ((s2.modCtx c n fun y => { y with suspending := false }).freezeCtx c n .ap false 2 a.toNat 1)
          else if s2.busyBefore c n x s2.serial || !x.ap.accs.isEmpty || x.ap.wait.isSome || s2.way c false (pas ++ apas) = .wait then .stall s2
          else if k.slots.any fun q => q.2.owner == some n then quit s2
          else if s2.way c false (pas ++ apas) = .down then
            (s2.modCtx c n fun y => { y with suspending := false }).taskXlateErr c n x .write (.fault 15 255 0 0, if s2.way c false pas = .down then a.toNat else area.toNat)
          else .left (s2.suspendCtx c n x a pas apas (suspRecord x l.pri (wkNat f.kind) (x.ap.s' f.b.toNat) area))) s)

/-! ## Translations -/

/-- What a `TLBI` removes: a page of an address space, an address space's entries without G, or all; host translations stay (R290). -/
inductive Inval where
  | page (pasid va : Nat)
  | space (pasid : Nat)
  | all
  deriving DecidableEq, Repr
/-- The entry goes. -/
def Inval.hits (v : Inval) (t : TlbE) : Bool :=
  match v with
  | .page p va => tlbHit p va t
  | .space p => !t.host && !t.glob && t.pasid == p
  | .all => !t.host
/-- The ended walk goes, so that the access walks again: for one page, also one whose leaf holds the page, G leaves of other address spaces among them (R116, R290). -/
def Inval.walks (v : Inval) (w : Walk) : Bool :=
  w.res.isSome && (match v with
  | .page p va => (w.pasid == p && w.va == va / 4096)
      || (match w.res with | some (.leaf _ e) => tlbHit p va (tlbEntry w.pasid (4096 * w.va) e.toNat) | _ => false)
  | .space p => w.pasid == p
  | .all => true)
/-- The entries go from every TLB. -/
def State.invalidate (s : State) (v : Inval) : State :=
  let f := fun (d : DieSt) => { d with tlb := d.tlb.filter fun t => !v.hits t, walks := d.walks.filter fun w => !v.walks w }
  let s1 := { s with cores := s.cores.map fun (q : Nat × Core) => (q.1, { q.2 with tlb := q.2.tlb.filter fun t => !v.hits t }) }
  (((s1.modDie .west f).modDie .east f).runWalks .west).runWalks .east
/-- The issue of a `TLBI`; one that its launch may not issue freezes the context, with no address when it names none (R290, R399, R468). -/
def State.tlbi (s : State) (c n : Nat) (x : Ctx) (addr : Option Nat) (v : Nat → Inval) : Res :=
  match s.launchOf x with
  | none => .stall s
  | some l =>
    if l.fn.num ≠ 0 then
      let r := s.ctxRec c n x 8 2 5 mtAP 0 addr [(52, 1, 0)]
      .done ((s.freezeWith c n .ap false r).toDevice r)
    else if x.ap.wait.isSome then .stall s
    else .stall (((s.invalidate (v l.pasid)).modCtx c n fun y => { y with ap := { y.ap with wait := some (.tlbi s.serial) } }).tick)
/-- `TLBI` (R290). -/
def execTlbi (f : R1) (s : State) : Out :=
  .next (apSimple f.g [f.r] (fun c n x s =>
    let a := (x.ap.s' f.r.toNat).toNat
    s.tlbi c n x (some a) fun p => .page p a) s)
/-- `TLBI.AS` (R290). -/
def execTlbiAs (f : G0) (s : State) : Out := .next (apSimple f.g [] (fun c n x s => s.tlbi c n x none .space) s)
/-- `TLBI.ALL` (R290). -/
def execTlbiAll (f : G0) (s : State) : Out := .next (apSimple f.g [] (fun c n x s => s.tlbi c n x none fun _ => .all) s)

/-- An access or chunk older than a number, which may use a removed translation, has not been performed (R116). -/
def State.olderAccess (s : State) (id : Nat) : Bool :=
  (s.cores.any fun q => q.2.ctxs.any fun p => p.2.ap.accs.any fun a => !a.isLocal && !a.performed && decide (a.id < id))
    || (s.cores.any fun q => q.2.streams.any fun p => (p.2.out.any fun o => decide (o.id < id)) || p.2.asked.any fun q => decide (q.1 < id))
    || (s.heldAmos.any fun h => decide (h.acc.id < id))
    || (s.west.copies ++ s.east.copies).any fun r => r.flight.any fun h => decide (h.id < id)
/-- `TLBI_COMPLETE` (R116): the AP continues behind the `TLBI`. -/
def execTlbiComplete (core slot : Nat) (s : State) : Out :=
  .next (match s.ctx core slot with
  | some x => (match x.ap.wait with
    | some (.tlbi id) => if s.olderAccess id then s else s.setCtx core slot ({ x with ap := { x.ap with wait := none } }.pass .ap 1)
    | _ => s)
  | none => s)

/-! ## Field test and the core map -/

/-- The context's launch is a TEST launch. -/
def State.isTest (s : State) (x : Ctx) : Bool := match s.launchOf x with | some l => l.flag 7 | none => false
/-- The launch holds the whole core's storage and grid (R291). -/
def Core.holdsAll (k : Core) (lid : BitVec 32) : Bool :=
  match k.allot lid with
  | some a => a.banks.length == 32 && a.tiles.length == 24 && a.slots.length == 16 && a.grid
  | none => false
/-- A status of `FTEST` (R291). -/
def ftestFail (st : Nat) : Nat := 0xFFFFFFFF00000000 + st
/-- The issue of `FTEST` or `FTEST.REF` (R291). -/
def ftest (ref : Bool) (f : R3) (s : State) : State :=
  apSimple f.g [f.d, f.a, f.b] (fun c n x s =>
    if !s.isTest x then .trap s 0x05 0 0 else
    let dur := x.ap.s' f.b.toNat
    if !(s.core c).holdsAll x.lid then .done (s.putD c n f.d (ftestFail 1))
    else if dur.toNat < 1 || 1000 < dur.toNat then .done (s.putD c n f.d (ftestFail 2))
    else if x.ap.wait.isSome then .stall s
    else .stall (s.modCtx c n fun y =>
      { y with ap := { y.ap with wait := some (.ftest (sPhys y.ap.rrb f.d.toNat) ref (x.ap.s' f.a.toNat) dur s.time.toNat) } })) s
/-- `FTEST` (R291). -/
def execFtest (f : R3) (s : State) : Out := .next (ftest false f s)
/-- `FTEST.REF` (R291). -/
def execFtestRef (f : R3) (s : State) : Out := .next (ftest true f s)
/-- The pattern's final contents in the launch's banks, tiles and slots (R291). -/
def Core.patterned (k : Core) (a : Allot) (sd du : Word) : Core :=
  { k with
    banks := k.banks.filter fun q => !a.banks.contains (q.1 / 768)
    bankFill := a.banks.foldl (fun t b => tset t b (sd, du)) k.bankFill
    acc := k.acc.filter fun q => !a.tiles.contains (q.1 / 64)
    accFill := a.tiles.foldl (fun t b => tset t b (sd, du)) k.accFill
    slots := a.slots.foldl (fun t n => tmod t Slot.reset n fun sl => { sl with rows := [], fill := some (sd, du) }) k.slots }
/-- `FTEST_COMPLETE` (R291): after the duration the signature is written and the AP continues. -/
def execFtestComplete (core slot : Nat) (s : State) : Out :=
  .next (match s.ctx core slot with
  | some x => (match x.ap.wait with
    | some (.ftest p ref sd du since) =>
      if s.time.toNat < since + 1000 * du.toNat then s else
      let sig := if ref then Config.ftestRef sd du else Config.ftestSig s.fresh core sd du
      let a := x.ap.setPhys p (sig.setWidth 64)
      let s1 := s.drawn.setCtx core slot ({ x with ap := { a with wait := none } }.pass .ap 1)
      if ref then s1 else
      (match (s.core core).allot x.lid with
      | some al => { (s1.modCore core fun k => k.patterned al sd du) with poisonLoc := s1.poisonLoc.filter fun q => !locIn core al q }
      | none => s1)
    | _ => s)
  | none => s)

/-- V, P and the site of a logical core (R292). -/
def State.mapWord (s : State) (c : Nat) : Nat := if 320 ≤ c then 0 else s.site c / 2 ^ 15 * 2 ^ 15 + 2 ^ 14 * b2n (s.mapPending c) + s.site c % 512
/-- `CMAP.GET` (R292). -/
def execCmapGet (f : R2) (s : State) : Out :=
  .next (apSimple f.g [f.d, f.a] (fun c n x s =>
    if !s.isTest x then .trap s 0x05 0 0 else .done (s.putD c n f.d (s.mapWord (x.ap.s' f.a.toNat).toNat))) s)
/-- A request of the issuing gang for one of its own cores (R292). -/
def State.mapAsk (s : State) (c n : Nat) (x : Ctx) (d : BitVec 6) (retire : Bool) (core site : Nat) : Res :=
  match s.launchOf x with
  | none => .trap s 0x05 0 0
  | some l =>
    if !l.flag 7 then .trap s 0x05 0 0
    else if !l.allCores.contains core then .done (s.putD c n d 2)
    else .done ((s.mapRequest retire core site).putD c n d (s.mapStatus retire core site))
/-- `CMAP.SET` (R292). -/
def execCmapSet (f : R3) (s : State) : Out :=
  .next (apSimple f.g [f.d, f.a, f.b] (fun c n x s => s.mapAsk c n x f.d false (x.ap.s' f.a.toNat).toNat (x.ap.s' f.b.toNat).toNat) s)
/-- `CMAP.RET` (R292). -/
def execCmapRet (f : R2) (s : State) : Out :=
  .next (apSimple f.g [f.d, f.a] (fun c n x s => s.mapAsk c n x f.d true (x.ap.s' f.a.toNat).toNat 0) s)

end Sys2Proof.Machine
end

