-- ==== Sys2Proof/Machine/Blocks.lean ====
section
/-! DEFINITION. Which context a processor selects (R60, R61): a trial of its next instruction says whether it can issue. -/
namespace Sys2Proof.Machine
open Sys2Proof

/-- The meanings of the processors' instructions, as the dispatch has them; events do nothing here. -/
def tryExec (i : Instr) (s : State) : Out :=
  match i with
  | .nop => execNop s
  | .add f => execAdd f s
  | .sub f => execSub f s
  | .mul f => execMul f s
  | .mulh f => execMulh f s
  | .div f => execDiv f s
  | .rem f => execRem f s
  | .and f => execAnd f s
  | .or f => execOr f s
  | .xor f => execXor f s
  | .shl f => execShl f s
  | .shr f => execShr f s
  | .sar f => execSar f s
  | .min f => execMin f s
  | .max f => execMax f s
  | .sel f => execSel f s
  | .clz f => execClz f s
  | .popc f => execPopc f s
  | .bfx f => execBfx f s
  | .bfi f => execBfi f s
  | .li f => execLi f s
  | .lih f => execLih f s
  | .madd f => execMadd f s
  | .addpc f => execAddpc f s
  | .cmp f => execCmp f s
  | .plog f => execPlog f s
  | .pmovGet f => execPmovGet f s
  | .pmovSet f => execPmovSet f s
  | .br f => execBr f s
  | .call f => execCall f s
  | .ret f => execRet f s
  | .loop f => execLoop f s
  | .lexit f => execLexit f s
  | .lexitPop f => execLexitPop f s
  | .waitt f => execWaitt f s
  | .waita f => execWaita f s
  | .waitb f => execWaitb f s
  | .waitl f => execWaitl f s
  | .waitc f => execWaitc f s
  | .ssbar f => execSsbar f s
  | .yield f => execYield f s
  | .exit f => execExit f s
  | .trap f => execTrap f s
  | .rft f => execRft f s
  | .rftNext f => execRftNext f s
  | .csrr f => execCsrr f s
  | .csrw f => execCsrw f s
  | .csrwSet f => execCsrwSet f s
  | .csrwClr f => execCsrwClr f s
  | .tlbi f => execTlbi f s
  | .tlbiAs f => execTlbiAs f s
  | .tlbiAll f => execTlbiAll f s
  | .time f => execTime f s
  | .ld f => execLd f s
  | .st f => execSt f s
  | .amo f => execAmo f s
  | .amoSc f h => execAmoSc f h s
  | .amoHold f => execAmoHold f s
  | .amoRetry f sc h => execAmoRetry f sc h s
  | .fence f => execFence f s
  | .dfence f => execDfence f s
  | .dsync f => execDsync f s
  | .wake f => execWake f s
  | .bara f => execBara f s
  | .trig f => execTrig f s
  | .launch f => execLaunch f s
  | .spawn f => execSpawn f s
  | .suspend f => execSuspend f s
  | .notify f => execNotify f s
  | .sende f => execSende f s
  | .recve f => execRecve f s
  | .sinfo f => execSinfo f s
  | .ftest f => execFtest f s
  | .ftestRef f => execFtestRef f s
  | .cmapGet f => execCmapGet f s
  | .cmapSet f => execCmapSet f s
  | .cmapRet f => execCmapRet f s
  | .sopen f => execSopen f s
  | .sclose f => execSclose f s
  | .sfork f => execSfork f s
  | .smark f => execSmark f s
  | .srewind f => execSrewind f s
  | .ssave f => execSsave f s
  | .srest f => execSrest f s
  | .seos f => execSeos f s
  | .cpy f => execCpy f s
  | .cpyNb f pn => execCpyNb f pn s
  | .cpdrain f => execCpdrain f s
  | .gload f => execGload f s
  | .grun f => execGrun f s
  | .ghalt f => execGhalt f s
  | .rot f => execRot f s
  | .tsig f => execTsig f s
  | .vadd f => execVadd f s
  | .vsub f => execVsub f s
  | .vmul f => execVmul f s
  | .vfma f => execVfma f s
  | .vmin f => execVmin f s
  | .vmax f => execVmax f s
  | .vabs f => execVabs f s
  | .vclamp f => execVclamp f s
  | .vand f => execVand f s
  | .vor f => execVor f s
  | .vxor f => execVxor f s
  | .vshl f => execVshl f s
  | .vshr f => execVshr f s
  | .vsel f => execVsel f s
  | .vmov f => execVmov f s
  | .vcmp f => execVcmp f s
  | .vcvt f => execVcvt f s
  | .vcvtef f => execVcvtef f s
  | .vsf f => execVsf f s
  | .vred f => execVred f s
  | .vperm f => execVperm f s
  | .vbcast f => execVbcast f s
  | .viota f => execViota f s
  | .vmaskNz f => execVmaskNz f s
  | .vmaskBool f => execVmaskBool f s
  | .vmaskNot f => execVmaskNot f s
  | .vmaskFromrow f => execVmaskFromrow f s
  | .vmaskTorow f => execVmaskTorow f s
  | .vmcnt f => execVmcnt f s
  | .vmcntFirst f => execVmcntFirst f s
  | .vnest f => execVnest f s
  | .eadd f => execEadd f s
  | .esub f => execEsub f s
  | .emul f => execEmul f s
  | .eand f => execEand f s
  | .eor f => execEor f s
  | .exor f => execExor f s
  | .eshl f => execEshl f s
  | .eshr f => execEshr f s
  | .eli f => execEli f s
  | .elih f => execElih f s
  | .ecmp f => execEcmp f s
  | .ebr f => execEbr f s
  | .eloop f => execEloop f s
  | .ewait f => execEwait f s
  | .enotify f => execEnotify f s
  | .eexit f => execEexit f s
  | .extr f => execExtr f s
  | .eins f => execEins f s
  | .ecsrr f => execEcsrr f s
  | .ecsrw f => execEcsrw f s
  | .ecsrwSet f => execEcsrwSet f s
  | .ecsrwClr f => execEcsrwClr f s
  | .epmovGet f => execEpmovGet f s
  | .epmovSet f => execEpmovSet f s
  | .epmovMget f => execEpmovMget f s
  | .epmovMset f => execEpmovMset f s
  | .esend f => execEsend f s
  | .erecv f => execErecv f s
  | .eport f => execEport f s
  | .eeos f => execEeos f s
  | .etsig f => execEtsig f s
  | .segb f => execSegb f s
  | .sege f => execSege f s
  | .tstart f => execTstart f s
  | .mma f => execMma f s
  | .smma f => execSmma f s
  | .mzero f => execMzero f s
  | .mscacc f => execMscacc f s
  | .oclaim f => execOclaim f s
  | .orel f => execOrel f s
  | .ofill f => execOfill f s
  | .ofillMeta f => execOfillMeta f s
  | .accld f => execAccld f s
  | .accst f => execAccst f s
  | .mpert f => execMpert f s
  | .sqcfg f => execSqcfg f s
  | .sqcombStage f => execSqcombStage f s
  | .sqcombTake f => execSqcombTake f s
  | .sqerr f => execSqerr f s
  | .sqdec f => execSqdec f s
  | .sqnext f => execSqnext f s
  | _ => .next s

/-! ## Whether a context can issue (R61) -/

/-- Slot n of core c is in a new block of processor p. -/
def State.inBlock (s : State) (c n : Nat) (p : Proc) : State := s.modCore c fun k => k.setBlk p { sel := some n, ended := false, since := s.cycles }
/-- The state that the next issue of processor p for slot n would give; none where it would take an async trap, if nothing else. -/
def State.trial (s : State) (c n : Nat) (p : Proc) : Option State :=
  let s1 := { s.inBlock c n p with cur := ⟨c, n, p⟩ }
  match s1.plan c p with
  | .run i => (match tryExec i s1 with | .next u => some u | _ => none)
  | .due _ _ => none
  | .rest u => some u
/-- The state without what a stall leaves: the block ended, the takes of pending `TSIG`s and `ETSIG`s that it may bring forward (R34, R282, R318). -/
def State.stalled (s : State) (c n : Nat) (p : Proc) : State := (s.modCore c fun k => k.endBlock p).modCtx c n Ctx.settle
/-- An issue for slot n stalls without effect: it would end its block and change nothing else (R34). -/
def State.wouldStall (s : State) (c n : Nat) (p : Proc) : Bool :=
  match s.trial c n p with
  | some u => ((u.core c).blk p).ended && decide (u.stalled c n p = { s.inBlock c n p with cur := ⟨c, n, p⟩ }.stalled c n p)
  | none => false
/-- The context in a slot is runnable on a processor: that one has not exited, and the instruction at its pc can issue (R61). An issue that stalls once it has asked for a translation, armed a monitor or begun to suspend can issue (log 6). -/
def State.runnable (s : State) (c n : Nat) (p : Proc) : Bool :=
  match s.ctx c n with | some x => x.runnable p && !s.wouldStall c n p | none => false

/-! ## Blocks (R60) -/

/-- The slots in round-robin order behind a selected one, that one last. -/
def slotsAfter : Option Nat → List Nat
  | none => [0, 1, 2, 3]
  | some n => [(n + 1) % 4, (n + 2) % 4, (n + 3) % 4, n % 4]
/-- The next runnable context of a processor (R60). -/
def State.nextCtx (s : State) (c : Nat) (p : Proc) : Option Nat := (slotsAfter ((s.core c).blk p).sel).find? fun n => s.runnable c n p
/-- The processor selects its next context, and a new block begins (R60). -/
def State.selectCtx (s : State) (c : Nat) (p : Proc) : State := match s.nextCtx c p with | some n => s.inBlock c n p | none => s

/-- `BLOCK_SLICE_EXPIRY` (R60): twelve cycles of a block are over while another context is runnable. -/
def execBlockSliceExpiry (core : Nat) (proc : Proc) (s : State) : Out :=
  .next (let b := (s.core core).blk proc
  let other := (natsFrom 0 4).any fun n => b.sel != some n && s.runnable core n proc
  if !b.ended && decide (b.since + 12 ≤ s.cycles) && other then s.modCore core fun k => k.endBlock proc else s)

/-- `CONTEXT_SELECT` (R60): after a block, the next runnable context in round-robin order. -/
def execContextSelect (core : Nat) (proc : Proc) (s : State) : Out :=
  .next (match s.current core proc with
  | some _ => s
  | none => s.selectCtx core proc)

end Sys2Proof.Machine
end

