-- ==== Sys2Proof/Machine/Supersteps.lean ====
section
/-! DEFINITION. Superstep launches and duplex waits: the schedule's transfers (R194, R195), the end of a superstep (R73), and a long wait at a compare point (R420). -/
namespace Sys2Proof.Machine
open Sys2Proof

/-- Entry i of a launch's schedule: STEP, TOFF, SRC, DST, LEN, LINK, OP, FMT (R194). -/
def Launch.entStep (l : Launch) (i : Nat) : Nat := schedAt l.sched i 0 4
def Launch.entOff (l : Launch) (i : Nat) : Nat := schedAt l.sched i 4 4
def Launch.entSrc (l : Launch) (i : Nat) : Nat := schedAt l.sched i 8 8
def Launch.entDst (l : Launch) (i : Nat) : Nat := schedAt l.sched i 16 8
def Launch.entLen (l : Launch) (i : Nat) : Nat := schedAt l.sched i 24 4
def Launch.entLink (l : Launch) (i : Nat) : Nat := schedAt l.sched i 28 1
def Launch.entSum (l : Launch) (i : Nat) : Bool := schedAt l.sched i 29 1 == 1
def Launch.entFmt (l : Launch) (i : Nat) : Nat := schedAt l.sched i 31 1
/-- The entries of a schedule, by number. -/
def Launch.entries (l : Launch) : List Nat := List.range (schedEnts l.sched)

/-- The link of an entry is up; while it retrains, its transfer waits (R449, R454). -/
def State.entLinkUp (s : State) (k : Nat) : Bool :=
  let d := if k < 6 then Die.west else Die.east
  (s.die d).boot.span.getLsbD (k % 6) && !s.spanBusy d (k % 6)
/-- A record of the launch's schedule, to its fault queue. -/
def State.schedRecord (s : State) (l : Launch) (b : Bad) : State :=
  s.toLaunch l.lid (s.mkRec b.cls 1 b.cause (dieMaster mtCtl 0 (queueDie l.queue)) b.addr l.lid 0xFFFF b.det)
/-- The source bytes of an entry, under the domain mask of the launch's function (R113). -/
def State.entRead (s : State) (l : Launch) (i : Nat) : Except XRes (List Byte) := s.schedRead (queueDie l.queue) l.pasid (s.fndomOf l.fn) (l.entSrc i) (l.entLen i)
/-- `SCHEDULE_ENTRY_SEND` (R195): at the entry's send time, or later, its source is read, and waits where the scheduler's reads wait (R118); one that cannot be read sends nothing, with a record (log 82). -/
def execScheduleEntrySend (lid : BitVec 32) (entry : Nat) (s : State) : Out :=
  .next (match s.launch lid with
  | some l =>
    if l.phase != .placed || !l.flag 6 || schedEnts l.sched ≤ entry || l.ssSent.contains entry || l.ss < l.entStep entry
        || s.time.toNat < l.ssStart + l.entOff entry || !s.entLinkUp (l.entLink entry) then s else
    let s1 := s.modLaunch lid fun l => { l with ssSent := entry :: l.ssSent }
    (match s.entRead l entry with
    | .ok b =>
      let s2 := s1.modLaunch lid fun l => { l with xfers := l.xfers ++ [{ entry := entry, data := b }] }
      { s2 with outbox := s2.outbox ++ [.xfer lid entry] }
    | .error .wait => s.schedMet (queueDie l.queue) l.pasid (s.fndomOf l.fn) .read (l.entSrc entry) (l.entLen entry)
    | .error e => (s1.asksMet (queueDie l.queue) l.pasid).schedRecord l (codeFault l.pasid 0 (l.entSrc entry) e))
  | none => s)

/-- One element: contributions widened to F32 and added in order under RNE, the sum converted back with SAT (R195). -/
def sumElem (fmt : Nat) : List Nat → Nat
  | [] => 0
  | c :: r =>
    let f32 := fun c => (convertCode fmt 0 0 false 0 0 c).1
    (convertCode 0 fmt 0 true 0 0 (r.foldl (fun a b => (addCode 0 0 false a (f32 b)).1) (f32 c))).1
/-- The sum of contributions byte string by byte string. -/
def sumBytes (fmt len : Nat) (l : List (List Byte)) : List Byte :=
  let w := tyWidth fmt / 8
  (natsFrom 0 (len / w)).flatMap fun i => leBytes w (sumElem fmt (l.map fun b => leAt b (w * i) w))
/-- Inserts a contribution behind those of lower or equal tray identity. -/
def insertPart (p : Nat × List Byte) : List (Nat × List Byte) → List (Nat × List Byte)
  | [] => [p]
  | q :: r => if p.1 < q.1 then p :: q :: r else q :: insertPart p r
/-- `SCHEDULE_TRANSFER_LAND` (R195): a move lands as it is; the entries of a step that sum into one destination land together, with those of other modules. Over a link that is down or retrains nothing lands (R449, R451). -/
def execScheduleTransferLand (lid : BitVec 32) (entry : Nat) (others : List (Nat × List Byte)) (s : State) : Out :=
  .next (match s.launch lid with
  | some l =>
    (match l.xfers.find? fun t => t.entry == entry with
    | none => s
    | some t =>
      if !s.entLinkUp (l.entLink entry) then s else
      let dst := l.entDst entry
      let land := fun (s : State) (b : List Byte) => if (natsFrom dst b.length).all s.mapped then s.devWrite ((natsFrom dst b.length).zip b) else s
      if l.entSum entry then
        let grp := l.entries.filter fun i => l.entSum i && l.entStep i == l.entStep entry && l.entDst i == dst
        if !grp.all fun i => l.ssSent.contains i && s.entLinkUp (l.entLink i) then s else
        let own := (l.xfers.filter fun t => grp.contains t.entry).map fun t => (s.tray, t.data)
        let all := ((own ++ others).foldl (fun a p => insertPart p a) []).map Prod.snd
        (land s (sumBytes (l.entFmt entry) (l.entLen entry) all)).modLaunch lid fun l => { l with xfers := l.xfers.filter fun t => !grp.contains t.entry }
      else (land s t.data).modLaunch lid fun l => { l with xfers := l.xfers.filter fun t => t.entry != entry })
  | none => s)

/-- Every core of the launch has issued `SSBAR` for the superstep (R73). -/
def State.allInStep (s : State) (l : Launch) : Bool :=
  l.allCores.all fun c => (s.core c).ctxs.any fun q => q.2.lid == l.lid && q.2.ap.ssIn == some l.ss
/-- `SUPERSTEP_ADVANCE` (R73, R195): the arrivals say whether every core of the other participating launches has issued its `SSBAR`, and whether the transfers of other modules have landed; past the last superstep that the schedule times, neither start time nor transfers count, and entries not sent yet still are. -/
def execSuperstepAdvance (e : StepArrival) (s : State) : Out :=
  .next (match s.launch e.lid with
  | some l =>
    let timed := decide (l.ss + 1 < schedSteps l.sched)
    let landed := (l.entries.all fun i => l.entStep i != l.ss || l.ssSent.contains i) && l.xfers.all fun t => l.entStep t.entry != l.ss
    let start := leAt l.sched 0 8 + (l.ss + 1) * leAt l.sched 8 8
    if l.phase == .placed && l.flag 6 && e.others && s.allInStep l && (!timed || (landed && e.landed && decide (start ≤ s.time.toNat))) then
      s.modLaunch e.lid fun l => { l with ss := l.ss + 1, ssStart := if timed then s.time.toNat else l.ssStart }
    else s
  | none => s)

/-- `DUPLEX_COMPARE_TIMEOUT` (R420): 50 us at a compare point; one cause-5 record, to the context of member 0 (R418). -/
def execDuplexCompareTimeout (core slot : Nat) (s : State) : Out :=
  .next (match s.ctx core slot with
  | some x => (match s.launchOf x with
    | some l => (match l.cmpWait.find? fun q => q.core == core && q.slot == slot && !q.agreed && !q.noted with
      | some q =>
        if s.time.toNat < q.since + 50000 then s else
        let s1 := s.modLaunch x.lid fun l => { l with cmpWait := l.cmpWait.map fun e => if e == q then { e with noted := true } else e }
        let z := if x.member then (s.twin l core slot x).getD (core, slot) else (core, slot)
        s1.report z.1 z.2 x.lid .ep (s.ctxRec core slot x 12 1 5 mtEP 0 none [])
      | none => s)
    | none => s)
  | none => s)

end Sys2Proof.Machine
end

