-- ==== Sys2Proof/Machine/Outside.lean ====
section
/-! DEFINITION. What comes from outside the cores: ends of page walks and of the host's translations (R115, R118), requests of PCIe functions and span peers (R192, R399, R424, R429), and datagrams of the ingest ports (R166, R187 to R189). -/
namespace Sys2Proof.Machine
open Sys2Proof

/-! ## Walks and host translations -/

/-- `PAGE_WALK_COMPLETE` (R115): one of the die's running walks ends: a leaf fills the TLBs, and what the walk met waits for its access; its reads may have to wait for the bridge (R8, R449). -/
def execPageWalkComplete (die : Die) (id : Nat) (s : State) : Out :=
  .next (let x := s.die die
  match ((x.walks.filter fun w => w.res.isNone).take walkLimit).find? fun w => w.id == id with
  | none => s
  | some w =>
    if s.walkHeld die w.pasid (4096 * w.va) then s else
    let put := fun (r : WalkEnd) => (s.setDie die { x with walks := x.walks.map fun (v : Walk) => if v == w then { v with res := some r } else v }).runWalks die
    match s.walk (w.en.getD (bitN s.astbase.toNat 0)) w.pasid (4096 * w.va) with
    | .leaf e lvl => (put (.leaf lvl (BitVec.ofNat 64 e))).fillTlb w.core (tlbEntry w.pasid (4096 * w.va) e)
    | .fault code lvl e => put (.fault code lvl (BitVec.ofNat 64 e)))

/-- The host answers a translation or page request; the die's TLB keeps a translation, tagged as the host's (R118). -/
def State.hostAnswer (s : State) (d : Die) (id : Nat) (pri : Bool) (ans : HostAnswer) : State :=
  s.modDie d fun x =>
    match x.hosts.find? fun h => h.id == id && h.pri == pri && h.ans.isNone with
    | none => x
    | some q =>
      { x with
        hosts := x.hosts.map fun h => if h.id == id && h.pri == pri && h.ans.isNone then { h with ans := some ans } else h
        tlb := match ans with | .ok r w => tlbAdd 16384 (hostEntry q.pasid q.page r w) x.tlb | .fail => x.tlb }
/-- `ATS_COMPLETION` (R118); records that waited for it are written. -/
def execAtsCompletion (die : Die) (id : Nat) (ans : HostAnswer) (s : State) : Out := .next (s.hostAnswer die id false ans).settleRecs
/-- `PRI_RESPONSE` (R118). -/
def execPriResponse (die : Die) (id : Nat) (ans : HostAnswer) (s : State) : Out := .next (s.hostAnswer die id true ans).settleRecs

/-! ## Requests from PCIe functions and span peers -/

/-- What a request's bytes are open to. -/
inductive Gate where
  /-- Served. -/
  | open'
  /-- A fault: code and frame tag (R424). -/
  | fault (code tag : Nat)
  /-- Outside the requester's window (R399). -/
  | breach
  deriving DecidableEq, Repr
/-- One byte of a request: acc is as in R425. -/
def State.gate (s : State) (acc : Nat) (a : Nat) : Gate :=
  match regionOf a with
  | .hbm | .dur => if !s.mapped a then .fault 7 0 else
      (match s.tag (a / 4096) with | 0 => .open' | 3 => .fault 6 3 | t => .fault 11 t)
  | .lens => if !s.mapped a then .fault 7 0 else (match acc with | 0 => .open' | 1 => .fault 12 0 | _ => .fault 8 0)
  | .none => .fault 7 0
  | _ => .breach
/-- All bytes of a request. -/
def State.gates (s : State) (acc : Nat) (l : List Nat) : Gate := ((l.map (s.gate acc)).find? fun g => g != .open').getD .open'
/-- The address, length and access of a request. -/
def reqOf : Request → Nat × Nat × Nat
  | .read a n => (a, n, 0)
  | .write a l => (a, l.length, 1)
  | .amo a w32 _ _ _ _ _ _ => (a, if w32 then 4 else 8, 2)

/-- An error answer with its record, physical, to the device queue; a function's goes through AER too (R399, R424). -/
def State.refuse (s : State) (fn : Option Func) (m : BitVec 32) (cls cause addr : Nat) (det : List (Nat × Nat × Nat)) : State :=
  let r : FaultRec := { s.mkRec cls 1 cause m (some addr) noLid 0xFFFF det with phys := true }
  let s1 := (s.toDevice r).reply fn false []
  match fn with | some f => { s1 with outbox := s1.outbox ++ [.aer f.link true] } | none => s1
/-- The DETAIL of a requester's CLASS 7 record (R425). -/
def gateDet (tag acc : Nat) : List (Nat × Nat × Nat) := [(50, 1, 0xFF), (51, 1, tag), (52, 1, acc)]

/-- Serves a request whose bytes are open; an invalid object and a poisoned word are answered with an error (R426, R453). -/
def State.serve (s : State) (fn : Option Func) (tray : Nat) (m : BitVec 32) : Request → State
  | .read a n =>
    let l := natsFrom a n
    if s.anyPoison l then (s.usedBad l).refuse fn m 11 4 a [] else
    (match s.readBytes l with
    | .ok b => s.reply fn true b
    | .error code =>
      let tag := ((l.find? fun p => match s.readBytes [p] with | .error _ => true | .ok _ => false).map s.foundTag).getD 0
      s.refuse fn m 7 code a (gateDet tag 0))
  | .write a b => (s.devWrite ((natsFrom a b.length).zip b)).reply fn true []
  | q@(.amo a w32 op b c core slot tag) =>
    let n := if w32 then 4 else 8
    match s.amoAt (natsFrom a n) op b.toNat c.toNat State.unitWrite with
    | none => (s.usedBad (natsFrom a n)).refuse fn m 11 4 a []
    | some (o, s1) =>
      let r : Replay := { tray := tray, core := core, slot := slot, tag := tag, old := BitVec.ofNat 64 o, since := s1.time.toNat, frame := a / 4096, req := none, preq := some q }
      ({ s1 with replay := s1.replay ++ [r] }).reply fn true (leBytes n o)

/-- The register accesses of a function through PCIe (R13, R47, R106). -/
def State.serveMmio (s : State) (fn : Func) (req : Request) : State :=
  let (a, n, acc) := reqOf req
  let l := natsFrom a n
  match req with
  | .amo .. => s.refuse (some fn) (dieMaster mtFunc fn.num fn.link) 7 8 a (gateDet 0 2)
  | .read _ _ =>
    (match s.mmioBreach fn false l with
    | some cause => (s.freezeFn fn cause a acc).reply (some fn) false []
    | none => if s.mmioWaits true l then s else s.reply (some fn) true (s.mmioRead l))
  | .write _ b =>
    (match s.mmioBreach fn true l with
    | some cause => (s.freezeFn fn cause a acc).reply (some fn) false []
    | none =>
      if s.mmioWaits false l then s else
      match regOf a with
      | some (.port q) => if n = 64 ∧ a % 64 = 0 then (s.submit q fn true (leAt b 0 8) (leAt b 8 8) (leAt b 16 8)).1 else s.discard q
      | _ => s.mmioWrite (l.zip b))

/-- `PCIE_REQUEST` (R13, R399, R424): a frozen function's requests end in an abort; one to a copied frame waits, and so does one whose link, or whose channel of the bridge, retrains (R449). -/
def execPcieRequest (fn : Func) (req : Request) (s : State) : Out :=
  .next (let (a, n, acc) := reqOf req
  let l := natsFrom a n
  let m := dieMaster mtFunc fn.num fn.link
  if !s.pcieUp fn.link || n = 0 then s
  else if s.fnFrozen.contains (fnIdx fn) then
    (match req, regOf a with | .write _ _, some (.port q) => if lqForeign (s.lq q) fn then s else s.discard q | _, _ => s).abortFn fn
  else if l.any fun b => s.frameBusy b || ((isStore (s.behind b) || isMmio b) && s.farHeld fn.link (edgeRow fn.link 1) b) then s
  else if l.all fun b => match regionOf b with | .mmio _ _ => true | _ => false then s.serveMmio fn req
  else if acc = 2 then s.reply (some fn) false []
  else match s.gates acc l with
    | .open' => s.serve (some fn) s.tray m req
    | .fault code tag => s.refuse (some fn) m 7 code a (gateDet tag acc)
    | .breach =>
      let s1 := (s.freezeFn fn 7 a acc).reply (some fn) false []
      { s1 with outbox := s1.outbox ++ [.aer fn.link true] })

/-- Freezes a span peer for a breach (R399, R468). -/
def State.freezePeer (s : State) (tray addr acc : Nat) : State :=
  if s.peerFrozen.contains tray then s else
  let m := dieMaster mtPeer (peerLink tray) .west
  (({ s with peerFrozen := s.peerFrozen ++ [tray] }).addFrozen m).toDevice { s.mkRec 8 2 8 m (some addr) noLid 0xFFFF [(52, 1, acc)] with phys := true }
/-- The old value the replay cache holds for an attempt of a peer; a retry that is another operation is a new one (R429, R431; log 57). -/
def State.peerHit (s : State) (tray : Nat) : Request → Option Word
  | q@(.amo _ _ _ _ _ core slot tag) => (s.replay.find? fun r => r.tray == tray && r.core == core && r.slot == slot && r.tag == tag && r.preq == some q).map Replay.old
  | _ => none
/-- `PEER_REQUEST` (R192, R429): an atomic whose tag the replay cache holds is answered from it and not performed again; a full cache holds a new one. -/
def execPeerRequest (tray : Nat) (req : Request) (s : State) : Out :=
  .next (let (a, n, acc) := reqOf req
  let l := natsFrom a n
  let m := dieMaster mtPeer (peerLink tray) .west
  if !s.west.boot.span.getLsbD (spanLink .west tray) || s.spanBusy .west (spanLink .west tray) || n = 0 then s
  else if s.peerFrozen.contains tray then s.reply none false []
  else if l.any fun b => s.frameBusy b || (isStore (s.behind b) && s.farHeld .west (edgeRow .west (2 + spanLink .west tray)) b) then s
  else match s.peerHit tray req with
  | some old => s.reply none true (leBytes n old.toNat)
  | none =>
    if acc = 2 ∧ s.replayFull (a / 4096) then s
    else if acc = 2 ∧ a % n ≠ 0 then s.refuse none m 7 9 a (gateDet 0 2) else
    match s.gates acc l with
    | .open' => s.serve none tray m req
    | .fault code tag => s.refuse none m 7 code a (gateDet tag acc)
    | .breach => (s.freezePeer tray a acc).reply none false [])

/-! ## Ingest -/

/-- The fields of ICFG (R187). -/
def icEn (v : Nat) : Bool := bitN v 63
def icPort (v : Nat) : Nat := fld v 61 2
def icProto (v : Nat) : Nat := fld v 59 2
def icTs (v : Nat) : Bool := bitN v 58
def icUdp (v : Nat) : Nat := fld v 42 16
def icLine (v : Nat) : Nat := fld v 27 15 + 1

/-- Counts dropped lines and lost packets of a channel; both saturate (R187). -/
def State.countDrop (s : State) (ch lines packets : Nat) : State :=
  let v := (tget s.idrop 0 ch).toNat
  let add := fun (x n : Nat) => Nat.min (x + n) 0xFFFFFFFF
  { s with idrop := tset s.idrop ch (BitVec.ofNat 64 (add (v / 2 ^ 32) lines * 2 ^ 32 + add (v % 2 ^ 32) packets)) }
/-- The open ingest stream of a channel that takes more rows: its core and number (R154, R189). -/
def State.ingestOf (s : State) (ch : Nat) : Option (Nat × Nat × Stream) :=
  s.cores.findSome? fun q => q.2.streams.findSome? fun t =>
    if !dOut t.2.desc && dKind t.2.desc == 3 && dRemote t.2.desc == ch && !t.2.saved && !t.2.flt && !t.2.eosw && decide (t.2.pos < t.2.finish.1) then some (q.1, t.1, t.2) else none
/-- A line is dropped: counted, and under POL 1 noted for the next gap marker (R166, R189). -/
def State.dropLine (s : State) (ch : Nat) : State :=
  let s1 := s.countDrop ch 1 0
  match s1.ingestOf ch with
  | some (c, i, t) => if dPol t.desc = 1 then s1.modStream c i fun t => { t with gap := Nat.min (t.gap + 1) 0xFFFFFFFF } else s1
  | none => s1
/-- The rows of a line (R188). -/
def lineBytes (v : Nat) (block : Word) (num since : Nat) (l : List Byte) : List Row :=
  (if icTs v then [bytesRow (leBytes 8 since ++ leBytes 8 block.toNat ++ leBytes 4 num)] else [])
    ++ (natsFrom 0 (ceilDiv (icLine v) 256)).map fun i => bytesRow ((l.drop (256 * i)).take 256)

/-- The positions of the n rows at ring index o leave those of the stream's rows (R166). -/
def Stream.skip (st : Stream) (o n : Nat) : Stream :=
  let q := st.posFrom st.headPos o
  let r := st.posFrom st.headPos (o + n)
  let lo := if q = 0 then 0 else st.before q + 1
  { st with headPos := if o = 0 then r else st.headPos, skips := if o = 0 ∧ st.held = 0 then st.skips.filter fun e => decide (r ≤ e.1) else (lo, r - lo) :: st.skips }
/-- Takes n rows at ring index o of the full rows out: off the head when nothing is held before it, else by moving the later rows up (R166). -/
def Core.cutRows (k : Core) (c i : Nat) (st0 : Stream) (o n : Nat) : Core :=
  let st := st0.skip o n
  if o = 0 ∧ st.held = 0 then
    let k1 := (natsFrom 0 n).foldl (fun k j => k.setFull (st.key (st.head + j)) false) k
    { k1 with streams := tset k1.streams i { st with head := (st.head + n) % Nat.max 1 st.depth, count := st.count - n } }
  else
    let k1 := (natsFrom (o + n) (st.count - (o + n))).foldl (fun k j =>
      (k.setRow (st.key (st.head + j - n)) (k.row c (st.key (st.head + j)))).setKind (st.key (st.head + j - n)) (k.kindOf (st.key (st.head + j)))) k
    let k2 := (natsFrom (st.count - n) n).foldl (fun k j => (k.setFull (st.key (st.head + j)) false).setKind (st.key (st.head + j)) 0) k1
    { k2 with streams := tset k2.streams i { st with tail := (st.tail + Nat.max 1 st.depth - n % Nat.max 1 st.depth) % Nat.max 1 st.depth, count := st.count - n } }
/-- The marks of words with errors go with rows that move within a core's banks, from each key to the next of its pair (R453). -/
def State.moveMarks (s : State) (c : Nat) (l : List (Nat × Nat)) : State :=
  let of := fun (f : Nat × Nat → Nat) (b r : Nat) => l.find? fun q => f q == b * 768 + r
  { s with poisonLoc := (s.poisonLoc.filter fun p => match p with | .bank c' b r _ => c' != c || (of Prod.snd b r).isNone | _ => true) ++
      s.poisonLoc.filterMap fun p => match p with
        | .bank c' b r w => if c' = c then (of Prod.fst b r).map fun q => .bank c (q.2 / 768) (q.2 % 768) w else none
        | _ => none }
/-- The rows that `Core.cutRows` moves up, as keys. -/
def Stream.cutMoves (st : Stream) (o n : Nat) : List (Nat × Nat) :=
  if o = 0 ∧ st.held = 0 then [] else (natsFrom (o + n) (st.count - (o + n))).map fun j => (st.key (st.head + j), st.key (st.head + j - n))
/-- Discards the oldest whole lines of r rows until `need` rows are free; each is counted (R166). -/
def State.dropOldest (s : State) (ch c i r need : Nat) : Nat → State
  | 0 => s
  | fuel + 1 =>
    match s.stream c i with
    | none => s
    | some t =>
      if need ≤ t.depth - (t.count + t.held) then s else
      let o := (r - t.headPos % r) % r
      if t.count < o + r then s
      else (((s.moveMarks c (t.cutMoves o r)).modCore c fun k => k.cutRows c i t o r).countDrop ch 1 0).dropOldest ch c i r need fuel
/-- The partner of a fork takes n more rows (R168). -/
def State.partnerRoom (s : State) (c i : Nat) (t : Stream) (n : Nat) : Bool :=
  if !t.forkOn || t.forkEos then true else
  match t.forkTo with
  | some (r, h) => (match s.sink c i t.lid r h with | some (_, p) => !p.saved && !p.flt && decide (p.count + p.held + p.transit.length + n ≤ p.depth) | none => false)
  | none => true
/-- The rows of a whole line are written to its channel's stream, or dropped; rows past the nest's last are not taken (R154, R166, R189; log 84). DESIGN CHOICE: the rows of a dropped line take no arrival numbers (R168, log 59). -/
def State.lineNow (s : State) (ch : Nat) (all : List Row) : State :=
  match s.ingestOf ch with
  | none => s.countDrop ch 1 0
  | some (c, i, t0) =>
    let rows := all.take (t0.finish.1 - t0.pos)
    let need := rows.length + b2n (t0.gap != 0)
    let s1 := if dPol t0.desc = 2 then s.dropOldest ch c i all.length need t0.depth else s
    match s1.stream c i with
    | none => s1
    | some t =>
      if t.depth < t.count + t.held + need || !s1.partnerRoom c i t need then s1.dropLine ch else
      let s2 := if t.gap ≠ 0 then (s1.rowIn c i 2 (BitVec.ofNat 2048 t.gap)).modStream c i fun t => { t with gap := 0 } else s1
      rows.foldl (fun s r => s.rowIn c i 0 r) s2
/-- The rows of a channel must cross the bridge to their stream, and no channel of it lets the row of their port (R8, R10, R449, R450). -/
def State.ingestHeld (s : State) (ch : Nat) : Bool :=
  match s.ingestOf ch with
  | some (c, _, _) => dieOf c != .west && s.rowHeld (edgeRow .west (8 + icPort (tget s.icfg 0 ch).toNat))
  | none => false
/-- A whole line leaves its port for its channel's stream, behind the lines that the bridge holds back (R10, R189). -/
def State.lineIn (s : State) (ch : Nat) (block : Word) (num since : Nat) (l : List Byte) : State :=
  let all := lineBytes (tget s.icfg 0 ch).toNat block num since l
  if s.ingestHeld ch then { s with ingq := s.ingq ++ [(ch, all)] } else s.lineNow ch all

/-- Bytes of a block, or as many missing ones, cut into lines (R189): by the bytes and the number left to cut. -/
def State.cutLines (s : State) (ch len : Nat) (lost : Bool) : Nat → LineBuf → List Byte → State × LineBuf
  | 0, b, _ => (s, b)
  | fuel + 1, b, l =>
    if l.isEmpty then (s, b) else
    let room := len - b.bytes.length
    let b1 := { b with bytes := b.bytes ++ l.take room, torn := b.torn || lost, since := if b.bytes.isEmpty then s.time.toNat else b.since }
    if b1.bytes.length < len then (s, b1) else
    let s1 := if b1.torn then s.dropLine ch else s.lineIn ch b1.block b1.line b1.since b1.bytes
    s1.cutLines ch len lost fuel { b1 with line := b1.line + 1, bytes := [], torn := false } (l.drop room)
/-- The packets from the next one to a packet id are missing: they are counted, and every line their bytes touch is dropped (R189). -/
def State.lose (s : State) (ch : Nat) (b : LineBuf) (packet size : Nat) : State × LineBuf :=
  if packet ≤ b.next then (s, b) else
  let gone := List.replicate ((packet - Nat.max 1 b.next) * size) (0 : Byte)
  (s.countDrop ch 0 (packet - b.next)).cutLines ch (icLine (tget s.icfg 0 ch).toNat) true (gone.length + 1) b gone
/-- The block a channel is cutting is over: a line that has begun is dropped (R189). -/
def State.endBlock (s : State) (ch : Nat) : State :=
  let s1 := match tfind s.lines ch with | some b => if b.bytes.isEmpty then s else s.dropLine ch | none => s
  { s1 with lines := tdel s1.lines ch }
/-- A GVSP packet of a channel (R189): a block whose leader is lost starts at its first payload packet (log 84). -/
def State.gvsp (s : State) (ch : Nat) : Dgram → State
  | .leader block =>
    let s1 := s.endBlock ch
    { s1 with lines := tset s1.lines ch { block := block, next := 1, size := 0, line := 0, bytes := [], torn := false, since := 0 } }
  | .payload block packet data =>
    let (s0, b) := match (tfind s.lines ch).filter fun b => b.block == block with
      | some b => (s, b)
      | none => (s.endBlock ch, { block := block, next := 0, size := 0, line := 0, bytes := [], torn := false, since := 0 })
    if packet < b.next then s else
    let (s2, b2) := s0.lose ch b packet (if b.size = 0 then data.length else b.size)
    let (s3, b3) := s2.cutLines ch (icLine (tget s.icfg 0 ch).toNat) false (data.length + 1) b2 data
    { s3 with lines := tset s3.lines ch { b3 with next := packet + 1, size := data.length } }
  | .trailer block packet =>
    (match (tfind s.lines ch).filter fun b => b.block == block with
    | some b =>
      let (s2, b2) := s.lose ch b packet b.size
      { s2 with lines := tset s2.lines ch b2 }.endBlock ch
    | none => s)
  | .udp _ => s
/-- The channel that takes a datagram (R188). -/
def State.ingestChannel (s : State) (port udp : Nat) : Option Nat :=
  (natsFrom 0 64).find? fun n => let v := (tget s.icfg 0 n).toNat; icEn v && icPort v == port && icUdp v == udp
/-- `INGEST_DATAGRAM` (R187 to R189): on a port in lock; a frozen port drops and counts (R399). -/
def execIngestDatagram (port : Nat) (proto : BitVec 2) (udp : BitVec 16) (d : Dgram) (s : State) : Out :=
  .next (if !s.west.boot.ingest.getLsbD port then s else
  match s.ingestChannel port udp.toNat with
  | none => s
  | some ch =>
    let v := (tget s.icfg 0 ch).toNat
    if icProto v ≠ proto.toNat then s
    else if s.ingFrozen.contains port then s.dropLine ch
    else match d with
      | .udp l => if icProto v < 2 then s else if l.length = icLine v then s.lineIn ch 0 0 s.time.toNat l else s.dropLine ch
      | g => if icProto v < 2 then s.gvsp ch g else s)

end Sys2Proof.Machine
end

