-- ==== Sys2Proof/Machine/Bringup.lean ====
section
/-! DEFINITION. Bring-up of the dies (R14 to R17, R456), device time (R11), and the controllers' watchdog and restart (R457). -/
namespace Sys2Proof.Machine
open Sys2Proof

/-- A record of a system controller (R457). -/
def State.ctlRecord (s : State) (d : Die) (sev cause : Nat) (det : List (Nat × Nat × Nat)) : State :=
  s.toDevice (s.mkRec 13 sev cause (dieMaster mtCtl 0 d) none noLid 0xFFFF det)
/-- Changes the bring-up state of a die. -/
def State.modBoot (s : State) (d : Die) (f : Boot → Boot) : State := s.modDie d fun x => { x with boot := f x.boot }

/-! ## Steps -/

/-- The die has finished its part of its step. -/
def Boot.partDone (b : Boot) : Bool :=
  match b.step with
  | 1 => b.fwok
  | 2 => b.bridgeDone
  | 3 => b.hbmDone == 0xFF
  | 4 => b.pcieDone
  | 5 => b.spanDone == 0x3F
  | _ => false
/-- The die's firmware failed: it stays at step 1 (R456). -/
def Boot.dead (b : Boot) : Bool := b.step == 1 && !b.fwok
/-- The logical core map from fuses and field-test history (R14 step 7). -/
def State.loadMap (s : State) (d : Die) : State :=
  let base := 160 * dieNat d
  let s1 := { s with cmap := (natsFrom base 160).foldl (fun t c => tset t c (BitVec.ofNat 16 (2 ^ 15 + (Config.fuseSite c).toNat))) s.cmap }
  let s2 := s1.modDie d fun x => { x with spareFree := 0xFF, spareBad := 0, boot := { x.boot with map := true } }
  ((s2.die d).history.filter fun v => !mcPending v).foldl (fun s v => s.applyMap (mcCore v) (mcSite v) (mcRetire v)) s2
/-- READY and DEGR of a die (R17); DEGR never returns to 0 before reset (R450). -/
def State.publish (s : State) (d : Die) : State :=
  let o := (s.die (Die.other d)).boot
  s.modBoot d fun b =>
    let r := b.fwok && b.bridge && b.map && b.hbm != 0 && (b.pcie || o.pcie)
    { b with ready := r, degr := b.degr || (r && (b.hbm != 0xFF || !b.pcie || !s.brDead.isEmpty)) }
/-- Whether a die waits at step 6 or 7: neither has a partner to wait for, the ingest links train in the background (R15). -/
def Boot.passing (b : Boot) : Bool := b.step == 6 || b.step == 7
/-- A die leaves step 6, or loads its map and leaves step 7 (R14). -/
def State.passStep (s : State) (d : Die) : State :=
  match (s.die d).boot.step with
  | 6 => s.modBoot d fun b => { b with step := 7, since := s.time.toNat }
  | 7 => (s.loadMap d).modBoot d fun b => { b with step := 8, since := s.time.toNat }
  | _ => s
/-- Steps 6 and 7 each last until device time next passes (log 60); a die that reaches step 8 publishes its readiness, both before either reads the other's (R14, R17). -/
def State.bootOn (s : State) (ns : Nat) : State :=
  if ns = 0 ∨ !(s.west.boot.passing || s.east.boot.passing) then s else
  let w := decide (s.west.boot.step = 7)
  let e := decide (s.east.boot.step = 7)
  let s1 := (s.passStep .west).passStep .east
  let s2 := if w then s1.publish .west else s1
  if e then s2.publish .east else s2
/-- The dies enter the next step, together unless the other one's firmware failed (R14, R456). -/
def State.advanceBoot (s : State) : State :=
  let w := s.west.boot
  let e := s.east.boot
  let up := fun (b : Boot) => { b with step := b.step + 1, since := s.time.toNat }
  if w.partDone && (e.dead || (e.step == w.step && e.partDone)) then
    let s1 := (s.modBoot .west up)
    if e.dead then s1 else s1.modBoot .east up
  else if e.partDone && w.dead then s.modBoot .east up
  else s

/-- `BRING_UP` (R14 step 1, R456): the active slot is verified, then the other one; device time starts with the first die. Both dies enter step 2 together, once both have ended step 1. -/
def execBringUp (die : Die) (aOk bOk : Bool) (s : State) : Out :=
  .next (let x := s.die die
  if x.boot.step ≠ 0 then s else
  let first := (s.die (Die.other die)).boot.step = 0
  let s0 := { s with powered := true, time := if first then 0 else s.time, slewDebt := if first then 0 else s.slewDebt, slewGain := if first then 0 else s.slewGain,
                     slewAcc := if first then 0 else s.slewAcc, ptpLocked := s.ptpLocked && !first, ptpPort := if first then none else s.ptpPort }
  let ok := fun (slot : Bool) => if slot then bOk else aOk
  let act := x.act
  let run := if ok act then some act else if ok (!act) then some (!act) else none
  let s1 := s0.modDie die fun x => { x with aVal := aOk, bVal := bOk, boots := Nat.min (x.boots + 1) 15 }
  let s2 := if ok act then s1 else s1.ctlRecord die 1 2 [(32, 1, b2n act)]
  let s3 := if ok act || ok (!act) then s2 else s2.ctlRecord die 1 2 [(32, 1, b2n !act)]
  (match run with
  | some slot => (s3.modDie die fun x => { x with act := slot }).modBoot die fun b => { b with step := 1, since := s0.time.toNat, fwok := true, fwslot := slot }
  | none => s3.modBoot die fun b => { b with step := 1, since := s0.time.toNat, fwok := false, fwslot := false }).advanceBoot)

/-- A part's training ends, trained or not. -/
def Boot.trained (b : Boot) (p : Part) (ok : Bool) : Boot :=
  match p with
  | .bridge => { b with bridge := b.bridge || ok, bridgeDone := true }
  | .hbm n => { b with hbm := if ok then putBit b.hbm n true else b.hbm, hbmDone := putBit b.hbmDone n true }
  | .pcie => { b with pcie := b.pcie || ok, pcieDone := true }
  | .span n => { b with span := if ok then putBit b.span n true else b.span, spanDone := putBit b.spanDone n true }
  | .ingest _ => b
/-- The part is open in the die's step: it has neither trained nor timed out. -/
def Boot.open' (b : Boot) (p : Part) : Bool :=
  match p with
  | .bridge => b.step == 2 && !b.bridgeDone
  | .hbm n => b.step == 3 && decide (n < 8) && !b.hbmDone.getLsbD n
  | .pcie => b.step == 4 && !b.pcieDone
  | .span n => b.step == 5 && decide (n < 6) && !b.spanDone.getLsbD n
  | .ingest _ => false
/-- `TRAINING_STEP_DONE` (R15): the bridge trains for both dies at once; a span link that LNKCTL has disabled stays down (R464). -/
def execTrainingStepDone (die : Die) (part : Part) (s : State) : Out :=
  .next (if !(s.die die).boot.open' part then s else
  match part with
  | .bridge =>
    if (s.die (Die.other die)).boot.step = 2 ∧ s.bridgeLive then
      ((s.modBoot .west fun b => b.trained .bridge true).modBoot .east fun b => b.trained .bridge true).advanceBoot
    else s
  | .span n =>
    let ok := !(s.die die).lnkOff.contains n
    ((if ok then s.modDie die fun x => { x with lnkWidth := tset x.lnkWidth n 3 } else s).modBoot die fun b => b.trained (.span n) ok).advanceBoot
  | p => (s.modBoot die fun b => b.trained p true).advanceBoot.settleRecs)
/-- The device's time-out of a step in ns (R15). -/
def partLimit : Part → Nat | .bridge => 20000000 | .hbm _ => 50000000 | .pcie => 100000000 | .span _ => 160000000 | .ingest _ => 0
/-- The bridge step times out: with both dies in it, the channels that have not trained are dead, and the bridge trains while one is live (R15, R450); a die alone in it has no bridge (R456). -/
def State.bridgeOut (s : State) (die : Die) : State :=
  if (s.die (Die.other die)).boot.step = 2 then
    let s1 := { s with brDead := (natsFrom 0 14).filter fun n => s.brDead.contains n || !Config.channelTrains s.fresh n }.drawn
    (s1.modBoot .west fun b => b.trained .bridge s1.bridgeLive).modBoot .east fun b => b.trained .bridge s1.bridgeLive
  else s.modBoot die fun b => b.trained .bridge false
/-- `TRAINING_TIMEOUT` (R15, R457): the part stays untrained, and the sequence continues. -/
def execTrainingTimeout (die : Die) (part : Part) (s : State) : Out :=
  .next (let b := (s.die die).boot
  if !b.open' part || decide (s.time.toNat < b.since + partLimit part) then s else
  let s1 := s.ctlRecord die 1 6 [(32, 1, b.step)]
  (match part with
  | .bridge => s1.bridgeOut die
  | p => s1.modBoot die fun b => b.trained p false).advanceBoot)

/-- The ECNT unit of a die counts a corrected or an uncorrectable error; both saturate (R455). -/
def State.countErr (s : State) (d : Die) (u : Nat) (ue : Bool) : State :=
  s.modDie d fun x =>
    let v := (tget x.ecnt 0 u).toNat
    let add := fun n => Nat.min (n + 1) 0xFFFFFFFF
    { x with ecnt := tset x.ecnt u (BitVec.ofNat 64 (if ue then add (v / 2 ^ 32) * 2 ^ 32 + v % 2 ^ 32 else v / 2 ^ 32 * 2 ^ 32 + add (v % 2 ^ 32))) }

/-! ## Ingest ports and time -/

/-- `ALIGNMENT_LOCK` (R15, R451): from step 6 on, on a port that is not disabled; where software had asked for it, with a record (R452). -/
def execAlignmentLock (port : Nat) (s : State) : Out :=
  .next (if s.west.boot.step < 6 || 4 ≤ port || s.west.lnkOff.contains (port + 8) then s
  else
    let s1 := s.modBoot .west fun b => { b with ingest := putBit b.ingest port true }
    if !s.west.lnkAsked.contains (port + 8) then s1 else
    (s1.modDie .west fun x => { x with lnkAsked := x.lnkAsked.filter (· != port + 8) }).corrected 20
      (s1.mkRec 10 0 5 (dieMaster mtIngest port .west) none noLid 0xFFFF [(32, 1, 0), (33, 1, 3)]))
/-- `INGEST_LOCK_LOST` (R451, R452): an uncorrectable error of unit 20 (R455; log 62). -/
def execIngestLockLost (port : Nat) (s : State) : Out :=
  .next (if !s.west.boot.ingest.getLsbD port then s else
  let s1 := (s.unlock port).countErr .west 20 true
  s1.toDevice (s1.mkRec 10 1 7 (dieMaster mtIngest port .west) none noLid 0xFFFF []))
/-- `PTP_TIME_LOCK` (R11, R12): the first lock steps device time; a later one makes its port the active time source where no port is. -/
def execPtpTimeLock (port : Nat) (time : Word) (s : State) : Out :=
  .next (if !s.west.boot.ingest.getLsbD port then s
  else if !s.ptpLocked then { s with time := time, ptpLocked := true, ptpPort := some port, slewDebt := 0, slewGain := 0, slewAcc := 0 }
  else if s.ptpPort.isNone then { s with ptpPort := some port }
  else s)
/-- `DEVICE_TIME_SLEW` (R11): device time is to gain or lose some ns, at most 100 ppm of the time that passes from now on. -/
def execDeviceTimeSlew (back : Bool) (ns : Nat) (s : State) : Out :=
  .next (if !s.ptpLocked || s.ptpPort.isNone then s
  else if back then { s with slewDebt := ns, slewGain := 0, slewAcc := 0 } else { s with slewDebt := 0, slewGain := ns, slewAcc := 0 })

/-! ## Controllers -/

/-- `CONTROLLER_WATCHDOG` (R457): the other controller resets this one. -/
def execControllerWatchdog (die : Die) (s : State) : Out :=
  .next (let o := Die.other die
  if !(s.die die).ctl.up || !(s.die o).ctl.up || (s.die die).boot.step < 2 || (s.die o).boot.step < 2 then s else
  (s.modDie die fun x => { x with ctl := { x.ctl with up := false } }).ctlRecord o 1 1 [])
/-- `CONTROLLER_RESTART_DONE` (R457, R463): the buffered records are written to their queues; after a SWAP the other slot runs; either way it is a boot (R463). -/
def execControllerRestartDone (die : Die) (s : State) : Out :=
  .next (let x := s.die die
  if x.ctl.up then s else
  let buf := x.ctl.buf
  let s1 := s.setDie die { x with
    ctl := { up := true, swap := false, buf := [] }
    act := if x.ctl.swap then !x.act else x.act
    boots := Nat.min (x.boots + 1) 15
    boot := { x.boot with fwslot := if x.ctl.swap then !x.act else x.act } }
  let s2 := buf.foldl (fun s h => match h.lid with | some lid => s.toLaunch lid h.rcd | none => s.toDevice h.rcd) s1
  if x.ctl.swap then s2.ctlRecord die 0 3 [] else s2)

end Sys2Proof.Machine
end

