-- ==== Sys2Proof/Machine/Edges.lean ====
section
/-! DEFINITION. The device's edges: link retries and retrains (R449 to R452), mesh and PCIe errors, soft errors, patrol scrub and row sparing (R402, R403, R453 to R455), and the loss of power (R433 to R435). -/
namespace Sys2Proof.Machine
open Sys2Proof

/-! ## Links -/

/-- The die whose counters a link's errors enter: of a bridge channel, that of the end which meets the error, a free value (R455; log 62). -/
def State.linkDie (s : State) : LinkId → Die | .bridge _ => if Config.bridgeEnd s.fresh then .west else .east | .span d _ => d | .pcie d => d
/-- The ECNT unit of a link (R455). -/
def linkUnit : LinkId → Nat | .bridge _ => 11 | .span _ n => 12 + n % 6 | .pcie _ => 18
/-- MASTER of a link's record (R391, R452). -/
def linkMaster : LinkId → BitVec 32
  | .bridge n => dieMaster mtMesh n .west
  | .span d n => dieMaster mtPeer (6 * dieNat d + n % 6) d
  | .pcie d => dieMaster mtFunc 0 d
/-- A CLASS 10 record: lane, and new width or spare count (R452). -/
def State.linkRecord (s : State) (l : LinkId) (sev cause lane val : Nat) : State :=
  let r := s.mkRec 10 sev cause (linkMaster l) none noLid 0xFFFF [(32, 1, lane), (33, 1, val)]
  if sev = 0 then s.corrected (linkUnit l) r else s.toDevice r
/-- The width code or spare count of a link now. -/
def State.linkVal (s : State) : LinkId → Nat
  | .bridge n => tget s.brSpares 2 n
  | .span d n => s.lnkCode d (n % 6)
  | .pcie _ => 0
/-- The link carries traffic: a live channel, a trained link. -/
def State.linkUp (s : State) : LinkId → Bool
  | .bridge n => decide (n < 14) && s.west.boot.bridge && !s.brDead.contains n
  | .span d n => decide (n < 6) && (s.die d).boot.span.getLsbD n
  | .pcie d => (s.die d).boot.pcie
/-- `FLIT_CRC_RETRY` (R449, R455, R464): counted; the lane is not known. -/
def execFlitCrcRetry (link : LinkId) (s : State) : Out :=
  .next (if !s.linkUp link then s else
  let d := s.linkDie link
  let s1 := s.countErr d (linkUnit link) false
  let s2 := match link with
    | .span _ n => s1.modDie d fun x => { x with lnkRetry := tset x.lnkRetry n (Nat.min (tget x.lnkRetry 0 n + 1) 0xFFFF) }
    | _ => s1
  s2.drawn.linkRecord link 0 1 (Config.freeWord s2.fresh).toNat (s2.linkVal link))
/-- `LINK_RETRY_LIMIT` (R449): the link retrains; its sender holds its flits meanwhile. -/
def execLinkRetryLimit (link : LinkId) (lane : Nat) (s : State) : Out :=
  .next (if !s.linkUp link || s.retrain.any fun r => r.link == link then s
  else { (s.countErr (s.linkDie link) (linkUnit link) true).drawn with retrain := s.retrain ++ [{ link := link, lane := lane, asked := false }] })
/-- A bridge channel after its retrain: a spare lane, or no longer live (R449, R450). -/
def State.bridgeDone (s : State) (n lane : Nat) (ok : Bool) : State :=
  let left := tget s.brSpares 2 n
  if ok && left != 0 then ({ s with brSpares := tset s.brSpares n (left - 1) }).linkRecord (.bridge n) 0 2 lane (left - 1)
  else
    let s1 := { s with brDead := n :: s.brDead }
    let f := fun (b : Boot) => { b with degr := true, bridge := b.bridge && s1.bridgeLive }
    ((s1.modBoot .west f).modBoot .east f).linkRecord (.bridge n) 1 8 lane 0
/-- A span link after its retrain: x16 again on request, else one width less; below x4 it is down (R449, R451, R464). -/
def State.spanDone (s : State) (d : Die) (n lane : Nat) (asked ok : Bool) : State :=
  let w := tget (s.die d).lnkWidth 3 n
  let l := LinkId.span d n
  let set := fun (v : Nat) => s.modDie d fun x => { x with lnkWidth := tset x.lnkWidth n v, boot := { x.boot with span := putBit x.boot.span n true } }
  if !ok || (!asked && w ≤ 1) then (s.spanDown d n).linkRecord l 1 4 lane 0
  else if asked then (set 3).linkRecord l 0 5 lane 3
  else (set (w - 1)).linkRecord l 1 3 lane (w - 1)
/-- The ingest lines that a channel held back cross it, in their order (R10, R449, R450). -/
def State.flushIngest (s : State) : State :=
  s.ingq.foldl (fun s p => if s.ingestHeld p.1 then { s with ingq := s.ingq ++ [p] } else s.lineNow p.1 p.2) { s with ingq := [] }
/-- `LINK_RETRAIN_DONE` (R449 to R452): what the link held goes on. -/
def execLinkRetrainDone (link : LinkId) (ok : Bool) (s : State) : Out :=
  .next (match s.retrain.find? fun r => r.link == link with
  | none => s
  | some r =>
    let s1 := { s with retrain := s.retrain.filter fun q => q.link != link }
    match link with
    | .bridge n => (s1.bridgeDone n r.lane ok).flushIngest.settleRecs
    | .span d n => (s1.spanDone d n r.lane r.asked ok).settleRecs
    | .pcie d =>
      (if ok then s1.drawn.linkRecord link 1 3 r.lane (Config.freeWord s1.fresh).toNat
      else (s1.modBoot d fun b => { b with pcie := false }).linkRecord link 1 4 r.lane 0).settleRecs)
/-- `MESH_PARITY_RESEND` (R402, R452). -/
def execMeshParityResend (die : Die) (s : State) : Out :=
  .next (let s1 := s.countErr die 19 false
  s1.corrected 19 (s1.mkRec 10 0 6 (dieMaster mtMesh 0 die) none noLid 0xFFFF []))
/-- `PCIE_AER_ERROR` (R449, R452): a correctable error is a retry that succeeded. -/
def execPcieAerError (die : Die) (uncorr : Bool) (s : State) : Out :=
  .next (if !(s.die die).boot.pcie then s else
  let s1 := s.countErr die 18 uncorr
  let s2 := { s1 with outbox := s1.outbox ++ [OutMsg.aer die uncorr] }
  if uncorr then s2.linkRecord (.pcie die) 1 9 0 0 else s2.linkRecord (.pcie die) 0 1 0 0)

/-! ## Stored words -/

/-- The die, ECNT unit and master of a stored word (R391, R455; log 15). -/
def locUnit : StoreLoc → Die × Nat × BitVec 32
  | .mem a => memUnit a
  | .bank c _ _ _ | .acc c _ | .slot c _ | .reg c _ _ _ | .gridReg c _ _ _ | .array c | .code c _ _ _ | .queue c _ => (dieOf c, 10, coreMaster mtMemory c 0 0)
/-- A record of a stored word: its physical address where it has one. -/
def State.locRecord (s : State) (l : StoreLoc) (sev cause : Nat) : State :=
  let addr := match l with | .mem a => some (a / 8 * 8) | _ => none
  let r : FaultRec := { s.mkRec 11 sev cause (locUnit l).2.2 addr noLid 0xFFFF [] with phys := addr.isSome }
  if sev = 0 then s.corrected (locUnit l).2.1 r else s.toDevice r
/-- The word holds an uncorrectable error from now on (R402, R453): registers have wrong parity, other words are poisoned. -/
def State.spoil (s : State) (l : StoreLoc) : State :=
  match l with
  | .mem a => if isStore a && !s.poison.contains (a / 8) then { s with poison := a / 8 :: s.poison } else s
  | .reg c n kind num =>
    if num = 0 then s else
    s.modCtx c n fun x =>
      match kind with
      | 0 => { x with ap := { x.ap with bad := num :: x.ap.bad } }
      | 1 => { x with ap := { x.ap with bad := (256 + num) :: x.ap.bad } }
      | 2 => { x with ep := { x.ep with bad := num :: x.ep.bad } }
      | 3 => { x with ep := { x.ep with bad := (256 + num) :: x.ep.bad } }
      | _ => { x with ep := { x.ep with bad := (512 + num) :: x.ep.bad } }
  | l => if s.poisonLoc.contains l then s else { s with poisonLoc := l :: s.poisonLoc }
/-- The word is known to hold an uncorrectable error. -/
def State.spoiled (s : State) : StoreLoc → Bool
  | .mem a => s.poisoned a
  | l => s.poisonLoc.contains l
/-- A register, whose errors parity finds. -/
def isReg : StoreLoc → Bool | .reg .. => true | .gridReg .. => true | .array _ => true | _ => false

/-- 24 hours in ns. -/
def dayNs : Nat := 86400000000000
/-- A corrected error of a word of memory; the third of its row in a day spares the row (R454). -/
def State.rowError (s : State) (l : StoreLoc) : State :=
  match l with
  | .mem a =>
    let f := a / 4096
    let old := (tget s.rowErrs [] f).filter fun t => decide (s.time.toNat < t + dayNs)
    if old.length < 2 then { s with rowErrs := tset s.rowErrs f (s.time.toNat :: old) } else s.spareRow a
  | _ => s
/-- A corrected error: counted, and reported at SEV 0 under a cause the tables do not name (R402, R403). -/
def State.correctAt (s : State) (l : StoreLoc) : State :=
  let u := locUnit l
  ((s.countErr u.1 u.2.1 false).drawn.locRecord l 0 ((Config.freeWord s.fresh).toNat % 65536)).rowError l

/-- `STORAGE_SOFT_ERROR` (R402): an error in a register, or one that cannot be corrected, waits for the word's first use or the scrub; another is corrected. -/
def execStorageSoftError (loc : StoreLoc) (_bit : Nat) (uncorr : Bool) (s : State) : Out :=
  .next (if isReg loc then s.spoil loc
  else if uncorr then (if s.spoiled loc then s else (s.countErr (locUnit loc).1 (locUnit loc).2.1 true).spoil loc)
  else s.correctAt loc)
/-- `PATROL_SCRUB` (R402, R453, R454): a find that cannot be corrected poisons the word, writes cause 5 and spares the row. -/
def execPatrolScrub (loc : StoreLoc) (uncorr : Bool) (s : State) : Out :=
  .next (if isReg loc then s
  else if uncorr || s.spoiled loc then
    let s1 := if s.spoiled loc then s else (s.countErr (locUnit loc).1 (locUnit loc).2.1 true).spoil loc
    let s2 := s1.locRecord loc 1 5
    match loc with | .mem a => s2.spareRow a | _ => s2
  else s.correctAt loc)
/-- `ROW_SPARE_COPY_DONE` (R454). -/
def execRowSpareCopyDone (frame : Nat) (s : State) : Out := .next { s with sparing := s.sparing.filter (· != frame) }.settleRecs

/-! ## Loss of power (R433 to R435) -/

/-- Every context, resident or saved with its gang, of a launch that has started: core, slot, context. -/
def State.allCtxs (s : State) : List (Nat × Nat × Ctx) :=
  (s.cores.flatMap fun q => q.2.ctxs.map fun p => (q.1, p.1, p.2))
    ++ s.launches.flatMap fun l => l.saved.flatMap fun q => q.2.ctxs.map fun p => (q.1, p.1, p.2)
/-- Every stream, open or saved: core, handle, stream. -/
def State.allStreams (s : State) : List (Nat × Nat × Stream) :=
  (s.cores.flatMap fun q => q.2.streams.map fun p => (q.1, p.1, p.2))
    ++ s.launches.flatMap fun l => l.saved.flatMap fun q => q.2.streams.map fun p => (q.1, p.1, p.2)
/-- The stream's far end is memory in the durable tier: it has written there, or its next row lies there (R434). -/
def State.durFar (s : State) (st : Stream) : Bool :=
  dOut st.desc && dKind st.desc == 0 && (st.dur ||
    (match s.launch st.lid with
    | some l => (elemBytes (dW st.desc) (rowElems st.desc st.map st.pos)).any fun a =>
        match s.xlateRaw (queueDie l.queue) l.pasid 0xFFFF .write a with | (.ok pa _, _) => isDur (s.homeAddr pa) | _ => false
    | none => false))
/-- ROWS of a stream: those written whose durable bytes are all in the persistence domain (R434). -/
def State.rowsIn (s : State) (st : Stream) : Nat :=
  s.dstores.foldl (fun n d => match d.stream with | some (h, r) => if h == st.sid then Nat.min n r else n | none => n) st.pos
/-- A stream entry (R434). -/
def State.streamEntry (s : State) (c i : Nat) (st : Stream) : List Byte :=
  leBytes 4 st.lid.toNat ++ leBytes 2 (s.rankAt st.lid c) ++ leBytes 1 i ++ leBytes 1 (dPol st.desc % 2 + 2 * b2n st.flt) ++ leBytes 8 (s.rowsIn st)
    ++ leBytes 8 (dBase st.desc) ++ leBytes 4 (s.pasidOf st.lid) ++ leBytes 4 0
/-- A context entry (R434). -/
def ctxEntry (n : Nat) (x : Ctx) : List Byte :=
  leBytes 4 x.lid.toNat ++ leBytes 2 x.rank ++ leBytes 1 n ++ leBytes 1 (b2n x.lastDsync.isSome) ++ leBytes 8 (x.lastDsync.getD 0).toNat ++ leBytes 16 0
/-- The header (R433). -/
def plHeader (complete : Bool) (seq loss drain : Word) (nstr nctx : Nat) (entries : List Byte) : List Byte :=
  leBytes 4 0xB2F00A5E ++ leBytes 2 1 ++ leBytes 2 (1 + 2 * b2n complete) ++ leBytes 8 seq.toNat ++ leBytes 8 loss.toNat ++ leBytes 8 drain.toNat
    ++ leBytes 4 nstr ++ leBytes 4 nctx ++ leBytes 4 (crc32c entries) ++ leBytes 212 0
/-- The power-loss record (R433, R435): whole, or, where the hold-up supply ends first, fewer entries. -/
def State.plRecord (s : State) (complete : Bool) (drain : Word) : List Byte :=
  let str := (s.allStreams.filter fun q => s.durFar q.2.2).map fun q => s.streamEntry q.1 q.2.1 q.2.2
  let ctx := s.allCtxs.map fun q => ctxEntry q.2.1 q.2.2
  let n := if complete then str.length + ctx.length else (Config.freeWord s.fresh).toNat % (str.length + ctx.length)
  let str1 := str.take n
  let ctx1 := ctx.take (n - str.length)
  let es := (str1 ++ ctx1).flatten
  plHeader complete (s.plSeq + 1) s.time drain str1.length ctx1.length es ++ es
/-- The record area (R105). -/
def plBase : Nat := 0x010000000000
/-- What a die keeps without power: firmware slots, field-test history, the spares it took. -/
def DieSt.unpowered (d : DieSt) : DieSt :=
  { DieSt.reset with history := d.history, aVal := d.aVal, bVal := d.bVal, fwVer := d.fwVer, act := d.act }
/-- `POWER_FAILURE` (R435, R144): only what has reached the persistence domain is left, with the record; what lies outside the module is not its to lose. -/
def execPowerFailure (complete : Bool) (tdrain : Word) (s : State) : Out :=
  .next (let img := (cellsAt plBase (s.plRecord complete tdrain)).foldl (fun t p => tput t memDefault p.1 p.2) s.durImg
  { State.reset with
    west := s.west.unpowered
    east := s.east.unpowered
    mem := img.foldl (fun t p => tput t memDefault p.1 p.2) (s.mem.filter fun p => match regionOf p.1 with | .host => true | .peer _ _ => true | _ => false)
    durImg := img
    tags := s.tags.filter fun p => isDur (4096 * p.1)
    poison := s.poison.filter fun w => isDur (8 * w)
    retired := s.retired
    remapped := s.remapped
    spared := s.spared
    cycles := s.cycles
    plSeq := s.plSeq + 1
    powered := false
    serial := s.serial
    fresh := s.fresh + 1
    rr := s.rr
    agenda := s.agenda
    outbox := s.outbox
    tray := s.tray })

end Sys2Proof.Machine
end

