-- ==== Sys2Proof/Machine/Dispatch.lean ====
section
/-! DEFINITION. The one match that gives each row of the table of operations its meaning. -/
namespace Sys2Proof.Machine
open Sys2Proof

/-- One arm a constructor. -/
def exec (i : Instr) (s : State) : Host.Outcome State Fault Refusal :=
  match i with
  | .nop => Sys2Proof.Machine.execNop s
  | .add f => Sys2Proof.Machine.execAdd f s
  | .sub f => Sys2Proof.Machine.execSub f s
  | .mul f => Sys2Proof.Machine.execMul f s
  | .mulh f => Sys2Proof.Machine.execMulh f s
  | .div f => Sys2Proof.Machine.execDiv f s
  | .rem f => Sys2Proof.Machine.execRem f s
  | .and f => Sys2Proof.Machine.execAnd f s
  | .or f => Sys2Proof.Machine.execOr f s
  | .xor f => Sys2Proof.Machine.execXor f s
  | .shl f => Sys2Proof.Machine.execShl f s
  | .shr f => Sys2Proof.Machine.execShr f s
  | .sar f => Sys2Proof.Machine.execSar f s
  | .min f => Sys2Proof.Machine.execMin f s
  | .max f => Sys2Proof.Machine.execMax f s
  | .sel f => Sys2Proof.Machine.execSel f s
  | .clz f => Sys2Proof.Machine.execClz f s
  | .popc f => Sys2Proof.Machine.execPopc f s
  | .bfx f => Sys2Proof.Machine.execBfx f s
  | .bfi f => Sys2Proof.Machine.execBfi f s
  | .li f => Sys2Proof.Machine.execLi f s
  | .lih f => Sys2Proof.Machine.execLih f s
  | .madd f => Sys2Proof.Machine.execMadd f s
  | .addpc f => Sys2Proof.Machine.execAddpc f s
  | .cmp f => Sys2Proof.Machine.execCmp f s
  | .plog f => Sys2Proof.Machine.execPlog f s
  | .pmovGet f => Sys2Proof.Machine.execPmovGet f s
  | .pmovSet f => Sys2Proof.Machine.execPmovSet f s
  | .br f => Sys2Proof.Machine.execBr f s
  | .call f => Sys2Proof.Machine.execCall f s
  | .ret f => Sys2Proof.Machine.execRet f s
  | .loop f => Sys2Proof.Machine.execLoop f s
  | .lexit f => Sys2Proof.Machine.execLexit f s
  | .lexitPop f => Sys2Proof.Machine.execLexitPop f s
  | .waitt f => Sys2Proof.Machine.execWaitt f s
  | .waita f => Sys2Proof.Machine.execWaita f s
  | .waitb f => Sys2Proof.Machine.execWaitb f s
  | .waitl f => Sys2Proof.Machine.execWaitl f s
  | .waitc f => Sys2Proof.Machine.execWaitc f s
  | .ssbar f => Sys2Proof.Machine.execSsbar f s
  | .yield f => Sys2Proof.Machine.execYield f s
  | .exit f => Sys2Proof.Machine.execExit f s
  | .trap f => Sys2Proof.Machine.execTrap f s
  | .rft f => Sys2Proof.Machine.execRft f s
  | .rftNext f => Sys2Proof.Machine.execRftNext f s
  | .csrr f => Sys2Proof.Machine.execCsrr f s
  | .csrw f => Sys2Proof.Machine.execCsrw f s
  | .csrwSet f => Sys2Proof.Machine.execCsrwSet f s
  | .csrwClr f => Sys2Proof.Machine.execCsrwClr f s
  | .tlbi f => Sys2Proof.Machine.execTlbi f s
  | .tlbiAs f => Sys2Proof.Machine.execTlbiAs f s
  | .tlbiAll f => Sys2Proof.Machine.execTlbiAll f s
  | .time f => Sys2Proof.Machine.execTime f s
  | .ld f => Sys2Proof.Machine.execLd f s
  | .st f => Sys2Proof.Machine.execSt f s
  | .amo f => Sys2Proof.Machine.execAmo f s
  | .amoSc f h => Sys2Proof.Machine.execAmoSc f h s
  | .amoHold f => Sys2Proof.Machine.execAmoHold f s
  | .amoRetry f sc h => Sys2Proof.Machine.execAmoRetry f sc h s
  | .fence f => Sys2Proof.Machine.execFence f s
  | .dfence f => Sys2Proof.Machine.execDfence f s
  | .dsync f => Sys2Proof.Machine.execDsync f s
  | .wake f => Sys2Proof.Machine.execWake f s
  | .bara f => Sys2Proof.Machine.execBara f s
  | .trig f => Sys2Proof.Machine.execTrig f s
  | .launch f => Sys2Proof.Machine.execLaunch f s
  | .spawn f => Sys2Proof.Machine.execSpawn f s
  | .suspend f => Sys2Proof.Machine.execSuspend f s
  | .notify f => Sys2Proof.Machine.execNotify f s
  | .sende f => Sys2Proof.Machine.execSende f s
  | .recve f => Sys2Proof.Machine.execRecve f s
  | .sinfo f => Sys2Proof.Machine.execSinfo f s
  | .ftest f => Sys2Proof.Machine.execFtest f s
  | .ftestRef f => Sys2Proof.Machine.execFtestRef f s
  | .cmapGet f => Sys2Proof.Machine.execCmapGet f s
  | .cmapSet f => Sys2Proof.Machine.execCmapSet f s
  | .cmapRet f => Sys2Proof.Machine.execCmapRet f s
  | .sopen f => Sys2Proof.Machine.execSopen f s
  | .sclose f => Sys2Proof.Machine.execSclose f s
  | .sfork f => Sys2Proof.Machine.execSfork f s
  | .smark f => Sys2Proof.Machine.execSmark f s
  | .srewind f => Sys2Proof.Machine.execSrewind f s
  | .ssave f => Sys2Proof.Machine.execSsave f s
  | .srest f => Sys2Proof.Machine.execSrest f s
  | .seos f => Sys2Proof.Machine.execSeos f s
  | .cpy f => Sys2Proof.Machine.execCpy f s
  | .cpyNb f pn => Sys2Proof.Machine.execCpyNb f pn s
  | .cpdrain f => Sys2Proof.Machine.execCpdrain f s
  | .gload f => Sys2Proof.Machine.execGload f s
  | .grun f => Sys2Proof.Machine.execGrun f s
  | .ghalt f => Sys2Proof.Machine.execGhalt f s
  | .rot f => Sys2Proof.Machine.execRot f s
  | .tsig f => Sys2Proof.Machine.execTsig f s
  | .vadd f => Sys2Proof.Machine.execVadd f s
  | .vsub f => Sys2Proof.Machine.execVsub f s
  | .vmul f => Sys2Proof.Machine.execVmul f s
  | .vfma f => Sys2Proof.Machine.execVfma f s
  | .vmin f => Sys2Proof.Machine.execVmin f s
  | .vmax f => Sys2Proof.Machine.execVmax f s
  | .vabs f => Sys2Proof.Machine.execVabs f s
  | .vclamp f => Sys2Proof.Machine.execVclamp f s
  | .vand f => Sys2Proof.Machine.execVand f s
  | .vor f => Sys2Proof.Machine.execVor f s
  | .vxor f => Sys2Proof.Machine.execVxor f s
  | .vshl f => Sys2Proof.Machine.execVshl f s
  | .vshr f => Sys2Proof.Machine.execVshr f s
  | .vsel f => Sys2Proof.Machine.execVsel f s
  | .vmov f => Sys2Proof.Machine.execVmov f s
  | .vcmp f => Sys2Proof.Machine.execVcmp f s
  | .vcvt f => Sys2Proof.Machine.execVcvt f s
  | .vcvtef f => Sys2Proof.Machine.execVcvtef f s
  | .vsf f => Sys2Proof.Machine.execVsf f s
  | .vred f => Sys2Proof.Machine.execVred f s
  | .vperm f => Sys2Proof.Machine.execVperm f s
  | .vbcast f => Sys2Proof.Machine.execVbcast f s
  | .viota f => Sys2Proof.Machine.execViota f s
  | .vmaskNz f => Sys2Proof.Machine.execVmaskNz f s
  | .vmaskBool f => Sys2Proof.Machine.execVmaskBool f s
  | .vmaskNot f => Sys2Proof.Machine.execVmaskNot f s
  | .vmaskFromrow f => Sys2Proof.Machine.execVmaskFromrow f s
  | .vmaskTorow f => Sys2Proof.Machine.execVmaskTorow f s
  | .vmcnt f => Sys2Proof.Machine.execVmcnt f s
  | .vmcntFirst f => Sys2Proof.Machine.execVmcntFirst f s
  | .vnest f => Sys2Proof.Machine.execVnest f s
  | .eadd f => Sys2Proof.Machine.execEadd f s
  | .esub f => Sys2Proof.Machine.execEsub f s
  | .emul f => Sys2Proof.Machine.execEmul f s
  | .eand f => Sys2Proof.Machine.execEand f s
  | .eor f => Sys2Proof.Machine.execEor f s
  | .exor f => Sys2Proof.Machine.execExor f s
  | .eshl f => Sys2Proof.Machine.execEshl f s
  | .eshr f => Sys2Proof.Machine.execEshr f s
  | .eli f => Sys2Proof.Machine.execEli f s
  | .elih f => Sys2Proof.Machine.execElih f s
  | .ecmp f => Sys2Proof.Machine.execEcmp f s
  | .ebr f => Sys2Proof.Machine.execEbr f s
  | .eloop f => Sys2Proof.Machine.execEloop f s
  | .ewait f => Sys2Proof.Machine.execEwait f s
  | .enotify f => Sys2Proof.Machine.execEnotify f s
  | .eexit f => Sys2Proof.Machine.execEexit f s
  | .extr f => Sys2Proof.Machine.execExtr f s
  | .eins f => Sys2Proof.Machine.execEins f s
  | .ecsrr f => Sys2Proof.Machine.execEcsrr f s
  | .ecsrw f => Sys2Proof.Machine.execEcsrw f s
  | .ecsrwSet f => Sys2Proof.Machine.execEcsrwSet f s
  | .ecsrwClr f => Sys2Proof.Machine.execEcsrwClr f s
  | .epmovGet f => Sys2Proof.Machine.execEpmovGet f s
  | .epmovSet f => Sys2Proof.Machine.execEpmovSet f s
  | .epmovMget f => Sys2Proof.Machine.execEpmovMget f s
  | .epmovMset f => Sys2Proof.Machine.execEpmovMset f s
  | .esend f => Sys2Proof.Machine.execEsend f s
  | .erecv f => Sys2Proof.Machine.execErecv f s
  | .eport f => Sys2Proof.Machine.execEport f s
  | .eeos f => Sys2Proof.Machine.execEeos f s
  | .etsig f => Sys2Proof.Machine.execEtsig f s
  | .segb f => Sys2Proof.Machine.execSegb f s
  | .sege f => Sys2Proof.Machine.execSege f s
  | .tstart f => Sys2Proof.Machine.execTstart f s
  | .mma f => Sys2Proof.Machine.execMma f s
  | .smma f => Sys2Proof.Machine.execSmma f s
  | .mzero f => Sys2Proof.Machine.execMzero f s
  | .mscacc f => Sys2Proof.Machine.execMscacc f s
  | .oclaim f => Sys2Proof.Machine.execOclaim f s
  | .orel f => Sys2Proof.Machine.execOrel f s
  | .ofill f => Sys2Proof.Machine.execOfill f s
  | .ofillMeta f => Sys2Proof.Machine.execOfillMeta f s
  | .accld f => Sys2Proof.Machine.execAccld f s
  | .accst f => Sys2Proof.Machine.execAccst f s
  | .mpert f => Sys2Proof.Machine.execMpert f s
  | .sqcfg f => Sys2Proof.Machine.execSqcfg f s
  | .sqcombStage f => Sys2Proof.Machine.execSqcombStage f s
  | .sqcombTake f => Sys2Proof.Machine.execSqcombTake f s
  | .sqerr f => Sys2Proof.Machine.execSqerr f s
  | .sqdec f => Sys2Proof.Machine.execSqdec f s
  | .sqnext f => Sys2Proof.Machine.execSqnext f s
  | .bringUp die aOk bOk => Sys2Proof.Machine.execBringUp die aOk bOk s
  | .trainingStepDone die part => Sys2Proof.Machine.execTrainingStepDone die part s
  | .controllerRestartDone die => Sys2Proof.Machine.execControllerRestartDone die s
  | .rowSpareCopyDone frame => Sys2Proof.Machine.execRowSpareCopyDone frame s
  | .ftagActionDone die => Sys2Proof.Machine.execFtagActionDone die s
  | .firmwareActionDone die result ver => Sys2Proof.Machine.execFirmwareActionDone die result ver s
  | .placeLaunch => Sys2Proof.Machine.execPlaceLaunch s
  | .preemptGang => Sys2Proof.Machine.execPreemptGang s
  | .resumeGang lid => Sys2Proof.Machine.execResumeGang lid s
  | .agingIntervalExpiry queue => Sys2Proof.Machine.execAgingIntervalExpiry queue s
  | .holdLimitExpiry lid => Sys2Proof.Machine.execHoldLimitExpiry lid s
  | .launchEnd lid => Sys2Proof.Machine.execLaunchEnd lid s
  | .taskPickup core => Sys2Proof.Machine.execTaskPickup core s
  | .notifyMarkerReached core slot => Sys2Proof.Machine.execNotifyMarkerReached core slot s
  | .blockSliceExpiry core proc => Sys2Proof.Machine.execBlockSliceExpiry core proc s
  | .contextSelect core proc => Sys2Proof.Machine.execContextSelect core proc s
  | .queueHeadStart core q => Sys2Proof.Machine.execQueueHeadStart core q s
  | .tsigTake core slot => Sys2Proof.Machine.execTsigTake core slot s
  | .etsigTake core slot => Sys2Proof.Machine.execEtsigTake core slot s
  | .asyncTrap core slot => Sys2Proof.Machine.execAsyncTrap core slot s
  | .waitaTimeout core slot => Sys2Proof.Machine.execWaitaTimeout core slot s
  | .superstepAdvance e => Sys2Proof.Machine.execSuperstepAdvance e s
  | .scheduleEntrySend lid entry => Sys2Proof.Machine.execScheduleEntrySend lid entry s
  | .scheduleTransferLand lid entry others => Sys2Proof.Machine.execScheduleTransferLand lid entry others s
  | .duplexCompareTimeout core slot => Sys2Proof.Machine.execDuplexCompareTimeout core slot s
  | .streamRowFetch core st => Sys2Proof.Machine.execStreamRowFetch core st s
  | .streamRowWrite core st => Sys2Proof.Machine.execStreamRowWrite core st s
  | .intercoreRowArrive core st => Sys2Proof.Machine.execIntercoreRowArrive core st s
  | .alarmCreditTimeout core st => Sys2Proof.Machine.execAlarmCreditTimeout core st s
  | .hostCreditReturn core st => Sys2Proof.Machine.execHostCreditReturn core st s
  | .copyChunkDispatch die => Sys2Proof.Machine.execCopyChunkDispatch die s
  | .copyChunkDone die id => Sys2Proof.Machine.execCopyChunkDone die id s
  | .rotationStart lid => Sys2Proof.Machine.execRotationStart lid s
  | .rotationComplete lid rank => Sys2Proof.Machine.execRotationComplete lid rank s
  | .pageWalkComplete die id => Sys2Proof.Machine.execPageWalkComplete die id s
  | .amoHomePerform core slot id => Sys2Proof.Machine.execAmoHomePerform core slot id s
  | .amoResponse core slot id => Sys2Proof.Machine.execAmoResponse core slot id s
  | .amoAttemptTimeout core slot id => Sys2Proof.Machine.execAmoAttemptTimeout core slot id s
  | .replayCacheExpiry idx => Sys2Proof.Machine.execReplayCacheExpiry idx s
  | .loadResponse core slot id => Sys2Proof.Machine.execLoadResponse core slot id s
  | .requestNoAnswer core slot id => Sys2Proof.Machine.execRequestNoAnswer core slot id s
  | .reductionMergeTimeout idx others => Sys2Proof.Machine.execReductionMergeTimeout idx others s
  | .matrixRecordStart core path => Sys2Proof.Machine.execMatrixRecordStart core path s
  | .matrixSingleIssue core => Sys2Proof.Machine.execMatrixSingleIssue core s
  | .matrixResultWrite core => Sys2Proof.Machine.execMatrixResultWrite core s
  | .ofillRowPop core => Sys2Proof.Machine.execOfillRowPop core s
  | .segmentWatchdog core => Sys2Proof.Machine.execSegmentWatchdog core s
  | .gridFiring core elem => Sys2Proof.Machine.execGridFiring core elem s
  | .fabricPortRowWrite core port => Sys2Proof.Machine.execFabricPortRowWrite core port s
  | .splitJoinResume core elem => Sys2Proof.Machine.execSplitJoinResume core elem s
  | .endOfInput core => Sys2Proof.Machine.execEndOfInput core s
  | .storePerformed core slot id => Sys2Proof.Machine.execStorePerformed core slot id s
  | .persistenceDomainReached id => Sys2Proof.Machine.execPersistenceDomainReached id s
  | .tlbiComplete core slot => Sys2Proof.Machine.execTlbiComplete core slot s
  | .barrierAnswer core slot => Sys2Proof.Machine.execBarrierAnswer core slot s
  | .launchAnswer core slot => Sys2Proof.Machine.execLaunchAnswer core slot s
  | .ftestComplete core slot => Sys2Proof.Machine.execFtestComplete core slot s
  | .prooferRow core => Sys2Proof.Machine.execProoferRow core s
  | .trainingTimeout die part => Sys2Proof.Machine.execTrainingTimeout die part s
  | .ptpTimeLock port time => Sys2Proof.Machine.execPtpTimeLock port time s
  | .powerFailure complete tdrain => Sys2Proof.Machine.execPowerFailure complete tdrain s
  | .flitCrcRetry link => Sys2Proof.Machine.execFlitCrcRetry link s
  | .linkRetryLimit link lane => Sys2Proof.Machine.execLinkRetryLimit link lane s
  | .linkRetrainDone link ok => Sys2Proof.Machine.execLinkRetrainDone link ok s
  | .ingestLockLost port => Sys2Proof.Machine.execIngestLockLost port s
  | .alignmentLock port => Sys2Proof.Machine.execAlignmentLock port s
  | .meshParityResend die => Sys2Proof.Machine.execMeshParityResend die s
  | .pcieAerError die uncorr => Sys2Proof.Machine.execPcieAerError die uncorr s
  | .controllerWatchdog die => Sys2Proof.Machine.execControllerWatchdog die s
  | .patrolScrub loc uncorr => Sys2Proof.Machine.execPatrolScrub loc uncorr s
  | .launchPortWrite fn queue whole data => Sys2Proof.Machine.execLaunchPortWrite fn queue whole data s
  | .registerWrite fn addr size value => Sys2Proof.Machine.execRegisterWrite fn addr size value s
  | .freezeReleaseAbort fn die master => Sys2Proof.Machine.execFreezeReleaseAbort fn die master s
  | .freezeReleaseTrap fn die master => Sys2Proof.Machine.execFreezeReleaseTrap fn die master s
  | .freezeReleaseClear fn die master => Sys2Proof.Machine.execFreezeReleaseClear fn die master s
  | .streamResume fn core slot st => Sys2Proof.Machine.execStreamResume fn core slot st s
  | .streamResumeAbort fn core slot st => Sys2Proof.Machine.execStreamResumeAbort fn core slot st s
  | .ftagFree fn die frame => Sys2Proof.Machine.execFtagFree fn die frame s
  | .ftagRetire fn die frame => Sys2Proof.Machine.execFtagRetire fn die frame s
  | .ftagRemap fn die frame => Sys2Proof.Machine.execFtagRemap fn die frame s
  | .mapcmdSet fn die lcore site => Sys2Proof.Machine.execMapcmdSet fn die lcore site s
  | .mapcmdRetire fn die lcore => Sys2Proof.Machine.execMapcmdRetire fn die lcore s
  | .fwctlStage fn die src => Sys2Proof.Machine.execFwctlStage fn die src s
  | .fwctlSwap fn die => Sys2Proof.Machine.execFwctlSwap fn die s
  | .lnkctlRetrain fn die k => Sys2Proof.Machine.execLnkctlRetrain fn die k s
  | .lnkctlDisable fn die k => Sys2Proof.Machine.execLnkctlDisable fn die k s
  | .lnkctlEnable fn die k => Sys2Proof.Machine.execLnkctlEnable fn die k s
  | .fttgtWrite fn die value => Sys2Proof.Machine.execFttgtWrite fn die value s
  | .ingestDatagram port proto udp d => Sys2Proof.Machine.execIngestDatagram port proto udp d s
  | .priResponse die id ans => Sys2Proof.Machine.execPriResponse die id ans s
  | .pcieRequest fn req => Sys2Proof.Machine.execPcieRequest fn req s
  | .peerRequest tray req => Sys2Proof.Machine.execPeerRequest tray req s
  | .matrixReplay core trig => Sys2Proof.Machine.execMatrixReplay core trig s
  | .deviceTimeSlew back ns => Sys2Proof.Machine.execDeviceTimeSlew back ns s
  | .atsCompletion die id ans => Sys2Proof.Machine.execAtsCompletion die id ans s
  | .storageSoftError loc bit uncorr => Sys2Proof.Machine.execStorageSoftError loc bit uncorr s

end Sys2Proof.Machine
end

