-- ==== Sys2Proof/Machine/Step.lean ====
section
/-! DEFINITION. One step of the module: the next move of the agenda, or the machine's own; and how a word is placed where the next step fetches it. -/
namespace Sys2Proof.Machine
open Sys2Proof

/-- The next move and the state without it (log 1, 2). -/
def State.nextTurn (s : State) : Option Turn × State :=
  match s.agenda with
  | t :: r => (some t, { s with agenda := r })
  | [] => (s.autoTurn, { s with rr := s.rr + 1 })

/-- The move is a bring-up, the one thing that happens without power (R435). -/
def Act.isBringUp : Act → Bool
  | .event (.bringUp _ _ _) => true
  | _ => false

/-- Whether processor p of slot n of core c has entered its handler, or its context has ended by a trap. -/
def State.trapped (s : State) (c n : Nat) (p : Proc) : Bool := match s.ctx c n with | some x => x.inHandler p || x.trapEnded | none => false

/-- Processor p of core c issues, or, with no block of a runnable context, selects the next one (R60, R61); a synchronous trap comes before an async one that is due (R397). -/
def State.issue (s : State) (c : Nat) (p : Proc) : Host.Outcome State Fault Refusal :=
  let s2 := s.aim c p
  if (s2.current c p).isNone then .next (s2.selectCtx c p) else
  match s2.plan c p with
  | .run i => exec i s2
  | .due i t => (match exec i s2 with | .next u => .next (if u.trapped c s2.cur.slot p then u else t) | o => o)
  | .rest s3 => .next s3

/-- Makes one move. An async trap is taken in place of an issue (R396). -/
def State.move (s : State) (t : Turn) : Host.Outcome State Fault Refusal :=
  if !s.powered && !t.act.isBringUp then .fault .noPower else
  let s1 := (s.advance t).bootOn t.ns
  match t.act with
  | .event (.asyncTrap c n) =>
    (match s1.ctx c n with
    | some x =>
      let p := if x.asyncDue .ap then Proc.ap else .ep
      if x.asyncDue p && s1.current c p == some n then s1.issue c p else .next s1
    | none => .next s1)
  | .event i => if i.isEvent then exec i s1 else .next s1
  | .issue c p => s1.issue c p

/-- One step. -/
def step (s : State) : Host.Outcome State Fault Refusal :=
  match s.nextTurn with
  | (some t, s1) => s1.move t
  | (none, s1) => if s1.powered then .next s1 else .fault .noPower

/-- s with an instruction placed where the next step fetches: core 0, slot 0 holds a context, its processor is in a block with it, its code at the pc is the words, and the next move is its issue (log 17). -/
def State.withFetchWord (s : State) (nbits w : Nat) : State :=
  let ws := tableWords (w % 2 ^ nbits)
  let p := procOf (opcOf (ws.getD 0 0).toNat)
  let x0 := (s.ctx 0 0).getD (Ctx.start 0 0 false 0 0 0 0 s.cycles 0)
  let x := match p with
    | .ap => { x0 with frozen := none, trapEnded := false, afs := none, ap := { x0.ap with exited := false, wait := none, armed := none } }
    | .ep => { x0 with frozen := none, trapEnded := false, afs := none, suspending := false, ep := { x0.ep with exited := false } }
  let sec : CodeSec := { lid := x.lid, base := x.pcOf p, words := ws }
  let s1 := (s.setCtx 0 0 x).modCore 0 fun k =>
    let k1 := k.setBlk p { sel := some 0, ended := false, since := s.cycles }
    match p with
    | .ap => { k1 with apCode := sec :: k1.apCode }
    | .ep => { k1 with epCode := sec :: k1.epCode }
  { s1 with powered := true, agenda := { cycles := 1, ns := 1, far := [], act := .issue 0 p } :: s1.agenda }

end Sys2Proof.Machine
end

