-- ==== Sys2Proof/Certificates/Slice0/Obligations.lean ====
section
/-! DEFINITION. The statements about the machine that are to be proved, each with the rules of spec/ it rests on, and the words they are said in. -/
namespace Sys2Proof.Claims
open Sys2Proof Sys2Proof.Machine

/-! ## Words -/

/-- Processor p of slot n of core c issues, in context x. -/
structure At (s : State) (c n : Nat) (p : Proc) (x : Ctx) : Prop where
  cur : s.cur = ⟨c, n, p⟩
  ctx : s.ctx c n = some x

/-- None of these registers waits for a value (R234). -/
def Ready (x : Ctx) (l : List (BitVec 6)) : Prop := ∀ r ∈ l, sPhys x.ap.rrb r.toNat ∉ x.ap.pend
/-- The context has these tokens (R405). -/
def Allotted (s : State) (x : Ctx) (l : List (BitVec 4)) : Prop := ∀ t ∈ l, t.toNat < s.tokensOf x
/-- The instruction issues: its guard holds, and it names no register that waits. -/
structure Issues (s : State) (c n : Nat) (x : Ctx) (g : Guard) (l : List (BitVec 6)) : Prop where
  at' : At s c n .ap x
  guard : x.ap.holds g = true
  ready : Ready x l
/-- The same on the EP. -/
structure IssuesEp (s : State) (c n : Nat) (x : Ctx) (g : Guard) : Prop where
  at' : At s c n .ep x
  guard : x.ep.holds g = true

/-- The instruction ends in a state that differs from s in one context alone, which is y: no byte of memory has changed. -/
def Leaves (i : Instr) (s : State) (c n : Nat) (y : Ctx) : Prop := ∃ t, exec i s = .next t ∧ t = s.setCtx c n y ∧ ∀ a, t.byte a = s.byte a
/-- The instruction ends in a state t of which P holds. -/
def Ends (i : Instr) (s : State) (P : State → Prop) : Prop := ∃ t, exec i s = .next t ∧ P t
/-- x with s register d written. -/
def putS (x : Ctx) (d : BitVec 6) (v : Word) : Ctx := { x with ap := x.ap.setS d.toNat v }
/-- x with e register d written. -/
def putE (x : Ctx) (d : BitVec 5) (v : Word) : Ctx := { x with ep := x.ep.setE d.toNat v }
/-- Every byte of memory is as before. -/
def SameMem (s t : State) : Prop := ∀ a, t.byte a = s.byte a

/-- A two-source result of R236 without `.U`, on w bits. -/
def intOp (w : Nat) (a b : BitVec w) : List (BitVec w) :=
  [a + b, a - b, a * b, a &&& b, a ||| b, a ^^^ b, a <<< (b.toNat % w), a >>> (b.toNat % w), a.sshiftRight (b.toNat % w)]
/-- The two-source instructions of R236 without `.U`, in the same order. -/
def intInstr (f : Alu) : List Instr := [.add f, .sub f, .mul f, .and f, .or f, .xor f, .shl f, .shr f, .sar f]
/-- `MULH`, `DIV`, `REM`, `MIN` and `MAX` of R236: u is `.U`. -/
def intOpX (u : Bool) (w : Nat) (a b : BitVec w) : List (BitVec w) :=
  [if u then ((a.setWidth (2 * w) * b.setWidth (2 * w)) >>> w).setWidth w else ((a.signExtend (2 * w) * b.signExtend (2 * w)) >>> w).setWidth w,
   if b = 0 then BitVec.allOnes w else if u then a / b else a.sdiv b,
   if b = 0 then a else if u then a % b else a.srem b,
   if (if u then b.toNat < a.toNat else b.toInt < a.toInt) then b else a,
   if (if u then a.toNat < b.toNat else a.toInt < b.toInt) then b else a]
/-- The instructions with `.U`, in the same order. -/
def intInstrX (f : AluX) : List Instr := [.mulh f, .div f, .rem f, .min f, .max f]

/-- The condition of a compare (R240), on words already cut to their width. -/
def cond (cc : CC) (a b : Word) : Prop :=
  match cc with
  | .eq => a = b
  | .ne => a ≠ b
  | .lt => a.toInt < b.toInt
  | .ge => b.toInt ≤ a.toInt
  | .ltn => a.toNat < b.toNat
  | .gen => b.toNat ≤ a.toNat
  | .tz => a &&& b = 0
  | .tnz => a &&& b ≠ 0
/-- W32 of a compare. -/
def cut32 (w32 : Bool) (a : Word) : Word := if w32 then (a.setWidth 32).signExtend 64 else a
/-- T and F of a compare from its condition and the old values (R240). -/
def tf (m : CMode) (q pt pf : Bool) : Bool × Bool :=
  match m with
  | .set => (q, !q)
  | .and => (pt && q, pf && !q)
  | .or => (pt || q, pf || !q)
/-- The function of `PLOG` (R241). -/
def plog (fn : PFn) (a b : Bool) : Bool := match fn with | .and => a && b | .or => a || b | .xor => Bool.xor a b | .andn => a && !b | .orn => a || !b | .not => !a

/-- The instruction, of len words, moves processor p past itself, ending loop passes (R245), and changes nothing else. -/
def Skips (s : State) (c n : Nat) (x : Ctx) (p : Proc) (len : Nat) (i : Instr) : Prop := Leaves i s c n (x.pass p len)
/-- So it does, but for the token it names, if any: within the allotment, and below 255, that gains 1 (R268, R409). -/
def SkipsSignalling (s : State) (c n : Nat) (x : Ctx) (p : Proc) (len : Nat) (tk : Tok) (i : Instr) : Prop :=
  ((∀ t, tk.sig = some t → s.tokensOf x ≤ t.toNat) → Skips s c n x p len i) ∧
  ∀ t, tk.sig = some t → t.toNat < s.tokensOf x → x.token t < 255 → Leaves i s c n ({ x with tok := tset x.tok t.toNat (x.token t + 1) }.pass p len)

/-- A word from the lowest bit and the value of each of its fields. -/
def wd (l : List (Nat × Nat)) : Word := l.foldl (fun w q => w ||| (BitVec.ofNat 64 q.2 <<< q.1)) 0

end Sys2Proof.Claims

open Sys2Proof Sys2Proof.Machine Sys2Proof.Claims

/-! ## Registers and operands -/

/-- Derived (R18, R233): s0, e0 and q0, p0, m0 read as fixed values whatever is written to them, and a write reaches the register it names, through RRB for s40 to s55, and no other. -/
def Obligations.HardwiredAndNamedRegisters : Prop :=
  (∀ (x : ApSt) (n : Nat) (v : Word), (x.setS 0 v = x) ∧ x.s' 0 = 0 ∧ (0 < n → n < 64 → (x.setS n v).s' n = v) ∧
    (∀ m, m < 64 → m ≠ n → n < 64 → (x.setS n v).s' m = x.s' m))
  ∧ (∀ (x : ApSt) (n : Nat) (b : Bool), x.setP 0 b = x ∧ x.pr 0 = true ∧ (0 < n → n < 16 → (x.setP n b).pr n = b) ∧
    (∀ m, m < 16 → m ≠ n → n < 16 → (x.setP n b).pr m = x.pr m))
  ∧ (∀ (x : EpSt) (n : Nat) (v : Word), x.setE 0 v = x ∧ x.e' 0 = 0 ∧ (0 < n → (x.setE n v).e' n = v) ∧ (∀ m, m ≠ n → (x.setE n v).e' m = x.e' m))
  ∧ (∀ (x : EpSt) (n : Nat) (b : Bool), x.setQ 0 b = x ∧ x.qr 0 = true ∧ (0 < n → n < 16 → (x.setQ n b).qr n = b) ∧
    (∀ m, m < 16 → m ≠ n → n < 16 → (x.setQ n b).qr m = x.qr m))
  ∧ (∀ (x : EpSt) (n : Nat) (v : BitVec 256), x.setM 0 v = x ∧ x.mr 0 = BitVec.allOnes 256 ∧ (0 < n → (x.setM n v).mr n = v) ∧
    (∀ m, m ≠ n → (x.setM n v).mr m = x.mr m))

/-- R233: the physical register of a logical s register; s0 and p0; the stage predicates, which a loop pass copies and RRB does not rename; and a write to RRB, whose own destination register is still named through the old value. -/
def Obligations.RegisterNames : Prop :=
  (∀ (x : ApSt) (n : Nat), n < 64 →
    sPhys x.rrb n = (if 40 ≤ n ∧ n ≤ 55 then 40 + (n - 40 + x.rrb.toNat) % 16 else n) ∧
    (n ≠ 0 → x.s' n = tget x.s 0 (sPhys x.rrb n) ∧ ∀ v, (x.setS n v).s = tset x.s (sPhys x.rrb n) v) ∧
    x.s' 0 = 0 ∧ (∀ v, x.setS 0 v = x) ∧ x.pr 0 = true ∧ ∀ b, x.setP 0 b = x) ∧
  (∀ (x : ApSt) (n : Nat) (r : BitVec 4), n ≠ 0 → n < 16 → x.pr n = x.p.getLsbD n ∧ { x with rrb := r }.pr n = x.pr n) ∧
  (∀ (x : ApSt) (first : Bool) (n : Nat), n < 16 → (x.rotate first).pr n = if n < 8 then x.pr n else if n = 8 then first else x.pr (n - 1)) ∧
  (∀ (f : CsrwF 6) (s : State) (c n : Nat) (x : Ctx), Issues s c n x f.g [f.d, f.a] → f.num = 0x010 →
    Leaves (.csrw f) s c n (({ x with ap := { x.ap.setPhys (sPhys x.ap.rrb f.d.toNat) (x.ap.rrb.setWidth 64) with rrb := (x.ap.s' f.a.toNat).setWidth 4 } } : Ctx).pass .ap 1))

/-- Derived (R199, R200, R268, R245): an instruction of the AP, or of the EP but for the EV form, whose guard does not hold moves its processor past itself and changes nothing else; a D- or N-form one still signals its token, if it lies in the allotment. Every such instruction is listed; a `VNEST` stands at its start. -/
def Obligations.FailedGuardHasNoEffect : Prop :=
  (∀ (s : State) (c n : Nat) (x : Ctx) (g : Guard), At s c n .ap x → x.ap.holds g = false →
    (∀ f : Alu, f.g = g → ∀ i ∈ intInstr f, Skips s c n x .ap 1 i) ∧
    (∀ f : AluX, f.g = g → ∀ i ∈ intInstrX f, Skips s c n x .ap 1 i) ∧
    (∀ f : Alu3, f.g = g → ∀ i ∈ [Instr.sel f, .madd f], Skips s c n x .ap 1 i) ∧
    (∀ f : Alu1, f.g = g → ∀ i ∈ [Instr.clz f, .popc f], Skips s c n x .ap 1 i) ∧
    (∀ f : BfxF, f.g = g → ∀ i ∈ [Instr.bfx f], Skips s c n x .ap 1 i) ∧
    (∀ f : BfiF, f.g = g → ∀ i ∈ [Instr.bfi f], Skips s c n x .ap 1 i) ∧
    (∀ f : LiF, f.g = g → ∀ i ∈ [Instr.li f, .lih f, .addpc f], Skips s c n x .ap 1 i) ∧
    (∀ f : CmpF 6, f.g = g → ∀ i ∈ [Instr.cmp f], Skips s c n x .ap 1 i) ∧
    (∀ f : PlogF, f.g = g → ∀ i ∈ [Instr.plog f], Skips s c n x .ap 1 i) ∧
    (∀ f : BrF 6, f.g = g → ∀ i ∈ [Instr.br f], Skips s c n x .ap 1 i) ∧
    (∀ f : CallF, f.g = g → ∀ i ∈ [Instr.call f], Skips s c n x .ap 1 i) ∧
    (∀ f : LoopF, f.g = g → ∀ i ∈ [Instr.loop f], Skips s c n x .ap 1 i) ∧
    (∀ f : WaitTF, f.g = g → ∀ i ∈ [Instr.waitt f], Skips s c n x .ap 1 i) ∧
    (∀ f : WaitAF, f.g = g → ∀ i ∈ [Instr.waita f], Skips s c n x .ap 1 i) ∧
    (∀ f : WaitBF, f.g = g → ∀ i ∈ [Instr.waitb f], Skips s c n x .ap 1 i) ∧
    (∀ f : TrapF, f.g = g → ∀ i ∈ [Instr.trap f], Skips s c n x .ap 1 i) ∧
    (∀ f : CsrrF 6, f.g = g → ∀ i ∈ [Instr.csrr f], Skips s c n x .ap 1 i) ∧
    (∀ f : CsrwF 6, f.g = g → ∀ i ∈ [Instr.csrw f, .csrwSet f, .csrwClr f], Skips s c n x .ap 1 i) ∧
    (∀ f : LdF, f.g = g → ∀ i ∈ [Instr.ld f], Skips s c n x .ap 1 i) ∧
    (∀ f : StF, f.g = g → ∀ i ∈ [Instr.st f], Skips s c n x .ap 1 i) ∧
    (∀ f : AmoF, f.g = g → ∀ i ∈ [Instr.amo f, .amoHold f] ++ [true, false].flatMap fun h => [Instr.amoSc f h, .amoRetry f h true, .amoRetry f h false], Skips s c n x .ap 1 i) ∧
    (∀ f : FenceF, f.g = g → ∀ i ∈ [Instr.fence f], Skips s c n x .ap 1 i) ∧
    (∀ f : MaskF, f.g = g → ∀ i ∈ [Instr.dfence f, .dsync f], Skips s c n x .ap 1 i) ∧
    (∀ f : BaraF, f.g = g → ∀ i ∈ [Instr.bara f], Skips s c n x .ap 1 i) ∧
    (∀ f : LaunchF, f.g = g → ∀ i ∈ [Instr.launch f], Skips s c n x .ap 1 i) ∧
    (∀ f : SuspF, f.g = g → ∀ i ∈ [Instr.suspend f], Skips s c n x .ap 1 i) ∧
    (∀ f : NotF, f.g = g → ∀ i ∈ [Instr.notify f], Skips s c n x .ap 1 i) ∧
    (∀ f : SendF 6, f.g = g → ∀ i ∈ [Instr.sende f], Skips s c n x .ap 1 i) ∧
    (∀ f : SinfoF, f.g = g → ∀ i ∈ [Instr.sinfo f], Skips s c n x .ap 1 i) ∧
    (∀ f : R1, f.g = g → ∀ i ∈ [Instr.pmovGet f, .pmovSet f, .tlbi f, .time f, .spawn f, .recve f], Skips s c n x .ap 1 i) ∧
    (∀ f : R2, f.g = g → ∀ i ∈ [Instr.wake f, .cmapGet f, .cmapRet f], Skips s c n x .ap 1 i) ∧
    (∀ f : R3, f.g = g → ∀ i ∈ [Instr.ftest f, .ftestRef f, .cmapSet f], Skips s c n x .ap 1 i) ∧
    (∀ f : G0, f.g = g → ∀ i ∈ [Instr.ret f, .lexit f, .lexitPop f, .waitl f, .waitc f, .ssbar f, .yield f, .exit f, .rft f, .rftNext f, .tlbiAs f, .tlbiAll f, .trig f], Skips s c n x .ap 1 i) ∧
    (∀ f : SopenF, f.g = g → ∀ i ∈ [Instr.sopen f], SkipsSignalling s c n x .ap 2 f.tk i) ∧
    (∀ f : StcF, f.g = g → ∀ i ∈ [Instr.sclose f, .smark f, .srewind f], SkipsSignalling s c n x .ap 2 f.tk i) ∧
    (∀ f : SforkF, f.g = g → ∀ i ∈ [Instr.sfork f], SkipsSignalling s c n x .ap 2 f.tk i) ∧
    (∀ f : SsaveF, f.g = g → ∀ i ∈ [Instr.ssave f], SkipsSignalling s c n x .ap 2 f.tk i) ∧
    (∀ f : SrestF, f.g = g → ∀ i ∈ [Instr.srest f], SkipsSignalling s c n x .ap 2 f.tk i) ∧
    (∀ f : SeosF, f.g = g → ∀ i ∈ [Instr.seos f], SkipsSignalling s c n x .ap 2 f.tk i) ∧
    (∀ f : CpyF, f.g = g → ∀ i ∈ Instr.cpy f :: (List.range 16).map fun n => .cpyNb f (BitVec.ofNat 4 n), SkipsSignalling s c n x .ap 2 f.tk i) ∧
    (∀ f : CpdF, f.g = g → ∀ i ∈ [Instr.cpdrain f], SkipsSignalling s c n x .ap 2 f.tk i) ∧
    (∀ f : GloadF, f.g = g → ∀ i ∈ [Instr.gload f], SkipsSignalling s c n x .ap 2 f.tk i) ∧
    (∀ f : GrunF, f.g = g → ∀ i ∈ [Instr.grun f], SkipsSignalling s c n x .ap 2 f.tk i) ∧
    (∀ f : TkF, f.g = g → ∀ i ∈ [Instr.ghalt f, .tsig f], SkipsSignalling s c n x .ap 2 f.tk i) ∧
    (∀ f : RotF, f.g = g → ∀ i ∈ [Instr.rot f], SkipsSignalling s c n x .ap 2 f.tk i)) ∧
  (∀ (s : State) (c n : Nat) (x : Ctx) (g : Guard), At s c n .ep x → x.ep.holds g = false →
    (∀ f : EAlu, f.g = g → ∀ i ∈ [Instr.eadd f, .esub f, .emul f, .eand f, .eor f, .exor f, .eshl f], Skips s c n x .ep 1 i) ∧
    (∀ f : EShrF, f.g = g → ∀ i ∈ [Instr.eshr f], Skips s c n x .ep 1 i) ∧
    (∀ f : EliF, f.g = g → ∀ i ∈ [Instr.eli f, .elih f], Skips s c n x .ep 1 i) ∧
    (∀ f : CmpF 5, f.g = g → ∀ i ∈ [Instr.ecmp f], Skips s c n x .ep 1 i) ∧
    (∀ f : BrF 5, f.g = g → ∀ i ∈ [Instr.ebr f], Skips s c n x .ep 1 i) ∧
    (∀ f : EloopF, f.g = g → ∀ i ∈ [Instr.eloop f], Skips s c n x .ep 1 i) ∧
    (∀ f : WaitTF, f.g = g → ∀ i ∈ [Instr.ewait f], Skips s c n x .ep 1 i) ∧
    (∀ f : NotF, f.g = g → ∀ i ∈ [Instr.enotify f], Skips s c n x .ep 1 i) ∧
    (∀ f : EeF, f.g = g → ∀ i ∈ [Instr.extr f, .eins f], Skips s c n x .ep 1 i) ∧
    (∀ f : CsrrF 5, f.g = g → ∀ i ∈ [Instr.ecsrr f], Skips s c n x .ep 1 i) ∧
    (∀ f : CsrwF 5, f.g = g → ∀ i ∈ [Instr.ecsrw f, .ecsrwSet f, .ecsrwClr f], Skips s c n x .ep 1 i) ∧
    (∀ f : E1, f.g = g → ∀ i ∈ [Instr.epmovGet f, .epmovSet f, .erecv f], Skips s c n x .ep 1 i) ∧
    (∀ f : EpmF, f.g = g → ∀ i ∈ [Instr.epmovMget f, .epmovMset f], Skips s c n x .ep 1 i) ∧
    (∀ f : SendF 5, f.g = g → ∀ i ∈ [Instr.esend f], Skips s c n x .ep 1 i) ∧
    (∀ f : EportF, f.g = g → ∀ i ∈ [Instr.eport f], Skips s c n x .ep 1 i) ∧
    (∀ f : EeosF, f.g = g → ∀ i ∈ [Instr.eeos f], Skips s c n x .ep 1 i) ∧
    (∀ f : SegeF, f.g = g → ∀ i ∈ [Instr.sege f], Skips s c n x .ep 1 i) ∧
    (∀ f : G0, f.g = g → ∀ i ∈ [Instr.eexit f, .segb f, .tstart f], Skips s c n x .ep 1 i) ∧
    (∀ f : TkF, f.g = g → ∀ i ∈ [Instr.etsig f], SkipsSignalling s c n x .ep 2 f.tk i) ∧
    (∀ f : MzeroF, f.g = g → ∀ i ∈ [Instr.mzero f], SkipsSignalling s c n x .ep 2 f.tk i) ∧
    (∀ f : MscaccF, f.g = g → ∀ i ∈ [Instr.mscacc f], SkipsSignalling s c n x .ep 2 f.tk i) ∧
    (∀ f : OclF, f.g = g → ∀ i ∈ [Instr.oclaim f, .orel f], SkipsSignalling s c n x .ep 2 f.tk i) ∧
    (∀ f : OfillF, f.g = g → ∀ i ∈ [Instr.ofill f], SkipsSignalling s c n x .ep 2 f.tk i) ∧
    (∀ f : OfillMF, f.g = g → ∀ i ∈ [Instr.ofillMeta f], SkipsSignalling s c n x .ep 2 f.tk i) ∧
    (∀ f : AccF, f.g = g → ∀ i ∈ [Instr.accld f, .accst f], SkipsSignalling s c n x .ep 2 f.tk i) ∧
    (∀ f : MpertF, f.g = g → ∀ i ∈ [Instr.mpert f], SkipsSignalling s c n x .ep 2 f.tk i) ∧
    (∀ f : SqcfgF, f.g = g → ∀ i ∈ [Instr.sqcfg f], SkipsSignalling s c n x .ep 2 f.tk i) ∧
    (∀ f : SqcombF, f.g = g → ∀ i ∈ [Instr.sqcombStage f, .sqcombTake f], SkipsSignalling s c n x .ep 2 f.tk i) ∧
    (∀ f : SqerrF, f.g = g → ∀ i ∈ [Instr.sqerr f], SkipsSignalling s c n x .ep 2 f.tk i) ∧
    (∀ f : SqdecF, f.g = g → ∀ i ∈ [Instr.sqdec f], SkipsSignalling s c n x .ep 2 f.tk i) ∧
    (∀ f : SqnextF, f.g = g → ∀ i ∈ [Instr.sqnext f], SkipsSignalling s c n x .ep 2 f.tk i) ∧
    (∀ f : MmaF, f.g = g → ∀ i ∈ [Instr.mma f], SkipsSignalling s c n x .ep 8 f.tk i) ∧
    (∀ f : SmmaF, f.m.g = g → SkipsSignalling s c n x .ep 8 f.m.tk (.smma f)) ∧
    (∀ f : VnestF, f.g = g → tfind x.ep.nest x.ep.pc.toNat = none → SkipsSignalling s c n x .ep 8 f.tk (.vnest f)))

/-! ## The AP's integer and predicate instructions -/

/-- Derived (R234, R235, R236): the results of `ADD`, `SUB`, `MUL`, `AND`, `OR`, `XOR`, `SHL`, `SHR` and `SAR` in both forms of B at every width; nothing but D and the pc, with a loop pass that ends there (R245), changes. Also (R235, R236): the results of `MULH`, `DIV`, `REM`, `MIN` and `MAX`, with and without `.U`. -/
def Obligations.IntegerResults : Prop :=
  (∀ (f : Alu) (s : State) (c n : Nat) (x : Ctx), Issues s c n x f.g (f.d :: f.a :: srcRegs f.b) →
    let w := wbits f.w
    let r := intOp w ((x.ap.s' f.a.toNat).setWidth w) ((x.ap.src f.b).setWidth w)
    ∀ q ∈ (intInstr f).zip r, Leaves q.1 s c n ((putS x f.d (q.2.signExtend 64)).pass .ap 1))
  ∧ (∀ (f : AluX) (s : State) (c n : Nat) (x : Ctx), Issues s c n x f.g (f.d :: f.a :: srcRegs f.b) →
    let w := wbits f.w
    let r := intOpX f.x w ((x.ap.s' f.a.toNat).setWidth w) ((x.ap.src f.b).setWidth w)
    ∀ q ∈ (intInstrX f).zip r, Leaves q.1 s c n ((putS x f.d (q.2.signExtend 64)).pass .ap 1))

/-- Derived (R236, R238, R239): `SEL`, `MADD`, `CLZ`, `POPC`, `BFX`, `BFI`, `LI`, `LIH` and `ADDPC`. -/
def Obligations.SelectFieldsAndConstants : Prop :=
  (∀ (f : Alu3) (s : State) (c n : Nat) (x : Ctx), Issues s c n x f.g [f.d, f.a, f.b, f.c] →
    let w := wbits f.w
    let a : BitVec w := (x.ap.s' f.a.toNat).setWidth w
    let b : BitVec w := (x.ap.s' f.b.toNat).setWidth w
    let k : BitVec w := (x.ap.s' f.c.toNat).setWidth w
    Leaves (.sel f) s c n ((putS x f.d ((if x.ap.s' f.c.toNat ≠ 0 then a else b).signExtend 64)).pass .ap 1) ∧
    Leaves (.madd f) s c n ((putS x f.d ((a * b + k).signExtend 64)).pass .ap 1))
  ∧ (∀ (f : Alu1) (s : State) (c n : Nat) (x : Ctx), Issues s c n x f.g [f.d, f.a] →
    let w := wbits f.w
    let a : BitVec w := (x.ap.s' f.a.toNat).setWidth w
    (∃ z : BitVec w, z.toNat ≤ w ∧ a.toNat < 2 ^ (w - z.toNat) ∧ (z.toNat < w → 2 ^ (w - z.toNat - 1) ≤ a.toNat) ∧
      Leaves (.clz f) s c n ((putS x f.d (z.signExtend 64)).pass .ap 1)) ∧
    Leaves (.popc f) s c n ((putS x f.d ((BitVec.ofNat w ((List.range w).filter a.getLsbD).length).signExtend 64)).pass .ap 1))
  ∧ (∀ (f : BfxF) (s : State) (c n : Nat) (x : Ctx), Issues s c n x f.g (f.d :: f.a :: srcRegs f.b) →
    let k := x.ap.src f.b
    let pos := (k.extractLsb' 0 6).toNat
    let len := Nat.min (k.extractLsb' 8 7).toNat 64
    let v := (x.ap.s' f.a.toNat).extractLsb' pos len
    Leaves (.bfx f) s c n ((putS x f.d (if f.sgn then v.signExtend 64 else v.setWidth 64)).pass .ap 1))
  ∧ (∀ (f : BfiF) (s : State) (c n : Nat) (x : Ctx), Issues s c n x f.g [f.d, f.a, f.b, f.c] →
    let k := x.ap.s' f.b.toNat
    let pos := (k.extractLsb' 0 6).toNat
    let len := Nat.min (k.extractLsb' 8 7).toNat 64
    ∃ v : Word, (∀ i, i < 64 → v.getLsbD i = if pos ≤ i ∧ i < pos + len then (x.ap.s' f.c.toNat).getLsbD (i - pos) else (x.ap.s' f.a.toNat).getLsbD i) ∧
      Leaves (.bfi f) s c n ((putS x f.d v).pass .ap 1))
  ∧ (∀ (f : LiF) (s : State) (c n : Nat) (x : Ctx), Issues s c n x f.g [f.d] →
    Leaves (.li f) s c n ((putS x f.d (f.imm.signExtend 64)).pass .ap 1) ∧
    Leaves (.lih f) s c n ((putS x f.d (f.imm ++ (x.ap.s' f.d.toNat).setWidth 32)).pass .ap 1) ∧
    Leaves (.addpc f) s c n ((putS x f.d (x.ap.pc + f.imm.signExtend 64)).pass .ap 1))

/-- Derived (R240, R241, R242): `CMP`, `PLOG` and `PMOV`; the s registers keep their values but for the one that `PMOV.GET` writes. -/
def Obligations.PredicateResults : Prop :=
  (∀ (f : CmpF 6) (s : State) (c n : Nat) (x : Ctx) (q : Bool), Issues s c n x f.g (f.a :: csrcRegs f.b) →
    (q = true ↔ cond f.cc (cut32 f.w32 (x.ap.s' f.a.toNat)) (cut32 f.w32 (x.ap.csrc f.b))) →
    let r := tf f.mode q (x.ap.pr f.pt.toNat) (x.ap.pr f.pf.toNat)
    Leaves (.cmp f) s c n ({ x with ap := (x.ap.setP f.pf.toNat r.2).setP f.pt.toNat r.1 }.pass .ap 1))
  ∧ (∀ (f : PlogF) (s : State) (c n : Nat) (x : Ctx), Issues s c n x f.g [] →
    Leaves (.plog f) s c n ({ x with ap := x.ap.setP f.pt.toNat (plog f.fn (x.ap.pr f.pa.toNat) (x.ap.pr f.pb.toNat)) }.pass .ap 1))
  ∧ (∀ (f : R1) (s : State) (c n : Nat) (x : Ctx), Issues s c n x f.g [f.r] →
    (∃ v : Word, (∀ i, i < 64 → v.getLsbD i = (decide (i < 16) && x.ap.pr i)) ∧ Leaves (.pmovGet f) s c n ((putS x f.r v).pass .ap 1)) ∧
    (∃ y : ApSt, (∀ i, 0 < i → i < 16 → y.pr i = (x.ap.s' f.r.toNat).getLsbD i) ∧ y = { x.ap with p := y.p, bad := y.bad } ∧
      Leaves (.pmovSet f) s c n ({ x with ap := y }.pass .ap 1)))

/-! ## Control -/

/-- Derived (R225, R243): a taken branch of the AP writes its link with the address behind it and continues at its target, where no loop pass ends; a misaligned target is a fetch-alignment fault with no link written (R404). -/
def Obligations.BranchesOfTheAp : Prop :=
  ∀ (s : State) (c n : Nat) (x : Ctx),
    (∀ f : BrF 6, Issues s c n x f.g [f.link, f.base] →
      let target := (if f.base = 0 then x.ap.pc else x.ap.s' f.base.toNat) + f.off.signExtend 64
      (target.toNat % 8 = 0 → Leaves (.br f) s c n ((putS x f.link (x.ap.pc + 8)).setPc .ap target)) ∧
      (target.toNat % 8 ≠ 0 → exec (.br f) s = .next (s.takeTrap c n .ap 0x02 0 target x.ap.pc))) ∧
    (∀ f : CallF, Issues s c n x f.g [62] →
      let target := x.ap.pc + f.off.signExtend 64
      (target.toNat % 8 = 0 → Leaves (.call f) s c n ((putS x 62 (x.ap.pc + 8)).setPc .ap target)) ∧
      (target.toNat % 8 ≠ 0 → exec (.call f) s = .next (s.takeTrap c n .ap 0x02 0 target x.ap.pc))) ∧
    (∀ f : G0, Issues s c n x f.g [62] →
      let target := x.ap.s' 62
      (target.toNat % 8 = 0 → Leaves (.ret f) s c n (x.setPc .ap target)) ∧
      (target.toNat % 8 ≠ 0 → exec (.ret f) s = .next (s.takeTrap c n .ap 0x02 0 target x.ap.pc)))

/-- Derived (R244, R246): `LOOP` with n = 0 skips the body, with four entries is a loop-stack error, and otherwise pushes its entry, a rotating one starting the stage predicates; `LEXIT` pops, and R245 applies to the new top where it continues. Also (R245): what a pass end does on the AP: the entry below the top is left alone, a rotating top moves RRB down by one and the stage predicates up by one place, p8 taking whether passes remain; the body runs again, or the entry goes and its end is the next address, where a pass of the new top may end too. -/
def Obligations.LoopsOfTheAp : Prop :=
  ((∀ (f : LoopF) (s : State) (c n : Nat) (x : Ctx), Issues s c n x f.g [f.cnt] →
    let k := (x.ap.s' f.cnt.toNat).toNat
    let start := x.ap.pc + 8
    let fin := start + BitVec.ofNat 64 (8 * f.len.toNat)
    let e : LoopEntry := { start := start, fin := fin, n := k, total := if f.epi then k + (f.stg.toNat - 1) else k, done := 0, stg := f.stg, rot := f.rot, epi := f.epi }
    (k = 0 → Leaves (.loop f) s c n (x.setPc .ap fin)) ∧
    (k ≠ 0 → x.ap.loops.length = 4 → exec (.loop f) s = .next (s.takeTrap c n .ap 0x0B 0 x.ap.pc x.ap.pc)) ∧
    (k ≠ 0 → x.ap.loops.length ≠ 4 → ∃ p : BitVec 16,
      (∀ i, i < 16 → p.getLsbD i = if f.rot = true ∧ 8 ≤ i then decide (i = 8) else x.ap.p.getLsbD i) ∧
      Leaves (.loop f) s c n { x with ap := { x.ap with loops := e :: x.ap.loops, p := p, pc := start } }))
  ∧ (∀ (f : G0) (s : State) (c n : Nat) (x : Ctx), Issues s c n x f.g [] →
    (x.ap.loops = [] → exec (.lexit f) s = .next (s.takeTrap c n .ap 0x0C 0 0 x.ap.pc) ∧ exec (.lexitPop f) s = .next (s.takeTrap c n .ap 0x0C 0 0 x.ap.pc)) ∧
    (∀ e r, x.ap.loops = e :: r → Leaves (.lexit f) s c n { x with ap := x.ap.passEnd e.fin r } ∧
      Leaves (.lexitPop f) s c n { x with ap := x.ap.passEnd (x.ap.pc + 8) r })))
  ∧ (∀ (x : ApSt) (next : Word) (e : LoopEntry) (r : List LoopEntry),
    (next ≠ e.fin → x.passEnd next (e :: r) = { x with loops := e :: r, pc := next }) ∧
    x.passEnd next [] = { x with loops := [], pc := next } ∧
    (next = e.fin → e.rot = false → e.done + 1 < e.total → x.passEnd next (e :: r) = { x with loops := { e with done := e.done + 1 } :: r, pc := e.start }) ∧
    (next = e.fin → e.rot = false → e.total ≤ e.done + 1 → x.passEnd next (e :: r) = x.passEnd e.fin r) ∧
    (next = e.fin → e.rot = true → ∃ p : BitVec 16,
      (∀ i, i < 16 → p.getLsbD i = if i < 8 then x.p.getLsbD i else if i = 8 then decide (e.done + 1 < e.n) else x.p.getLsbD (i - 1)) ∧
      (e.done + 1 < e.total → x.passEnd next (e :: r) = { x with rrb := x.rrb - 1, p := p, loops := { e with done := e.done + 1 } :: r, pc := e.start }) ∧
      (e.total ≤ e.done + 1 → x.passEnd next (e :: r) = { x with rrb := x.rrb - 1, p := p }.passEnd e.fin r)))

/-- Derived (R18, R60, R200, R258, R289): `NOP`, `YIELD`, `EXIT`, `TRAP`, `RFT` and `RFT.NEXT`. `YIELD` ends the AP's block; `EXIT` stops the AP where it stands, drops its loop stack and hold set and places the notify markers; `TRAP` takes the software trap; `RFT` leaves the handler at TPC, `RFT.NEXT` behind the instruction at TPC, and both are illegal outside the handler. -/
def Obligations.YieldExitTrapAndReturn : Prop :=
  (∀ (s : State) (c n : Nat) (p : Proc) (x : Ctx), At s c n p x → Leaves .nop s c n (x.pass p 1)) ∧
  ∀ (f : G0) (s : State) (c n : Nat) (x : Ctx), Issues s c n x f.g [] →
    exec (.yield f) s = .next ((s.setCtx c n (x.pass .ap 1)).modCore c fun k => { k with apBlk := { k.apBlk with ended := true } }) ∧
    (x.ap.exited = false → exec (.exit f) s = .next ((s.setCtx c n ({ x with ap := { x.ap with exited := true, loops := [] }, hold := [], markers := x.markers ++ [{ ap := true, upto := s.serial, sig := none }] } : Ctx)).modCore c fun k => { k with apBlk := { k.apBlk with ended := true } })) ∧
    (∀ v : BitVec 32, exec (.trap ⟨f.g, v⟩) s = .next (s.takeTrap c n .ap 0x04 0 (v.setWidth 64) x.ap.pc)) ∧
    (x.ap.handler = true → Leaves (.rft f) s c n { x with ap := { x.ap with handler := false, pc := x.ap.tpc } } ∧
      Leaves (.rftNext f) s c n { x with ap := { x.ap with handler := false, ssIn := none, pc := x.ap.tpc + BitVec.ofNat 64 (8 * lenWords (opcOf (codeWord (s.core c).apCode x.lid x.ap.tpc.toNat).toNat)) } }) ∧
    (x.ap.handler = false → exec (.rft f) s = .next (s.takeTrap c n .ap 0x01 0 ((encode (.rft f)).getD 0 0) x.ap.pc) ∧
      exec (.rftNext f) s = .next (s.takeTrap c n .ap 0x01 0 ((encode (.rftNext f)).getD 0 0) x.ap.pc))

/-- Derived (R35): a wait set can be taken when each token holds as many as the set names it, and taking it takes just as many. Also (R35, R61, R62, R68, R73, R254): when each form of `WAIT` completes. `WAITT` takes its tokens after the pending `TSIG`s; the durable stores whose signals it took become its own (R142), and nothing else of the module changes. `WAITB` completes once the generation has passed, `WAITL` once every producer is triggered or has ended, `WAITC` once the commands before it are done, `SSBAR` once its superstep is over; outside a superstep launch it traps. `WAITB` and `WAITL` acquire: what they note of the persist order (R129, R142) is left open here. -/
def Obligations.WaitsComplete : Prop :=
  (∀ (x : Ctx) (w : WaitSet),
    (x.canTake w = true ↔ ∀ t, (waitToks w).count t ≤ x.token t) ∧
    (∀ t, (x.take w).token t = x.token t - (waitToks w).count t) ∧ x.take w = { x with tok := (x.take w).tok, taken := (x.take w).taken })
  ∧ (∀ (s : State) (c n : Nat) (x : Ctx),
    (∀ f : WaitTF, Issues s c n x f.g [] → Allotted s x (waitToks f.waits) → x.settleAp.canTake f.waits = true →
      Ends (.waitt f) s fun t => t = { s.setCtx c n ((x.settleAp.take f.waits).pass .ap 1) with serial := s.serial + 1, dstores := t.dstores } ∧
        t.dstores.map (fun d => { d with pos := none, toks := [] }) = s.dstores.map (fun d => { d with pos := none, toks := [] }) ∧ SameMem s t) ∧
    (∀ (f : WaitBF) (l : Launch), Issues s c n x f.g [f.a] → s.launch x.lid = some l →
      let d := (BitVec.ofNat 32 (l.bar x.member f.bar.toNat).1 - (x.ap.s' f.a.toNat).setWidth 32).toNat
      (1 ≤ d ∧ d < 2 ^ 31 → ∃ h q k, Leaves (.waitb f) s c n ({ x with ap := { x.ap with hb := h, durPreds := q, carried := k } }.pass .ap 1)) ∧
      (¬(1 ≤ d ∧ d < 2 ^ 31) → exec (.waitb f) s = .next (s.modCore c fun k => k.endBlock .ap))) ∧
    (∀ (f : G0) (l : Launch), Issues s c n x f.g [] → s.launch x.lid = some l →
      ((∀ p ∈ l.producers, ∀ q, s.launch p = some q → q.triggered = true ∨ q.phase = .ended) →
        ∃ h q k, Leaves (.waitl f) s c n ({ x with ap := { x.ap with hb := h, durPreds := q, carried := k } }.pass .ap 1)) ∧
      (∀ k, l.flag 6 = true → x.ap.ssIn = some k → l.ss ≠ k → Leaves (.ssbar f) s c n ({ x with ap := { x.ap with ssIn := none } }.pass .ap 1)) ∧
      (l.flag 6 = false → exec (.ssbar f) s = .next (s.takeTrap c n .ap 0x10 0 0 x.ap.pc))) ∧
    (∀ f : G0, Issues s c n x f.g [] →
      (∀ m ∈ (s.core c).pendingCmds, m.slot = n → m.lid = x.lid → x.ap.wcUpto.getD s.serial ≤ m.id) →
      (∀ m ∈ x.ap.tsigs ++ x.ep.etsigs, x.ap.wcUpto.getD s.serial ≤ m.id) →
      Leaves (.waitc f) s c n ({ x with ap := { x.ap with wcUpto := none } }.pass .ap 1)))

/-- Derived (R33, R37, R259, R288, R314, R315): the value queues and the notify markers of both processors: `SENDE` and `ESEND` append while there is room (64 values, 16 values) and stall when there is none; `RECVE` and `ERECV` take the oldest and stall when there is none; `NOTIFY` and `ENOTIFY` place markers with their token. -/
def Obligations.ValueQueuesAndNotices : Prop :=
  ∀ (s : State) (c n : Nat) (x : Ctx),
    (∀ f : SendF 6, Issues s c n x f.g (srcRegs f.v) →
      (x.toEp.length < 64 → Leaves (.sende f) s c n ({ x with toEp := x.toEp ++ [x.ap.src f.v] }.pass .ap 1)) ∧
      (64 ≤ x.toEp.length → exec (.sende f) s = .next (s.modCore c fun k => k.endBlock .ap))) ∧
    (∀ f : R1, Issues s c n x f.g [f.r] →
      (∀ v r, x.toAp = v :: r → Leaves (.recve f) s c n ((putS ({ x with toAp := r } : Ctx) f.r v).pass .ap 1)) ∧
      (x.toAp = [] → exec (.recve f) s = .next (s.modCore c fun k => k.endBlock .ap))) ∧
    (∀ f : SendF 5, IssuesEp s c n x f.g →
      (x.toAp.length < 16 → Leaves (.esend f) s c n ({ x with toAp := x.toAp ++ [x.ep.src f.v] }.pass .ep 1)) ∧
      (16 ≤ x.toAp.length → exec (.esend f) s = .next (s.modCore c fun k => k.endBlock .ep))) ∧
    (∀ f : E1, IssuesEp s c n x f.g →
      (∀ v r, x.toEp = v :: r → Leaves (.erecv f) s c n ((putE ({ x with toEp := r } : Ctx) f.r v).pass .ep 1)) ∧
      (x.toEp = [] → exec (.erecv f) s = .next (s.modCore c fun k => k.endBlock .ep))) ∧
    (∀ f : NotF, Issues s c n x f.g [] → Allotted s x [f.tok] →
      Leaves (.notify f) s c n ({ x with markers := x.markers ++ [({ ap := true, upto := s.serial, sig := some f.tok } : Marker)] }.pass .ap 1)) ∧
    (∀ f : NotF, IssuesEp s c n x f.g → Allotted s x [f.tok] →
      Leaves (.enotify f) s c n ({ x with markers := x.markers ++ [({ ap := false, upto := s.serial, sig := some f.tok } : Marker)] }.pass .ep 1))

/-! ## Control and status registers -/

/-- Derived (R4, R85, R260 to R263): what the AP reads from each of its CSRs, by number; a write-only one reads 0. Also (R316, R319, R322): what the EP reads from each of its CSRs, by number. Where the rules leave room, the model's choices are those of log 3. -/
def Obligations.CsrMap : Prop :=
  (∀ (s : State) (c n : Nat) (x : Ctx), let rd := s.apCsrRead c n x
    rd 0x000 = BitVec.ofNat 64 n ∧ rd 0x001 = BitVec.ofNat 64 c ∧ rd 0x002 = x.lid.setWidth 64 ∧ rd 0x004 = x.argp ∧
    rd 0x005 = (if x.member then 1 else 0) ∧ (∀ l, s.launch x.lid = some l → rd 0x003 = BitVec.ofNat 64 (l.gang * 2 ^ 32 + x.rank) ∧ rd 0x006 = BitVec.ofNat 64 l.ss) ∧
    rd 0x010 = x.ap.rrb.setWidth 64 ∧ (x.ap.loops = [] → rd 0x011 = 0 ∧ rd 0x012 = 0) ∧
    (∀ e r, x.ap.loops = e :: r → rd 0x011 = BitVec.ofNat 64 (e.n - Nat.min e.done e.n) ∧ rd 0x012 = BitVec.ofNat 64 (e.total - Nat.max e.done e.n)) ∧
    rd 0x013 = BitVec.ofNat 64 x.ap.loops.length ∧ rd 0x020 = x.fflags.setWidth 64 ∧ rd 0x021 = x.rmode.setWidth 64 ∧ rd 0x022 = x.ftrapen.setWidth 64 ∧
    rd 0x030 = x.ap.tvec ∧ rd 0x031 = x.ap.tcause ∧ rd 0x032 = x.ap.tpc ∧ rd 0x033 = x.ap.tval ∧
    (∀ k, k < 8 → rd (0x040 + k) = match x.afs with | some (r, _) => BitVec.ofNat 64 (leAt r.bytes (8 * k) 8) | none => 0) ∧
    rd 0x050 = x.dnar.setWidth 64 ∧ rd 0x051 = x.ap.amoTag.setWidth 64 ∧ rd 0x052 = x.ap.retryTag.setWidth 64 ∧ rd 0x060 = s.time ∧
    rd 0x048 = 0 ∧ rd 0x061 = BitVec.ofNat 64 (s.cycles - x.cycleBase))
  ∧ (∀ (s : State) (c n : Nat) (x : Ctx), let rd := s.epCsrRead c n x
    rd 0x000 = BitVec.ofNat 64 n ∧ rd 0x001 = BitVec.ofNat 64 c ∧ rd 0x002 = x.lid.setWidth 64 ∧ rd 0x004 = x.argp ∧
    (x.ep.loops = [] → rd 0x011 = 0) ∧ (∀ e r, x.ep.loops = e :: r → rd 0x011 = BitVec.ofNat 64 (e.n - Nat.min e.done e.n)) ∧
    rd 0x013 = BitVec.ofNat 64 x.ep.loops.length ∧ rd 0x020 = x.fflags.setWidth 64 ∧ rd 0x021 = x.rmode.setWidth 64 ∧ rd 0x022 = x.ftrapen.setWidth 64 ∧
    rd 0x030 = x.ep.tvec ∧ rd 0x031 = x.ep.tcause ∧ rd 0x032 = x.ep.tpc ∧ rd 0x033 = x.ep.tval ∧ rd 0x060 = s.time ∧
    rd 0x005 = (if x.member then 1 else 0) ∧ (∀ l, s.launch x.lid = some l → rd 0x003 = BitVec.ofNat 64 (l.gang * 2 ^ 32 + x.rank) ∧ rd 0x006 = BitVec.ofNat 64 l.ss) ∧
    (∀ k, k < 8 → rd (0x040 + k) = match x.afs with | some (r, _) => BitVec.ofNat 64 (leAt r.bytes (8 * k) 8) | none => 0) ∧
    rd 0x048 = 0 ∧ rd 0x061 = BitVec.ofNat 64 (s.cycles - x.cycleBase) ∧
    (∀ k, k < 8 → rd (0x070 + k) = (tget x.gapc 0 k).setWidth 64) ∧
    rd 0x080 = x.segSig.setWidth 64 ∧ rd 0x081 = BitVec.ofNat 64 x.segCnt ∧ rd 0x082 = (if x.segOpen then 1 else 0))

/-- Derived (R84, R113, R261, R262, R322): what a write does to each CSR; read-only ones keep their values, DNAR only narrows, the trap vectors are aligned, RMODE takes no reserved value, any write to AFSCLR empties the async fault slot, and any write to a gap counter clears it. -/
def Obligations.CsrWriteEffects : Prop :=
  ∀ (x : Ctx) (v : Word),
    (x.apCsrPut 0x004 v = { x with argp := v } ∧ x.apCsrPut 0x010 v = { x with ap := { x.ap with rrb := v.setWidth 4 } } ∧
     x.apCsrPut 0x030 v = { x with ap := { x.ap with tvec := v &&& ~~~7#64 } } ∧ x.apCsrPut 0x050 v = { x with dnar := x.dnar &&& v.setWidth 16 } ∧
     x.apCsrPut 0x052 v = { x with ap := { x.ap with retryTag := v.setWidth 32 } } ∧
     x.epCsrPut 0x030 v = { x with ep := { x.ep with tvec := v &&& ~~~7#64 } } ∧
     (∀ k, k < 8 → ∃ t, x.epCsrPut (0x070 + k) v = { x with gapc := t } ∧ t = tdel x.gapc k)) ∧
    (∀ put ∈ [x.apCsrPut, x.epCsrPut],
      put 0x020 v = { x with fflags := v.setWidth 6 } ∧ put 0x022 v = { x with ftrapen := v.setWidth 6 } ∧
      put 0x048 v = { x with afs := none, afsTaken := false } ∧
      ((v.setWidth 3 : BitVec 3).toNat < 5 → put 0x021 v = { x with rmode := v.setWidth 3 }) ∧ (5 ≤ (v.setWidth 3 : BitVec 3).toNat → put 0x021 v = x) ∧
      (∀ m ∈ [0x000, 0x001, 0x002, 0x003, 0x005, 0x006, 0x011, 0x012, 0x013, 0x031, 0x032, 0x033, 0x051, 0x060, 0x061], put m v = x) ∧
      (∀ k, k < 8 → put (0x040 + k) v = x)) ∧
    (∀ m ∈ [0x004, 0x080, 0x081, 0x082], x.epCsrPut m v = x)

/-- Derived (R260, R261, R322): `CSRR` and `ECSRR` put the CSR's value into D; `CSRW`, its set form and its clear form, on both processors, put the old value into D and then write the CSR with the value, the old value with its bits set, or with its bits cleared, where the source is read first; `TIME` puts the device time into D. -/
def Obligations.CsrInstructions : Prop :=
  ∀ (s : State) (c n : Nat) (x : Ctx),
    (∀ f : CsrrF 6, Issues s c n x f.g [f.d] → Leaves (.csrr f) s c n ((putS x f.d (s.apCsrRead c n x f.num.toNat)).pass .ap 1)) ∧
    (∀ f : CsrwF 6, Issues s c n x f.g [f.d, f.a] →
      let old := s.apCsrRead c n x f.num.toNat
      let a := x.ap.s' f.a.toNat
      let wr := fun (v : Word) => ((putS x f.d old).apCsrPut f.num.toNat v).pass .ap 1
      Leaves (.csrw f) s c n (wr a) ∧ Leaves (.csrwSet f) s c n (wr (old ||| a)) ∧ Leaves (.csrwClr f) s c n (wr (old &&& ~~~a))) ∧
    (∀ f : R1, Issues s c n x f.g [f.r] → Leaves (.time f) s c n ((putS x f.r s.time).pass .ap 1)) ∧
    (∀ f : CsrrF 5, IssuesEp s c n x f.g → Leaves (.ecsrr f) s c n ((putE x f.d (s.epCsrRead c n x f.num.toNat)).pass .ep 1)) ∧
    (∀ f : CsrwF 5, IssuesEp s c n x f.g →
      let old := s.epCsrRead c n x f.num.toNat
      let a := x.ep.e' f.a.toNat
      let wr := fun (v : Word) => ((putE x f.d old).epCsrPut f.num.toNat v).pass .ep 1
      Leaves (.ecsrw f) s c n (wr a) ∧ Leaves (.ecsrwSet f) s c n (wr (old ||| a)) ∧ Leaves (.ecsrwClr f) s c n (wr (old &&& ~~~a)))

/-! ## The EP's scalar instructions -/

/-- Derived (R235, R236, R239, R240, R310, R312): the EP's integer, constant, compare and predicate instructions; only the e register, predicate or mask they name and the pc, with a loop pass that ends there, change. -/
def Obligations.EpScalarResults : Prop :=
  (∀ (f : EAlu) (s : State) (c n : Nat) (x : Ctx), IssuesEp s c n x f.g →
    let w := wbits f.w
    let a : BitVec w := (x.ep.e' f.a.toNat).setWidth w
    let b : BitVec w := (x.ep.src f.b).setWidth w
    let r := [a + b, a - b, a * b, a &&& b, a ||| b, a ^^^ b, a <<< (b.toNat % w)]
    ∀ q ∈ [Instr.eadd f, .esub f, .emul f, .eand f, .eor f, .exor f, .eshl f].zip r, Leaves q.1 s c n ((putE x f.d (q.2.signExtend 64)).pass .ep 1))
  ∧ (∀ (f : EShrF) (s : State) (c n : Nat) (x : Ctx), IssuesEp s c n x f.g →
    let w := wbits f.w
    let a : BitVec w := (x.ep.e' f.a.toNat).setWidth w
    let b : BitVec w := (x.ep.src f.b).setWidth w
    Leaves (.eshr f) s c n ((putE x f.d ((if f.sgn then a.sshiftRight (b.toNat % w) else a >>> (b.toNat % w)).signExtend 64)).pass .ep 1))
  ∧ (∀ (f : EliF) (s : State) (c n : Nat) (x : Ctx), IssuesEp s c n x f.g →
    Leaves (.eli f) s c n ((putE x f.d (f.imm.signExtend 64)).pass .ep 1) ∧
    Leaves (.elih f) s c n ((putE x f.d (f.imm ++ (x.ep.e' f.d.toNat).setWidth 32)).pass .ep 1))
  ∧ (∀ (f : CmpF 5) (s : State) (c n : Nat) (x : Ctx) (q : Bool), IssuesEp s c n x f.g →
    (q = true ↔ cond f.cc (cut32 f.w32 (x.ep.e' f.a.toNat)) (cut32 f.w32 (x.ep.csrc f.b))) →
    let r := tf f.mode q (x.ep.qr f.pt.toNat) (x.ep.qr f.pf.toNat)
    Leaves (.ecmp f) s c n ({ x with ep := (x.ep.setQ f.pf.toNat r.2).setQ f.pt.toNat r.1 }.pass .ep 1))
  ∧ (∀ (f : E1) (s : State) (c n : Nat) (x : Ctx), IssuesEp s c n x f.g →
    (∃ v : Word, (∀ i, i < 64 → v.getLsbD i = (decide (i < 16) && x.ep.qr i)) ∧ Leaves (.epmovGet f) s c n ((putE x f.r v).pass .ep 1)) ∧
    (∃ y : EpSt, (∀ i, 0 < i → i < 16 → y.qr i = (x.ep.e' f.r.toNat).getLsbD i) ∧ y = { x.ep with q := y.q, bad := y.bad } ∧
      Leaves (.epmovSet f) s c n ({ x with ep := y }.pass .ep 1)))
  ∧ (∀ (f : EpmF) (s : State) (c n : Nat) (x : Ctx), IssuesEp s c n x f.g →
    Leaves (.epmovMget f) s c n ((putE x f.r ((x.ep.mr f.n.toNat).extractLsb' (64 * f.k.toNat) 64)).pass .ep 1) ∧
    (∃ v : BitVec 256, (∀ i, i < 256 → v.getLsbD i =
        if 64 * f.k.toNat ≤ i ∧ i < 64 * f.k.toNat + 64 then (x.ep.e' f.r.toNat).getLsbD (i - 64 * f.k.toNat) else (x.ep.mr f.n.toNat).getLsbD i) ∧
      Leaves (.epmovMset f) s c n ({ x with ep := x.ep.setM f.n.toNat v }.pass .ep 1)))

/-- Derived (R36, R313, R314, R318, R392): the EP's control instructions. A taken `EBR` without a link whose target leaves the body of the top loop pops that entry, and one through a register leaves the handler state; `ELOOP` is `LOOP` without rotation; `EWAIT` takes its tokens after the pending `TSIG`s and `ETSIG`s, and stalls where the AP of its context stands ready to take the same ones (R36); `EEXIT` stops the EP; `ETSIG` and `TSIG` join the pending ones, of which there are at most four. -/
def Obligations.EpControl : Prop :=
  ∀ (s : State) (c n : Nat) (x : Ctx),
    (∀ f : BrF 5, IssuesEp s c n x f.g →
      let target := (if f.base = 0 then x.ep.pc else x.ep.e' f.base.toNat) + f.off.signExtend 64
      (target.toNat % 8 ≠ 0 → exec (.ebr f) s = .next (s.takeTrap c n .ep 0x02 0 target x.ep.pc)) ∧
      (target.toNat % 8 = 0 → ∃ l, Leaves (.ebr f) s c n { x with ep := { x.ep.setE f.link.toNat (x.ep.pc + 8) with
          pc := target, loops := l, handler := if f.link = 0 ∧ f.base ≠ 0 then false else x.ep.handler } } ∧
        (f.link ≠ 0 → l = x.ep.loops) ∧ (x.ep.loops = [] → l = []) ∧
        (∀ e r, x.ep.loops = e :: r → f.link = 0 → l = if e.start.toNat ≤ target.toNat ∧ target.toNat < e.fin.toNat then e :: r else r))) ∧
    (∀ f : EloopF, IssuesEp s c n x f.g →
      let k := (x.ep.e' f.cnt.toNat).toNat
      let start := x.ep.pc + 8
      let fin := start + BitVec.ofNat 64 (8 * f.len.toNat)
      let e : LoopEntry := { start := start, fin := fin, n := k, total := k, done := 0, stg := 0, rot := false, epi := false }
      (k = 0 → Leaves (.eloop f) s c n (x.setPc .ep fin)) ∧
      (k ≠ 0 → x.ep.loops.length = 4 → exec (.eloop f) s = .next (s.takeTrap c n .ep 0x0B 0 x.ep.pc x.ep.pc)) ∧
      (k ≠ 0 → x.ep.loops.length ≠ 4 → Leaves (.eloop f) s c n { x with ep := { x.ep with loops := e :: x.ep.loops, pc := start } })) ∧
    (∀ f : WaitTF, IssuesEp s c n x f.g → Allotted s x (waitToks f.waits) → x.settle.canTake f.waits = true →
      ((∀ ws, s.procWaits c n .ap = some ws → x.settle.clash f.waits ws = false) → Leaves (.ewait f) s c n ((x.settle.take f.waits).pass .ep 1)) ∧
      (∀ ws, s.procWaits c n .ap = some ws → x.settle.clash f.waits ws = true → waitToks f.waits ≠ [] →
        exec (.ewait f) s = .next ((s.setCtx c n x.settle).modCore c fun k => k.endBlock .ep))) ∧
    (∀ f : G0, IssuesEp s c n x f.g → x.ep.exited = false → exec (.eexit f) s = .next ((s.setCtx c n ({ x with ep := { x.ep with exited := true, loops := [] }, markers := x.markers ++ [{ ap := false, upto := s.serial, sig := none }] } : Ctx)).modCore c fun k => { k with epBlk := { k.epBlk with ended := true } })) ∧
    (∀ f : TkF, IssuesEp s c n x f.g → Allotted s x (tkToks f.tk) → x.ep.etsigs.length < 4 → Ends (.etsig f) s fun t => SameMem s t ∧
      t = { s.setCtx c n ({ x with ep := { x.ep with etsigs := x.ep.etsigs ++ [({ id := s.serial, tk := f.tk, taken := false } : TsigP)] } }.pass .ep 2) with serial := s.serial + 1 }) ∧
    (∀ f : TkF, Issues s c n x f.g [] → Allotted s x (tkToks f.tk) → x.ap.tsigs.length < 4 → Ends (.tsig f) s fun t => SameMem s t ∧
      t = { s.setCtx c n ({ x with ap := { x.ap with tsigs := x.ap.tsigs ++ [({ id := s.serial, tk := f.tk, taken := false } : TsigP)] } }.pass .ap 2) with serial := s.serial + 1 })

/-! ## Guards, code and decoding -/

/-- R199: when a guard holds, on the AP, on the EP, and lane by lane in the EV form, where mask bits at and above the lane count are ignored. -/
def Obligations.GuardsHold : Prop :=
  (∀ (x : ApSt) (g : Guard), x.holds g = Bool.xor (x.pr g.idx.toNat) g.neg ∧ (g = ⟨false, 0⟩ → x.holds g = true) ∧ (g = ⟨true, 0⟩ → x.holds g = false)) ∧
  (∀ (x : EpSt) (g : Guard), x.holds g = Bool.xor (x.qr g.idx.toNat) g.neg ∧ (g = ⟨false, 0⟩ → x.holds g = true) ∧ (g = ⟨true, 0⟩ → x.holds g = false) ∧
    (∀ i, i < 256 → x.active g i = Bool.xor ((x.mr g.idx.toNat).getLsbD i) g.neg ∧ (g = ⟨false, 0⟩ → x.active g i = true) ∧ (g = ⟨true, 0⟩ → x.active g i = false))) ∧
  (∀ (v : VIn) (x : EpSt) (fn : Nat → Nat × Flags) (d : Nat) (b : Nat → Bool), (∀ i, i < v.n → x.active v.f.g i = v.act i ∧ (x.mr d).getLsbD i = (v.x.mr d).getLsbD i) →
    ({ v with x := x } : VIn).lanes fn = v.lanes fn ∧ ({ v with x := x } : VIn).maskBits d b = v.maskBits d b)

/-- Derived (R196, R197, R218; the loader's padding is outside the module): a word of an instruction store that holds no loaded code reads as all ones, so does every word a processor fetches outside the loaded code, such as the first behind its end, and the opcode it finds there, 0xFF, is illegal on both. -/
def Obligations.WordsWithoutCode : Prop :=
  (∀ (l : List CodeSec) (lid : BitVec 32) (a : Nat),
    (∀ q ∈ l, q.lid = lid → a < q.base.toNat ∨ q.base.toNat + 8 * q.words.length ≤ a) → codeWord l lid a = 0xFFFFFFFFFFFFFFFF#64) ∧
  (∀ (k : Core) (p : Proc) (lid : BitVec 32) (pc : Word),
    (∀ q ∈ k.code p, q.lid = lid → pc.toNat < q.base.toNat ∨ q.base.toNat + 8 * q.words.length ≤ pc.toNat) →
    (k.fetch p lid pc).head? = some 0xFFFFFFFFFFFFFFFF#64 ∧ ∃ e, decodeFor p (k.fetch p lid pc) = .error e) ∧
  (∀ (p : Proc) (r : List Word), opcOf (0xFFFFFFFFFFFFFFFF#64).toNat = 0xFF ∧ ∃ e, decodeFor p (0xFFFFFFFFFFFFFFFF#64 :: r) = .error e)

/-- R246: `LEXIT` and `LEXIT.POP`: their words, with every field below the prefix zero but X, their continuation, the pass end of R245 at the new top, and the loop-stack error on an empty stack. -/
def Obligations.LexitInstruction : Prop :=
  (∀ (w : Word) (r : List Word), opcOf w.toNat = 0x22 →
    let g : Guard := ⟨w.getLsbD 55, w.extractLsb' 51 4⟩
    let rest : Word := w &&& ~~~0xFFF8000700000000#64
    let k := (w.extractLsb' 32 3).toNat
    (rest = 0 → k = 0 → decodeFor .ap (w :: r) = .ok (.lexit ⟨g⟩)) ∧ (rest = 0 → k = 1 → decodeFor .ap (w :: r) = .ok (.lexitPop ⟨g⟩)) ∧
    (rest ≠ 0 ∨ 2 ≤ k → ∃ e, decodeFor .ap (w :: r) = .error e)) ∧
  (∀ (f : G0) (s : State) (c n : Nat) (x : Ctx), Issues s c n x f.g [] →
    (x.ap.loops = [] → exec (.lexit f) s = .next (s.takeTrap c n .ap 0x0C 0 0 x.ap.pc) ∧ exec (.lexitPop f) s = .next (s.takeTrap c n .ap 0x0C 0 0 x.ap.pc)) ∧
    (∀ e r, x.ap.loops = e :: r →
      Leaves (.lexit f) s c n { x with ap := x.ap.passEnd e.fin r } ∧ Leaves (.lexitPop f) s c n { x with ap := x.ap.passEnd (x.ap.pc + 8) r } ∧
      (∀ a ∈ [e.fin, x.ap.pc + 8], (∀ e', r.head? = some e' → e'.fin ≠ a) → x.ap.passEnd a r = { x.ap with loops := r, pc := a })))

/-- Derived (R198 to R214, R216): words written out from the spec's encodings, bit position by bit position, decode to the instruction they stand for. -/
def Obligations.DecodedWords : Prop :=
  let g : Guard := ⟨false, 0⟩
  decodeFor .ap [wd []] = .ok .nop ∧ decodeFor .ep [wd []] = .ok .nop ∧
  decodeFor .ap [wd [(56, 0x01), (45, 3), (39, 1), (26, 2)]] = .ok (.add ⟨g, .d, 3, 1, .reg 2⟩) ∧
  decodeFor .ap [wd [(56, 0x02), (55, 1), (51, 5), (45, 7), (39, 8), (36, 1), (35, 1), (0, 0xFFFFFFFF)]] = .ok (.sub ⟨⟨true, 5⟩, .w, 7, 8, .imm 0xFFFFFFFF⟩) ∧
  decodeFor .ap [wd [(56, 0x14), (45, 5), (35, 1), (0, 7)]] = .ok (.li ⟨g, 5, 7⟩) ∧
  decodeFor .ap [wd [(56, 0x18), (47, 3), (43, 4), (41, 1), (38, 5), (37, 1), (36, 1), (30, 9), (0, 0x8000)]] = .ok (.cmp ⟨g, 3, 4, .and, .gen, true, 9, .imm 0x8000⟩) ∧
  decodeFor .ap [wd [(56, 0x20), (45, 5), (39, 6), (0, 0xFFFFFFF8)]] = .ok (.br ⟨g, 5, 6, 0xFFFFFFF8⟩) ∧
  decodeFor .ap [wd [(56, 0x21), (45, 3), (32, 3), (16, 12), (8, 2)]] = .ok (.loop ⟨g, 3, true, true, 12, 2⟩) ∧
  decodeFor .ap [wd [(56, 0x24), (36, 1), (16, 3), (15, 1)]] = .ok (.waitt ⟨g, ⟨some 3, none, none⟩⟩) ∧
  decodeFor .ap [wd [(56, 0x40), (45, 2), (39, 9), (36, 1), (35, 1), (32, 1), (28, 3), (0, 16)]] = .ok (.ld ⟨g, 2, 9, .w, .imm 16, true, .global, 3⟩) ∧
  decodeFor .ep [wd [(56, 0x80), (51, 2), (40, 17), (29, 20), (18, 33), (14, 2)]] = .ok (.vadd ⟨⟨false, 2⟩, 17, 20, 33, 2, false, false, 0, false, 0⟩) ∧
  decodeFor .ep [wd [(56, 0xC0), (45, 1), (39, 2), (26, 3)]] = .ok (.eadd ⟨g, .d, 1, 2, .reg 3⟩) ∧
  decodeFor .ep [wd [(56, 0xE2), (27, 5)], wd [(60, 4), (59, 1), (55, 6), (54, 1)]] = .ok (.mzero ⟨g, 5, ⟨some 4, ⟨some 6, none, none⟩⟩⟩) ∧
  decodeFor .ap [wd [(0, 1)]] = .error .field ∧ decodeFor .ap [wd [(56, 0x3F)]] = .error .opcode ∧
  decodeFor .ap [wd [(56, 0xC0)]] = .error .range ∧ decodeFor .ep [wd [(56, 0x01)]] = .error .range

/-- Derived (R198 to R219, R225): the decoder reads back every instruction of a processor from the words the encoder writes for it, whatever follows them: no field is dropped. -/
def Obligations.DecodeOfEncode : Prop :=
  ∀ (i : Instr) (p : Proc) (r : List Word), i.wf = true → i.isEvent = false → i = .nop ∨ i.proc = some p → decodeFor p (encode i ++ r) = .ok i

/-- Derived (R198 to R219): what the decoder reads is well formed, belongs to its processor, and is written back by the encoder as the words it was read from: each word has one meaning. Only `NOP` leaves a bit of its word free, bit 55 (R200). -/
def Obligations.EncodeOfDecode : Prop :=
  ∀ (p : Proc) (ws : List Word) (i : Instr), decodeFor p ws = .ok i → 8 ≤ ws.length →
    i.wf = true ∧ (i = .nop ∨ i.proc = some p) ∧ (encode i).length = lenWords (opcOf (ws.getD 0 0).toNat) ∧ (i ≠ .nop → ws.take (lenWords (opcOf (ws.getD 0 0).toNat)) = encode i)

/-! ## The step -/

/-- Derived (R196, R216, R218): the opcodes no processor has are illegal on both, those of the other's range on each, and the length of an instruction follows from its opcode. -/
def Obligations.OpcodesAndLengths : Prop :=
  (∀ (p : Proc) (ws : List Word), let o := opcOf (ws.getD 0 0).toNat
    (0xF0 ≤ o → decodeFor p ws = .error .opcode) ∧
    (o ∈ [0x17, 0x23, 0x2C, 0x2E, 0x2F, 0x51, 0x56, 0x7F] → decodeFor p ws = .error .opcode) ∧
    (∀ r ∈ [(0x1B, 0x1F), (0x30, 0x3F), (0x47, 0x4F), (0x5D, 0x60), (0x60, 0x6F), (0x99, 0x9E), (0xA0, 0xBF), (0xDB, 0xDF)], r.1 ≤ o → o ≤ r.2 → decodeFor p ws = .error .opcode)) ∧
  (∀ (ws : List Word) (i : Instr), (decodeFor .ap ws = .ok i → opcOf (ws.getD 0 0).toNat < 0x80) ∧
    (decodeFor .ep ws = .ok i → opcOf (ws.getD 0 0).toNat = 0 ∨ (0x80 ≤ opcOf (ws.getD 0 0).toNat ∧ opcOf (ws.getD 0 0).toNat < 0xF0))) ∧
  (∀ o, o < 256 → lenWords o = if (0x70 ≤ o ∧ o ≤ 0x7E) ∨ (0xE2 ≤ o ∧ o ≤ 0xEF) then 2 else if o = 0x9F ∨ o = 0xE0 ∨ o = 0xE1 then 8 else 1)

namespace Sys2Proof.Claims

/-- What passes before the act of a move (log 1): t is s with at least one cycle gone, ns of device time, of which slewing adds or takes no more than one in 10,000 (R11), bytes outside the module as `far` names them, and the last steps of a bring-up under way (R14); the move is off the agenda. -/
structure Passes (s : State) (cy ns : Nat) (far : List Host.Cell) (r : List Turn) (t : State) : Prop where
  rest : t = { s with agenda := r, mem := t.mem, cycles := s.cycles + Nat.max 1 cy, time := t.time, slewDebt := t.slewDebt, slewGain := t.slewGain, slewAcc := t.slewAcc,
                      west := t.west, east := t.east, cmap := t.cmap }
  time : ∃ lag gain, t.time = s.time + BitVec.ofNat 64 (ns - lag + gain) ∧ t.slewDebt = s.slewDebt - lag ∧ t.slewGain = s.slewGain - gain ∧ lag ≤ s.slewDebt ∧ gain ≤ s.slewGain ∧
    10000 * lag ≤ s.slewAcc + ns ∧ 10000 * gain ≤ s.slewAcc + ns
  dies : s.west.boot.step ∉ [6, 7] → s.east.boot.step ∉ [6, 7] → t.west = s.west ∧ t.east = s.east ∧ t.cmap = s.cmap
  inside : Memory.wf s.mem = true → ∀ a, a < 0x080000000000 → t.byte a = s.byte a
  outside : far = [] → t.mem = s.mem

end Sys2Proof.Claims

/-- Derived (R60, R218, R396; the agenda is the model's own, log 1): when the next move is the issue of a processor that is in a block with a context, no trap is due, no restored wait set is open, no word of the instruction and no register it names is in error, and the words at its pc decode to i, the step is exec of i, after the time and the bytes outside the module that the move names have passed. -/
def Obligations.StepRunsTheDecodedInstruction : Prop :=
  ∀ (s : State) (cy ns : Nat) (far : List Host.Cell) (r : List Turn) (c n : Nat) (p : Proc) (x : Ctx) (i : Instr),
    s.powered = true → s.agenda = ⟨cy, ns, far, .issue c p⟩ :: r →
    s.current c p = some n → s.ctx c n = some x → x.asyncDue p = false → (p = .ep ∨ x.waitSet = none) →
    decodeFor p ((s.core c).fetch p x.lid (x.pcOf p)) = .ok i → x.parity p i = none → s.badCode c p x.lid (x.pcOf p) (encode i).length = none →
    ∃ t, Passes s cy ns far r t ∧ step s = exec i { t with cur := ⟨c, n, p⟩ }

/-- Derived (R34, R60, R196, R218, R402): the step that runs no instruction: an illegal word traps with the word in TVAL, and a register of wrong parity with its number. Also (R396, R397): an async trap that is due comes after the synchronous trap of the instruction, and in its place else; of a restored task it comes before its wait set. Also (R453; log 81): a word in error is used as a free value, with its record. Also (R60, R61; log 6): a processor in no block selects the first runnable context in the order of the slots behind the last one, and begins its block; a context whose next instruction would end its block and do nothing else is not runnable, one whose instruction would not end it is. Also (R435; the agenda is the model's own, log 1): the step of an event is exec of it, an event without power but a bring-up stops the machine, and exec itself always answers a next state. -/
def Obligations.StepsThatIssueNothing : Prop :=
  (∀ (s : State) (cy ns : Nat) (far : List Host.Cell) (r : List Turn) (c n : Nat) (p : Proc) (x : Ctx), s.powered = true → s.agenda = ⟨cy, ns, far, .issue c p⟩ :: r →
    s.current c p = some n → s.ctx c n = some x →
    let ws := (s.core c).fetch p x.lid (x.pcOf p)
    ∃ u, Passes s cy ns far r u ∧ let t : State := { u with cur := ⟨c, n, p⟩ }
    (p = .ap → x.waitSet ≠ none → x.asyncDue p = true → step s = .next (t.takeAsync c n p)) ∧
    (p = .ep ∨ x.waitSet = none →
      (∀ e, decodeFor p ws = .error e → s.badCode c p x.lid (x.pcOf p) 1 = none → step s = .next (t.takeTrap c n p 0x01 0 (ws.getD 0 0) (x.pcOf p))) ∧
      (∀ e a, decodeFor p ws = .error e → s.badCode c p x.lid (x.pcOf p) 1 = some a → step s = .next (t.useCode c n p x a)) ∧
      (∀ i, decodeFor p ws = .ok i →
        (∀ a, s.badCode c p x.lid (x.pcOf p) (encode i).length = some a → step s = .next (t.useCode c n p x a)) ∧
        (s.badCode c p x.lid (x.pcOf p) (encode i).length = none →
          (∀ v, x.parity p i = some v → step s = .next (t.takeTrap c n p 0x0D 0 v (x.pcOf p))) ∧
          (x.parity p i = none → x.asyncDue p = true → ∃ v, exec i t = .next v ∧ step s = .next (if v.trapped c n p then v else t.takeAsync c n p))))))
  ∧ ((∀ (s : State) (cy ns : Nat) (far : List Host.Cell) (r : List Turn) (i : Instr), s.agenda = ⟨cy, ns, far, .event i⟩ :: r → i.isEvent = true →
    (s.powered = true → (∀ c n, i ≠ .asyncTrap c n) → ∃ t, Passes s cy ns far r t ∧ step s = exec i t) ∧
    (s.powered = false → (∀ d a b, i ≠ .bringUp d a b) → step s = .fault .noPower)) ∧
  (∀ (s : State) (cy ns : Nat) (far : List Host.Cell) (r : List Turn) (c : Nat) (p : Proc), s.powered = true → s.agenda = ⟨cy, ns, far, .issue c p⟩ :: r → s.current c p = none →
    ∃ u, Passes s cy ns far r u ∧ let t : State := { u with cur := ⟨c, 0, p⟩ }
    let at' := fun (k : Nat) => (((s.core c).blk p).sel.getD 3 + 1 + k) % 4
    (∀ k, k < 4 → t.runnable c (at' k) p = true → (∀ j, j < k → t.runnable c (at' j) p = false) →
      step s = .next (t.modCore c fun q => q.setBlk p { sel := some (at' k), ended := false, since := t.cycles })) ∧
    ((∀ k, k < 4 → t.runnable c (at' k) p = false) → step s = .next t)) ∧
  (∀ (s : State) (c n : Nat) (p : Proc) (x : Ctx) (i : Instr), s.ctx c n = some x → (p = .ep ∨ x.waitSet = none) → decodeFor p ((s.core c).fetch p x.lid (x.pcOf p)) = .ok i →
    x.parity p i = none → s.badCode c p x.lid (x.pcOf p) (encode i).length = none → x.asyncDue p = false →
    let t : State := { s.modCore c fun q => q.setBlk p { sel := some n, ended := false, since := s.cycles } with cur := ⟨c, n, p⟩ }
    (exec i t = .next (t.modCore c fun q => q.endBlock p) → s.runnable c n p = false) ∧
    (∀ u, exec i t = .next u → ((u.core c).blk p).ended = false → s.runnable c n p = x.runnable p)) ∧
  (∀ (i : Instr) (s : State), ∃ t, exec i s = .next t))

/-! ## Traps -/
namespace Sys2Proof.Claims

/-- x ended by a trap (R393): each processor that had not exited stops as `EXIT` and `EEXIT` stop it, loop stacks and hold set gone, its marker behind every command issued before the one numbered upto (R37). -/
def stopped (x : Ctx) (upto : Nat) : Ctx :=
  { x with trapEnded := true, hold := if x.ap.exited then x.hold else [],
           markers := x.markers ++ (if x.ap.exited then [] else [⟨true, upto, none⟩]) ++ (if x.ep.exited then [] else [⟨false, upto, none⟩]),
           ap := { x.ap with exited := true, loops := if x.ap.exited then x.ap.loops else [] },
           ep := { x.ep with exited := true, loops := if x.ep.exited then x.ep.loops else [] } }
/-- t is s with the context in slot n of core c ended by a trap, y what was in it: the blocks with it are over, those with other contexts go on, and no byte of memory has changed. -/
structure TrapEnds (s : State) (c n : Nat) (y : Ctx) (t : State) : Prop where
  ctx : t.ctx c n = some (stopped y s.serial)
  mem : SameMem s t
  blkOver : ∀ p, ((s.core c).blk p).sel = some n → ((t.core c).blk p).ended = true
  others : ∀ p, ((s.core c).blk p).sel ≠ some n → (t.core c).blk p = (s.core c).blk p
  frame : t = s.setCore c (t.core c)

end Sys2Proof.Claims


/-- Derived (R37, R392, R393, R404; logs 54, 55): a synchronous trap enters the handler, with the cause, the address and the value saved, the loop stack, RRB, predicates and queues as they stand; in the handler, or with a vector of 0, it ends the context: both processors stop, their markers are placed, and a CLASS 1 record of SEV 3 with the cause goes to the launch queue as a retired issuer's. Also (R395, R396, R264): a record offered to an empty slot fills it; the issuer's processor, or the other one once it has exited, takes the async trap, but not in its handler; the entry saves the cause with bit 63, the address that would have issued and 0; and the slot stays full until AFSCLR; with a vector of 0 it ends the context in the same way, and the record goes from the slot to the launch queue as a retired issuer's, with SEV 3. -/
def Obligations.Traps : Prop :=
  (∀ (s : State) (c n : Nat) (x : Ctx) (cause sub : Nat) (tval pc : Word), s.ctx c n = some x → cause < 0x10000 → sub < 0x10000 →
    (x.ap.handler = false → x.ap.tvec ≠ 0 → s.takeTrap c n .ap cause sub tval pc = s.setCtx c n { x with suspending := false, ap := { x.ap with tcause := (BitVec.ofNat 16 sub ++ BitVec.ofNat 16 cause).setWidth 64, tpc := pc, tval := tval, handler := true, pc := x.ap.tvec, wcUpto := none, armed := none, wait := ApWait.behind x.ap.wait } }) ∧
    (x.ep.handler = false → x.ep.tvec ≠ 0 → s.takeTrap c n .ep cause sub tval pc = s.setCtx c n { x with ep := { x.ep with tcause := (BitVec.ofNat 16 sub ++ BitVec.ofNat 16 cause).setWidth 64, tpc := pc, tval := tval, handler := true, pc := x.ep.tvec } }) ∧
    (∀ p, x.inHandler p = true ∨ x.vec p = 0 → ∃ (t : State) (rc : FaultRec), s.takeTrap c n p cause sub tval pc = t.toLaunch x.lid rc ∧
      rc.cls = 1 ∧ rc.sev = 3 ∧ rc.cause = BitVec.ofNat 16 cause ∧ rc.retired = true ∧ rc.lid = x.lid ∧ rc.rank = BitVec.ofNat 16 x.rank ∧ rc.time = s.time ∧
      TrapEnds s c n x t))
  ∧ ((∀ (s : State) (c n : Nat) (x : Ctx) (p : Proc) (rc : FaultRec) (q : Proc), s.ctx c n = some x → x.afs = some (rc, q) → x.asyncDue p = true → x.vec p ≠ 0 →
    (p = q ∨ x.exitedOf q = true) ∧ x.inHandler p = false ∧
    (p = .ap → s.takeAsync c n p = s.setCtx c n { x with afsTaken := true, suspending := false, ap := { x.ap with tcause := 0x8000000000000000, tpc := x.ap.pc, tval := 0, handler := true, pc := x.ap.tvec, wcUpto := none, armed := none, wait := ApWait.behind x.ap.wait } }) ∧
    (p = .ep → s.takeAsync c n p = s.setCtx c n { x with afsTaken := true, ep := { x.ep with tcause := 0x8000000000000000, tpc := x.ep.pc, tval := 0, handler := true, pc := x.ep.tvec } })) ∧
  (∀ (s : State) (c n : Nat) (x : Ctx) (p : Proc) (rc : FaultRec) (q : Proc), s.ctx c n = some x → x.afs = some (rc, q) → x.asyncDue p = true → x.vec p = 0 →
    ∃ t : State, s.takeAsync c n p = t.toLaunch x.lid { rc with retired := true, sev := 3 } ∧ TrapEnds s c n { x with afs := none } t) ∧
  (∀ (x : Ctx) (p : Proc) (rc : FaultRec), (x.gone = false → x.afs = none → x.offer p rc = some { x with afs := some (rc, p) }) ∧
    (x.gone = true ∨ x.afs ≠ none → x.offer p rc = none)) ∧
  (∀ (s : State) (c n : Nat) (x : Ctx), s.ctx c n = some x → (x.asyncDue .ap = true → exec (.asyncTrap c n) s = .next (s.takeAsync c n .ap)) ∧
    (x.asyncDue .ap = false → x.asyncDue .ep = true → exec (.asyncTrap c n) s = .next (s.takeAsync c n .ep))))

/-! ## Memory -/

/-- Derived (R3, R453; the canonical form is the model's own): a byte written is read back, the last write to an address counts, every other byte is as before, and the canonical form is kept; 8 bytes read as a number little-endian. -/
def Obligations.BytesWrittenAreReadBack : Prop :=
  (∀ (s : State) (a : Nat) (b : Byte), Memory.wf s.mem = true → (s.putByte a b).byte a = b ∧ (∀ k, k ≠ a → (s.putByte a b).byte k = s.byte k) ∧ Memory.wf (s.putByte a b).mem = true) ∧
  (∀ (s : State) (l : List Host.Cell), Memory.wf s.mem = true → Memory.wf (s.writeMem l).mem = true ∧
    ∀ a, (s.writeMem l).byte a = match l.reverse.find? (fun q => q.1 == a) with | some q => q.2 | none => s.byte a) ∧
  (∀ (s : State) (a n : Nat), s.num a 0 = 0 ∧ s.num a (n + 1) = (s.byte a).toNat + 256 * s.num (a + 1) n)

/-- Derived (R4, R16, R18, R49, R57, R59, R108, R113, R262): what the module holds right after reset: no core switched on, no launch, time 0, both dies before their bring-up, the partition registers, AGEINT, HOLDLIM, the save pool, the FNDOM registers, ASTBASE, every LQCFG and DSTAT at the values the spec gives them. Also (R18, R84, R262, R322): a new context: pcs and argument from its record, every register 0, p0, q0 and m0 true and every other predicate and mask false, empty loop stacks, queues, tokens, hold set and slot, RMODE 0, DNAR all ones. -/
def Obligations.ResetState : Prop :=
  (let s := State.reset
  s.cores = [] ∧ s.launches = [] ∧ s.time = 0 ∧ s.west.boot = Boot.reset ∧ s.east.boot = Boot.reset ∧ Boot.reset.step = 0 ∧ Boot.reset.ready = false ∧
  (∀ fn k, fn.num ≤ 8 → k < 5 → s.regRead (.part fn k) = if fn.num = 0 then 2 ^ 64 - 1 else 0) ∧
  (∀ fn, s.regRead (.fndom fn) = 0xFFFF) ∧ s.regRead .savebase = 0 ∧ s.regRead .savesize = 0 ∧ s.regRead .ageint = 2000000 ∧ s.regRead .holdlim = 200000 ∧ s.regRead .astbase = 0 ∧ (∀ q, q < 64 → s.regRead (.lqcfg q) = 0) ∧ (∀ d, s.regRead (.dstat d) = 0))
  ∧ (∀ (lid : BitVec 32) (rank : Nat) (m : Bool) (apc epc argp : Word) (prio cyc : Nat) (tag : BitVec 32),
    let x := Ctx.start lid rank m apc epc argp prio cyc tag
    x.ap.pc = apc ∧ x.ep.pc = epc ∧ x.argp = argp ∧ x.rank = rank ∧ x.lid = lid ∧ (∀ n, n < 64 → x.ap.s' n = 0) ∧ (∀ n, n < 16 → x.ap.pr n = decide (n = 0)) ∧
    (∀ n, x.ep.e' n = 0) ∧ (∀ n, n < 16 → x.ep.qr n = decide (n = 0)) ∧ (∀ n, x.ep.mr n = if n = 0 then BitVec.allOnes 256 else 0) ∧
    x.ap.loops = [] ∧ x.ep.loops = [] ∧ x.toEp = [] ∧ x.toAp = [] ∧ (∀ t, x.token t = 0) ∧ x.hold = [] ∧ x.afs = none ∧ x.ports = [] ∧
    x.ap.rrb = 0 ∧ x.ap.tvec = 0 ∧ x.ep.tvec = 0 ∧ x.ap.handler = false ∧ x.ep.handler = false ∧ x.fflags = 0 ∧ x.rmode = 0 ∧ x.ftrapen = 0 ∧ x.dnar = 0xFFFF ∧
    x.segOpen = false ∧ (∀ k, tget x.gapc 0 k = 0))

/-- The model's own: memory and the durable image are in canonical form right after reset. -/
def Obligations.ResetIsCanonical : Prop := Memory.wf State.reset.mem = true ∧ Memory.wf State.reset.durImg = true

/-- Derived (R105, R141; the canonical form is the model's own): no step leaves memory or the durable image out of canonical form, so that equal memories are equal data in every state a run reaches. -/
def Obligations.EveryStepKeepsMemoryCanonical : Prop :=
  ∀ s t : State, Memory.wf s.mem = true ∧ Memory.wf s.durImg = true → step s = .next t → Memory.wf t.mem = true ∧ Memory.wf t.durImg = true

/-! ## Engine commands -/
namespace Sys2Proof.Claims

/-- A command enters the tail of queue q of core c, with the values, the rows and DNAR as they stand at issue, and the processor moves past it; beside the queue, the pc and the runs that stream commands extend (R387), nothing changes. -/
def Enters (i : Instr) (s : State) (c n : Nat) (x : Ctx) (p : Proc) (q : Qid) (vals : List Word) (rows : List Row) (tk : Tok) (len : Nat) : Prop :=
  ∃ (t : State) (k : Core), exec i s = .next t ∧ t = { s.setCore c k with serial := s.serial + 1 } ∧ SameMem s t ∧
    k = { s.core c with qs := k.qs, streams := k.streams, ctxs := tset (s.core c).ctxs n (x.pass p len) } ∧
    k.qs = tset (s.core c).qs (qKey q) ((s.core c).queue q ++ [⟨s.serial, n, x.lid, i, vals, rows, tk, p == .ep, x.dnar⟩]) ∧
    (q ≠ .stream → k.streams = (s.core c).streams) ∧
    k.streams.map (fun e => (e.1, { e.2 with run := [], runOpen := false })) = (s.core c).streams.map (fun e => (e.1, { e.2 with run := [], runOpen := false }))
/-- The queue has room (R31, R32): 32 stream commands, 16 on each copy channel, 32 matrix, 8 Prism and 16 Proofer records. -/
def Room (s : State) (c : Nat) (q : Qid) : Prop := ((s.core c).queue q).length < match q with | .stream => 32 | .ch _ => 16 | .matrix => 32 | .prism => 8 | .proofer => 16
/-- The command enters while its queue has room, and stalls while it has none. -/
def EntersOrStalls (i : Instr) (s : State) (c n : Nat) (x : Ctx) (p : Proc) (q : Qid) (vals : List Word) (rows : List Row) (tk : Tok) (len : Nat) : Prop :=
  (Room s c q → Enters i s c n x p q vals rows tk len) ∧ (¬Room s c q → exec i s = .next (s.modCore c fun k => k.endBlock p))

end Sys2Proof.Claims

/-- Derived (R31, R32, R266, R268, R269, R271 to R275, R279 to R281): the AP's commands enter their queue with the registers they name read at issue, or stall while it is full. Also (R182, R267, R278): `CPY` takes a scoreboard entry of its ranges unless its length is 0 and enters its channel, or stalls while the queue or the scoreboard is full; `CPY.NB` does the same and sets its predicate to say so, or sets it false and goes on. -/
def Obligations.ApCommandsEnterTheirQueues : Prop :=
  (∀ (s : State) (c n : Nat) (x : Ctx), let S := fun (r : BitVec 6) => x.ap.s' r.toNat
    (∀ f : SopenF, Issues s c n x f.g [f.a] → Allotted s x (tkToks f.tk) → EntersOrStalls (.sopen f) s c n x .ap .stream [S f.a] [] f.tk 2) ∧
    (∀ f : StcF, Issues s c n x f.g [] → Allotted s x (tkToks f.tk) → EntersOrStalls (.sclose f) s c n x .ap .stream [] [] f.tk 2 ∧
      EntersOrStalls (.smark f) s c n x .ap .stream [] [] f.tk 2 ∧ EntersOrStalls (.srewind f) s c n x .ap .stream [] [] f.tk 2) ∧
    (∀ f : SforkF, Issues s c n x f.g [] → Allotted s x (tkToks f.tk) → EntersOrStalls (.sfork f) s c n x .ap .stream [] [] f.tk 2) ∧
    (∀ f : SsaveF, Issues s c n x f.g [f.a] → Allotted s x (tkToks f.tk) → EntersOrStalls (.ssave f) s c n x .ap .stream [S f.a] [] f.tk 2) ∧
    (∀ f : SrestF, Issues s c n x f.g [f.a] → Allotted s x (tkToks f.tk) → EntersOrStalls (.srest f) s c n x .ap .stream [S f.a] [] f.tk 2) ∧
    (∀ f : SeosF, Issues s c n x f.g [] → Allotted s x (tkToks f.tk) → EntersOrStalls (.seos f) s c n x .ap .stream [] [] f.tk 2) ∧
    (∀ f : RotF, Issues s c n x f.g [f.a, f.b] → Allotted s x (tkToks f.tk) → EntersOrStalls (.rot f) s c n x .ap .stream [S f.a, S f.b] [] f.tk 2) ∧
    (∀ f : CpdF, Issues s c n x f.g [] → Allotted s x (tkToks f.tk) → EntersOrStalls (.cpdrain f) s c n x .ap (.ch f.ch.toNat) [] [] f.tk 2) ∧
    (∀ f : GloadF, Issues s c n x f.g [f.a] → Allotted s x (tkToks f.tk) → EntersOrStalls (.gload f) s c n x .ap .prism [S f.a] [] f.tk 2) ∧
    (∀ f : TkF, Issues s c n x f.g [] → Allotted s x (tkToks f.tk) → EntersOrStalls (.ghalt f) s c n x .ap .prism [] [] f.tk 2) ∧
    (∀ f : GrunF, Issues s c n x f.g [] → Allotted s x (tkToks f.tk) → Room s c .prism → ∃ t k, exec (.grun f) s = .next t ∧
      t = { s.setCore c k with serial := s.serial + 1 } ∧ SameMem s t ∧
      k = { s.core c with qs := tset (s.core c).qs 6 ((s.core c).queue .prism ++ [⟨s.serial, n, x.lid, .grun f, [], [], f.tk, false, x.dnar⟩]), ctxs := tset (s.core c).ctxs n (x.pass .ap 2), grid := { (s.core c).grid with gruns := (s.core c).grid.gruns ++ [(s.serial, x.lid)] } }))
  ∧ (∀ (f : CpyF) (pn : BitVec 4) (s : State) (c n : Nat) (x : Ctx), Issues s c n x f.g [f.a, f.b, f.c] → Allotted s x (tkToks f.tk) →
    let a := x.ap.s' f.a.toNat
    let b := x.ap.s' f.b.toNat
    let len := x.ap.s' f.c.toNat
    let q : Qid := .ch f.ch.toNat
    let bound := 128 + 259 * ((len.toNat + 255) / 256)
    let e : Score := { cmd := s.serial, srcLocal := f.sl, src := a.toNat, srcLen := if f.tm then 0 else if f.mode = .expand then bound else len.toNat, dstLocal := f.dl, dst := b.toNat, dstLen := if f.mode = .compress then bound else len.toNat }
    let k := fun (i : Instr) (y : Ctx) => { s.core c with score := if len = 0 then (s.core c).score else (s.core c).score ++ [e], qs := tset (s.core c).qs (qKey q) ((s.core c).queue q ++ [⟨s.serial, n, x.lid, i, [a, b, len], [], f.tk, false, x.dnar⟩]), ctxs := tset (s.core c).ctxs n (y.pass .ap 2) }
    let free := Room s c q ∧ (s.core c).score.length < 32
    let put := fun (v : Bool) => ({ x with ap := x.ap.setP pn.toNat v } : Ctx)
    (free → ∃ t, exec (.cpy f) s = .next t ∧ t = { s.setCore c (k (.cpy f) x) with serial := s.serial + 1 } ∧ SameMem s t) ∧
    (¬free → exec (.cpy f) s = .next (s.modCore c fun k => k.endBlock .ap)) ∧
    (free → ∃ t, exec (.cpyNb f pn) s = .next t ∧ t = { s.setCore c (k (.cpyNb f pn) (put true)) with serial := s.serial + 1 } ∧ SameMem s t) ∧
    (¬free → Leaves (.cpyNb f pn) s c n ((put false).pass .ap 2)))

/-- Derived (R31, R32, R318, R328, R331, R377): the EP's commands enter the matrix or the Proofer queue with the e registers they name read at issue, or stall while it is full; `MSCACC` and a zero-point `OFILL` carry the rows they name as they stand at issue: a vector register's row, an e register's low bits in every element, or zeros. -/
def Obligations.EpCommandsEnterTheirQueues : Prop :=
  ∀ (s : State) (c n : Nat) (x : Ctx), let E := fun (r : BitVec 5) => x.ep.e' r.toNat
    let M := fun (i : Instr) (v : List Word) (r : List Row) (tk : Tok) (len : Nat) => EntersOrStalls i s c n x .ep .matrix v r tk len
    let P := fun (i : Instr) (v : List Word) (tk : Tok) => EntersOrStalls i s c n x .ep .proofer v [] tk 2
    (∀ f : MmaF, IssuesEp s c n x f.g → Allotted s x (tkToks f.tk) → M (.mma f) [] [] f.tk 8) ∧
    (∀ f : SmmaF, IssuesEp s c n x f.m.g → Allotted s x (tkToks f.m.tk) → M (.smma f) [] [] f.m.tk 8) ∧
    (∀ f : MzeroF, IssuesEp s c n x f.g → Allotted s x (tkToks f.tk) → M (.mzero f) [] [] f.tk 2) ∧
    (∀ f : OclF, IssuesEp s c n x f.g → Allotted s x (tkToks f.tk) → M (.oclaim f) [] [] f.tk 2 ∧ M (.orel f) [] [] f.tk 2) ∧
    (∀ f : OfillMF, IssuesEp s c n x f.g → Allotted s x (tkToks f.tk) → M (.ofillMeta f) [] [] f.tk 2) ∧
    (∀ f : AccF, IssuesEp s c n x f.g → Allotted s x (tkToks f.tk) → M (.accld f) [E f.ea] [] f.tk 2 ∧ M (.accst f) [E f.ea] [] f.tk 2) ∧
    (∀ f : MpertF, IssuesEp s c n x f.g → Allotted s x (tkToks f.tk) → M (.mpert f) [E f.ea] [] f.tk 2) ∧
    (∀ f : G0, IssuesEp s c n x f.g → M (.tstart f) [] [] ⟨none, none, none, none⟩ 1) ∧
    (∀ f : MscaccF, IssuesEp s c n x f.g → Allotted s x (tkToks f.tk) → ∀ a b u v, (s.core c).vKey x.lid f.vsa.toNat = some a → (s.core c).vKey x.lid f.vsb.toNat = some b →
      tfind (s.core c).acc a = some u → tfind (s.core c).acc b = some v → (∀ p ∈ (s.core c).clob, p.key ≠ a ∧ p.key ≠ b) → (∀ r ∈ (s.core c).results, r.tile ≠ a / 64 ∧ r.tile ≠ b / 64) → M (.mscacc f) [] [u, v] f.tk 2) ∧
    (∀ f : OfillF, IssuesEp s c n x f.g → Allotted s x (tkToks f.tk) → (f.fmt ≠ 6 → f.fmt ≠ 7 → M (.ofill f) [] [] f.tk 2) ∧
      (f.fmt = 6 ∨ f.fmt = 7 → f.zp = 1584 → M (.ofill f) [] [0] f.tk 2) ∧
      (∀ a u, f.fmt = 6 ∨ f.fmt = 7 → f.zp.toNat < 1536 → (s.core c).vKey x.lid f.zp.toNat = some a → tfind (s.core c).acc a = some u → (∀ p ∈ (s.core c).clob, p.key ≠ a) →
        (∀ r ∈ (s.core c).results, r.tile ≠ a / 64) → M (.ofill f) [] [u] f.tk 2) ∧
      (∀ r : BitVec 5, f.fmt = 6 ∨ f.fmt = 7 → f.zp.toNat = 1552 + r.toNat → let w := if f.fmt = 6 then 4 else 8
        ∃ u : Row, (∀ i, i < 2048 / w → u.extractLsb' (w * i) w = (E r).setWidth w) ∧ M (.ofill f) [] [u] f.tk 2)) ∧
    (∀ f : SqcfgF, IssuesEp s c n x f.g → Allotted s x (tkToks f.tk) → P (.sqcfg f) [E f.ea, E f.eb] f.tk) ∧
    (∀ f : SqcombF, IssuesEp s c n x f.g → Allotted s x (tkToks f.tk) → P (.sqcombStage f) [] f.tk ∧ P (.sqcombTake f) [] f.tk) ∧
    (∀ f : SqerrF, IssuesEp s c n x f.g → Allotted s x (tkToks f.tk) → P (.sqerr f) (f.ea.toList.map E) f.tk) ∧
    (∀ f : SqdecF, IssuesEp s c n x f.g → Allotted s x (tkToks f.tk) → P (.sqdec f) [E f.ea] f.tk) ∧
    (∀ f : SqnextF, IssuesEp s c n x f.g → Allotted s x (tkToks f.tk) → P (.sqnext f) [E f.ea] f.tk)

/-! ## Loads and stores -/
namespace Sys2Proof.Claims

/-- The address of the AM form (R206). -/
def amAddr (x : ApSt) (a : BitVec 6) : MOff → Word
  | .imm v => x.s' a.toNat + v.signExtend 64
  | .idx b sc => x.s' a.toNat + x.s' b.toNat <<< sc.toNat
/-- The bytes of W. -/
def bytesOf : Wd → Nat | .d => 8 | .w => 4 | .h => 2 | .b => 1
/-- A little-endian value of k bytes, sign- or zero-extended to 64 bits. -/
def widen (sgn : Bool) (l : List Byte) : Word :=
  if sgn then (BitVec.ofNat (8 * l.length) (leNat l)).signExtend 64 else (BitVec.ofNat (8 * l.length) (leNat l)).setWidth 64
/-- Physical addresses in HBM, which are not retired nor read through a window. -/
def Plain (s : State) (pas : List Nat) : Prop := ∀ a ∈ pas, a < 0x010000000000 ∧ s.poisoned a = false ∧ s.frameBusy a = false
/-- No earlier access of the AP is in flight. -/
def Oldest (x : Ctx) (a : Access) : Prop := ∀ b ∈ x.ap.accs, b.id < a.id → b.performed = true
/-- The access a of the AP in slot n of core c is in flight, and its number is its own. -/
structure InFlight (s : State) (c n : Nat) (x : Ctx) (a : Access) : Prop where
  ctx : s.ctx c n = some x
  mem : a ∈ x.ap.accs
  only : ∀ b ∈ x.ap.accs, b.id = a.id → b = a
/-- x without the access a, its destination no longer waiting. -/
def without (x : Ctx) (a : Access) : Ctx :=
  { x with ap := { x.ap with accs := x.ap.accs.filter (fun b => b.id != a.id), pend := if a.kind = .st then x.ap.pend else x.ap.pend.filter (· != a.dreg) } }
/-- x with an access more, its destination waiting, behind the durable stores that happen before it (R128, R130). -/
def withAcc (x : Ctx) (a : Access) : Ctx :=
  { x with ap := { x.ap with accs := x.ap.accs ++ [a], pend := if a.kind = .st ∨ a.dreg = 0 then x.ap.pend else a.dreg :: x.ap.pend, carried := (x.carry a).ap.carried } }
/-- x but for what its AP has seen of releases, and for the durable stores and the older scratchpad contents it knows of (R130, R139). -/
def knowing (x y : Ctx) : Ctx := { x with ap := { x.ap with seenRel := y.ap.seenRel, carried := y.ap.carried, mapOld := y.ap.mapOld } }

end Sys2Proof.Claims

/-- Derived (R206, R234, R248, R250): a global `LD` or `ST` whose bytes translate to HBM, with no scoreboard entry over them and a place in flight, joins the accesses in flight and goes on: its address, size, class and value are as the instruction says, the destination of a load waits, a store takes its granules out of the hold set, and no byte changes yet. Also (R21, R24, R25, R249, R404, R405): `LD` and `ST` that do not issue: an access that does not translate is an access trap with the translation's code, one that must wait stalls; a full scoreboard, scoreboard entries over the bytes or no place in flight stall; a local range beyond the allotment traps with cause 0x08, a misaligned full/empty access with 0x06; a full/empty access waits for its row. Where the rules leave room, the model's choices are those of log 48. -/
def Obligations.GlobalLoadsAndStoresIssue : Prop :=
  (∀ (s : State) (c n : Nat) (x : Ctx) (pas : List Nat), Plain s pas →
    (∀ f : LdF, Issues s c n x f.g ([f.d, f.a] ++ offRegs f.off) → f.sp = .global → let ea := amAddr x.ap f.a f.off
      s.scored c x false false ea.toNat (bytesOf f.w) = false → (s.core c).inFlight false < 32 → s.apXlate c x .read ea (bytesOf f.w) = (s, .ok pas) →
      ∃ a : Access, a.kind = .ld ∧ a.addrs = pas ∧ a.va = ea ∧ a.size = bytesOf f.w ∧ a.left = (if pas.headD 0 % bytesOf f.w = 0 then [] else List.range (bytesOf f.w)) ∧ a.cls = f.cls ∧ a.sgn = f.sgn ∧ a.dreg = sPhys x.ap.rrb f.d.toNat ∧ a.isLocal = false ∧
        a.mmio = false ∧ a.performed = false ∧ a.id = s.serial ∧ a.pc = x.ap.pc ∧
        Ends (.ld f) s fun t => SameMem s t ∧ t = { s.setCtx c n ((withAcc x a).pass .ap 1) with serial := s.serial + 1 }) ∧
    (∀ f : StF, Issues s c n x f.g ([f.d, f.a] ++ offRegs f.off) → f.sp = .global → let ea := amAddr x.ap f.a f.off
      s.scored c x false true ea.toNat (bytesOf f.w) = false → (s.core c).inFlight true < 32 → s.apXlate c x .write ea (bytesOf f.w) = (s, .ok pas) →
      ∃ a : Access, a.kind = .st ∧ a.addrs = pas ∧ a.va = ea ∧ a.size = bytesOf f.w ∧ a.left = (if pas.headD 0 % bytesOf f.w = 0 then [] else List.range (bytesOf f.w)) ∧ a.cls = f.cls ∧ a.data = x.ap.s' f.d.toNat ∧ a.isLocal = false ∧
        a.mmio = false ∧ a.performed = false ∧ a.id = s.serial ∧ a.pc = x.ap.pc ∧ ∃ h : List Nat, (∀ g, g ∈ h ↔ g ∈ x.hold ∧ ∀ p ∈ pas, p / 8 ≠ g) ∧
        Ends (.st f) s fun t => SameMem s t ∧ t = { s.setCtx c n ({ withAcc x a with hold := h }.pass .ap 1) with serial := s.serial + 1 }))
  ∧ (∀ (s : State) (c n : Nat) (x : Ctx), let stops := fun (i : Instr) (st : Bool) (sp : Space) (ea : Word) (k : Nat) =>
      let stall := exec i s = .next (s.modCore c fun k => k.endBlock .ap)
      let held := s.scored c x (sp != .global) st ea.toNat k = true ∨ 32 ≤ (s.core c).inFlight st
      let outside := exec i s = .next (s.takeTrap c n .ap 0x08 0 (BitVec.ofNat 64 (2 ^ 56 + ea.toNat % 2 ^ 56)) x.ap.pc)
      (sp = .global → (held → stall) ∧ (¬held → ∀ t e, s.apXlate c x (if st then .write else .read) ea k = (t, .error e) →
        (∀ code l g en, e.1 = .fault code l g en → exec i s = .next (t.takeTrap c n .ap 0x07 code ea x.ap.pc)) ∧
        (e.1 = .wait → exec i s = .next (t.modCore c fun k => k.endBlock .ap)))) ∧
      (sp = .loc → (s.localOk c x ea k = false → outside) ∧ (s.localOk c x ea k = true → held → stall)) ∧
      (sp = .fe → (ea.toNat % k ≠ 0 → exec i s = .next (s.takeTrap c n .ap 0x06 0 ea x.ap.pc)) ∧
        (ea.toNat % k = 0 → (s.localOk c x ea k = false → outside) ∧ (s.localOk c x ea k = true → (held → stall) ∧
          (¬held → ∀ key y, (s.core c).locOf x.lid ea.toNat = some (key, y) → (s.core c).isFull key = st → stall))))
    (∀ f : LdF, Issues s c n x f.g ([f.d, f.a] ++ offRegs f.off) → stops (.ld f) false f.sp (amAddr x.ap f.a f.off) (bytesOf f.w)) ∧
    (∀ f : StF, Issues s c n x f.g ([f.d, f.a] ++ offRegs f.off) → stops (.st f) true f.sp (amAddr x.ap f.a f.off) (bytesOf f.w)))

/-- Derived (R24, R25, R127, R248, R249, R250): an aligned local `LD` or `ST` of an AP with nothing else in flight is performed at once: the load's register holds the bytes at the offset, the store's bytes stand there and every other row of the core's banks is as before; the full/empty forms also empty or fill the row. A misaligned one joins the accesses in flight with all its bytes to be performed one by one. No byte of memory changes. Where the rules leave room, the model's choices are those of log 48. -/
def Obligations.LocalLoadsAndStores : Prop :=
  ∀ (s : State) (c n : Nat) (x : Ctx), x.ap.accs = [] → s.poisonLoc = [] → (s.core c).score = [] → (s.core c).inFlight false < 32 → (s.core c).inFlight true < 32 →
    (∀ f : LdF, Issues s c n x f.g ([f.d, f.a] ++ offRegs f.off) → let ea := amAddr x.ap f.a f.off
      let k := bytesOf f.w
      let v := widen f.sgn ((natsFrom ea.toNat k).map ((s.core c).locByte c x.lid))
      let u := fun (y : Ctx) => ({ s.setCtx c n (knowing ((putS x f.d v).pass .ap 1) y) with serial := s.serial + 1 } : State)
      s.localOk c x ea k = true →
      (f.sp = .loc → ea.toNat % k = 0 → Ends (.ld f) s fun t => SameMem s t ∧ ∃ y, t = u y) ∧
      (f.sp = .loc → ea.toNat % k ≠ 0 → ∃ a : Access, a.kind = .ld ∧ a.isLocal = true ∧ a.addrs = natsFrom ea.toNat k ∧ a.left = List.range k ∧ a.dreg = sPhys x.ap.rrb f.d.toNat ∧ a.id = s.serial ∧
        Ends (.ld f) s fun t => SameMem s t ∧ t = { s.setCtx c n ((withAcc x a).pass .ap 1) with serial := s.serial + 1 }) ∧
      (f.sp = .fe → ea.toNat % k = 0 → ∀ key y, (s.core c).locOf x.lid ea.toNat = some (key, y) → (s.core c).isFull key = true →
        Ends (.ld f) s fun t => SameMem s t ∧ ∃ y, t = (u y).modCore c fun q => { q with full := tset q.full key false })) ∧
    (∀ f : StF, Issues s c n x f.g ([f.d, f.a] ++ offRegs f.off) → f.sp ≠ .global → let ea := amAddr x.ap f.a f.off
      let k := bytesOf f.w
      s.localOk c x ea k = true →
      (f.sp = .loc → ea.toNat % k ≠ 0 → ∃ a : Access, a.kind = .st ∧ a.isLocal = true ∧ a.addrs = natsFrom ea.toNat k ∧ a.left = List.range k ∧ a.data = x.ap.s' f.d.toNat ∧ a.id = s.serial ∧
        Ends (.st f) s fun t => SameMem s t ∧ t = { s.setCtx c n ((withAcc x a).pass .ap 1) with serial := s.serial + 1 }) ∧
      (ea.toNat % k = 0 → (f.sp = .fe → ∃ key y, (s.core c).locOf x.lid ea.toNat = some (key, y) ∧ (s.core c).isFull key = false) →
      Ends (.st f) s fun t => SameMem s t ∧ (∃ y, t.ctx c n = some (knowing (x.pass .ap 1) y)) ∧
        (∀ i, i < k → (t.core c).locByte c x.lid (ea.toNat + i) = (x.ap.s' f.d.toNat).extractLsb' (8 * i) 8) ∧
        (∀ key, (∀ i y, i < k → (s.core c).locOf x.lid (ea.toNat + i) ≠ some (key, y)) → (t.core c).row c key = (s.core c).row c key) ∧
        (f.sp = .loc → (t.core c).full = (s.core c).full) ∧
        (f.sp = .fe → ∀ key y, (s.core c).locOf x.lid ea.toNat = some (key, y) → (t.core c).isFull key = true ∧ ∀ j, j ≠ key → (t.core c).isFull j = (s.core c).isFull j)))

/-- Derived (R124, R125, R127, R234, R248, R250, R432): the answers to accesses of HBM once nothing before them is unperformed and the way is open: a load's register holds the bytes of memory, extended; a store's bytes stand in memory and every other byte is as before; both leave the accesses in flight. Of a misaligned one a single byte is performed, in an order left free, and the access stays until its last. An access of the host or a peer that has no answer after 180 us is given up: a load traps with code 15 at its instruction, a store is dropped with a record. Where the rules leave room, the model's choices are those of log 48. -/
def Obligations.LoadsAndStoresArePerformed : Prop :=
  ∀ (s : State) (c n : Nat) (x : Ctx) (a : Access), InFlight s c n x a → a.isLocal = false → a.mmio = false → Oldest x a →
    (a.kind = .ld → a.performed = false → a.left = [] → Plain s a.addrs → s.accWay c x a = .clear → a.addrs.length ≤ 8 → Ends (.loadResponse c n a.id) s fun t => SameMem s t ∧ ∃ y : Ctx, t = s.setCtx c n y ∧
      y = { without x a with ap := { (without x a).ap.setPhys a.dreg (widen a.sgn (a.addrs.map s.byte)) with seenRel := y.ap.seenRel } }) ∧
    (a.kind = .ld → a.performed = true → exec (.loadResponse c n a.id) s = .next (s.setCtx c n { without x a with ap := (without x a).ap.setPhys a.dreg a.result })) ∧
    (a.kind = .st → a.left ≠ [] → x.frozen = none → Plain s a.addrs → s.accWay c x a = .clear → a.addrs.length = a.size → a.size ≤ 8 → (∀ i ∈ a.left, i < a.size) → Memory.wf s.mem = true → Ends (.storePerformed c n a.id) s fun t =>
      ∃ i p, i ∈ a.left ∧ a.addrs[i]? = some p ∧ t.byte p = a.data.extractLsb' (8 * i) 8 ∧ (∀ q, q ≠ p → t.byte q = s.byte q) ∧
        ∃ y, t.ctx c n = some y ∧ ((∃ j ∈ a.left, j ≠ i) → { a with left := a.left.filter (· != i) } ∈ y.ap.accs) ∧ ((∀ j ∈ a.left, j = i) → ∀ b ∈ y.ap.accs, b.id ≠ a.id)) ∧
    (a.kind = .ld → a.performed = false → a.left ≠ [] → Plain s a.addrs → s.accWay c x a = .clear → a.addrs.length = a.size → (∀ i ∈ a.left, i < a.size) →
      Ends (.loadResponse c n a.id) s fun t => SameMem s t ∧
        ∃ i p, i ∈ a.left ∧ a.addrs[i]? = some p ∧ ∃ y, t.ctx c n = some y ∧ ((∃ j ∈ a.left, j ≠ i) →
          { a with left := a.left.filter (· != i), result := BitVec.ofNat 64 (setFld a.result.toNat (8 * i) 8 (s.byte p).toNat) } ∈ y.ap.accs)) ∧
    (a.kind = .st → a.left = [] → Plain s a.addrs → s.accWay c x a = .clear → a.addrs.Nodup → a.addrs.length = a.size → a.size ≤ 8 → Memory.wf s.mem = true → Ends (.storePerformed c n a.id) s fun t =>
      (∀ i p, a.addrs[i]? = some p → t.byte p = a.data.extractLsb' (8 * i) 8) ∧ (∀ p, p ∉ a.addrs → t.byte p = s.byte p) ∧
      (∃ y, t.ctx c n = some y ∧ y = { without x a with ap := { (without x a).ap with armed := y.ap.armed } }) ∧ t.dstores = s.dstores ∧ t.west = s.west ∧ t.east = s.east) ∧
    ((∃ p ∈ a.addrs, 0x100000000000 ≤ p ∧ p < 0x200000000000) → a.issued + 180000 ≤ s.time.toNat → x.ap.exited = false → x.frozen = none →
      (a.kind = .ld → exec (.requestNoAnswer c n a.id) s = .next ((s.setCtx c n (without x a)).takeTrap c n .ap 0x07 15 a.va a.pc)) ∧
      (a.kind = .st → ∃ r : FaultRec, r.cls = 7 ∧ r.cause = 15 ∧ r.addr = a.va ∧ r.lid = x.lid ∧ exec (.requestNoAnswer c n a.id) s = .next ((s.setCtx c n (without x a)).report c n x.lid .ap r)))

/-! ## Atomics -/
namespace Sys2Proof.Claims

/-- The new value of an `AMO` but `FADD` on w bits (R132). -/
def amoVal (w : Nat) (op : AmoOp) (o b k : BitVec w) : BitVec w :=
  match op with
  | .add => o + b
  | .min => if b.toInt < o.toInt then b else o
  | .max => if o.toInt < b.toInt then b else o
  | .minn => if b.toNat < o.toNat then b else o
  | .maxn => if o.toNat < b.toNat then b else o
  | .and => o &&& b
  | .or => o ||| b
  | .xor => o ^^^ b
  | .swap => b
  | .cas => if o = k then b else o
  | .fadd => o
/-- Where RT is set, RETRYTAG is presented, else AMOTAG plus 1 (R252). -/
def amoTagOf (x : Ctx) (rt : Bool) : BitVec 32 := if rt then x.ap.retryTag else x.ap.amoTag + 1
/-- The access an `AMO` makes on physical bytes (R250 to R252). -/
def amoNew (s : State) (x : Ctx) (f : AmoF) (pas : List Nat) (sc h rt : Bool) : Access :=
  { id := s.serial, pc := x.ap.pc, kind := .amo, cls := f.cls, va := x.ap.s' f.a.toNat, size := if f.w32 then 4 else 8, isLocal := false, mmio := false, durable := false,
    addrs := pas, left := if pas.headD 0 % (if f.w32 then 4 else 8) = 0 then [] else List.range (if f.w32 then 4 else 8), dreg := sPhys x.ap.rrb f.d.toNat, sgn := false,
    data := x.ap.s' f.b.toNat, cmp := x.ap.s' f.c.toNat, op := f.op, ord := f.ord, scope := f.scope, sc := sc, hold := h, retry := rt, tag := amoTagOf x rt,
    performed := false, result := 0, attempts := 0, issued := s.time.toNat, phys := pas.headD 0, orig := s.time.toNat }
/-- The same; the 800 us of a retry of an `AMO` of unknown outcome count from the issue of that one (R431). -/
def amoAcc (s : State) (x : Ctx) (f : AmoF) (pas : List Nat) (sc h rt : Bool) : Access :=
  let a := amoNew s x f pas sc h rt
  if rt then { a with orig := ((x.ap.unknown.find? fun b => b.tag == a.tag && a.same b).map fun b => b.orig).getD s.time.toNat } else a
/-- The context after an `AMO` with access a (R69, R252): with four entries in the hold set H counts for nothing. -/
def afterAmo (x : Ctx) (a : Access) (g : Nat) (h rt : Bool) : Ctx :=
  let hold := if h ∧ x.hold.length < 4 then (if g ∈ x.hold then x.hold else x.hold ++ [g]) else x.hold.filter (· != g)
  ({ withAcc x a with hold := hold, ap := { (withAcc x a).ap with amoTag := if rt then x.ap.amoTag else x.ap.amoTag + 1 } } : Ctx).pass .ap 1

end Sys2Proof.Claims

/-- Derived (R69, R72, R207, R251, R252, R431): `AMO`, `AMO` with SC, with H and with RT complete: on aligned bytes of HBM outside the reduction windows, with no scoreboard entry over them and a place in flight, each ends in a next state in which its access has joined those in flight, D waits for the old value, the hold set has gained the granule with H and lost it without, AMOTAG has gone up but for RT, which presents RETRYTAG, and no byte of memory nor anything else has changed; SC issues at a wheel position of the core's and notes it. Misaligned bytes are an access trap with code 9. Where the rules leave room, the model's choices are those of log 49. -/
def Obligations.AtomicsIssue : Prop :=
  ∀ (f : AmoF) (s : State) (c n : Nat) (x : Ctx) (pas : List Nat), Issues s c n x f.g ([f.d, f.a, f.b] ++ (if f.op = .cas then [f.c] else [])) →
    let ea := x.ap.s' f.a.toNat
    let sz := if f.w32 then 4 else 8
    let g := pas.headD 0 / 8
    let after := fun (sc h rt : Bool) => ({ s.setCtx c n (afterAmo x (amoAcc s x f pas sc h rt) g h rt) with serial := s.serial + 1 } : State)
    let noted := fun (t : State) => t.modCore c fun k => { k with lastSc := some (s.cycles / 4) }
    let completes := fun (i : Instr) (t : State) => exec i s = .next t ∧ ∀ a, t.byte a = s.byte a
    let slot := ∃ l m, s.launch x.lid = some l ∧ l.at 42 1 ≠ 0 ∧ (s.core c).allot x.lid = some m ∧ s.cycles / 4 % 1024 ∈ m.wheel ∧ (s.core c).lastSc ≠ some (s.cycles / 4)
    (ea.toNat % sz ≠ 0 → exec (.amo f) s = .next (s.takeTrap c n .ap 0x07 9 ea x.ap.pc) ∧ exec (.amoHold f) s = .next (s.takeTrap c n .ap 0x07 9 ea x.ap.pc) ∧
      ∀ h, exec (.amoRetry f false h) s = .next (s.takeTrap c n .ap 0x07 9 ea x.ap.pc)) ∧
    (ea.toNat % sz = 0 → s.scored c x false true ea.toNat sz = false → (s.core c).inFlight false < 32 → s.apXlate c x .atomic ea sz = (s, .ok pas) → Plain s pas →
      s.windowOf (pas.headD 0) = none →
      completes (.amo f) (after false false false) ∧ completes (.amoHold f) (after false true false) ∧ (∀ h, completes (.amoRetry f false h) (after false h true)) ∧
      (slot → ∀ h, completes (.amoSc f h) (noted (after true h false)) ∧ completes (.amoRetry f true h) (noted (after true h true))))

/-- Derived (R132, R251, R429): an `AMO` of HBM is performed indivisibly at its home: the bytes hold the operation's result on the old value, every other byte is as before, the old value is kept for the response and in the replay cache; an attempt that the replay cache holds is answered from it and changes no byte, and a full cache holds a new one; the response puts the old value, zero-extended, into D. Also (R193, R429, R430, R431): an attempt without an answer is made again with the same tag after 20 us, eight times; then its outcome is unknown, no acquire took place and a record of CLASS 7, code 16 says so; a replay entry goes after 1 ms; and a merge goes to its home once its time is up. Where the rules leave room, the model's choices are those of log 49. -/
def Obligations.AtomicsArePerformed : Prop :=
  (∀ (s : State) (c n : Nat) (x : Ctx) (a : Access), InFlight s c n x a → a.kind = .amo → a.isLocal = false → a.mmio = false →
    (a.performed = true → exec (.amoResponse c n a.id) s = .next (s.setCtx c n { without x a with ap := (without x a).ap.setPhys a.dreg (a.result.setWidth (8 * a.size) |>.setWidth 64) })) ∧
    (a.performed = false → Oldest x a → a.sc = false → Plain s a.addrs → s.accWay c x a = .clear → a.addrs.length = a.size → a.size = 4 ∨ a.size = 8 → a.addrs = natsFrom (a.addrs.headD 0) a.size →
      a.op ≠ .fadd → s.windowOf a.phys = none → Memory.wf s.mem = true →
      let w := 8 * a.size
      let o : BitVec w := BitVec.ofNat w (leNat (a.addrs.map s.byte))
      let v := amoVal w a.op o (a.data.setWidth w) (a.cmp.setWidth w)
      (s.replay.find? (fun r => r.tray == s.tray && r.core == c && r.slot == n && r.tag == a.tag) = none → s.replayFull (a.addrs.headD 0 / 4096) = false → Ends (.amoHomePerform c n a.id) s fun t =>
        (∀ i p, a.addrs[i]? = some p → t.byte p = v.extractLsb' (8 * i) 8) ∧ (∀ p, p ∉ a.addrs → t.byte p = s.byte p) ∧
        t.replay = s.replay ++ [⟨s.tray, c, n, a.tag, o.setWidth 64, s.time.toNat, a.addrs.headD 0 / 4096, some a, none⟩] ∧
        (∃ y, t.ctx c n = some y ∧ { a with performed := true, result := o.setWidth 64 } ∈ y.ap.accs ∧ y.ap.s = x.ap.s ∧ y.ap.pend = x.ap.pend)) ∧
      (s.replay.find? (fun r => r.tray == s.tray && r.core == c && r.slot == n && r.tag == a.tag) = none → s.replayFull (a.addrs.headD 0 / 4096) = true → exec (.amoHomePerform c n a.id) s = .next s) ∧
      (∀ r b, s.replay.find? (fun r => r.tray == s.tray && r.core == c && r.slot == n && r.tag == a.tag) = some r → r.req = some b → a.retry = false ∨ a.repeats b = true → Ends (.amoHomePerform c n a.id) s fun t => SameMem s t ∧
        t = s.setCtx c n { x with ap := { x.ap with accs := x.ap.accs.map fun b => if b.id = a.id then { b with performed := true, result := r.old } else b } })))
  ∧ ((∀ (s : State) (c n : Nat) (x : Ctx) (a : Access), InFlight s c n x a → a.kind = .amo → a.issued + 20000 * (a.attempts + 1) ≤ s.time.toNat →
    (a.attempts < 8 → exec (.amoAttemptTimeout c n a.id) s = .next (s.setCtx c n { x with ap := { x.ap with
      accs := x.ap.accs.map fun b => if b.id = a.id then { b with attempts := b.attempts + 1 } else b } })) ∧
    (8 ≤ a.attempts → ∃ (t : State) (r : FaultRec), r.cls = 7 ∧ r.cause = 16 ∧ r.addr = a.va ∧ SameMem s t ∧
      (∃ y, t.ctx c n = some y ∧ y = { without x a with ap := { (without x a).ap.setPhys a.dreg 0 with
          hb := y.ap.hb, hbStores := y.ap.hbStores, durPreds := y.ap.durPreds, seenRel := y.ap.seenRel, carried := y.ap.carried, unknown := y.ap.unknown } } ∧
        a ∈ y.ap.unknown ∧ (∀ e ∈ y.ap.hb, e.2.1 ≠ a.id) ∧ (∀ e ∈ y.ap.hbStores, e.2.1 ≠ a.id) ∧ (∀ e ∈ y.ap.durPreds, e.2.1 ≠ a.id) ∧ ∀ e ∈ y.ap.seenRel, e.2.1 ≠ a.id) ∧
      exec (.amoAttemptTimeout c n a.id) s = .next (t.report c n x.lid .ap r))) ∧
  (∀ (s : State) (i : Nat) (r : Replay), s.replay[i]? = some r → (r.since + 1000000 ≤ s.time.toNat → exec (.replayCacheExpiry i) s = .next { s with replay := s.replay.eraseIdx i }) ∧
    (s.time.toNat < r.since + 1000000 → exec (.replayCacheExpiry i) s = .next s)) ∧
  (∀ (s : State) (i : Nat) (m : Merge) (o v : Word), s.merges[i]? = some m → m.op = .add → m.w32 = false → m.addr + 8 ≤ 0x010000000000 → m.parts = [(s.tray, v, none)] →
    m.since + fld (tget s.rwb 0 m.win).toNat 48 16 ≤ s.time.toNat → s.anyPoison (natsFrom m.addr 8) = false → s.replayFull (m.addr / 4096) = false → Memory.wf s.mem = true → s.num m.addr 8 = o.toNat →
    Ends (.reductionMergeTimeout i []) s fun t => t.merges = s.merges.eraseIdx i ∧ t.num m.addr 8 = (o + v).toNat ∧ ∀ p, p < m.addr ∨ m.addr + 8 ≤ p → t.byte p = s.byte p))

/-! ## Fences, durability, waits on addresses -/

/-- Derived (R128, R129, R142, R143, R253): `FENCE` completes once every earlier access that it orders is performed; an acquire does not wait for stores; where durable stores are on their way it notes what it releases and what it has acquired, for the persist order at durable scope, and a release wider than its context stands behind the stores to scratchpad that engines may not yet see (R139). `DFENCE` never stalls and notes its mask; `DSYNC` completes once every durable store of the context in its classes has persisted, and a durable store persists whole, after those that persist order places before it. Where the rules leave room, the model's choices are those of log 50. -/
def Obligations.FencesAndPersistence : Prop :=
  (∀ (f : FenceF) (s : State) (c n : Nat) (x : Ctx), Issues s c n x f.g [] →
    let waits := ∃ a ∈ x.ap.accs, a.performed = false ∧ f.mask.getLsbD a.cls.toNat = true ∧ ¬(f.kind = .acq ∧ a.kind = .st)
    (waits → exec (.fence f) s = .next (s.modCore c fun k => k.endBlock .ap)) ∧
    (¬waits → f.mask = 0 ∨ (s.dstores = [] ∧ x.ap.mapOld = []) → Leaves (.fence f) s c n (x.pass .ap 1)) ∧
    (¬waits → f.mask ≠ 0 → s.dstores ≠ [] ∨ x.ap.mapOld ≠ [] → Ends (.fence f) s fun t => SameMem s t ∧ ∃ y : Ctx, t = { s.setCtx c n (y.pass .ap 1) with serial := s.serial + 1 } ∧
      y = { x with ap := { x.ap with hb := y.ap.hb, hbStores := y.ap.hbStores, durPreds := y.ap.durPreds, relFences := y.ap.relFences, seenRel := y.ap.seenRel, carried := y.ap.carried, mapOld := y.ap.mapOld } } ∧
      y.ap.mapOld = (if f.kind = .acq ∨ f.scope = .ctx then x.ap.mapOld else x.ap.mapOld.map fun o => { o with fences := o.fences ++ [(s.serial, f.mask)] }) ∧
      (f.kind ≠ .acq → f.kind ≠ .rel → ∀ d ∈ s.dstores, d.ownedBy x = true → f.mask.getLsbD d.cls.toNat = true → d.pos.getD 0 < s.serial → (f.mask, s.serial, d.id) ∈ y.ap.hb) ∧
      (f.kind ≠ .acq → (s.serial, f.mask, f.scope) ∈ y.ap.relFences) ∧ (f.kind = .acq → y.ap.relFences = x.ap.relFences) ∧
      (f.kind ≠ .rel → ∀ v ∈ x.ap.seenRel, f.mask.getLsbD v.1.toNat = true → inScope v.2.2.scope v.2.2.core v.2.2.slot v.2.2.lid c n x.lid = true →
        inScope f.scope c n x.lid v.2.2.core v.2.2.slot v.2.2.lid = true → ∀ i ∈ v.2.2.ids, (∃ d ∈ s.dstores, d.id = i) →
          (f.mask, s.serial, i) ∈ y.ap.hb ∧ (f.scope = .dur → v.2.2.scope = .dur → (∃ d ∈ s.dstores, d.id = i ∧ v.2.2.mask.getLsbD d.cls.toNat = true) → (f.mask, s.serial, i) ∈ y.ap.durPreds)))) ∧
  (∀ (f : MaskF) (s : State) (c n : Nat) (x : Ctx), Issues s c n x f.g [] →
    (Ends (.dfence f) s fun t => SameMem s t ∧ ∃ l, t = { s.setCtx c n ({ x with ap := { x.ap with dfences := l ++ [(s.serial, f.mask)] } }.pass .ap 1) with serial := s.serial + 1 } ∧
      ((∃ a ∈ x.ap.accs, a.durable = true) → l = x.ap.dfences)) ∧
    ((∀ a ∈ x.ap.accs, a.durable = true → a.kind ≠ .ld → a.performed = true ∨ f.mask.getLsbD a.cls.toNat = false) →
      (∀ d ∈ s.dstores, d.lid = x.lid → d.uid = x.uid → d.pos = none ∨ f.mask.getLsbD d.cls.toNat = false) →
      Leaves (.dsync f) s c n ({ x with lastDsync := some s.time }.pass .ap 1)) ∧
    ((∃ d ∈ s.dstores, d.lid = x.lid ∧ d.uid = x.uid ∧ d.pos ≠ none ∧ f.mask.getLsbD d.cls.toNat = true) →
      exec (.dsync f) s = .next (s.modCore c fun k => k.endBlock .ap))) ∧
  (∀ (s : State) (d : DStore), s.dstores.find? (fun e => e.id == d.id) = some d → Memory.wf s.durImg = true →
    ((∃ i ∈ d.preds, ∃ e ∈ s.dstores, e.id = i) → exec (.persistenceDomainReached d.id) s = .next s) ∧
    ((∀ i ∈ d.preds, ∀ e ∈ s.dstores, e.id ≠ i) → (∀ x, s.ctxUid d.lid d.uid = some x → ∀ a ∈ x.ap.accs, a.durable = true → a.performed = true) → ∃ img, Memory.wf img = true ∧
      (∀ a, tget img 0 a = match d.cells.reverse.find? (fun q => q.1 == a) with | some q => q.2 | none => tget s.durImg 0 a) ∧
      exec (.persistenceDomainReached d.id) s = .next { s with dstores := s.dstores.filter fun e => e.id != d.id, durImg := img }))

/-- Derived (R71, R255, R256): `WAITA` on a granule that differs from the expected value completes with status 0; on an equal one it arms its monitor and stalls, or completes with status 1 where the die's table of 4,096 is full; it completes with the status of its release: 0 by a write of the granule or `WAKE`, 2 by its timeout. A store to the granule, of any AP, releases its monitors. `WAKE` releases every monitor armed on the granule and returns their number. Where the rules leave room, the model's choices are those of log 51. -/
def Obligations.WaitsOnAddresses : Prop :=
  ∀ (s : State) (c n : Nat) (x : Ctx) (g : Nat), g % 8 = 0 → g + 8 ≤ 0x010000000000 →
    (∀ f : WaitAF, Issues s c n x f.g [f.d, f.a, f.b, f.c] →
      (∀ m v, x.ap.armed = some m → m.st = some v → Leaves (.waita f) s c n ({ x with ap := { x.ap.setS f.d.toNat (BitVec.ofNat 64 v) with armed := none } }.pass .ap 1)) ∧
      (∀ m, x.ap.armed = some m → m.st = none → exec (.waita f) s = .next (s.modCore c fun k => k.endBlock .ap)) ∧
      (x.ap.armed = none → s.apXlate c x .read (x.ap.s' f.a.toNat &&& ~~~7#64) 8 = (s, .ok (natsFrom g 8)) → (∀ b ∈ x.ap.accs, b.performed = true) →
        (s.num g 8 ≠ (x.ap.s' f.b.toNat).toNat → Leaves (.waita f) s c n ({ x with ap := { x.ap.setS f.d.toNat 0 with armed := none } }.pass .ap 1)) ∧
        (s.num g 8 = (x.ap.s' f.b.toNat).toNat → s.armedIn (homeDie g) < 4096 → Ends (.waita f) s fun t => SameMem s t ∧
          t = { (s.setCtx c n { x with ap := { x.ap with armed := some ⟨s.serial, g, s.time.toNat, (x.ap.s' f.c.toNat).toNat, none⟩ } }).modCore c (fun k => k.endBlock .ap) with serial := s.serial + 1 }) ∧
        (s.num g 8 = (x.ap.s' f.b.toNat).toNat → 4096 ≤ s.armedIn (homeDie g) → Leaves (.waita f) s c n ({ x with ap := { x.ap.setS f.d.toNat 1 with armed := none } }.pass .ap 1)))) ∧
    (∀ m d k y a, s.ctx c n = some x → x.ap.armed = some m → m.st = none → m.granule = g → InFlight s d k y a → a.kind = .st → a.isLocal = false → a.mmio = false → Oldest y a → a.left = [] →
      Plain s a.addrs → s.accWay d y a = .clear → a.addrs.length = a.size → a.size ≤ 8 → (∃ p ∈ a.addrs, p / 8 = g / 8) →
      Ends (.storePerformed d k a.id) s fun t => ∃ z, t.ctx c n = some z ∧ z.ap.armed = some { m with st := some 0 }) ∧
    (∀ m, s.ctx c n = some x → x.ap.armed = some m → m.st = none →
      (m.timeout ≠ 0 → m.start + m.timeout ≤ s.time.toNat → Leaves (.waitaTimeout c n) s c n { x with ap := { x.ap with armed := some { m with st := some 2 } } }) ∧
      (m.timeout = 0 → Leaves (.waitaTimeout c n) s c n x)) ∧
    (∀ f : R2, Issues s c n x f.g [f.d, f.a] → (∀ a ∈ x.ap.accs, a.performed = true) → s.apXlate c x .read (x.ap.s' f.a.toNat &&& ~~~7#64) 8 = (s, .ok (natsFrom g 8)) →
      Ends (.wake f) s fun t => SameMem s t ∧ (∀ d m y, s.ctx d m = some y → ∀ k, y.ap.armed = some k → k.st = none → k.granule = g → ∃ z, t.ctx d m = some z ∧ z.ap.armed = some { k with st := some 0 }) ∧
        (∃ y, t.ctx c n = some y ∧ y.ap.s = (x.ap.setS f.d.toNat (BitVec.ofNat 64 (s.armedOn (g / 8)))).s))

/-! ## Gangs, launches, tasks -/
namespace Sys2Proof.Claims

/-- x waits for an answer to its physical register p. -/
def waiting (x : Ctx) (p : Nat) (w : ApWait) : Ctx := { x with ap := { x.ap with wait := some w, pend := if p = 0 then x.ap.pend else p :: x.ap.pend } }
/-- x with the answer v in its physical register p. -/
def answered (x : Ctx) (p : Nat) (v : Word) : Ctx := { x with ap := { x.ap.setPhys p v with wait := none, pend := x.ap.pend.filter (· != p) } }
/-- The instruction stalls: it does not issue and its block ends (R34). -/
def Stalls (i : Instr) (s : State) (c : Nat) : Prop := exec i s = .next (s.modCore c fun k => k.endBlock .ap)

end Sys2Proof.Claims

/-- Derived (R62, R68, R129, R234, R283, R284): `BARA` and `TRIG` wait for the AP's earlier accesses; `BARA` makes one arrival at its barrier of its member, the last of a generation starts the next, and D waits for the generation at arrival, which the unit's answer brings; `TRIG` marks its rank, and the launch is triggered once every rank has. Also (R47, R48, R51, R285, R399): `LAUNCH` submits the record at S[A] to its queue as its launch's function, and D waits for the answer: the id of the accepted launch, its queue and sequence number, or all ones when the queue discards it, which its drop counter counts; the launch's record holds the 128 bytes at S[A], no byte overridden but the level lowered, or, while the scheduler waits for them (R118), where it will read them; a queue of another function freezes the context. Where the rules leave room, the model's choices are those of log 50, 53. -/
def Obligations.BarriersTriggersAndLaunches : Prop :=
  (∀ (s : State) (c n : Nat) (x : Ctx) (l : Launch), s.launch x.lid = some l →
    (∀ f : BaraF, Issues s c n x f.g [f.d] → ((∃ a ∈ x.ap.accs, a.performed = false) → Stalls (.bara f) s c) ∧
      ((∀ a ∈ x.ap.accs, a.performed = true) → x.ap.wait = none → let p := sPhys x.ap.rrb f.d.toNat
        let b := l.bar x.member f.bar.toNat
        Ends (.bara f) s fun t => SameMem s t ∧ t.ctx c n = some ((waiting x p (.barrier p (BitVec.ofNat 64 b.1))).pass .ap 1) ∧ ∃ m, t.launch x.lid = some m ∧ m = { l with bars := m.bars, barRel := m.barRel } ∧
          m.bar x.member f.bar.toNat = (if b.2 + 1 = l.gang then ((b.1 + 1) % 2 ^ 32, 0) else (b.1, b.2 + 1)) ∧
          ∀ u k, k < 16 → ¬(u = x.member ∧ k = f.bar.toNat) → m.bar u k = l.bar u k)) ∧
    (∀ p v, s.ctx c n = some x → x.ap.wait = some (.barrier p v) → Leaves (.barrierAnswer c n) s c n (answered x p v)) ∧
    (∀ f : G0, Issues s c n x f.g [] → ((∃ a ∈ x.ap.accs, a.performed = false) → Stalls (.trig f) s c) ∧
      ((∀ a ∈ x.ap.accs, a.performed = true) → Ends (.trig f) s fun t => SameMem s t ∧ t.ctx c n = some (x.pass .ap 1) ∧ ∃ m, t.launch x.lid = some m ∧
        (∀ k, k ∈ m.trig ↔ k ∈ l.trig ∨ k = x.rank + (if x.member then 65536 else 0)) ∧
        (m.triggered = true ↔ l.triggered = true ∨ m.trig.length = l.allCores.length) ∧ m = { l with trig := m.trig, trigRel := m.trigRel, triggered := m.triggered })))
  ∧ (∀ (s : State) (c n : Nat) (x : Ctx) (l : Launch), s.launch x.lid = some l →
    (∀ f : LaunchF, Issues s c n x f.g [f.d, f.a] → (∀ a ∈ x.ap.accs, a.performed = true) → x.ap.wait = none →
      let q := f.queue.toNat
      let p := sPhys x.ap.rrb f.d.toNat
      let seq := tget s.lqseq 0 q % 2 ^ 26
      let id : BitVec 32 := BitVec.ofNat 32 (q * 2 ^ 26 + seq)
      (lqForeign (s.lq q) l.fn = false → s.discards q l.fn true = false → Ends (.launch f) s fun t => SameMem s t ∧
        t.ctx c n = some ((waiting x p (.launch p (id.setWidth 64))).pass .ap 1) ∧ tget t.lqseq 0 q = (tget s.lqseq 0 q + 1) % 2 ^ 26 ∧
        ∃ m, t.launches = s.launches ++ [m] ∧ m.lid = id ∧ m.queue = q ∧ m.fn = l.fn ∧ m.phase = .queued ∧ m.accepted = s.time.toNat ∧ m.pasid = (s.lq q) % 2 ^ 20 ∧
          let a := (x.ap.s' f.a.toNat).toNat
          (m.pend = none ∨ m.pend = some (a, 0, 0)) ∧
          (∀ pas, a % 128 = 0 → s.xlateNowAll (queueDie q) m.pasid 0xFFFF .read a 128 = .ok pas → Plain s pas → m.pend = none → ∀ i v, pas[i]? = some v →
            (i ≠ 36 → bytesAt m.rcd i 1 = (s.byte v).toNat) ∧ (i = 36 → bytesAt m.rcd 36 1 / 16 = (s.byte v).toNat / 16 ∧ bytesAt m.rcd 36 1 % 16 = Nat.min ((s.byte v).toNat % 16) (lqMaxPri (s.lq q))))) ∧
      (lqForeign (s.lq q) l.fn = false → s.discards q l.fn true = true → Ends (.launch f) s fun t => SameMem s t ∧
        t.ctx c n = some ((waiting x p (.launch p (BitVec.allOnes 64))).pass .ap 1) ∧ t.launches = s.launches ∧ tget t.lqdrop 0 q = Nat.min (tget s.lqdrop 0 q + 1) 65535) ∧
      (lqForeign (s.lq q) l.fn = true → x.frozen = none → ∃ (t : State) (r : FaultRec), r.cls = 8 ∧ r.cause = 4 ∧ r.lid = x.lid ∧ r.addr = x.ap.s' f.a.toNat ∧
        (∃ y, t.ctx c n = some y ∧ y.frozen = some ⟨r, false, .ap⟩) ∧ exec (.launch f) s = .next ((t.toDevice r).modCtx c n fun y => y.pass .ap 1))) ∧
    (∀ p v, s.ctx c n = some x → x.ap.wait = some (.launch p v) → Leaves (.launchAnswer c n) s c n (answered x p v)))

/-- Derived (R41, R44, R45, R257, R286, R287): `SPAWN` appends the record at its address, once it meets R44, to the launch's tasks, and only its Next link may be written; `SUSPEND` writes the context's continuation record, all but the Next link, where the AP continues behind it, leaves the slot empty and appends the record; and a core with an empty slot of the launch takes up a record without a save area as a new context at its pcs, with its argument. Where the rules leave room, the model's choices are those of log 52, 53. -/
def Obligations.TasksSpawnSuspendAndStart : Prop :=
  ∀ (s : State) (c n : Nat) (x : Ctx) (l : Launch), s.launch x.lid = some l → l.flag 6 = false →
    (∀ (f : R1) (pas : List Nat), Issues s c n x f.g [f.r] → (∀ a ∈ x.ap.accs, a.performed = true) → let a := x.ap.s' f.r.toNat
      let r : BitVec 512 := BitVec.ofNat 512 (leNat (pas.map s.byte))
      (a.toNat % 64 = 0 → s.apXlate c x .read a 64 = (s, .ok pas) → Plain s pas → s.way c true pas = .clear → taskOk x.lid r = true → Ends (.spawn f) s fun t => (∀ p, p ∉ pas.drop 56 → t.byte p = s.byte p) ∧
        (∃ ar, t.ctx c n = some { x.pass .ap 1 with ap := { (x.pass .ap 1).ap with armed := ar } }) ∧
        ∃ tk, tk.map Task.rcd = l.tasks.map Task.rcd ∧ t.launch x.lid = some { l with tasks := tk ++ [⟨a, r, false⟩] }) ∧
      (a.toNat % 64 ≠ 0 → ∃ r : FaultRec, r.cls = 12 ∧ r.cause = 8 ∧ r.lid = x.lid ∧ exec (.spawn f) s = .next ((s.report c n x.lid .ap r).modCtx c n fun y => y.pass .ap 1))) ∧
    (∀ (f : SuspF) (pas area : List Nat), Issues s c n x f.g [f.a, f.b, f.c] → x.ap.accs = [] → x.ap.wait = none → x.rank < 65536 → let a := x.ap.s' f.a.toNat
      let sv := x.ap.s' f.c.toNat
      let u := if x.suspending then s else s.setCtx c n { x with suspending := true }
      a.toNat % 64 = 0 → sv.toNat % 256 = 0 → (x.suspending = true ∨ ∀ q ∈ (s.core c).streams, ¬(q.2.owner = n ∧ q.2.lid = x.lid)) → (∀ q ∈ (s.core c).slots, q.2.owner ≠ some n) →
      u.apXlate c x .write a 64 = (u, .ok pas) → u.apXlate c x .write sv 0x4000 = (u, .ok area) → Plain s (pas ++ area) → s.way c false (pas ++ area) = .clear → (pas ++ area).Nodup → s.busyBefore c n x s.serial = false → Memory.wf s.mem = true →
      Ends (.suspend f) s fun t => (t.core c).ctxs.map Prod.fst = (tdel (s.core c).ctxs n).map Prod.fst ∧ (∃ tk, t.launch x.lid = some { l with tasks := tk } ∧ ∃ r tk', tk = tk' ++ [⟨a, r, false⟩] ∧ tk'.map Task.rcd = l.tasks.map Task.rcd ∧
        bytesAt r 0 8 = (x.ap.pc + 8).toNat ∧ bytesAt r 8 8 = x.ep.pc.toNat ∧ bytesAt r 16 8 = sv.toNat ∧ bytesAt r 24 8 = x.argp.toNat ∧ bytesAt r 32 4 = x.lid.toNat ∧
        bytesAt r 36 2 = x.rank ∧ bytesAt r 38 1 = l.pri ∧ bytesAt r 39 1 = (if x.ep.exited then 5 else 1) ∧ bytesAt r 40 1 = Machine.wkNat f.kind ∧ bytesAt r 48 8 = (x.ap.s' f.b.toNat).toNat ∧
        (∀ i p, i < 56 → pas[i]? = some p → (t.byte p).toNat = bytesAt r i 1)) ∧ ∀ p, p ∉ pas → p ∉ area → t.byte p = s.byte p) ∧
    (∀ (tk : Task) (rank : Nat) (m : Bool) (r : List Launch), s.launches = l :: r → l.phase = .placed → s.taskFor l c = some (tk, n, rank, m) → bytesAt tk.rcd 39 1 = 0 →
      Ends (.taskPickup c) s fun t => SameMem s t ∧ t.launch x.lid = some { l with tasks := l.tasks.erase tk } ∧ ∃ y, t.ctx c n = some y ∧ y.lid = l.lid ∧ y.rank = rank ∧ y.member = m ∧
        y.ap.pc = BitVec.ofNat 64 (bytesAt tk.rcd 0 8) ∧ y.ep.pc = BitVec.ofNat 64 (bytesAt tk.rcd 8 8) ∧ y.argp = BitVec.ofNat 64 (bytesAt tk.rcd 24 8) ∧ y.prio = bytesAt tk.rcd 38 1 ∧
        y.ap.exited = false ∧ y.ep.exited = false ∧ y.ap.s = [] ∧ y.ep.e = [] ∧ (tk.kind ≠ 1 → y.ap.wait = none))

/-! ## Translation -/

/-- Derived (R107, R112, R113, R114, R120, R423): what an entry of the core's TLB gives an address: a domain outside the mask is a breach, a permission that is missing is code 5, an unmapped frame code 7, C or D that disagrees with the frame code 6, in that order; otherwise the frame's address, and the state is as before. An address that is not canonical is code 1. A walk that ended in a fault gives its fault to its access. Also (R114, R115, R116, R118, R290, R399): `TLBI` and its forms of a physical function remove their entries, the host's apart, from every TLB, and the AP goes on behind them once every older access is performed; of a virtual function they freeze the context; a page walk fills the TLBs of its core and die, or keeps its fault for the access; the host's answers are kept, a grant in the die's TLB too. Where the rules leave room, the model's choices are those of log 54. -/
def Obligations.Translations : Prop :=
  (∀ (s : State) (c pasid va : Nat) (mask : BitVec 16) (acc : Acc) (t : TlbE),
    (canonical va = false → s.xlate c pasid mask acc false va = (s, .fault 1 255 0 0)) ∧
    (canonical va = true → ∀ w code lvl e, (s.die (dieOf c)).walks.find? (fun w => w.core == c && w.pasid == pasid && w.va == va / 4096 && w.res.isSome) = some w → w.res = some (.fault code lvl e) →
      s.xlate c pasid mask acc false va = (s.modDie (dieOf c) fun x => { x with walks := x.walks.filter (· != w) }, .fault code lvl 0 e.toNat)) ∧
    (canonical va = true → (s.die (dieOf c)).walks.find? (fun w => w.core == c && w.pasid == pasid && w.va == va / 4096 && w.res.isSome) = none →
      (s.core c).tlb.find? (tlbHit pasid va) = some t → let pa := tlbPa t va
      pa < 0x010000000000 → let e := t.leaf.toNat
      (mask.getLsbD (pteDom e) = false → s.xlate c pasid mask acc false va = (s, .breach)) ∧
      (mask.getLsbD (pteDom e) = true → permits acc e = false → s.xlate c pasid mask acc false va = (s, .fault 5 255 0 0)) ∧
      (mask.getLsbD (pteDom e) = true → permits acc e = true → s.mapped pa = false → s.xlate c pasid mask acc false va = (s, .fault 7 255 0 0)) ∧
      (mask.getLsbD (pteDom e) = true → permits acc e = true → s.mapped pa = true → s.attrOk false pa e = false → s.xlate c pasid mask acc false va = (s, .fault 6 255 (s.tag (pa / 4096)) 0)) ∧
      (mask.getLsbD (pteDom e) = true → permits acc e = true → s.mapped pa = true → s.attrOk false pa e = true → s.xlate c pasid mask acc false va = (s, .ok pa e))))
  ∧ ((∀ (s : State) (c n : Nat) (x : Ctx) (l : Launch) (f : R1) (g : G0), s.launch x.lid = some l → g.g = f.g → Issues s c n x f.g [f.r] →
    (l.fn.num = 0 → x.ap.wait = none → ∀ q ∈ [(Instr.tlbi f, fun (t : TlbE) => tlbHit l.pasid (x.ap.s' f.r.toNat).toNat t), (.tlbiAs g, fun t => !t.host && !t.glob && t.pasid == l.pasid), (.tlbiAll g, fun t => !t.host)],
      Ends q.1 s fun t => SameMem s t ∧ (∀ d, (t.core d).tlb = (s.core d).tlb.filter fun e => !q.2 e) ∧ (∀ d, (t.die d).tlb = (s.die d).tlb.filter fun e => !q.2 e) ∧
        t.ctx c n = some { x with ap := { x.ap with wait := some (.tlbi s.serial) } }) ∧
    (l.fn.num ≠ 0 → x.frozen = none → ∀ i ∈ [Instr.tlbi f, .tlbiAs g, .tlbiAll g], ∃ (t : State) (r : FaultRec), r.cls = 8 ∧ r.cause = 5 ∧ r.lid = x.lid ∧
      (∃ y, t.ctx c n = some y ∧ y.frozen = some ⟨r, false, .ap⟩) ∧ exec i s = .next ((t.toDevice r).modCtx c n fun y => y.pass .ap 1))) ∧
  (∀ (s : State) (c n : Nat) (x : Ctx) (id : Nat), s.ctx c n = some x → x.ap.wait = some (.tlbi id) →
    (s.olderAccess id = false → Leaves (.tlbiComplete c n) s c n ({ x with ap := { x.ap with wait := none } }.pass .ap 1)) ∧ (s.olderAccess id = true → exec (.tlbiComplete c n) s = .next s)) ∧
  (∀ (s : State) (d : Die) (w : Walk) (r : List Walk), (s.die d).walks = w :: r → w.res = none →
    s.walkHeld d w.pasid (4096 * w.va) = false → let en := w.en.getD (s.astbase.getLsbD 0)
    (∀ e lvl, s.walk en w.pasid (4096 * w.va) = .leaf e lvl → dieOf w.core = d → Ends (.pageWalkComplete d w.id) s fun t => SameMem s t ∧
      (t.core w.core).tlb.head? = some (tlbEntry w.pasid (4096 * w.va) e) ∧ (t.die d).tlb.head? = some (tlbEntry w.pasid (4096 * w.va) e) ∧ (t.die d).walks.head? = some { w with res := some (.leaf lvl (BitVec.ofNat 64 e)) }) ∧
    (∀ code lvl e, s.walk en w.pasid (4096 * w.va) = .fault code lvl e → Ends (.pageWalkComplete d w.id) s fun t => SameMem s t ∧
      (t.die d).walks.head? = some { w with res := some (.fault code lvl (BitVec.ofNat 64 e)) } ∧ t.cores = s.cores)) ∧
  (∀ (s : State) (d : Die) (h : HostXl) (ans : HostAnswer), h ∈ (s.die d).hosts → h.ans = none → s.west.recWait = [] → s.east.recWait = [] →
    (h.pri = false → Ends (.atsCompletion d h.id ans) s fun t => SameMem s t ∧ { h with ans := some ans } ∈ (t.die d).hosts) ∧
    (h.pri = true → Ends (.priResponse d h.id ans) s fun t => SameMem s t ∧ { h with ans := some ans } ∈ (t.die d).hosts) ∧
    (∀ r w, ans = .ok r w → Ends (if h.pri then .priResponse d h.id ans else .atsCompletion d h.id ans) s fun t =>
      ∃ q ∈ (s.die d).hosts, q.id = h.id ∧ q.pri = h.pri ∧ q.ans = none ∧ (t.die d).tlb.head? = some (hostEntry q.pasid q.page r w))))

/-! ## Field test, core map, SINFO -/

/-- Derived (R276, R291, R292): `FTEST` and `FTEST.REF` outside a TEST launch are privilege traps, say 1 without the whole core and 2, asked second (log 55), for a duration outside 1 to 1000, and otherwise stall the AP for the duration; then D holds a 32-bit signature, of `FTEST.REF` or of a healthy core the reference value, and `FTEST` has left the pattern, whose contents are the model's free values, in the launch's banks, tiles and slots, and every other row as it was. `CMAP` reads V, P and SITE, and asks for changes of the gang's own cores. Where the rules leave room, the model's choices are those of log 44, 55. -/
def Obligations.FieldTestAndCoreMap : Prop :=
  ∀ (s : State) (c n : Nat) (x : Ctx),
    (∀ f : R3, Issues s c n x f.g [f.d, f.a, f.b] → let dur := (x.ap.s' f.b.toNat).toNat
      let p := sPhys x.ap.rrb f.d.toNat
      let both := fun (P : Bool → Instr → Prop) => P false (.ftest f) ∧ P true (.ftestRef f)
      (s.isTest x = false → both fun _ i => exec i s = .next (s.takeTrap c n .ap 0x05 0 0 x.ap.pc)) ∧
      (s.isTest x = true → (s.core c).holdsAll x.lid = false → both fun _ i => Leaves i s c n ((putS x f.d 0xFFFFFFFF00000001).pass .ap 1)) ∧
      (s.isTest x = true → (s.core c).holdsAll x.lid = true → dur < 1 ∨ 1000 < dur → both fun _ i => Leaves i s c n ((putS x f.d 0xFFFFFFFF00000002).pass .ap 1)) ∧
      (s.isTest x = true → (s.core c).holdsAll x.lid = true → 1 ≤ dur → dur ≤ 1000 → x.ap.wait = none → both fun u i => Ends i s fun t => SameMem s t ∧
        t = (s.setCtx c n { x with ap := { x.ap with wait := some (.ftest p u (x.ap.s' f.a.toNat) (x.ap.s' f.b.toNat) s.time.toNat) } }).modCore c fun k => k.endBlock .ap)) ∧
    (∀ p u sd du since, s.ctx c n = some x → x.ap.wait = some (.ftest p u sd du since) → since + 1000 * du.toNat ≤ s.time.toNat → Ends (.ftestComplete c n) s fun t => SameMem s t ∧
      (∃ sig : BitVec 32, t.ctx c n = some ({ x with ap := { x.ap.setPhys p (sig.setWidth 64) with wait := none } }.pass .ap 1) ∧
        (u = true ∨ Config.coreFault s.fresh c = false → sig = Config.ftestRef sd du)) ∧
      (u = true → (t.core c).banks = (s.core c).banks ∧ (t.core c).bankFill = (s.core c).bankFill) ∧
      (u = false → ∀ al, (s.core c).allot x.lid = some al →
        (∀ key, (t.core c).row c key = if key / 768 ∈ al.banks then Config.ftestRow c sd du key else (s.core c).row c key) ∧
        (∀ key, (t.core c).accRow c key = if key / 64 ∈ al.tiles then Config.ftestRow c sd du (32768 + key) else (s.core c).accRow c key) ∧
        (∀ k, k ∈ al.slots → (tget (t.core c).slots Slot.reset k).rows = [] ∧ (tget (t.core c).slots Slot.reset k).fill = some (sd, du)) ∧
        (∀ k, k ∉ al.slots → tget (t.core c).slots Slot.reset k = tget (s.core c).slots Slot.reset k))) ∧
    (∀ p u sd du since, s.ctx c n = some x → x.ap.wait = some (.ftest p u sd du since) → s.time.toNat < since + 1000 * du.toNat → exec (.ftestComplete c n) s = .next s) ∧
    (∀ f : R2, Issues s c n x f.g [f.d, f.a] → let k := (x.ap.s' f.a.toNat).toNat
      (s.isTest x = false → exec (.cmapGet f) s = .next (s.takeTrap c n .ap 0x05 0 0 x.ap.pc)) ∧
      (s.isTest x = true → k < 320 → ∃ v : Word, v.getLsbD 15 = s.coreOk k ∧ v.getLsbD 14 = s.mapPending k ∧ v.toNat % 512 = s.site k % 512 ∧ Leaves (.cmapGet f) s c n ((putS x f.d v).pass .ap 1)) ∧
      (s.isTest x = true → 320 ≤ k → Leaves (.cmapGet f) s c n ((putS x f.d 0).pass .ap 1)) ∧
      (∀ l, s.launch x.lid = some l → l.flag 7 = true → k ∉ l.allCores → Leaves (.cmapRet f) s c n ((putS x f.d 2).pass .ap 1)) ∧
      (∀ l, s.launch x.lid = some l → l.flag 7 = true → k ∈ l.allCores → k < 320 → s.mapPending k = true → Leaves (.cmapRet f) s c n ((putS x f.d 4).pass .ap 1)) ∧
      (∀ l, s.launch x.lid = some l → l.flag 7 = true → k ∈ l.allCores → k < 320 → s.mapPending k = false → Ends (.cmapRet f) s fun t => SameMem s t ∧
        t.mapPending k = true ∧ t.cmap = s.cmap ∧ t.ctx c n = some ((putS x f.d 0).pass .ap 1))) ∧
    (∀ f : R3, Issues s c n x f.g [f.d, f.a, f.b] → ∀ l, s.launch x.lid = some l → l.flag 7 = true → let k := (x.ap.s' f.a.toNat).toNat
      let site := (x.ap.s' f.b.toNat).toNat
      (k ∉ l.allCores → Leaves (.cmapSet f) s c n ((putS x f.d 2).pass .ap 1)) ∧
      (k ∈ l.allCores → k < 320 → s.mapPending k = false → site / 256 = dieNat (dieOf k) → s.spareOk (dieOf k) site = true → Ends (.cmapSet f) s fun t => SameMem s t ∧
        t.mapPending k = true ∧ t.cmap = s.cmap ∧ t.ctx c n = some ((putS x f.d 0).pass .ap 1))) ∧
    (∀ f : SinfoF, Issues s c n x f.g [f.d] → let open' := ((s.coreStreams c).find? fun q => q.1 == f.st.toNat).map Prod.snd
      (open' = none → Leaves (.sinfo f) s c n ((putS x f.d 0).pass .ap 1)) ∧
      (∀ st, open' = some st → ¬(st.owner = n ∧ st.lid = x.lid) → Leaves (.sinfo f) s c n ((putS x f.d 1).pass .ap 1)) ∧
      (∀ st, open' = some st → st.owner = n → st.lid = x.lid → ∃ v : Word, v.toNat % 4 = 3 ∧ v.getLsbD 2 = st.pend ∧ v.getLsbD 3 = st.saved ∧ v.getLsbD 4 = st.eosw ∧
        v.getLsbD 5 = st.forkOn ∧ v.getLsbD 6 = st.mark.isSome ∧ v.getLsbD 7 = st.flt ∧ v.toNat / 2 ^ 32 % 2 ^ 16 = st.count % 2 ^ 16 ∧ v.toNat / 2 ^ 48 = st.held % 2 ^ 16 ∧
        Leaves (.sinfo f) s c n ((putS x f.d v).pass .ap 1)))

/-! ## The EP's vector instructions -/
namespace Sys2Proof.Claims

/-- No matrix record writes core c's accumulator rows, and none of its storage is poisoned. -/
structure Quiet (s : State) (c : Nat) : Prop where
  clob : (s.core c).clob = []
  results : (s.core c).results = []
  writer : ∀ t, (s.core c).mWriter t = none
  poison : s.poisonLoc = []

/-- Lane i of the row or broadcast that an operand field names, of elements of w bits (R211). -/
def opnd (s : State) (c : Nat) (x : Ctx) (w : Nat) (v : BitVec 11) (i : Nat) : Nat :=
  if v.toNat < 1536 then (match (s.core c).vKey x.lid v.toNat with | some key => laneOf ((s.core c).accRow c key) w i | none => 0)
  else if 1552 ≤ v.toNat ∧ v.toNat < 1584 then (x.ep.e' (v.toNat - 1552)).toNat % 2 ^ w
  else 0
/-- The instruction names vector registers of the allotment, broadcasts and zeros, and VD is the register whose row is key. -/
structure Rows (s : State) (c : Nat) (x : Ctx) (f : EV) (key : Nat) : Prop where
  d : (s.core c).vKey x.lid f.vd.toNat = some key
  dreg : f.vd.toNat < 1536
  src : ∀ v ∈ [f.va, f.vb], v.toNat < 1536 ∨ 1552 ≤ v.toNat
  held : ∀ v ∈ [f.va, f.vb], v.toNat < 1536 → ((s.core c).vKey x.lid v.toNat).isSome
/-- The instruction i ends with row key holding r, the flags fl set, the context moved on by after and nothing else changed, where P holds; and with the trap of R437 behind it when an enabled flag was set, whose ETVAL is tv. -/
def RowIssue (i : Instr) (s : State) (c n key : Nat) (x : Ctx) (after : Ctx → Ctx) (P : Row → BitVec 6 → Word → Prop) : Prop :=
  ∃ (r : Row) (fl : BitVec 6) (tv : Word), P r fl tv ∧
    let y := after { x with fflags := x.fflags ||| fl }
    let u := (s.modCore c fun k => k.setAcc key r).setCtx c n y
    SameMem s u ∧ exec i s = .next (if fl &&& x.ftrapen = 0 then u else u.takeTrap c n .ep (0x20 + (fl &&& x.ftrapen).toNat.log2) fl.toNat tv y.ep.pc)
/-- The instructions that compute a row lane by lane. -/
def laneInstr (f : EV) : List Instr :=
  [.vadd f, .vsub f, .vmul f, .vfma f, .vmin f, .vmax f, .vabs f, .vclamp f, .vand f, .vor f, .vxor f, .vshl f, .vshr f, .vsel f, .vmov f, .vperm f, .vbcast f, .viota f, .vsf f]
/-- The type is signed, and the value of a code of w bits. -/
def sgnTy (t : BitVec 4) : Bool := t = 8 || t = 9 || t = 10
def iv (t : BitVec 4) (w c : Nat) : Int := if sgnTy t then (BitVec.ofNat w c).toInt else ((c % 2 ^ w : Nat) : Int)
/-- A code under NA or NB, as a number and as bits. -/
def ngd (na : Bool) (w c : Nat) : Nat := if na then (2 ^ w - c % 2 ^ w) % 2 ^ w else c
def cpl (na : Bool) (w c : Nat) : Nat := if na then 2 ^ w - 1 - c else c
/-- Whether an exact value leaves the type, and its code, clamped under SAT and wrapped without (R83, R95). -/
def leaves (t : BitVec 4) (w : Nat) (v : Int) : Prop := iv t w (wrapN v w) ≠ v
def narrow (t : BitVec 4) (w : Nat) (sat : Bool) (v : Int) : Nat :=
  let lo : Int := if sgnTy t then -(2 ^ (w - 1) : Int) else 0
  let hi : Int := if sgnTy t then (2 ^ (w - 1) : Int) - 1 else (2 ^ w : Int) - 1
  wrapN (if sat = true ∧ v < lo then lo else if sat = true ∧ hi < v then hi else v) w
/-- The exact value that each lane instruction gives lane j of an integer type (R298, R299, R301, R302), in the order of laneInstr without `VSF`. -/
def laneVals (s : State) (c : Nat) (x : Ctx) (f : EV) (w j : Nat) : List Int :=
  let A := opnd s c x w f.va j
  let B := opnd s c x w f.vb j
  let a := iv f.t w (ngd f.na w A)
  let b := iv f.t w (ngd f.nb w B)
  let D := opnd s c x w f.vd j
  [a + b, a - b, a * b, a * b + iv f.t w (ngd (f.f.getLsbD 0) w D), if b < a then b else a, if a < b then b else a, a.natAbs,
   (let m := if a < b then b else a; let d := iv f.t w D; if d < m then d else m),
   iv f.t w (cpl f.na w A &&& cpl f.nb w B), iv f.t w (cpl f.na w A ||| cpl f.nb w B), iv f.t w (cpl f.na w A ^^^ cpl f.nb w B),
   a * 2 ^ (B % w), a / 2 ^ (B % w), iv f.t w (if (x.ep.mr (f.f.toNat % 16)).getLsbD j then A else B), a,
   iv f.t w (opnd s c x w f.va (B % (2048 / w))), iv f.t w (opnd s c x w f.va f.f.toNat),
   iv f.t w (if f.f.getLsbD 0 then ((List.range j).filter fun i => x.ep.active f.g i).length else j)]

/-! ### Numbers, rounding and conversion as the rules state them, over rationals -/

/-- Exponent width, fraction width and largest finite code of F32, F16, BF16, E4M3 and E5M2 (R79, R86). -/
def fw : Nat → Nat × Nat × Nat
  | 0 => (8, 23, 0x7F7FFFFF)
  | 1 => (5, 10, 0x7BFF)
  | 2 => (8, 7, 0x7F7F)
  | 3 => (4, 3, 0x7E)
  | _ => (5, 2, 0x7B)
/-- The magnitude that code k of a floating type has, or would have with exponents unbounded above: bias 2^(eb - 1) - 1, subnormals at an exponent field of zero. -/
def magOf (t k : Nat) : ℚ :=
  let fb := (fw t).2.1
  let e : Int := 2 - 2 ^ ((fw t).1 - 1) - (fb : Int)
  if k < 2 ^ fb then (k : ℚ) * 2 ^ e else ((2 ^ fb + k % 2 ^ fb : Nat) : ℚ) * 2 ^ (e + (k / 2 ^ fb : Nat) - 1)
/-- A value: NaN, an infinity, or a sign and a magnitude. -/
inductive XV where
  | nan
  | inf (neg : Bool)
  | fin (neg : Bool) (v : ℚ)
/-- The canonical NaN, the largest finite code and an infinity of a floating type (R79, R80, R86). -/
def nanOf (t : Nat) : Nat := 2 ^ (tyWidth t - 1) - 1
def bigOf (t : Nat) (neg : Bool) : Nat := (fw t).2.2 + if neg then 2 ^ (tyWidth t - 1) else 0
def infOf (t : Nat) (neg : Bool) : Nat := (fw t).2.2 + 1 + if neg then 2 ^ (tyWidth t - 1) else 0
/-- An integer as a value. -/
def xint (i : Int) : XV := .fin (decide (i < 0)) i.natAbs
/-- The L6 magnitude of log field L (R88). -/
def l6Of (l : Nat) : ℚ := if l = 0 then 0 else (match l % 4 with | 0 => 32768 | 1 => 38968 | 2 => 46341 | _ => 55109) * 2 ^ ((l / 4 : Nat) - 19 : Int)
/-- The value of code c of type t, z its zero point where t is an OB type (R79, R86, R88, R92, R94, R95). -/
def xval (t z c : Nat) : XV :=
  let w := tyWidth t
  if t < 5 then
    let k := c % 2 ^ (w - 1)
    if k ≤ (fw t).2.2 then .fin (c.testBit (w - 1)) (magOf t k) else if k = (fw t).2.2 + 1 ∧ t ≠ 3 then .inf (c.testBit (w - 1)) else .nan
  else if t = 5 then (if c % 32 = 0 then .fin false 0 else .fin (c.testBit 5) (l6Of (c % 32)))
  else if t = 6 ∨ t = 7 then xint ((c : Int) - z)
  else if t = 14 then (if c = 255 then .nan else .fin false (2 ^ ((c : Int) - 127)))
  else xint (iv (BitVec.ofNat 4 t) w c)
/-- A finite value with its sign. -/
def sg (neg : Bool) (v : ℚ) : ℚ := if neg then -v else v
/-- The exact sum, with NV for infinities of both signs; rdn is the sign of an exact zero of unlike signs (R82, R85). -/
def xadd (rdn : Bool) : XV → XV → XV × Bool
  | .nan, _ => (.nan, false)
  | _, .nan => (.nan, false)
  | .inf a, .inf b => if a = b then (.inf a, false) else (.nan, true)
  | .inf a, .fin _ _ => (.inf a, false)
  | .fin _ _, .inf b => (.inf b, false)
  | .fin a v, .fin b w => let q := sg a v + sg b w; (if q = 0 then .fin (if a = b then a else rdn) 0 else .fin (decide (q < 0)) |q|, false)
/-- The exact product, with NV for zero times an infinity. -/
def xmul : XV → XV → XV × Bool
  | .nan, _ => (.nan, false)
  | _, .nan => (.nan, false)
  | .inf a, .inf b => (.inf (a != b), false)
  | .inf a, .fin b v => if v = 0 then (.nan, true) else (.inf (a != b), false)
  | .fin a v, .inf b => if v = 0 then (.nan, true) else (.inf (a != b), false)
  | .fin a v, .fin b w => (.fin (a != b) (v * w), false)
/-- The value with its sign inverted. -/
def xneg : XV → XV
  | .nan => .nan
  | .inf a => .inf !a
  | .fin a v => .fin (!a) v
/-- a is below b as a real number or an infinity; false with a NaN. -/
def xlt : XV → XV → Bool
  | .nan, _ => false
  | _, .nan => false
  | .inf a, .inf b => a && !b
  | .inf a, .fin _ _ => a
  | .fin _ _, .inf b => !b
  | .fin a v, .fin b w => decide (sg a v < sg b w)
/-- The value is a NaN. -/
def xnan : XV → Bool
  | .nan => true
  | _ => false
/-- `VMIN` (max false) and `VMAX` on codes of an F type: a NaN makes the canonical NaN, -0 is below +0 (R81). -/
def extreme (t : Nat) (max : Bool) (a b : Nat) : Nat :=
  let below := fun (x y : XV) => xlt x y || (match x, y with | .fin true v, .fin false w => v == 0 && w == 0 | _, _ => false)
  let x := xval t 0 a
  let y := xval t 0 b
  if xnan x || xnan y then nanOf t else if (if max then below x y else below y x) then b else a

/-- The magnitude v, given by which rationals are below it (lt) and equal to it (eq), rounds to the code c with the flags fl, with UF where the value rounded with exponents unbounded below stays under the smallest normal one (R82, R83, R85). -/
def Rounds (t rm : Nat) (sat neg : Bool) (lt eq : ℚ → Prop) (c : Nat) (fl : BitVec 6) : Prop :=
  let fb := (fw t).2.1
  let up := fun (odd : Prop) (lo hi : ℚ) => match rm with
    | 0 => lt ((lo + hi) / 2) ∨ eq ((lo + hi) / 2) ∧ odd
    | 1 => False
    | 2 => neg = false
    | 3 => neg = true
    | _ => lt ((lo + hi) / 2) ∨ eq ((lo + hi) / 2)
  let norm := magOf t (2 ^ fb)
  let under := norm * (1 - 1 / 2 ^ (fb + 1))
  let tiny := ¬ lt norm ∧ ¬ eq norm ∧ ¬ (lt under ∧ up True under norm)
  ∃ k K : Nat, (lt (magOf t k) ∨ eq (magOf t k)) ∧ ¬ lt (magOf t (k + 1)) ∧ ¬ eq (magOf t (k + 1)) ∧
    (eq (magOf t k) → K = k) ∧ (¬ eq (magOf t k) → (up (k % 2 = 1) (magOf t k) (magOf t (k + 1)) → K = k + 1) ∧ (¬ up (k % 2 = 1) (magOf t k) (magOf t (k + 1)) → K = k)) ∧
    (K ≤ (fw t).2.2 → c = K + (if neg then 2 ^ (tyWidth t - 1) else 0) ∧ (eq (magOf t k) → fl = 0) ∧ (¬ eq (magOf t k) → (tiny → fl = 3) ∧ (¬ tiny → fl = 1))) ∧
    ((fw t).2.2 < K → (sat = true → c = bigOf t neg ∧ fl = 33) ∧
      (sat = false → fl = 5 ∧ c = if rm = 1 ∨ (rm = 2 ∧ neg = true) ∨ (rm = 3 ∧ neg = false) then bigOf t neg else if t = 3 then nanOf t else infOf t neg))
/-- A floating type t delivers the code c and the flags fl for an exact value (R80, R82, R83, R85, R87). -/
def Delivers (t rm : Nat) (sat : Bool) (x : XV) (c : Nat) (fl : BitVec 6) : Prop :=
  match x with
  | .nan => c = nanOf t ∧ fl = 0
  | .inf neg => if sat then c = bigOf t neg ∧ fl = 32 else if t = 3 then c = nanOf t ∧ fl = 4 else c = infOf t neg ∧ fl = 0
  | .fin neg v => (v = 0 → c = (if neg then 2 ^ (tyWidth t - 1) else 0) ∧ fl = 0) ∧ (v ≠ 0 → Rounds t rm sat neg (· < v) (· = v) c fl)
/-- The same for a result with its NV. -/
def DeliversNv (t rm : Nat) (sat : Bool) (x : XV × Bool) (c : Nat) (fl : BitVec 6) : Prop := ∃ g, Delivers t rm sat x.1 c g ∧ fl = g ||| if x.2 then 16 else 0
/-- q rounds to the integer i (R82). -/
def RoundInt (rm : Nat) (q : ℚ) (i : Int) : Prop :=
  ∃ k : Int, (k : ℚ) ≤ q ∧ q < k + 1 ∧ i = if q = k then k else if (match rm with
    | 0 => decide (2 * (k : ℚ) + 1 < 2 * q) || (decide (2 * q = 2 * k + 1) && k % 2 != 0)
    | 1 => decide (q < 0)
    | 2 => true
    | 3 => false
    | _ => decide (2 * (k : ℚ) + 1 < 2 * q) || (decide (2 * q = 2 * k + 1) && decide (0 < q))) then k + 1 else k
/-- v clamped into lo to hi. -/
def clamp (lo hi v : Int) : Int := if v < lo then lo else if hi < v then hi else v
/-- The least and the largest value of an integer type. -/
def ilo (t : Nat) : Int := if sgnTy (BitVec.ofNat 4 t) then -(2 ^ (tyWidth t - 1) : Int) else 0
def ihi (t : Nat) : Int := if sgnTy (BitVec.ofNat 4 t) then (2 ^ (tyWidth t - 1) : Int) - 1 else (2 ^ tyWidth t : Int) - 1
/-- A conversion of a value of type t to type tt, z the target's zero point, gives the code c and the flags fl (R87 to R96; the flags that those rules leave open are log 13's). -/
def ConvTo (t tt rm : Nat) (sat : Bool) (z : Nat) (x : XV) (c : Nat) (fl : BitVec 6) : Prop :=
  if tt < 5 then Delivers tt rm sat x c fl
  else if tt = 5 then match x with
    | .nan => c = 0 ∧ fl = 16
    | .inf neg => c = 31 + (if neg then 32 else 0) ∧ fl = 5
    | .fin neg v => if l6Of 31 < v then c = 31 + (if neg then 32 else 0) ∧ fl = 5 else
      ∃ l, l ≤ 31 ∧ (∀ k, k ≤ 31 → |l6Of l - v| < |l6Of k - v| ∨ |l6Of l - v| = |l6Of k - v| ∧ (k = l ∨ l % 2 = 0)) ∧ c = (if l = 0 then 0 else l + if neg then 32 else 0) ∧
        fl = (if l = 0 ∧ v ≠ 0 then 2 else 0) ||| if l6Of l = v then 0 else 1
  else if tt = 6 ∨ tt = 7 then match x with
    | .nan => c = z ∧ fl = 16
    | .inf neg => c = (if neg then 0 else 2 ^ tyWidth tt - 1) ∧ fl = 32
    | .fin neg v => ∃ i, RoundInt rm (sg neg v) i ∧ (c : Int) = clamp 0 (2 ^ tyWidth tt - 1) (i + z) ∧ fl = (if (c : Int) = i + z then 0 else 32) ||| if (i : ℚ) = sg neg v then 0 else 1
  else if tt = 14 then match x with
    | .nan => c = 255 ∧ fl = 16
    | .inf _ => c = 255 ∧ fl = 16
    | .fin _ v => (v = 0 → c = 0 ∧ fl = 0) ∧ (v ≠ 0 → ∃ e : Int, (2 : ℚ) ^ e ≤ v ∧ v < 2 ^ (e + 1) ∧ (c : Int) = clamp 0 254 (e + 127) ∧
        fl = (if (c : Int) = e + 127 then 0 else 32) ||| if (2 : ℚ) ^ ((c : Int) - 127) = v then 0 else 1)
  else match x with
    | .nan => c = 0 ∧ fl = 16
    | .inf neg => c = wrapN (if neg then ilo tt else ihi tt) (tyWidth tt) ∧ fl = 32
    | .fin neg v =>
      if (8 ≤ t ∧ t ≤ 13) ∨ t = 6 ∨ t = 7 then ∃ i : Int, (i : ℚ) = sg neg v ∧ c = wrapN (if sat then clamp (ilo tt) (ihi tt) i else i) (tyWidth tt) ∧ fl = if sat = true ∧ clamp (ilo tt) (ihi tt) i ≠ i then 32 else 0
      else ∃ i, RoundInt rm (sg neg v) i ∧ c = wrapN (clamp (ilo tt) (ihi tt) i) (tyWidth tt) ∧ fl = (if clamp (ilo tt) (ihi tt) i = i then 0 else 32) ||| if (i : ℚ) = sg neg v then 0 else 1
/-- `VSF` on code a of an F type: NaN, infinities and zeros, exact powers and logarithms, reciprocals and roots (R98; under SAT a zero's infinity sets no NX, log 12). -/
def SfLane (fn t rm : Nat) (sat : Bool) (a c : Nat) (fl : BitVec 6) : Prop :=
  let gives := fun (x : XV) => Delivers t rm sat x c fl
  let dz := fun (neg : Bool) => ∃ g, Delivers t rm sat (.inf neg) c g ∧ fl = g ||| 8
  let nv := c = nanOf t ∧ fl = 16
  match xval t 0 a, fn with
  | .nan, _ => c = nanOf t ∧ fl = 0
  | .inf true, 0 => c = 0 ∧ fl = 0
  | .inf false, 0 => gives (.inf false)
  | .inf true, 1 => nv
  | .inf false, 1 => gives (.inf false)
  | .inf neg, 2 => gives (.fin neg 0)
  | .inf true, 3 => nv
  | .inf false, 3 => c = 0 ∧ fl = 0
  | .inf true, 4 => nv
  | .inf false, 4 => gives (.inf false)
  | .inf neg, 5 => gives (.fin neg 1)
  | .inf neg, 6 => gives (.fin false (if neg then 0 else 1))
  | .inf neg, _ => gives (.fin neg 1)
  | .fin neg v, 0 => (v = 0 → gives (.fin false 1)) ∧ ∀ i : Int, v ≠ 0 → (i : ℚ) = sg neg v → gives (.fin false (2 ^ i))
  | .fin neg v, 1 => (v = 0 → dz true) ∧ (v ≠ 0 → neg = true → nv) ∧ ∀ i : Int, v ≠ 0 → neg = false → v = 2 ^ i → gives (xint i)
  | .fin neg v, 2 => (v = 0 → dz neg) ∧ (v ≠ 0 → gives (.fin neg (1 / v)))
  | .fin neg v, 3 => (v = 0 → dz neg) ∧ (v ≠ 0 → neg = true → nv) ∧ (v ≠ 0 → neg = false → Rounds t rm sat false (fun q => q * q * v < 1) (fun q => q * q * v = 1) c fl)
  | .fin neg v, 4 => (v = 0 → c = a ∧ fl = 0) ∧ (v ≠ 0 → neg = true → nv) ∧ (v ≠ 0 → neg = false → Rounds t rm sat false (fun q => q * q < v) (fun q => q * q = v) c fl)
  | .fin _ v, 6 => v = 0 → gives (.fin false (1 / 2))
  | .fin _ v, _ => v = 0 → c = a ∧ fl = 0
/-- The flags of the active lanes below n, and the lowest lane that sets an enabled one (R85, R437). -/
def LaneFlags (n : Nat) (act : Nat → Bool) (en : BitVec 6) (g : Nat → BitVec 6) (fl : BitVec 6) (tv : Word) : Prop :=
  (∀ b, b < 6 → (fl.getLsbD b = true ↔ ∃ j, j < n ∧ act j = true ∧ (g j).getLsbD b = true)) ∧
  ∀ j, j < n → act j = true → g j &&& en ≠ 0 → (∀ j', j' < j → act j' = true → g j' &&& en = 0) → tv = BitVec.ofNat 64 j
/-- The rounding mode of a word (R82, R84). -/
def rmOf (x : Ctx) (f : EV) : Nat := if f.rm = 5 then x.rmode.toNat else f.rm.toNat
/-- A code of an F type under NA or NB: its sign bit inverted (R95). -/
def fneg (na : Bool) (t c : Nat) : Nat := if na then c ^^^ 2 ^ (tyWidth t - 1) else c
/-- What the k-th of laneInstr gives lane j of a type that is no integer: bit operations and moves copy codes, arithmetic rounds the exact result once (R298, R299, R301, R302, R307). -/
def CodeLane (s : State) (c : Nat) (x : Ctx) (f : EV) (k j : Nat) (r : Nat) (fl : BitVec 6) : Prop :=
  let t := f.t.toNat
  let w := tyWidth t
  let A := opnd s c x w f.va j
  let B := opnd s c x w f.vb j
  let D := opnd s c x w f.vd j
  let a := xval t 0 (fneg f.na t A)
  let b := xval t 0 (fneg f.nb t B)
  let rdn := decide (rmOf x f = 3)
  let is := fun (v : Nat) => r = v ∧ fl = 0
  match k with
  | 0 => DeliversNv t (rmOf x f) f.sat (xadd rdn a b) r fl
  | 1 => DeliversNv t (rmOf x f) f.sat (xadd rdn a (xneg b)) r fl
  | 2 => DeliversNv t (rmOf x f) f.sat (xmul a b) r fl
  | 3 => let p := xmul a b; let q := xadd rdn p.1 (xval t 0 (fneg (f.f.getLsbD 0) t D)); DeliversNv t (rmOf x f) f.sat (q.1, p.2 || q.2) r fl
  | 4 => is (extreme t false (fneg f.na t A) (fneg f.nb t B))
  | 5 => is (extreme t true (fneg f.na t A) (fneg f.nb t B))
  | 6 => is (if xnan (xval t 0 A) then nanOf t else A % 2 ^ (w - 1))
  | 7 => is (extreme t false (extreme t true (fneg f.na t A) (fneg f.nb t B)) D)
  | 8 => is (cpl f.na w A &&& cpl f.nb w B)
  | 9 => is (cpl f.na w A ||| cpl f.nb w B)
  | 10 => is (cpl f.na w A ^^^ cpl f.nb w B)
  | 13 => is (if (x.ep.mr (f.f.toNat % 16)).getLsbD j then A else B)
  | 14 => is (fneg f.na t A)
  | 15 => is (opnd s c x w f.va (B % (2048 / w)))
  | 16 => is (opnd s c x w f.va f.f.toNat)
  | 17 => Delivers t 0 false (.fin false (if f.f.getLsbD 0 then ((List.range j).filter fun i => x.ep.active f.g i).length else j)) r fl ∧ fl = 0
  | 18 => SfLane f.f.toNat t (rmOf x f) f.sat (fneg f.na t A) r fl
  | _ => True
/-- One operation of an F-type reduction (R103, R308). -/
def RedOp (op t rm : Nat) (a b c : Nat) (fl : BitVec 6) : Prop :=
  match op with
  | 0 => DeliversNv t rm false (xadd (decide (rm = 3)) (xval t 0 a) (xval t 0 b)) c fl
  | 1 => c = extreme t false a b ∧ fl = 0
  | _ => c = extreme t true a b ∧ fl = 0

end Sys2Proof.Claims

/-- Derived (R29, R79 to R85, R88, R95, R98, R199, R296, R298, R299, R301, R302, R307, R405, R437): the lane instructions on vector registers, broadcasts and zeros complete for every type they accept: only the row of VD, the flags and the pc change, inactive lanes keep their bits, and the trap of an enabled flag comes behind the whole effect. A VD beyond the allotment traps with no effect. Also (R83, R95, R296, R298, R299, R301, R302, R437): the lanes of the integer types: each active lane takes the code of the exact result, wrapped, or under SAT clamped with SV; SV alone can be set, and ETVAL of its trap is the lowest clamped lane. The lanes of the other types: bit operations and moves copy codes; sums, products, fused products, minima, maxima and `VIOTA` of the F types deliver the exact value rounded once, with its flags, and ETVAL is the lowest lane with an enabled flag; so do the reciprocals and roots of `VSF`, its special cases, whole powers and exact logarithms. Where the rules leave room, the model's choices are those of log 12, 32. -/
def Obligations.VectorLanes : Prop :=
  (∀ (f : EV) (s : State) (c n : Nat) (x : Ctx), At s c n .ep x → Quiet s c → ∀ i ∈ laneInstr f, i.wf = true →
    (∀ key, Rows s c x f key → RowIssue i s c n key x (fun y => y.pass .ep 1) fun r _ _ =>
      ∀ j, j < 2048 / tyWidth f.t.toNat → x.ep.active f.g j = false → laneOf r (tyWidth f.t.toNat) j = laneOf ((s.core c).accRow c key) (tyWidth f.t.toNat) j) ∧
    (f.vd.toNat < 1536 → (s.core c).vKey x.lid f.vd.toNat = none → exec i s = .next (s.takeTrap c n .ep 0x08 0 (BitVec.ofNat 64 (2 * 2 ^ 56 + f.vd.toNat)) x.ep.pc)))
  ∧ (∀ (f : EV) (s : State) (c n key : Nat) (x : Ctx), At s c n .ep x → Quiet s c → Rows s c x f key → 8 ≤ f.t.toNat → f.t.toNat ≤ 13 →
    let w := tyWidth f.t.toNat
    ∀ (k : Nat) (i : Instr) (v : Nat → Int), (laneInstr f)[k]? = some i → i.wf = true → (∀ j, (laneVals s c x f w j)[k]? = some (v j)) →
      RowIssue i s c n key x (fun y => y.pass .ep 1) fun r fl tv =>
        (∀ j, j < 2048 / w → laneOf r w j = if x.ep.active f.g j then narrow f.t w f.sat (v j) else laneOf ((s.core c).accRow c key) w j) ∧
        (∀ j, j < 2048 / w → x.ep.active f.g j = true → f.sat = true → leaves f.t w (v j) → (∀ j', j' < j → x.ep.active f.g j' = true → ¬leaves f.t w (v j')) → fl = 32 ∧ (x.ftrapen.getLsbD 5 → tv = BitVec.ofNat 64 j)) ∧
        ((∀ j, j < 2048 / w → x.ep.active f.g j = true → f.sat = true → ¬leaves f.t w (v j)) → fl = 0))
  ∧ (∀ (f : EV) (s : State) (c n key : Nat) (x : Ctx), At s c n .ep x → Quiet s c → Rows s c x f key → ¬ (8 ≤ f.t.toNat ∧ f.t.toNat ≤ 13) →
    let w := tyWidth f.t.toNat
    ∀ (k : Nat) (i : Instr), (laneInstr f)[k]? = some i → i.wf = true → x.rmode.toNat ≤ 4 →
      RowIssue i s c n key x (fun y => y.pass .ep 1) fun r fl tv => ∃ g, LaneFlags (2048 / w) (x.ep.active f.g) x.ftrapen g fl tv ∧
        ∀ j, j < 2048 / w → if x.ep.active f.g j then CodeLane s c x f k j (laneOf r w j) (g j) else laneOf r w j = laneOf ((s.core c).accRow c key) w j)

/-- Derived (R79 to R97, R103, R305, R306, R308, R437): `VCVT`, `VCVTEF` and `VRED`. `VCVT` writes the whole row, zeros above its elements; between integer types each active element takes the value of its source lane, wrapped or clamped; between any types each active element takes its converted value, with its flags and with the zero points of VB. `VCVTEF` writes its result and its residual rows, with the values of R97. `VRED` writes lane 0 whatever the mask and keeps the other lanes; on integer types without SAT it folds its active lanes, and with ACC the old lane 0, from the identity; on F types it combines them in the tree of R103, one rounding an operation. Where the rules leave room, the model's choices are those of log 11, 13. -/
def Obligations.VectorConversionsAndReductions : Prop :=
  ∀ (f : EV) (s : State) (c n key : Nat) (x : Ctx), At s c n .ep x → Quiet s c → Rows s c x f key →
    let w := tyWidth f.t.toNat
    ((Instr.vcvt f).wf = true → let tt := f.f.toNat % 16
      let wt := tyWidth tt
      RowIssue (.vcvt f) s c n key x (fun y => y.pass .ep 1) fun r fl tv =>
        (8 ≤ f.t.toNat ∧ f.t.toNat ≤ 13 ∧ 8 ≤ tt ∧ tt ≤ 13 → let m := 2048 / Nat.max w wt
          (∀ j, j < m → laneOf r wt j = if x.ep.active f.g j then narrow (BitVec.ofNat 4 tt) wt f.sat (iv f.t w (ngd f.na w (opnd s c x w f.va (f.f.toNat / 16 % 8 * m + j)))) else laneOf ((s.core c).accRow c key) wt j) ∧
          r.toNat < 2 ^ (m * wt)) ∧
        (x.rmode.toNat ≤ 4 → let m := 2048 / Nat.max w wt
          let part := f.f.toNat / 16 % 8 * m
          let ob := fun (t : Nat) => t = 6 ∨ t = 7
          r.toNat < 2 ^ (m * wt) ∧ ∃ g, LaneFlags m (x.ep.active f.g) x.ftrapen g fl tv ∧ ∀ j, j < m → if x.ep.active f.g j then
            let A := opnd s c x w f.va (part + j)
            let zs := if ob f.t.toNat then opnd s c x w f.vb ((part + j) / 48) else 0
            let zt := if ob tt then opnd s c x wt f.vb ((if ob f.t.toNat then 1024 / wt else 0) + j / 48) else 0
            ConvTo f.t.toNat tt (rmOf x f) f.sat zt (xval f.t.toNat zs (if 8 ≤ f.t.toNat then ngd f.na w A else fneg f.na f.t.toNat A)) (laneOf r wt j) (g j)
          else laneOf r wt j = laneOf ((s.core c).accRow c key) wt j)) ∧
    ((Instr.vcvtef f).wf = true → ∀ kr, (s.core c).vKey x.lid f.vb.toNat = some kr → let tt := f.f.toNat % 16
      ∃ (r q : Row) (fl : BitVec 6) (tv : Word),
        (∀ j, j < 2048 / w → x.ep.active f.g j = false → laneOf r (tyWidth tt) j = laneOf ((s.core c).accRow c key) (tyWidth tt) j ∧ laneOf q w j = laneOf ((s.core c).accRow c kr) w j) ∧
        r.toNat < 2 ^ (2048 / w * tyWidth tt) ∧
        (x.rmode.toNat ≤ 4 → ∃ g, LaneFlags (2048 / w) (x.ep.active f.g) x.ftrapen g fl tv ∧ ∀ j, j < 2048 / w → x.ep.active f.g j = true →
          let a := xval f.t.toNat 0 (fneg f.na f.t.toNat (opnd s c x w f.va j))
          ∃ g1 g2, ConvTo f.t.toNat tt (rmOf x f) f.sat 0 a (laneOf r (tyWidth tt) j) g1 ∧
            DeliversNv f.t.toNat (rmOf x f) false (xadd (decide (rmOf x f = 3)) a (xneg (xval tt 0 (laneOf r (tyWidth tt) j)))) (laneOf q w j) g2 ∧ g j = g1 ||| g2) ∧
        let y := ({ x with fflags := x.fflags ||| fl } : Ctx).pass .ep 1
        let u := (s.modCore c fun k => (k.setAcc key r).setAcc kr q).setCtx c n y
        SameMem s u ∧ exec (.vcvtef f) s = .next (if fl &&& x.ftrapen = 0 then u else u.takeTrap c n .ep (0x20 + (fl &&& x.ftrapen).toNat.log2) fl.toNat tv y.ep.pc)) ∧
    ((Instr.vred f).wf = true → RowIssue (.vred f) s c n key x (fun y => y.pass .ep 1) fun r fl tv =>
      (∀ i, w ≤ i → i < 2048 → r.getLsbD i = ((s.core c).accRow c key).getLsbD i) ∧
      (8 ≤ f.t.toNat ∧ f.t.toNat ≤ 13 → f.sat = false → fl = 0 ∧
        let op := fun (a b : BitVec w) => match f.f.toNat % 8 with
          | 0 => a + b
          | 1 => if (if sgnTy f.t then b.slt a else b.ult a) then b else a
          | 2 => if (if sgnTy f.t then a.slt b else a.ult b) then b else a
          | 3 => a &&& b
          | 4 => a ||| b
          | _ => a ^^^ b
        let ident : BitVec w := match f.f.toNat % 8 with
          | 1 => if sgnTy f.t then BitVec.intMax w else BitVec.allOnes w
          | 2 => if sgnTy f.t then BitVec.intMin w else 0
          | 3 => BitVec.allOnes w
          | _ => 0
        let lanes := ((List.range (2048 / w)).filter fun j => x.ep.active f.g j).map fun j => BitVec.ofNat w (ngd f.na w (opnd s c x w f.va j))
        laneOf r w 0 = (lanes.foldl op (if f.f.getLsbD 3 then BitVec.ofNat w (laneOf ((s.core c).accRow c key) w 0) else ident)).toNat) ∧
      (f.t.toNat < 3 → x.rmode.toNat ≤ 4 → let op := f.f.toNat % 8
        let t := f.t.toNat
        (fl &&& x.ftrapen ≠ 0 → tv = 0) ∧
        ∃ (v : Nat → Nat → Option Nat) (g : Nat → Nat → BitVec 6) (ga : BitVec 6),
          (∀ j, v 0 j = if j < 2048 / w ∧ x.ep.active f.g j = true then some (fneg f.na t (opnd s c x w f.va j)) else none) ∧
          (∀ l j, match v l (2 * j), v l (2 * j + 1) with
            | some a, some b => ∃ z, v (l + 1) j = some z ∧ RedOp op t (rmOf x f) a b z (g l j)
            | none, o => v (l + 1) j = o ∧ g l j = 0
            | o, none => v (l + 1) j = o ∧ g l j = 0) ∧
          (let one := (v (2048 / w).log2 0).getD (match op with | 0 => 0 | 1 => infOf t false | _ => infOf t true)
           if f.f.getLsbD 3 then RedOp op t (rmOf x f) (laneOf ((s.core c).accRow c key) w 0) one (laneOf r w 0) ga else laneOf r w 0 = one ∧ ga = 0) ∧
          ∀ b, b < 6 → (fl.getLsbD b = true ↔ ga.getLsbD b = true ∨ ∃ l j, (g l j).getLsbD b = true)))

/-- Derived (R81, R85, R300, R303, R304, R437): masks. `VCMP` writes MF and then MT, on an F type with NV for an ordered comparison of a NaN, and with its trap; the forms of `VMASK` write their mask from the lanes of a row, from masks, or from a row's bits; in each, inactive lanes keep the old bit and bits from n up are zero; `VMASK.TOROW` writes a whole row; `VMCNT` counts the active lanes set in its mask, and with `.FIRST` gives the lowest of them, or n. -/
def Obligations.VectorMasks : Prop :=
  ∀ (f : EV) (s : State) (c n : Nat) (x : Ctx), At s c n .ep x → Quiet s c →
    (∀ v ∈ [f.va, f.vb], v.toNat < 1536 ∨ 1552 ≤ v.toNat) → (∀ v ∈ [f.va, f.vb], v.toNat < 1536 → ((s.core c).vKey x.lid v.toNat).isSome) →
    let w := tyWidth f.t.toNat
    let m := 2048 / w
    let A := opnd s c x w f.va
    let mask := fun (d : Nat) (bit : Nat → Bool) (v : BitVec 256) => ∀ j, j < 256 → v.getLsbD j = if m ≤ j then false else if x.ep.active f.g j then bit j else (x.ep.mr d).getLsbD j
    let one := fun (i : Instr) (bit : Nat → Bool) => i.wf = true → ∃ v, mask (f.vd.toNat % 16) bit v ∧ Leaves i s c n ({ x with ep := x.ep.setM (f.vd.toNat % 16) v }.pass .ep 1)
    ((Instr.vcmp f).wf = true → 8 ≤ f.t.toNat → let mt := f.vd.toNat % 16
      let mf := f.vd.toNat / 16 % 16
      let q := fun (j : Nat) => let a := iv f.t w (ngd f.na w (A j)); let b := iv f.t w (ngd f.nb w (opnd s c x w f.vb j))
        match f.rm.toNat with | 0 => decide (a = b) | 1 => decide (a ≠ b) | 2 => decide (a < b) | 3 => decide (a ≤ b) | 4 => decide (b < a) | _ => decide (b ≤ a)
      let md := fun (o q : Bool) => match f.f.toNat with | 0 => q | 1 => o && q | _ => o || q
      ∃ vt vf, mask mt (fun j => md ((x.ep.mr mt).getLsbD j) (q j)) vt ∧ mask mf (fun j => md ((x.ep.mr mf).getLsbD j) (!q j)) vf ∧
        Leaves (.vcmp f) s c n ({ x with ep := (x.ep.setM mf vf).setM mt vt }.pass .ep 1)) ∧
    ((Instr.vcmp f).wf = true → f.t.toNat < 8 → let mt := f.vd.toNat % 16
      let mf := f.vd.toNat / 16 % 16
      let a := fun j => xval f.t.toNat 0 (fneg f.na f.t.toNat (A j))
      let b := fun j => xval f.t.toNat 0 (fneg f.nb f.t.toNat (opnd s c x w f.vb j))
      let un := fun j => xnan (a j) || xnan (b j)
      let q := fun (j : Nat) => match f.rm.toNat with
        | 0 => !un j && !xlt (a j) (b j) && !xlt (b j) (a j) | 1 => un j || xlt (a j) (b j) || xlt (b j) (a j) | 2 => xlt (a j) (b j) | 3 => !un j && !xlt (b j) (a j) | 4 => xlt (b j) (a j) | 5 => !un j && !xlt (a j) (b j) | 6 => un j | _ => !un j
      let md := fun (o q : Bool) => match f.f.toNat with | 0 => q | 1 => o && q | _ => o || q
      ∃ vt vf fl tv, mask mt (fun j => md ((x.ep.mr mt).getLsbD j) (q j)) vt ∧ mask mf (fun j => md ((x.ep.mr mf).getLsbD j) (!q j)) vf ∧
        LaneFlags m (x.ep.active f.g) x.ftrapen (fun j => if un j = true ∧ 2 ≤ f.rm.toNat ∧ f.rm.toNat ≤ 5 then 16 else 0) fl tv ∧
        let y := ({ x with ep := (x.ep.setM mf vf).setM mt vt, fflags := x.fflags ||| fl } : Ctx).pass .ep 1
        SameMem s (s.setCtx c n y) ∧ exec (.vcmp f) s = .next (if fl &&& x.ftrapen = 0 then s.setCtx c n y else (s.setCtx c n y).takeTrap c n .ep 0x24 16 tv y.ep.pc)) ∧
    one (.vmaskNz f) (fun j => A j != 0) ∧
    one (.vmaskFromrow f) (fun j => if f.va.toNat < 1536 then opnd s c x 1 f.va j != 0 else ((A (j / w)).testBit (j % w))) ∧
    one (.vmaskNot f) (fun j => !(x.ep.mr f.va.toNat).getLsbD j) ∧
    one (.vmaskBool f) (fun j => let a := (x.ep.mr f.va.toNat).getLsbD j; let b := (x.ep.mr f.vb.toNat).getLsbD j
      match f.f.toNat with | 1 => a && b | 2 => a || b | 3 => Bool.xor a b | 4 => a && !b | _ => a || !b) ∧
    ((Instr.vmaskTorow f).wf = true → ∀ key, (s.core c).vKey x.lid f.vd.toNat = some key → f.vd.toNat < 1536 → RowIssue (.vmaskTorow f) s c n key x (fun y => y.pass .ep 1) fun r fl _ =>
      fl = 0 ∧ ∀ i, i < 2048 → r.getLsbD i = (decide (i < m) && (x.ep.mr f.va.toNat).getLsbD i)) ∧
    (let hits := (List.range m).filter fun j => x.ep.active f.g j && (x.ep.mr f.va.toNat).getLsbD j
     ((Instr.vmcnt f).wf = true → Leaves (.vmcnt f) s c n ((putE x (f.vd.setWidth 5) (BitVec.ofNat 64 hits.length)).pass .ep 1)) ∧
     ((Instr.vmcntFirst f).wf = true → Leaves (.vmcntFirst f) s c n ((putE x (f.vd.setWidth 5) (BitVec.ofNat 64 (hits.headD m))).pass .ep 1)))

/-- Derived (R36, R309, R437): `VNEST` takes its wait set, once its AP does not stand ready to take the same tokens (R36), and then issues once at a time: each issue of an `VADD` of an integer type is that of the same word with the offsets of its indices added to the registers; the last one, and a record with a zero count at once, signals and goes on behind the record's eight words. A computed register outside v0 to v1535 traps with 0x08. -/
def Obligations.VectorNests : Prop :=
  ∀ (f : VnestF) (s : State) (c n : Nat) (x0 : Ctx), IssuesEp s c n x0 f.g → x0.ap.tsigs = [] → x0.ep.etsigs = [] → tfind x0.ep.nest x0.ep.pc.toNat = none → Allotted s x0 (tkToks f.tk) → s.epTakes c n x0 f.tk.waits = true →
    let x := x0.take f.tk.waits
    let at' := fun (y : Ctx) (t : Tbl (Nat × Nat × Nat × Nat)) => { y with ep := { y.ep with nest := t } }
    let last := fun (y : Ctx) => let z := (at' y (tdel y.ep.nest y.ep.pc.toNat)).pass .ep 8
      match f.tk.sig with | some t => { z with tok := tset y.tok t.toNat (y.token t + 1) } | none => z
    (∀ t, f.tk.sig = some t → x.token t < 255) →
    (f.c.l0 = 0 ∨ f.c.l1 = 0 ∨ f.c.l2 = 0 ∨ f.c.l3 = 0 → Leaves (.vnest f) s c n (last x)) ∧
    (Quiet s c → f.opc = 0x80 → (Instr.vadd f.vw).wf = true → 8 ≤ f.vw.t.toNat →
      ∀ i : Nat × Nat × Nat × Nat, i.1 < f.c.l0.toNat → i.2.1 < f.c.l1.toNat → i.2.2.1 < f.c.l2.toNat → i.2.2.2 < f.c.l3.toNat →
      let off := fun (q : Q16) => (i.1 : Int) * q.l0.toInt + (i.2.1 : Int) * q.l1.toInt + (i.2.2.1 : Int) * q.l2.toInt + (i.2.2.2 : Int) * q.l3.toInt
      let moved := fun (v : BitVec 11) (q : Q16) => (v.toNat : Int) + off q
      let x1 := if i = (0, 0, 0, 0) then x else at' x (tset x.ep.nest x.ep.pc.toNat i)
      let s1 := if i = (0, 0, 0, 0) then s else s.setCtx c n x1
      let w := tyWidth f.vw.t.toNat
      let nxt : Option (Nat × Nat × Nat × Nat) :=
        if i.1 + 1 < f.c.l0.toNat then some (i.1 + 1, i.2.1, i.2.2.1, i.2.2.2)
        else if i.2.1 + 1 < f.c.l1.toNat then some (0, i.2.1 + 1, i.2.2.1, i.2.2.2)
        else if i.2.2.1 + 1 < f.c.l2.toNat then some (0, 0, i.2.2.1 + 1, i.2.2.2)
        else if i.2.2.2 + 1 < f.c.l3.toNat then some (0, 0, 0, i.2.2.2 + 1) else none
      (∀ (ev : EV) (key : Nat), Rows s c x ev key → ev = { f.vw with vd := ev.vd, va := ev.va, vb := ev.vb } →
        (∀ p ∈ [(f.vw.vd, f.ds, ev.vd), (f.vw.va, f.as, ev.va), (f.vw.vb, f.bs, ev.vb)], (p.1.toNat < 1536 → (p.2.2.toNat : Int) = moved p.1 p.2.1 ∧ p.2.2.toNat < 1536) ∧ (1536 ≤ p.1.toNat → p.2.2 = p.1 ∧ p.2.1 = ⟨0, 0, 0, 0⟩)) →
        RowIssue (.vnest f) s1 c n key x1 (fun y => match nxt with | some k => at' y (tset y.ep.nest y.ep.pc.toNat k) | none => last y) fun r _ _ =>
          ∀ j, j < 2048 / w → laneOf r w j = if x.ep.active ev.g j
            then narrow ev.t w ev.sat (iv ev.t w (ngd ev.na w (opnd s c x w ev.va j)) + iv ev.t w (ngd ev.nb w (opnd s c x w ev.vb j)))
            else laneOf ((s.core c).accRow c key) w j) ∧
      (f.vw.vd.toNat < 1536 → moved f.vw.vd f.ds < 0 ∨ 1536 ≤ moved f.vw.vd f.ds → f.vw.va.toNat < 1536 → f.vw.vb.toNat < 1536 → ∃ tv, exec (.vnest f) s1 =
        .next ((s1.setCtx c n (at' x1 (tset x1.ep.nest x.ep.pc.toNat i))).takeTrap c n .ep 0x08 0 tv x.ep.pc)))

/-- Derived (R161, R210, R295, R405, R410): a `VMOV` from an input port pops the data row at its head into VD; one into an output port fills the tail row; an unbound port that can no longer be bound traps with 0x09, and an end-of-stream marker at the head traps with 0x0A and is not popped; a port with no row, or no room, stalls. Also (R80, R311, R316, R317): `EXTR` and `EINS` move one lane between a row and an e register; `EPORT` describes a port without popping it; `EEOS` pushes an end-of-stream marker into its stream, into an unbound port that can no longer be bound it traps with 0x09. Where the rules leave room, the model's choices are those of log 19, 32, 33. -/
def Obligations.VectorPorts : Prop :=
  (∀ (f : EV) (s : State) (c n : Nat) (x : Ctx), At s c n .ep x → Quiet s c → (Instr.vmov f).wf = true → f.g = ⟨false, 0⟩ → f.na = false →
    (∀ p key, f.va.toNat = 1536 + p → p < 8 → f.vd.toNat < 1536 → (s.core c).vKey x.lid f.vd.toNat = some key →
      (∀ id st, s.portStream c x p = some (id, st) → st.saved = false → 0 < st.count → (s.core c).isFull (st.key st.head) = true →
        ((s.core c).kindOf (st.key st.head) = 0 → Ends (.vmov f) s fun t => SameMem s t ∧ t.ctx c n = some (x.pass .ep 1) ∧
          (t.core c).accRow c key = (s.core c).row c (st.key st.head) ∧ (∀ k, k ≠ key → (t.core c).accRow c k = (s.core c).accRow c k) ∧
          (t.core c).isFull (st.key st.head) = false ∧ (∀ k, k ≠ st.key st.head → (t.core c).isFull k = (s.core c).isFull k) ∧
          tfind (t.core c).streams id = some { st with head := (st.head + 1) % Nat.max 1 st.depth, count := st.count - 1, headPos := st.after st.headPos, held := if dOut st.desc then 0 else Nat.min (st.held + 1) (Nat.max (dRetain st.desc) st.repl) }) ∧
        ((s.core c).kindOf (st.key st.head) = 1 → exec (.vmov f) s = .next (s.takeTrap c n .ep 0x0A 0 (BitVec.ofNat 64 (((s.core c).row c (st.key st.head)).toNat % 256 * 256 + p)) x.ep.pc))) ∧
      (∀ id st, s.portStream c x p = some (id, st) → st.saved = false → st.count = 0 → exec (.vmov f) s = .next (s.modCore c fun k => k.endBlock .ep)) ∧
      (s.portStream c x p = none → x.ap.exited = true → (s.core c).queue .stream = [] → exec (.vmov f) s = .next (s.takeTrap c n .ep 0x09 0 (BitVec.ofNat 64 p) x.ep.pc)) ∧
      (s.portStream c x p = none → x.ap.exited = false → exec (.vmov f) s = .next (s.modCore c fun k => k.endBlock .ep))) ∧
    (∀ p key, f.vd.toNat = 1536 + p → 8 ≤ p → p < 16 → f.va.toNat < 1536 → (s.core c).vKey x.lid f.va.toNat = some key →
      ∀ id st, s.portStream c x p = some (id, st) → st.saved = false → st.seos = none → (s.core c).isFull (st.key st.tail) = false →
        (st.count + st.held < st.depth → Ends (.vmov f) s fun t => SameMem s t ∧ t.ctx c n = some (x.pass .ep 1) ∧ (∀ k, (t.core c).accRow c k = (s.core c).accRow c k) ∧
          (t.core c).row c (st.key st.tail) = (s.core c).accRow c key ∧ (∀ k, k ≠ st.key st.tail → (t.core c).row c k = (s.core c).row c k) ∧
          (t.core c).isFull (st.key st.tail) = true ∧ (t.core c).kindOf (st.key st.tail) = 0 ∧
          tfind (t.core c).streams id = some { st with tail := (st.tail + 1) % Nat.max 1 st.depth, count := st.count + 1 }) ∧
        (st.depth ≤ st.count + st.held → exec (.vmov f) s = .next (s.modCore c fun k => k.endBlock .ep))))
  ∧ ((∀ (f : EeF) (s : State) (c n key : Nat) (x : Ctx), IssuesEp s c n x f.g → Quiet s c → (Instr.extr f).wf = true → (s.core c).vKey x.lid f.v.toNat = some key →
    let w := tyWidth f.t.toNat
    let v := laneOf ((s.core c).accRow c key) w f.lane.toNat
    Leaves (.extr f) s c n ((putE x f.e (if sgnTy f.t then (BitVec.ofNat w v).signExtend 64 else BitVec.ofNat 64 v)).pass .ep 1) ∧
    ∃ r : Row, (∀ i, i < 2048 → r.getLsbD i = if w * f.lane.toNat ≤ i ∧ i < w * f.lane.toNat + w then (x.ep.e' f.e.toNat).getLsbD (i - w * f.lane.toNat) else ((s.core c).accRow c key).getLsbD i) ∧
      Ends (.eins f) s fun t => SameMem s t ∧ t = (s.modCore c fun k => k.setAcc key r).setCtx c n (x.pass .ep 1)) ∧
  (∀ (f : EportF) (s : State) (c n : Nat) (x : Ctx), IssuesEp s c n x f.g →
    let w := fun (v : Nat) => Leaves (.eport f) s c n ((putE x f.d (BitVec.ofNat 64 v)).pass .ep 1)
    (s.portStream c x f.port.toNat = none → w 8) ∧
    (∀ id st, s.portStream c x f.port.toNat = some (id, st) → let flt := if st.flt then 4 else 0
      let key := st.key st.head
      (8 ≤ f.port.toNat → w ((st.depth - st.count) * 2 ^ 16 + flt)) ∧
      (f.port.toNat < 8 → st.saved = false → st.count = 0 → w (flt + 3)) ∧
      (f.port.toNat < 8 → st.saved = false → 0 < st.count → (s.core c).isFull key = true →
        ((s.core c).kindOf key = 0 → w (st.count * 2 ^ 16 + flt)) ∧
        ((s.core c).kindOf key = 1 → w (st.count * 2 ^ 16 + ((s.core c).row c key).toNat % 2 ^ 8 * 2 ^ 8 + flt + 1)) ∧
        ((s.core c).kindOf key = 2 → w (((s.core c).row c key).toNat % 2 ^ 32 * 2 ^ 32 + st.count * 2 ^ 16 + flt + 2))))) ∧
  (∀ (f : EeosF) (s : State) (c n : Nat) (x : Ctx), IssuesEp s c n x f.g →
    (s.portStream c x (8 + f.port.toNat) = none → x.ap.exited = true → (s.core c).queue .stream = [] → exec (.eeos f) s = .next (s.takeTrap c n .ep 0x09 0 (BitVec.ofNat 64 (8 + f.port.toNat)) x.ep.pc)) ∧
    (∀ id st, s.portStream c x (8 + f.port.toNat) = some (id, st) → st.saved = false → st.seos = none → st.eosw = false →
      (s.core c).isFull (st.key st.tail) = false → st.count + st.held < st.depth →
      Ends (.eeos f) s fun t => SameMem s t ∧ t.ctx c n = some (x.pass .ep 1) ∧ (t.core c).row c (st.key st.tail) = BitVec.ofNat 2048 f.status.toNat ∧
        (t.core c).kindOf (st.key st.tail) = 1 ∧ (t.core c).isFull (st.key st.tail) = true ∧ (∀ k, k ≠ st.key st.tail → (t.core c).row c k = (s.core c).row c k) ∧
        tfind (t.core c).streams id = some { st with tail := (st.tail + 1) % Nat.max 1 st.depth, count := st.count + 1, eosw := true })))

/-- Derived (R74, R319, R320, R395, R439): `SEGB` opens a segment at the CRC's initial value; `SEGE` with no earlier matrix record of its context pending, outside a duplex launch, closes it and delivers the signature. A signature that differs from eA, and `SEGB` and `SEGE` out of place, write a CLASS 4 record into an empty fault slot and go on. Where the rules leave room, the model's choices are those of log 30, 31. -/
def Obligations.Segments : Prop :=
  ∀ (s : State) (c n : Nat) (x : Ctx), x.afs = none → x.gone = false →
    let recorded := fun (y z : Ctx) (cause : Nat) => ∃ r : FaultRec, r.cls = 4 ∧ r.sev = 1 ∧ r.cause = BitVec.ofNat 16 cause ∧ r.lid = x.lid ∧ z = { y with afs := some (r, .ep) }
    (∀ f : G0, IssuesEp s c n x f.g →
      (x.segOpen = false → Leaves (.segb f) s c n (({ x with segOpen := true, segSig := 0xFFFFFFFF, segCnt := 0, segHwOff := false, segFrom := s.serial } : Ctx).pass .ep 1)) ∧
      (x.segOpen = true → ∃ z, recorded x z 13 ∧ Leaves (.segb f) s c n (z.pass .ep 1))) ∧
    (∀ f : SegeF, IssuesEp s c n x f.g → (∀ m ∈ (s.core c).pendingCmds, m.slot = n → m.lid = x.lid → cmdMaster c m ≠ coreMaster 4 c n 0 ∨ ∃ q, m.instr = .tstart q) → (∀ l, s.launch x.lid = some l → l.flag 5 = false) →
      let sig := x.segSig ^^^ 0xFFFFFFFF#32
      let y : Ctx := { x with segOpen := false, segHwOff := false, ep := x.ep.setE f.d.toNat (sig.setWidth 64) }
      (x.segOpen = true → f.a = 0 ∨ (x.ep.e' f.a.toNat).setWidth 32 = sig → Leaves (.sege f) s c n (y.pass .ep 1)) ∧
      (x.segOpen = true → f.a ≠ 0 → (x.ep.e' f.a.toNat).setWidth 32 ≠ sig → ∃ z, recorded y z 12 ∧ Leaves (.sege f) s c n (z.pass .ep 1)) ∧
      (x.segOpen = false → ∃ z, recorded (putE x f.d 0) z 13 ∧ Leaves (.sege f) s c n (z.pass .ep 1)))

/-! ## What starts on its own in a core -/
namespace Sys2Proof.Claims

/-- y after a signal of a token, if one is named (R35). -/
def signalled (y : Ctx) (t : Option (BitVec 4)) : Ctx := match t with | some k => { y with tok := tset y.tok k.toNat (y.token k + 1) } | none => y
/-- The command m heads queue q of core c before l; its context x runs, all its accesses are performed, its wait set can be taken and no party before it in the order of R36 needs its tokens; its number is its own, and no engine has bytes for a register. -/
structure Head (s : State) (c : Nat) (q : Qid) (m : Cmd) (l : List Cmd) (x : Ctx) : Prop where
  queue : (s.core c).queue q = m :: l
  ctx : s.ctx c m.slot = some x
  lid : x.lid = m.lid
  runs : x.frozen = none
  accs : x.ap.accs = []
  take : x.settle.canTake m.tk.waits = true
  own : ∀ e ∈ l ++ (s.core c).live, e.id ≠ m.id
  regs : s.regq = []
  room : ∀ k, m.tk.sig = some k → (x.settle.take m.tk.waits).token k < 255
  first : s.yields c q m = false
  clean : s.poisonLoc.contains (.queue c m.id) = false
/-- From s to t, m has left queue q; the other queues and every byte of memory are as before. -/
structure Left (s t : State) (c : Nat) (q : Qid) (l : List Cmd) : Prop where
  queue : (t.core c).queue q = l
  others : ∀ p, qKey p ≠ qKey q → (t.core c).queue p = (s.core c).queue p
  mem : SameMem s t
/-- The same, and m has completed: it is not live, and its wait set is taken and its token signalled in x. -/
structure Finished (s t : State) (c : Nat) (q : Qid) (m : Cmd) (l : List Cmd) (x : Ctx) : Prop extends Left s t c q l where
  live : (t.core c).live = (s.core c).live
  ctx : t.ctx c m.slot = some (signalled (x.settle.take m.tk.waits) m.tk.sig)
/-- The stream moved one row on at its head: the row is empty and, of an inbound stream, held within H (R161). -/
def popped (st : Stream) : Stream :=
  { st with
    head := (st.head + 1) % Nat.max 1 st.depth, count := st.count - 1, headPos := st.after st.headPos
    held := if dOut st.desc then 0 else Nat.min (st.held + 1) (Nat.max (dRetain st.desc) st.repl) }
/-- The byte address of row n of a nest of byte strides (R154). -/
def nestAddr (d : BitVec 512) (n : Nat) : Int :=
  (dBase d : Int) + (n % dN d 0 : Nat) * dD d 0 + (n / dN d 0 % dN d 1 : Nat) * dD d 1 + (n / dN d 0 / dN d 1 % dN d 2 : Nat) * dD d 2 + (n / dN d 0 / dN d 1 / dN d 2 : Nat) * dD d 3
/-- The descriptor names a scratchpad nest of rows of bytes. -/
structure LocalBytes (d : BitVec 512) : Prop where
  kind : dKind d = 1
  plain : dTmode d = false ∧ dUnit d = false ∧ dBoff d = 0
  width : dW d = 8
  trips : ∀ i, i < 4 → 0 < dN d i
  len : 0 < dRowlen d ∧ dRowlen d ≤ 256
/-- All the bytes of a local range are in the allotment and outside owned banks. -/
def Within (s : State) (c : Nat) (lid : BitVec 32) (a n : Nat) : Prop := a + n < 2 ^ 64 ∧ ∀ i, i < n → ((s.core c).locBytes c lid (a + i) 1).isSome

end Sys2Proof.Claims

/-- Derived (R32, R35, R169, R181, R183, R266, R268, R278, R279): a queue head that can take its wait set starts and leaves its queue; one that cannot, stays. `SMARK` notes the head's position and completes; naming no stream of its context it halts with a CLASS 2 record; a `CPY` of length 0 and a `CPDRAIN` with no earlier copy complete at once; a copy within the scratchpad joins its die's copies; a `ROT` waits with its launch. Where the rules leave room, the model's choices are those of log 27. -/
def Obligations.QueueHeadsStart : Prop :=
  ∀ (s : State) (c : Nat) (q : Qid) (m : Cmd) (l : List Cmd) (x : Ctx), Head s c q m l x →
    (∀ f, m.instr = .smark f → q = .stream →
      (∀ st, s.stream c f.st.toNat = some st → st.owner = m.slot → st.lid = m.lid → st.saved = false → dOut st.desc = false → Ends (.queueHeadStart c q) s fun t =>
        Finished s t c q m l x ∧ (t.core c).streams = tset (s.core c).streams f.st.toNat { st with mark := some st.headPos, run := st.run.filter (· != m.id) }) ∧
      (s.stream c f.st.toNat = none → x.afs = none → x.gone = false → Ends (.queueHeadStart c q) s fun t =>
        Left s t c q l ∧ (t.core c).live = (s.core c).live ∧ ∃ r : FaultRec, r.cls = 2 ∧ r.cause = 2 ∧ r.sev = 1 ∧ r.lid = m.lid ∧ t.ctx c m.slot = some { x.settle.take m.tk.waits with afs := some (r, .ap) })) ∧
    (∀ f, m.instr = .cpy f → q = .ch f.ch.toNat → ∀ a b k : Word, m.vals = [a, b, k] →
      ((∀ e ∈ (s.core c).live, cpyOf e.instr = none ∧ ∀ g, e.instr ≠ .cpdrain g) → k = 0 → Ends (.queueHeadStart c q) s fun t => Finished s t c q m l x) ∧
      (k ≠ 0 → f.sl = true → f.dl = true → f.tm = false → f.mode = .plain → (s.core c).locOk m.lid a.toNat k.toNat = true → (s.core c).locOk m.lid b.toNat k.toNat = true →
        Ends (.queueHeadStart c q) s fun t => Left s t c q l ∧ (t.core c).live = (s.core c).live ++ [m] ∧ t.ctx c m.slot = some (x.settle.take m.tk.waits) ∧
          (t.die (dieOf c)).copies = (s.die (dieOf c)).copies ++ [{ cmd := m, core := c, prio := f.prio.toNat, arr := s.serial, len := k.toNat, src := a.toNat, dst := b.toNat, next := 0, flight := [], asked := none, taken := [], stop := none }])) ∧
    (∀ f, m.instr = .cpdrain f → q = .ch f.ch.toNat → (s.core c).pendingCmds = m :: l → (∀ e ∈ l, m.id < e.id) → Ends (.queueHeadStart c q) s fun t => Finished s t c q m l x) ∧
    (∀ f, m.instr = .rot f → q = .stream → ∀ a b : Word, m.vals = [a, b] → a.toNat % 256 = 0 → b.toNat % 256 = 0 →
      (s.core c).locOk m.lid a.toNat (256 * (f.nr.toNat + 1)) = true → (s.core c).locOk m.lid b.toNat (256 * (f.nr.toNat + 1)) = true → Ends (.queueHeadStart c q) s fun t =>
        Left s t c q l ∧ (t.core c).live = (s.core c).live ++ [m] ∧
        ∀ g, s.launch m.lid = some g → ∃ r : RotReq, r.cmd = m ∧ r.core = c ∧ r.src = a.toNat ∧ r.dst = b.toNat ∧ r.rows = f.nr.toNat + 1 ∧ r.k = tget g.rotNum 0 r.rank ∧ t.launch m.lid = some { g with rots := g.rots ++ [r], rotNum := tset g.rotNum r.rank (r.k + 1) }) ∧
    (∀ (w : WaitSet) (f : StcF), m.instr = .smark f → q = .stream → x.settle.canTake w = false →
      let m' : Cmd := { m with tk := { m.tk with waits := w } }
      let s' := s.modCore c fun k => k.setQueue q (m' :: l)
      exec (.queueHeadStart c q) s' = .next s')

/-- Derived (R161, R164, R271, R272): `SOPEN` of a valid local descriptor, whose handle and port are free, opens the stream at position 0 with an empty ring and binds its port; it does not complete yet. `SCLOSE` of a stream that is over, its end marker in its buffer or, of an outbound one, at its far end, frees the handle, the port and the ring, and completes. Where the rules leave room, the model's choices are those of log 23. -/
def Obligations.StreamsOpenAndClose : Prop :=
  ∀ (s : State) (c : Nat) (m : Cmd) (l : List Cmd) (x : Ctx), Head s c .stream m l x →
    (∀ f, m.instr = .sopen f → ∀ (a : Word) (bs : List Byte) (b : Nat), m.vals = [a] → f.loc = true → f.ne = false → (∀ q ∈ s.coreStreams c, q.1 ≠ f.st.toNat) →
      (s.core c).locBytes c m.lid a.toNat 64 = some bs → a.toNat % 64 = 0 → let d := BitVec.ofNat 512 (leNat bs)
      let port := if dOut d then 8 + f.np.toNat else f.np.toNat
      descOk d false = true → dKind d ∈ [0, 1, 2, 6] → dTmode d = false → (s.core c).bankOf m.lid (dBank d) = some b → (s.core c).grid.running = none →
      tfind x.ports port = none → s.poisonLoc = [] → (∀ q ∈ s.cores, ∀ t ∈ q.2.streams, t.2.effects = []) →
      Ends (.queueHeadStart c .stream) s fun t => Left s t c .stream l ∧ (t.core c).live = (s.core c).live ++ [m] ∧ (t.core c).banks = (s.core c).banks ∧
        (∃ st : Stream, (t.core c).streams = tset (s.core c).streams f.st.toNat st ∧ st.desc = d ∧ st.owner = m.slot ∧ st.lid = m.lid ∧ st.cmd = m.id ∧ st.near = .ep f.np.toNat ∧
          st.bank = b ∧ st.first = dFirst d ∧ st.depth = dDepth d ∧ st.pos = 0 ∧ st.head = 0 ∧ st.tail = 0 ∧ st.count = 0 ∧ st.held = 0 ∧ st.mark = none ∧ st.eosw = false ∧ st.done = false ∧
          (∀ j, (t.core c).isFull (st.key j) = false) ∧ ∀ key, (∀ j, key ≠ st.key j) → (t.core c).isFull key = (s.core c).isFull key) ∧
        t.ctx c m.slot = some { x.settle.take m.tk.waits with ports := tset x.ports port f.st.toNat }) ∧
    (∀ f, m.instr = .sclose f → ∀ st, s.stream c f.st.toNat = some st → st.owner = m.slot → st.lid = m.lid → st.saved = false → st.over = true → st.out = none → st.seos = none → st.effects = [] → 0 < st.depth →
      Ends (.queueHeadStart c .stream) s fun t => Left s t c .stream l ∧ (t.core c).live = (s.core c).live ∧ (t.core c).streams = tdel (s.core c).streams f.st.toNat ∧
        (∀ j, (t.core c).isFull (st.key j) = false) ∧ (∀ key, (∀ j, key ≠ st.key j) → (t.core c).isFull key = (s.core c).isFull key) ∧
        t.ctx c m.slot = some (signalled { x.settle.take m.tk.waits with ports := x.ports.filter fun p => p.2 != f.st.toNat } m.tk.sig))

/-- Derived (R26, R127, R154, R155, R161, R164, R167, R190, R191): the rows of streams. A local stream in fetches the bytes of its next position into its tail row, zeros above them, while there is room, and behind its nest the marker; one out begins to write its head row, which is empty from then on, and the bytes then stand at its next position; reading and writing a row of a bank takes a cycle of the bank's (R26). A row on its way between cores fills the consumer's tail. An alarm stream whose row has waited 10 us for credit diverts when its launch has a log, and goes back to the host once the log is empty. Where the rules leave room, the model's choices are those of log 19, 26. -/
def Obligations.StreamRows : Prop :=
  ∀ (s : State) (c i : Nat) (st : Stream), s.stream c i = some st → s.poisonLoc = [] → st.saved = false → st.flt = false → st.eosw = false → st.seos = none → st.owe = none →
    (dOut st.desc = false → st.effects = [] → st.run = [] → st.runOpen = false → st.forkOn = false → st.endPos = none → st.early = [] → (s.core c).canFill st = true →
      (LocalBytes st.desc → st.paused = none → st.pos < dTotal st.desc → ∀ a : Nat, (a : Int) = nestAddr st.desc st.pos → Within s c st.lid a (dRowlen st.desc) →
        ∃ r : Row, (∀ j, j < 256 → r.extractLsb' (8 * j) 8 = if j < dRowlen st.desc then (s.core c).locByte c st.lid (a + j) else 0) ∧
          Ends (.streamRowFetch c ⟨i, []⟩) s fun t => SameMem s t ∧
            t.cycles = s.cycles + (((List.range (dRowlen st.desc)).map fun j => (a + j) / 256).eraseDups).length ∧
            t = { s.modCore c fun k => { ((k.setRow (st.key st.tail) r).setKind (st.key st.tail) 0).setFull (st.key st.tail) true with
            streams := tset k.streams i { st with tail := (st.tail + 1) % Nat.max 1 st.depth, count := st.count + 1, pos := st.pos + 1, asked := none, askPas := [] } } with cycles := t.cycles, durRel := t.durRel }) ∧
      (LocalBytes st.desc → st.paused = none → dTotal st.desc ≤ st.pos → st.done = true → Ends (.streamRowFetch c ⟨i, []⟩) s fun t => SameMem s t ∧
        t = { s.modCore c fun k => { ((k.setRow (st.key st.tail) 0).setKind (st.key st.tail) 1).setFull (st.key st.tail) true with
            streams := tset k.streams i { st with tail := (st.tail + 1) % Nat.max 1 st.depth, count := st.count + 1, eosw := true, asked := none, askPas := [] } } with durRel := t.durRel }) ∧
      (∀ (r : KRow) (l : List KRow), st.transit = r :: l → r.kind = 0 → (∀ c2, s.mateCore st.lid c (dFar st.desc).1 = some c2 → s.crossHeld c2 (dieOf c) = false) → Ends (.intercoreRowArrive c i) s fun t => SameMem s t ∧
        t = { s.modCore c fun k => { ((k.setRow (st.key st.tail) r.row).setKind (st.key st.tail) 0).setFull (st.key st.tail) true with
            streams := tset k.streams i { st with tail := (st.tail + 1) % Nat.max 1 st.depth, count := st.count + 1, pos := st.pos + 1, asked := none, askPas := [], transit := l } } with durRel := t.durRel })) ∧
    (dOut st.desc = true → LocalBytes st.desc → st.out = none → st.sent = false → s.regq = [] → st.paused = none → st.divert = false → 0 < st.count → (s.core c).isFull (st.key st.head) = true → (s.core c).kindOf (st.key st.head) = 0 →
      st.pos < dTotal st.desc → ∀ a : Nat, (a : Int) = nestAddr st.desc st.pos → Within s c st.lid a (dRowlen st.desc) →
      ∃ u : State, exec (.streamRowWrite c ⟨i, []⟩) s = .next u ∧ SameMem s u ∧ (∀ key, (u.core c).row c key = (s.core c).row c key) ∧ (u.core c).isFull (st.key st.head) = false ∧
        (∃ o, (u.core c).streams = tset (s.core c).streams i { popped st with out := some o } ∧ o.row = (s.core c).row c (st.key st.head) ∧ o.loc = true ∧ o.landed = [] ∧ o.since = s.time.toNat) ∧
      Ends (.streamRowWrite c ⟨i, []⟩) u fun t => SameMem s t ∧
        (∀ j, j < dRowlen st.desc → (t.core c).locByte c st.lid (a + j) = ((s.core c).row c (st.key st.head)).extractLsb' (8 * j) 8) ∧
        (∀ key, (∀ j y, j < dRowlen st.desc → (s.core c).locOf st.lid (a + j) ≠ some (key, y)) → (t.core c).row c key = (s.core c).row c key) ∧
        (t.core c).isFull (st.key st.head) = false ∧ (t.core c).streams = tset (s.core c).streams i { popped st with pos := st.pos + 1 }) ∧
    (dOut st.desc = true → dKind st.desc = 6 → dQos st.desc = 3 → ∀ a, s.divertLog st.lid = some a →
      (∀ o, st.out = some o → o.since + 10000 ≤ s.time.toNat → exec (.alarmCreditTimeout c i) s = .next (s.modCore c fun k => { k with streams := tset k.streams i { st with divert := true } })) ∧
      (st.divert = true → (∀ l ∈ s.launches, l.divRows = []) → Ends (.hostCreditReturn c i) s fun t => SameMem s t ∧
        t = { s with cores := s.cores.map fun q => (q.1, { q.2 with streams := q.2.streams.map fun p => (p.1, if p.2.lid == st.lid then { p.2 with divert := false } else p.2) }) }))

/-- Derived (R35, R36, R37, R60, R61, R282, R288, R318): a pending `TSIG` or `ETSIG` takes its wait set once it can and, with no access before it, signals; a notify marker with nothing pending before it signals; a context whose processors have exited, with nothing pending, releases its operand slots and leaves its context slot. A block ends after twelve cycles when another context can run, and the processor then selects the next such slot. Where the rules leave room, the model's choices are those of log 6, 7, 38. -/
def Obligations.TokensMarkersAndBlocks : Prop :=
  (∀ (s : State) (c n : Nat) (x : Ctx) (p : TsigP), s.ctx c n = some x → x.frozen = none → x.ap.accs = [] → p.taken = false →
    let sig := fun (y : Ctx) => signalled (y.take p.tk.waits) p.tk.sig
    (∀ k, p.tk.sig = some k → (x.take p.tk.waits).token k < 255) →
    (x.ap.tsigs = [p] → x.ep.etsigs = [] →
      (x.canTake p.tk.waits = true → Leaves (.tsigTake c n) s c n (sig { x with ap := { x.ap with tsigs := [] } })) ∧
      (x.canTake p.tk.waits = false → Leaves (.tsigTake c n) s c n x)) ∧
    (x.ap.tsigs = [] → x.ep.etsigs = [p] →
      (x.canTake p.tk.waits = true → Leaves (.etsigTake c n) s c n (sig { x with ep := { x.ep with etsigs := [] } })) ∧
      (x.canTake p.tk.waits = false → Leaves (.etsigTake c n) s c n x))) ∧
  (∀ (s : State) (c n : Nat) (x : Ctx) (k : Marker), s.ctx c n = some x → x.frozen = none → x.markers = [k] → (∀ m ∈ (s.core c).pendingCmds, m.slot ≠ n ∨ m.lid ≠ x.lid) →
    (x.ap.exited = false → (∀ t, k.sig = some t → x.token t < 255) → Ends (.notifyMarkerReached c n) s fun t => SameMem s t ∧
      t = { s.setCtx c n (signalled { x with markers := [] } k.sig) with dstores := t.dstores }) ∧
    (x.ap.exited = true → x.ep.exited = true → x.ap.accs = [] → x.afs = none → k.sig = none → (∀ q ∈ (s.core c).streams, q.2.owner ≠ n ∨ q.2.lid ≠ x.lid) →
      exec (.notifyMarkerReached c n) s = .next (s.modCore c fun k => { k.releaseSlots n x.lid with ctxs := tdel k.ctxs n }))) ∧
  (∀ (s : State) (c : Nat) (p : Proc) (n : Nat), ((s.core c).blk p).sel = some n →
    let can := fun (j : Nat) => s.runnable c j p = true
    (((s.core c).blk p).ended = false → ((s.core c).blk p).since + 12 ≤ s.cycles → (∃ j, j < 4 ∧ j ≠ n ∧ can j) → exec (.blockSliceExpiry c p) s = .next (s.modCore c fun k => k.endBlock p)) ∧
    (((s.core c).blk p).since + 12 ≤ s.cycles → (∀ j, j < 4 → j ≠ n → ¬can j) → exec (.blockSliceExpiry c p) s = .next s) ∧
    (((s.core c).blk p).ended = true → ∀ d, 1 ≤ d → d ≤ 4 → can ((n + d) % 4) → (∀ e, 1 ≤ e → e < d → ¬can ((n + e) % 4)) →
      exec (.contextSelect c p) s = .next (s.modCore c fun k => k.setBlk p { sel := some ((n + d) % 4), ended := false, since := s.cycles })))

/-- Derived (R178, R179, R181, R183): a die with a free engine dispatches the next chunk of a copy within the scratchpad: it reads at most 2048 bytes of its source; when the chunk is done the bytes stand at its sink, and the last one completes the copy. A rotation of a placed gang starts when every rank has started its own with one length, each reading the source of the rank before it; it completes with those bytes at its destination. Where the rules leave room, the model's choices are those of log 27. -/
def Obligations.CopiesAndRotations : Prop :=
  (∀ (s : State) (d : Die) (r : CopyRun) (f : CpyF) (x : Ctx), (s.die d).copies = [r] → r.cmd.instr = .cpy f → f.sl = true → f.dl = true → f.tm = false → f.mode = .plain →
    d = dieOf r.core → s.poisonLoc = [] → r.early = [] → (s.core r.core).live = [r.cmd] → r.stop = none → s.regq = [] → s.ctx r.core r.cmd.slot = some x → x.lid = r.cmd.lid → (∀ k, r.cmd.tk.sig = some k → x.token k < 255) →
    (2048 * r.next < r.len → r.flight = [] → r.prio < 4 → (s.die d).deficit = [] → let off := 2048 * r.next
      let n := Nat.min 2048 (r.len - off)
      ∀ bs, (s.core r.core).locBytes r.core r.cmd.lid (r.src + off) n = some bs → Ends (.copyChunkDispatch d) s fun t => SameMem s t ∧ t.cores = s.cores ∧
        (t.die d).copies = [{ r with next := r.next + 1, taken := [], asked := none, flight := [{ id := s.serial, since := s.time.toNat, far := none, off := off, data := bs, runs := [(r.dst + off, n)], tags := [] }] }]) ∧
    (∀ k a, r.flight = [k] → k.runs = [(a, k.data.length)] → k.tags = [] → k.data.length ≤ 2048 → r.len ≤ 2048 * r.next → Within s r.core r.cmd.lid a k.data.length →
      Ends (.copyChunkDone d ⟨k.id, []⟩) s fun t => SameMem s t ∧ (t.die d).copies = [] ∧ (t.core r.core).live = [] ∧ t.ctx r.core r.cmd.slot = some (signalled x r.cmd.tk.sig) ∧
        (∀ i, i < k.data.length → k.data[i]? = some ((t.core r.core).locByte r.core r.cmd.lid (a + i))) ∧
        (∀ key, (∀ i y, i < k.data.length → (s.core r.core).locOf r.cmd.lid (a + i) ≠ some (key, y)) → (t.core r.core).row r.core key = (s.core r.core).row r.core key))) ∧
  (∀ (s : State) (lid : BitVec 32) (l : Launch), s.launch lid = some l →
    (l.phase = .placed → l.rotating = [] → l.cores1 = [] → l.rots.length = l.cores.length → 0 < l.cores.length → (∀ (i k : Nat) (r q : RotReq), l.rots[i]? = some r → l.rots[k]? = some q → r.rank = i ∧ r.k = q.k) →
      (∀ r ∈ l.rots, (s.core r.core).locOk lid r.src (256 * r.rows) = true ∧ (s.core r.core).locOk lid r.dst (256 * r.rows) = true) → (∀ r ∈ l.rots, ∀ q ∈ l.rots, r.rows = q.rows) →
      ∀ src : Nat → List Byte, (∀ (i : Nat) (r : RotReq), l.rots[i]? = some r → (s.core r.core).locBytes r.core r.cmd.lid r.src (256 * r.rows) = some (src i)) → let n := l.cores.length
      ∃ go : List RotReq, go.length = n ∧ (∀ (i : Nat) (r : RotReq), l.rots[i]? = some r → go[i]? = some { r with data := src ((i + n - 1) % n) }) ∧
        exec (.rotationStart lid) s = .next (s.modLaunch lid fun l => { l with rots := [], rotating := l.rotating ++ go })) ∧
    (∀ (r : RotReq) (x : Ctx), r ∈ l.rotating → (∀ q ∈ l.rotating, q.rank = r.rank → q = r) → (s.core r.core).live = [r.cmd] → s.ctx r.core r.cmd.slot = some x → x.lid = r.cmd.lid → r.cmd.lid = lid →
      (∀ k, r.cmd.tk.sig = some k → x.token k < 255) → s.rotHeld r = false → r.data.length = 256 * r.rows → r.rows ≤ 768 → Within s r.core r.cmd.lid r.dst r.data.length →
      Ends (.rotationComplete lid r.rank) s fun t => SameMem s t ∧ t.ctx r.core r.cmd.slot = some (signalled x r.cmd.tk.sig) ∧ (t.core r.core).live = [] ∧
        t.launch lid = some { l with rotating := l.rotating.filter fun q => q.rank != r.rank } ∧
        (∀ i, i < r.data.length → r.data[i]? = some ((t.core r.core).locByte r.core r.cmd.lid (r.dst + i)))))

/-! ## The matrix engine -/
namespace Sys2Proof.Claims

/-- m is the one started command of core c, its context x runs with no replay window and no replay in progress, no record waits for a path, no row is undefined (R29) and nothing is poisoned. -/
structure Alone (s : State) (c : Nat) (m : Cmd) (x : Ctx) : Prop where
  ctx : s.ctx c m.slot = some x
  lid : x.lid = m.lid
  runs : x.frozen = none
  noWin : x.window = none
  parked : (s.core c).parked = []
  redo : (s.core c).redo = none
  clob : (s.core c).clob = []
  live : (s.core c).live = [m]
  win : (s.core c).window = []
  poison : s.poisonLoc = []
  regs : s.regq = []
  room : ∀ k, m.tk.sig = some k → x.token k < 255
/-- From s to t, m has completed: nothing is started, its token is signalled in y, and no byte of memory has changed. -/
structure Over (s t : State) (c : Nat) (m : Cmd) (y : Ctx) : Prop where
  live : (t.core c).live = []
  ctx : t.ctx c m.slot = some (signalled y m.tk.sig)
  mem : SameMem s t
/-- m stands alone in the staging place of its path, and no path runs. -/
def Staged (s : State) (c path : Nat) (m : Cmd) : Prop := (s.core c).staged = [(path, m)] ∧ (s.core c).running = [] ∧ (s.core c).results = []
/-- m has just begun to run on its path. -/
def Begun (s t : State) (c path : Nat) (m : Cmd) : Prop :=
  SameMem s t ∧ (t.core c).staged = [] ∧ (t.core c).running = [(path, { cmd := m, k := 0, popped := [], flags := 0, since := s.time.toNat })] ∧ (t.core c).live = [m] ∧ (t.core c).acc = (s.core c).acc ∧ (t.core c).banks = (s.core c).banks
/-- The record of run r has done a row that is not its last, or its last one, in x. -/
def RowDone (s t : State) (c path : Nat) (r : MRun) (x : Ctx) : Prop :=
  SameMem s t ∧ (r.k + 1 < mRows r.cmd.instr → (t.core c).running = [(path, { r with k := r.k + 1 })] ∧ (t.core c).live = [r.cmd] ∧ t.ctx c r.cmd.slot = some x) ∧
    (mRows r.cmd.instr ≤ r.k + 1 → (t.core c).running = [] ∧ Over s t c r.cmd x)
/-- m has halted with a record of a class and cause in its context's empty slot (R394, R395). -/
def HaltedWith (t : State) (c : Nat) (m : Cmd) (x : Ctx) (cls cause : Nat) : Prop :=
  (t.core c).live = [] ∧ ∃ r : FaultRec, r.cls = BitVec.ofNat 8 cls ∧ r.cause = BitVec.ofNat 16 cause ∧ r.lid = m.lid ∧ t.ctx c m.slot = some { x with afs := some (r, cmdProc m.instr) }
/-- The fault queues of both controllers are off, so that their records are only counted as missed (R398, R459). -/
def NoQueues (s : State) : Prop := ∀ d, (s.die d).ctl.up = true ∧ bitN (s.die d).fqbase.toNat 0 = false

/-- The run of m on the array path is at single issue k of its nest, with tile T and first blocks pa and pb of slots A and B (R334), all within the allotment; no segment is open and no perturbation armed. -/
structure AtIssue (s : State) (c : Nat) (m : Cmd) (x : Ctx) (f : MmaF) (r0 : MRun) (T pa pb tile p q : Nat) : Prop where
  run : (s.core c).running = [(1, r0)]
  cmd : r0.cmd = m
  staged : (s.core c).staged = []
  seg : x.segOpen = false
  pert : x.pert = none
  place : mmaAt f r0.k = ((T : Int), (pa : Int), (pb : Int))
  inT : T < 24
  inA : pa < 64
  inB : pb < 64
  tile : (s.core c).tileOf m.lid T = some tile
  a : (s.core c).slotOf m.lid (pa / 4) = some p
  b : (s.core c).slotOf m.lid (pb / 4) = some q
/-- What R336 finds wrong with that issue, as the cause of R439: blocks beyond the slot, owner, format, swizzle, blocks not filled (len elements of A are read), pair of formats; 0 is nothing. -/
def issueWrong (s : State) (c : Nat) (m : Cmd) (f : MmaF) (pa pb p q len : Nat) : Nat :=
  let A := (s.core c).slot p
  let B := (s.core c).slot q
  let kb := f.kb.toNat + 1
  if 4 < pa % 4 + kb ∨ 4 < pb % 4 + kb then 5 else if A.owner ≠ some m.slot ∨ B.owner ≠ some m.slot then 2
  else if A.lfmt ≠ some f.fa.toNat ∨ B.lfmt ≠ some f.fb.toNat then 3 else if A.lz ≠ f.za.toNat ∨ B.lz ≠ f.zb.toNat then 4
  else if 48 * A.kf < 48 * (pa % 4) + len ∨ B.kf < pb % 4 + kb then 5
  else if (f.fa.toNat, f.fb.toNat, f.i32) ∈ [(1, 1, false), (1, 2, false), (2, 1, false), (2, 2, false), (3, 3, false), (3, 4, false), (4, 3, false), (4, 4, false), (5, 5, false), (6, 6, true), (7, 7, true)] then 0 else 6
/-- The products of element (i, j) of an issue (R92, R100): l lists the elements of A that form them, as K index and position in A's row from block pa mod 4. -/
def prods (s : State) (c : Nat) (f : MmaF) (pa pb p q i j : Nat) (l : List (Nat × Nat)) : List (Num × Flags) :=
  let A := (s.core c).slot p
  let B := (s.core c).slot q
  let fa := f.fa.toNat
  let fb := f.fb.toNat
  let zp := fun (z : Slot) (t n b : Nat) => if t = 6 ∨ t = 7 then z.zp (tyWidth t) n b else 0
  l.map fun e => mProd fa fb (elemAt (A.row c p i) (tyWidth fa) (48 * (pa % 4) + e.2)) (zp A fa i (pa % 4 + e.2 / 48))
    (elemAt (B.row c q j) (tyWidth fb) (48 * (pb % 4) + e.1)) (zp B fb j (pb % 4 + e.1 / 48))
/-- The single issue of r0 has ended in t: its results r, one row per row of the tile, cells from the accumulator (or zero, R334) and the products in groups of R99, stand behind the earlier ones; the run goes on or has left the path. -/
def Issued (s t : State) (c : Nat) (m : Cmd) (x : Ctx) (f : MmaF) (r0 : MRun) (pa pb tile p q : Nat) (els : Nat → List (Nat × Nat)) : Prop :=
  SameMem s t ∧ (t.core c).live = [m] ∧ t.ctx c m.slot = some x ∧ (t.core c).running = (if q16Total f.n ≤ r0.k + 1 then [] else [(1, { r0 with k := r0.k + 1 })]) ∧
  (∀ key, (t.core c).accRow c key = if f.accz = true ∧ firstTouch f r0.k = true ∧ key / 64 = tile then 0 else (s.core c).accRow c key) ∧
  ∃ r : MResult, (t.core c).results = (s.core c).results ++ [r] ∧ r.cmd = m ∧ r.k = r0.k ∧ r.tile = tile ∧ r.trig = none ∧ r.last = decide (q16Total f.n ≤ r0.k + 1) ∧ r.rows.length = 64 ∧
    ∀ i j row, i < 64 → j < 64 → r.rows[i]? = some row →
      cellOf row j = (accRun f.i32 (if f.accz && firstTouch f r0.k then 0 else cellOf ((s.core c).accRow c (64 * tile + i)) j)
        (cutBy (groupK f.fa.toNat) (els i).length (prods s c f pa pb p q i j (els i)))).1
/-- The elements of A that row i of an `SMMA` forms products of (R337, R338): strip l[n] keeps stored values 2n and 2n + 1 at the two positions of its metadata entry. -/
def sparse (s : State) (c ms i : Nat) (l : List Nat) : List (Nat × Nat) :=
  (List.range l.length).flatMap fun n =>
    let e := elemAt (((s.core c).slot ms).row c ms i) 4 (l.getD n 0)
    [(4 * l.getD n 0 + e % 4, 2 * n), (4 * l.getD n 0 + e / 4, 2 * n + 1)]

/-- Format width, elements per slot row, port, slot, swizzle of a fill (R331, R332). -/
def FillIs (i : Instr) (w per port slot z : Nat) : Prop :=
  (∃ f, i = .ofill f ∧ w = tyWidth f.fmt.toNat ∧ per = 48 * (f.kfm1.toNat + 1) ∧ port = f.port.toNat ∧ slot = f.slot.toNat ∧ z = f.z.toNat) ∨
  (∃ f, i = .ofillMeta f ∧ w = 4 ∧ per = 48 ∧ port = f.port.toNat ∧ slot = f.slot.toNat ∧ z = f.z.toNat)
/-- The popped byte of logical byte b (R333). -/
def swz (z b : Nat) : Nat := b / (16 * 2 ^ z) * (16 * 2 ^ z) + 16 * ((b % (16 * 2 ^ z) / 16) ^^^ (b / (16 * 2 ^ z) % 2 ^ z)) + b % 16
/-- The popped bytes that element e of a fill is taken from, the lowest first. -/
def fillBytes (w z e : Nat) : List Nat := (List.range ((e * w + w - 1) / 8 + 1 - e * w / 8)).map fun i => swz z (e * w / 8 + i)
/-- Its value, from the popped rows. -/
def fillVal (w z e : Nat) (rows : List Row) : Nat :=
  (leNat ((fillBytes w z e).map fun b => BitVec.ofNat 8 ((rows.getD (b / 256) 0).toNat / 2 ^ (8 * (b % 256))))) / 2 ^ (e * w % 8) % 2 ^ w

/-- The product of two L6 codes: the sum of their logarithms in the table (R90). -/
def xl6 (a b : Nat) : XV :=
  if a % 32 = 0 ∨ b % 32 = 0 then .fin false 0 else
  let s : Int := ((a % 32 : Nat) : Int) + (b % 32 : Nat) - 32
  .fin (a.testBit 5 != b.testBit 5) ((match s % 4 with | 0 => 32768 | 1 => 38968 | 2 => 46341 | _ => 55109) * 2 ^ (s / 4 - 15))
/-- The exact sum of a group's products, with NV for 0 times an infinity and for infinities of both signs; a sum of zeros is +0 unless every product is -0 (R100, R101). -/
def xsum (ps : List (XV × Bool)) : XV × Bool :=
  let nv := ps.any Prod.snd
  let has := fun (neg : Bool) => ps.any fun p => match p.1 with | .inf b => b == neg | _ => false
  if ps.any (fun p => xnan p.1) || (has false && has true) then (.nan, nv || (has false && has true))
  else if has false then (.inf false, nv) else if has true then (.inf true, nv)
  else
    let q : ℚ := (ps.map fun p => (match p.1 with | .fin n v => sg n v | _ => 0 : ℚ)).sum
    (if q = 0 then .fin (ps.all fun p => match p.1 with | .fin n v => n && v == 0 | _ => false) 0 else .fin (decide (q < 0)) |q|, nv)
/-- The element d, with NV and OF alone, is the accumulator c plus the exact value v, rounded once to nearest even (R84, R100, R101). -/
def Accumulates (c : Nat) (v : XV × Bool) (d : Nat) (fl : BitVec 6) : Prop :=
  let r := xadd false (xval 0 0 c) v.1
  ∃ g, Delivers 0 0 false r.1 d g ∧ fl = (if v.2 || r.2 || xnan (xval 0 0 c) then 16 else 0) ||| (g &&& 4)
end Sys2Proof.Claims

/-- Derived (R90, R92, R99 to R102, R321, R326, R327, R330, R332, R333, R334, R336 to R342, R344, R410, R439 to R442): a record at the head of the matrix queue moves to its path's staging place, a tile-start marker at the head leaves and restarts its context's window; staged records start: claims and releases of slots and `MPERT` take their whole effect, `MZERO`, `MSCACC`, row moves, fills and nests begin to run; rows are written one at a time, the last completes the record; a nest issues once at a time, and halts at an issue that R336 finds wrong; results are written in order; a fill writes the elements that each popped row completes, in every format and swizzle; a trigger that no window can replay halts its record, any other begins a replay, whose issues and rows run again one at a time and which ends with its record. A group of products is summed exactly and added with one rounding, or modulo 2^32, and `MSCACC` adds an exactly scaled partial with one rounding. Where the rules leave room, the model's choices are those of log 29 to 31. -/
def Obligations.MatrixRecords : Prop :=
  (∀ (s : State) (c : Nat) (m : Cmd) (l : List Cmd) (x : Ctx), Head s c .matrix m l x → (s.core c).staged = [] → (s.core c).running = [] → (s.core c).results = [] → (s.core c).mTook = [] → (s.core c).parked = [] →
    (∀ p, ((∃ f, m.instr = .ofill f) ∨ ∃ f, m.instr = .ofillMeta f) ∧ p = 0 ∨
        ((∃ f, m.instr = .mma f) ∨ (∃ f, m.instr = .smma f) ∨ (∃ f, m.instr = .mzero f) ∨ ∃ f, m.instr = .mscacc f) ∧ p = 1 ∨
        ((∃ f, m.instr = .accld f) ∨ ∃ f, m.instr = .accst f) ∧ p = 2 ∨ ((∃ f, m.instr = .oclaim f) ∨ (∃ f, m.instr = .orel f) ∨ ∃ f, m.instr = .mpert f) ∧ p = 3 →
      Ends (.queueHeadStart c .matrix) s fun t => Left s t c .matrix l ∧ (t.core c).live = (s.core c).live ++ [m] ∧ (t.core c).staged = [(p, m)] ∧ t.ctx c m.slot = some (x.settle.take m.tk.waits)) ∧
    (∀ g, m.instr = .tstart g → (∀ e ∈ (s.core c).live, ¬ (e.id < m.id ∧ e.slot = m.slot ∧ e.lid = m.lid ∧ cmdProc e.instr = .ep ∧ cmdMaster c e = cmdMaster c m)) → Ends (.queueHeadStart c .matrix) s fun t =>
      Left s t c .matrix l ∧ (t.core c).live = (s.core c).live ∧ t.ctx c m.slot = some { x with window := some 0 } ∧
      (∀ w, w ∈ (t.core c).window ↔ w ∈ (s.core c).window ∧ ¬ (w.cmd.slot = m.slot ∧ w.cmd.lid = m.lid)) ∧
      ∀ id st, tfind (s.core c).streams id = some st → tfind (t.core c).streams id =
        some (if st.owner = m.slot ∧ st.lid = m.lid ∧ st.saved = false then { st with repl := 0, held := min st.held (dRetain st.desc) } else st)) ∧
    (∀ g e, m.instr = .tstart g → e ∈ (s.core c).live → e.id < m.id → e.slot = m.slot → e.lid = m.lid → cmdProc e.instr = .ep → cmdMaster c e = cmdMaster c m → Ends (.queueHeadStart c .matrix) s fun t =>
      SameMem s t ∧ (t.core c).queue .matrix = m :: l ∧ (t.core c).window = (s.core c).window ∧ t.ctx c m.slot = some x))
  ∧ (∀ (s : State) (c : Nat) (m : Cmd) (x : Ctx), Alone s c m x →
    (∀ f, m.instr = .oclaim f → Staged s c 3 m → (∀ b, b < 16 → f.smask.getLsbD b = true → ∃ p, (s.core c).slotOf m.lid b = some p ∧ ((s.core c).slot p).owner = none) →
      Ends (.matrixRecordStart c .control) s fun t => Over s t c m x ∧ (∀ b p, b < 16 → f.smask.getLsbD b = true → (s.core c).slotOf m.lid b = some p → ((t.core c).slot p).owner = some m.slot ∧ ((t.core c).slot p).lfmt = none ∧ ((t.core c).slot p).lz = 0 ∧ ((t.core c).slot p).kf = 0) ∧
        ∀ p, (∀ b, b < 16 → f.smask.getLsbD b = true → (s.core c).slotOf m.lid b ≠ some p) → (t.core c).slot p = (s.core c).slot p) ∧
    (∀ f, m.instr = .orel f → Staged s c 3 m → (∀ b, b < 16 → f.smask.getLsbD b = true → ∃ p, (s.core c).slotOf m.lid b = some p ∧ ((s.core c).slot p).owner = some m.slot) →
      Ends (.matrixRecordStart c .control) s fun t => Over s t c m x ∧ (∀ b p, b < 16 → f.smask.getLsbD b = true → (s.core c).slotOf m.lid b = some p → (t.core c).slot p = { (s.core c).slot p with owner := none }) ∧
        ∀ p, (∀ b, b < 16 → f.smask.getLsbD b = true → (s.core c).slotOf m.lid b ≠ some p) → (t.core c).slot p = (s.core c).slot p) ∧
    (∀ f v, m.instr = .mpert f → m.vals = [v] → Staged s c 3 m → Ends (.matrixRecordStart c .control) s fun t =>
      Over s t c m { x with pert := some (f.pi.toNat, f.pj.toNat, v.setWidth 32, f.det) }) ∧
    (∀ f, m.instr = .mzero f → x.segOpen = false → Staged s c 1 m → (∀ b, b < 24 → f.tmask.getLsbD b = true → ((s.core c).tileOf m.lid b).isSome) → Ends (.matrixRecordStart c .array) s fun t =>
      (f.tmask = 0 → Over s t c m x ∧ (t.core c).acc = (s.core c).acc) ∧ (f.tmask ≠ 0 → Begun s t c 1 m ∧ t.ctx c m.slot = some x)) ∧
    (∀ f r b p, m.instr = .mzero f → (s.core c).running = [(1, r)] → r.cmd = m → r.flags = 0 → ((List.range 24).filter fun t => f.tmask.getLsbD t)[r.k / 64]? = some b → (s.core c).tileOf m.lid b = some p →
      Ends (.matrixRecordStart c .array) s fun t => RowDone s t c 1 r x ∧ (t.core c).accRow c (64 * p + r.k % 64) = 0 ∧ ∀ key, key ≠ 64 * p + r.k % 64 → (t.core c).accRow c key = (s.core c).accRow c key) ∧
    (∀ f, m.instr = .mscacc f → x.segOpen = false → m.rows.length = 2 → Staged s c 1 m → ((s.core c).tileOf m.lid f.tc.toNat).isSome → ((s.core c).tileOf m.lid f.tp.toNat).isSome →
      Ends (.matrixRecordStart c .array) s fun t => Begun s t c 1 m ∧ t.ctx c m.slot = some x) ∧
    (∀ f r va vb tc tp, m.instr = .mscacc f → x.ftrapen = 0 → (s.core c).running = [(1, r)] → r.cmd = m → r.k < 64 → m.rows = [va, vb] → (s.core c).tileOf m.lid f.tc.toNat = some tc → (s.core c).tileOf m.lid f.tp.toNat = some tp →
      Ends (.matrixRecordStart c .array) s fun t => SameMem s t ∧ ((t.core c).running = [] ↔ r.k = 63) ∧ ((t.core c).live = [] ↔ r.k = 63) ∧
        (∀ key, key ≠ 64 * tc + r.k → (t.core c).accRow c key = (s.core c).accRow c key) ∧
        ∀ j, j < 64 → cellOf ((t.core c).accRow c (64 * tc + r.k)) j = (scaleAcc f.pt (cellOf ((s.core c).accRow c (64 * tc + r.k)) j) (cellOf ((s.core c).accRow c (64 * tp + r.k)) j)
          (va.toNat / 2 ^ (8 * r.k) % 256) (vb.toNat / 2 ^ (8 * j) % 256)).1) ∧
    (∀ (v : BitVec 11) (n : BitVec 8) (o : Word), m.vals = [o] → o.toNat % 256 = 0 → (s.core c).locOk m.lid o.toNat (256 * (n.toNat + 1)) = true → v.toNat + n.toNat < 1536 →
      ((s.core c).vKey m.lid (v.toNat + n.toNat)).isSome → Staged s c 2 m → ∀ f, (m.instr = .accld f ∨ m.instr = .accst f) → f.v = v → f.nrm1 = n → Ends (.matrixRecordStart c .row) s fun t =>
        Begun s t c 2 m ∧ t.ctx c m.slot = some x) ∧
    (∀ f r o key rk, m.vals = [o] → (s.core c).running = [(2, r)] → r.cmd = m → r.flags = 0 → r.k ≤ f.nrm1.toNat → (s.core c).vKey m.lid (f.v.toNat + r.k) = some key →
      (s.core c).locOf m.lid (o.toNat + 256 * r.k) = some (rk, 0) →
      (m.instr = .accld f → Ends (.matrixRecordStart c .row) s fun t => RowDone s t c 2 r x ∧
        (t.core c).accRow c key = (s.core c).row c rk ∧ (∀ k, k ≠ key → (t.core c).accRow c k = (s.core c).accRow c k) ∧ (t.core c).banks = (s.core c).banks) ∧
      (m.instr = .accst f → Ends (.matrixRecordStart c .row) s fun t => RowDone s t c 2 r x ∧
        (t.core c).row c rk = (s.core c).accRow c key ∧ (∀ k, k ≠ rk → (t.core c).row c k = (s.core c).row c k) ∧ (t.core c).acc = (s.core c).acc)) ∧
    (∀ f, (m.instr = .mma f ∨ ∃ g, m.instr = .smma g ∧ g.m = f) → Staged s c 1 m → Ends (.matrixRecordStart c .array) s fun t =>
      (q16Total f.n ≠ 0 → Begun s t c 1 m ∧ t.ctx c m.slot = some x) ∧ (q16Total f.n = 0 → Over s t c m x)) ∧
    (∀ f r0 T pa pb tile p q, m.instr = .mma f → AtIssue s c m x f r0 T pa pb tile p q →
      (issueWrong s c m f pa pb p q (48 * (f.kb.toNat + 1)) = 0 → (∀ r ∈ (s.core c).results, r.cmd = m ∧ r.tile ≠ tile) →
        Ends (.matrixSingleIssue c) s fun t => Issued s t c m x f r0 pa pb tile p q fun _ => (List.range (48 * (f.kb.toNat + 1))).map fun e => (e, e)) ∧
      ((∃ r ∈ (s.core c).results, r.cmd = m ∧ r.tile = tile) → (∀ r ∈ (s.core c).results, r.cmd = m) → Ends (.matrixSingleIssue c) s fun t => (t.core c).running = (s.core c).running ∧ (t.core c).results = (s.core c).results ∧ (t.core c).acc = (s.core c).acc) ∧
      (∀ n, issueWrong s c m f pa pb p q (48 * (f.kb.toNat + 1)) = n → n ≠ 0 → x.afs = none → x.gone = false → (s.core c).results = [] → Ends (.matrixSingleIssue c) s fun t => HaltedWith t c m x 4 n ∧ (t.core c).acc = (s.core c).acc)) ∧
    (∀ f r0, (m.instr = .mma f ∨ ∃ g, m.instr = .smma g ∧ g.m = f) → (s.core c).running = [(1, r0)] → r0.cmd = m → (s.core c).staged = [] → (s.core c).results = [] → x.afs = none → x.gone = false →
      let a := mmaAt f r0.k
      a.1 < 0 ∨ 24 ≤ a.1 ∨ a.2.1 < 0 ∨ 64 ≤ a.2.1 ∨ a.2.2 < 0 ∨ 64 ≤ a.2.2 ∨ (s.core c).tileOf m.lid a.1.toNat = none ∨ (s.core c).slotOf m.lid (a.2.1.toNat / 4) = none ∨ (s.core c).slotOf m.lid (a.2.2.toNat / 4) = none →
      Ends (.matrixSingleIssue c) s fun t => HaltedWith t c m x 4 1 ∧ (t.core c).acc = (s.core c).acc) ∧
    (∀ g r0 T pa pb tile p q ms l, m.instr = .smma g → AtIssue s c m x g.m r0 T pa pb tile p q → (s.core c).slotOf m.lid g.mslot.toNat = some ms →
      l = (List.range (12 * (g.m.kb.toNat + 1))).filter (fun n => g.live.getLsbD n) → issueWrong s c m g.m pa pb p q (2 * l.length) = 0 → ((s.core c).slot ms).owner = some m.slot → ((s.core c).slot ms).lfmt = some lfMeta →
      (∀ i n, i < 64 → n ∈ l → elemAt (((s.core c).slot ms).row c ms i) 4 n % 4 < elemAt (((s.core c).slot ms).row c ms i) 4 n / 4) → (∀ r ∈ (s.core c).results, r.cmd = m ∧ r.tile ≠ tile) →
      Ends (.matrixSingleIssue c) s fun t => Issued s t c m x g.m r0 pa pb tile p q fun i => sparse s c ms i l) ∧
    (∀ r rest, (s.core c).results = r :: rest → (∀ q ∈ r :: rest, q.cmd = m) → r.trig = none → r.flags = 0 → r.rows.length = 64 → Ends (.matrixResultWrite c) s fun t => SameMem s t ∧ (r.last = false → (t.core c).results = rest) ∧
      (∀ j row, r.rows[j]? = some row → (t.core c).accRow c (64 * r.tile + j) = row) ∧ (∀ key, key / 64 ≠ r.tile → (t.core c).accRow c key = (s.core c).accRow c key) ∧
      (r.last = true → rest = [] → (t.core c).results = [] ∧ Over s t c m x) ∧ (r.last = false → (t.core c).live = [m] ∧ t.ctx c m.slot = some x)) ∧
    (∀ w per port n z q, FillIs m.instr w per port n z → Staged s c 0 m → (s.core c).slotOf m.lid n = some q → ((s.core c).slot q).owner = some m.slot → 64 * per * w / 8 % (16 * 2 ^ z) = 0 →
      (∀ f, m.instr = .ofill f → (f.fmt = 6 ∨ f.fmt = 7) → ∃ v, m.rows = [v]) → Ends (.matrixRecordStart c .fill) s fun t => Begun s t c 0 m ∧ t.ctx c m.slot = some x ∧
        ∀ f v, m.instr = .ofill f → (f.fmt = 6 ∨ f.fmt = 7) → m.rows = [v] → ((t.core c).slot q).zps = v) ∧
    (∀ w per port sl z r id st q, FillIs m.instr w per port sl z → w ≤ 16 → (s.core c).running = [(0, r)] → r.cmd = m → (s.core c).staged = [] → (s.core c).results = [] → s.portStream c x port = some (id, st) →
      st.saved = false → 0 < st.count → (s.core c).isFull (st.key st.head) = true → (s.core c).kindOf (st.key st.head) = 0 → (s.core c).slotOf m.lid sl = some q →
      let row := (s.core c).row c (st.key st.head)
      let n := r.popped.length
      256 * n < 64 * per * w / 8 → Ends (.ofillRowPop c) s fun t => SameMem s t ∧ (t.core c).streams = tset (s.core c).streams id (popped st) ∧
        (∀ e, e < 64 * per → (∀ b ∈ fillBytes w z e, b < 256 * (n + 1)) → (∃ b ∈ fillBytes w z e, 256 * n ≤ b) → elemAt (((t.core c).slot q).row c q (e / per)) w (e % per) = fillVal w z e (r.popped ++ [row])) ∧
        (∀ i e, ¬ (i < 64 ∧ e < per ∧ (∀ b ∈ fillBytes w z (per * i + e), b < 256 * (n + 1)) ∧ ∃ b ∈ fillBytes w z (per * i + e), 256 * n ≤ b) → w * (e + 1) ≤ 3072 → elemAt (((t.core c).slot q).row c q i) w e = elemAt (((s.core c).slot q).row c q i) w e) ∧
        (256 * (n + 1) < 64 * per * w / 8 → (t.core c).running = [(0, { r with popped := r.popped ++ [row] })] ∧ (t.core c).live = [m]) ∧
        (64 * per * w / 8 ≤ 256 * (n + 1) → (t.core c).running = [] ∧ Over s t c m x ∧ ((t.core c).slot q).lz = z ∧
          (∀ f, m.instr = .ofill f → ((t.core c).slot q).lfmt = some f.fmt.toNat ∧ ((t.core c).slot q).kf = f.kfm1.toNat + 1) ∧ (∀ f, m.instr = .ofillMeta f → ((t.core c).slot q).lfmt = some lfMeta ∧ ((t.core c).slot q).kf = 1))) ∧
    (x.afs = none → x.gone = false →
      (∀ f, m.instr = .mzero f → Staged s c 1 m → x.segOpen = true → x.segFrom ≤ m.id → x.segHwOff = false → tget (s.core c).mReady s.time.toNat 1 + 50000 ≤ s.time.toNat → Ends (.segmentWatchdog c) s fun t =>
        HaltedWith t c m x 4 11 ∧ (t.core c).staged = [] ∧ SameMem s t) ∧
      (∀ r rest e, (s.core c).results = r :: rest → (∀ q ∈ r :: rest, q.cmd = m) → (e = .matrixReplay c .error ∨ r.trig = some .error ∧ e = .matrixResultWrite c) → Ends e s fun t =>
        HaltedWith t c m x 4 11 ∧ (t.core c).results = [] ∧ (t.core c).acc = (s.core c).acc ∧ SameMem s t)))
  ∧ (∀ (s : State) (c : Nat) (m : Cmd) (x : Ctx) (w : WRec), s.ctx c m.slot = some x → x.lid = m.lid → x.frozen = none → x.window = some 0 → (s.core c).live = [m] → NoQueues s → s.poisonLoc = [] →
      (s.core c).window = [w] → w.cmd = m → w.signalled = false → w.halted = false → (s.core c).parked = [] → (s.core c).redo = none → (s.core c).queue .matrix = [] →
    (∀ f, m.instr = .mzero f → (s.core c).staged = [(1, m)] → (s.core c).running = [] → (s.core c).results = [] → w.started = false → x.segOpen = true → x.segFrom ≤ m.id → x.segHwOff = false →
      tget (s.core c).mReady s.time.toNat 1 + 50000 ≤ s.time.toNat → Ends (.segmentWatchdog c) s fun t => SameMem s t ∧ (t.core c).staged = [(1, m)] ∧ (t.core c).live = [m] ∧ (t.core c).acc = (s.core c).acc ∧
        tget (t.core c).mReady 0 1 = s.time.toNat ∧ t.ctx c m.slot = some { x with window := some 1 } ∧ (t.core c).redo = some { cmd := m, k := 0, trig := .watchdog, esc := false, todo := [] }) ∧
    (∀ f r tile a, m.instr = .mma f → f.accz = true → (s.core c).results = [r] → r.cmd = m → r.k = 0 → r.trig = none → (s.core c).mArgs m 0 = some (tile, a) →
      w.started = true → w.issues = 1 → w.popped = [] → Ends (.matrixReplay c .error) s fun t => SameMem s t ∧ (t.core c).live = [m] ∧ (t.core c).acc = (s.core c).acc ∧ (t.core c).results = [r] ∧
        t.ctx c m.slot = some { x with window := some 1 } ∧ (t.core c).redo = some { cmd := m, k := 0, trig := .error, esc := false, todo := [(m.id, 0)] }))
  ∧ (∀ (s : State) (c : Nat) (m : Cmd) (x : Ctx) (w : WRec) (d : Redo) (e : Instr), s.ctx c m.slot = some x → x.lid = m.lid → x.frozen = none → x.ftrapen = 0 → (s.core c).live = [m] → NoQueues s → s.poisonLoc = [] →
      (s.core c).window = [w] → w.cmd = m → (s.core c).parked = [] → (s.core c).clob = [] → (s.core c).redo = some d → d.cmd = m →
      e ∈ [.matrixRecordStart c .fill, .matrixRecordStart c .array, .matrixRecordStart c .row, .matrixRecordStart c .control, .matrixSingleIssue c, .matrixResultWrite c, .ofillRowPop c, .segmentWatchdog c] →
    (∀ f tile a rest, m.instr = .mma f → f.accz = true → d.todo = (m.id, 0) :: rest → (s.core c).mArgs m 0 = some (tile, a) →
      (∀ r, (s.core c).results = [r] → r.cmd = m → r.k = 0 → Ends e s fun t => SameMem s t ∧ (t.core c).live = [m] ∧ (t.core c).redo = some { d with todo := rest } ∧
        ∃ z, (t.core c).results = [z] ∧ z.cmd = m ∧ z.k = 0 ∧ z.trig = none ∧ z.last = r.last ∧ z.rows = (List.range 64).map fun i => ((s.core c).issueRow c a i 0 fun _ => none).1) ∧
      ((s.core c).results = [] → Ends e s fun t => SameMem s t ∧ (t.core c).live = [m] ∧ (t.core c).redo = some { d with todo := rest } ∧ (t.core c).results = [] ∧
        (∀ i, i < 64 → (t.core c).accRow c (64 * tile + i) = ((s.core c).issueRow c a i 0 fun _ => none).1) ∧ ∀ key, key / 64 ≠ tile → (t.core c).accRow c key = (s.core c).accRow c key)) ∧
    (∀ f n rest b p, m.instr = .mzero f → d.todo = (m.id, n) :: rest → (s.core c).results = [] → ((List.range 24).filter fun t => f.tmask.getLsbD t)[n / 64]? = some b → (s.core c).tileOf m.lid b = some p →
      Ends e s fun t => SameMem s t ∧ (t.core c).live = [m] ∧ (t.core c).redo = some { d with todo := rest } ∧ (t.core c).accRow c (64 * p + n % 64) = 0 ∧ ∀ key, key ≠ 64 * p + n % 64 → (t.core c).accRow c key = (s.core c).accRow c key) ∧
    (d.todo = [] → x.afs = none → x.gone = false → (s.core c).results.all (fun r => r.cmd == m) = true → Ends e s fun t => SameMem s t ∧ (t.core c).live = [m] ∧ (t.core c).redo = none ∧ (t.core c).results = (s.core c).results ∧ (t.core c).acc = (s.core c).acc ∧
      (d.esc = true → ∃ r : FaultRec, r.cls = 4 ∧ r.sev = 1 ∧ r.cause = 10 ∧ r.lid = m.lid ∧ t.ctx c m.slot = some { x with afs := some (r, .ep) }) ∧ (d.esc = false → t.ctx c m.slot = some x)))
  ∧ (∀ (fa fb c : Nat) (l : List (Nat × Nat × Nat × Nat)),
    ((fa, fb) = (6, 6) ∨ (fa, fb) = (7, 7) → (accGroup true c (l.map fun p => mProd fa fb p.1 p.2.1 p.2.2.1 p.2.2.2)).1 =
      wrapN ((c : Int) + (l.map fun p => ((p.1 : Int) - p.2.1) * ((p.2.2.1 : Int) - p.2.2.2)).sum) 32) ∧
    (c < 2 ^ 32 → (fa, fb) ∈ [(1, 1), (1, 2), (2, 1), (2, 2), (3, 3), (3, 4), (4, 3), (4, 4), (5, 5)] → (∀ p ∈ l, p.1 < 2 ^ tyWidth fa ∧ p.2.2.1 < 2 ^ tyWidth fb) →
      let r := accGroup false c (l.map fun p => mProd fa fb p.1 p.2.1 p.2.2.1 p.2.2.2)
      Accumulates c (xsum (l.map fun p => if fa = 5 then (xl6 p.1 p.2.2.1, false) else xmul (xval fa 0 p.1) (xval fb 0 p.2.2.1))) r.1 r.2))
  ∧ (∀ (i32 : Bool) (c q ea eb : Nat), c < 2 ^ 32 → q < 2 ^ 32 → ea < 256 → eb < 256 → let r := scaleAcc i32 c q ea eb
    (ea = 255 ∨ eb = 255 → r = (nanOf 0, 16)) ∧
    (ea ≠ 255 → eb ≠ 255 → Accumulates c (match (if i32 then xint (BitVec.ofNat 32 q).toInt else xval 0 0 q) with | .fin n v => .fin n (v * 2 ^ ((ea : Int) + eb - 254)) | y => y, false) r.1 r.2))

/-! ## The grid, the Proofer, the scheduler and the device -/
namespace Sys2Proof.Claims

/-- Configuration n of core c runs for the started `GRUN` m; it is neither faulted nor frozen, and no end or halt of it is under way. -/
structure Grids (s : State) (c n : Nat) (m : Cmd) : Prop where
  run : (s.core c).grid.running = some (n, m)
  live : (s.core c).isLive m.id = true
  thaw : s.gridFrozen c m = false
  going : (s.core c).grid.faulted = false ∧ (s.core c).grid.halting = none ∧ (s.core c).grid.ending = none
/-- m has completed: it is no longer started, and its token is signalled in its context x. -/
structure Completed (s t : State) (c : Nat) (m : Cmd) (x : Ctx) : Prop where
  live : (t.core c).live = (s.core c).live.filter fun e => e.id != m.id
  ctx : t.ctx c m.slot = some (signalled x m.tk.sig)
/-- The context of m, with room for the signal of its token and an empty slot for a record. -/
structure Owns (s : State) (c : Nat) (m : Cmd) (x : Ctx) : Prop where
  ctx : s.ctx c m.slot = some x
  lid : x.lid = m.lid
  room : ∀ k, m.tk.sig = some k → x.token k < 255
  afs : x.afs = none
  here : x.gone = false
/-- The launches after a change of the one with an id. -/
def changed (s : State) (lid : BitVec 32) (f : Launch → Launch) : List Launch := s.launches.map fun v => if v.lid == lid then f v else v
/-- An ECNT word after an error: the upper half counts the uncorrectable ones; both halves saturate (R455). -/
def counted (v : Word) (ue : Bool) : Word :=
  BitVec.ofNat 64 (if ue then Nat.min (v.toNat / 2 ^ 32 + 1) 0xFFFFFFFF * 2 ^ 32 + v.toNat % 2 ^ 32 else v.toNat / 2 ^ 32 * 2 ^ 32 + Nat.min (v.toNat % 2 ^ 32 + 1) 0xFFFFFFFF)
/-- n bytes from a lie in mapped HBM outside copied frames and compressed objects, and none is poisoned. -/
def OpenHbm (s : State) (a n : Nat) : Prop := 0 < n ∧ ∀ i, i < n → regionOf (a + i) = .hbm ∧ s.mapped (a + i) = true ∧ s.tag ((a + i) / 4096) = 0 ∧ s.frameBusy (a + i) = false ∧ s.poisoned (a + i) = false
/-- No record waits for its queue, and no ingest line for the bridge (R10, R118). -/
def Drained (s : State) : Prop := s.ingq = [] ∧ ∀ d, (s.die d).recWait = []
/-- No controller restarts for a SWAP (R465). -/
def NoSwap (s : State) : Prop := ∀ d, (s.die d).ctl.up = true ∨ (s.die d).ctl.swap = false
/-- Every pending change of the core map waits for a launch that holds the core. -/
def MapWaits (s : State) : Prop := ∀ v ∈ s.west.history ++ s.east.history, mcPending v = true → s.coreHeld (mcCore v) = true

/-- Cluster k is the last one of the current bundle of the firing fr at element e, which is neither split nor at its end, and its operation is op; no storage is poisoned. -/
structure LastOp (s : State) (c e : Nat) (fr : Firing) (k : Nat) (op : GOp) : Prop where
  fire : tfind (s.core c).grid.firing e = some fr
  joined : fr.split = none
  left : fr.left = [k]
  cluster : k < 4
  plain : (gOp (s.core c).grid.image e fr.bundle 0).isSplit = false
  op : gOp (s.core c).grid.image e fr.bundle k = op
  more : fr.bundle + 1 < imgNB (s.core c).grid.image e
  poison : s.poisonLoc = []
/-- The firing has gone on to the next bundle; the other elements' firings are as before, and no byte of memory has changed. -/
structure NextBundle (s t : State) (c e : Nat) (fr : Firing) : Prop where
  mem : SameMem s t
  fire : tfind (t.core c).grid.firing e = some { fr with bundle := fr.bundle + 1, left := [0, 1, 2, 3] }
  others : ∀ f, f ≠ e → tfind (t.core c).grid.firing f = tfind (s.core c).grid.firing f

/-- One F32 operation of the Proofer: exact, then rounded once to nearest even (R374). -/
def fOp (v : XV × Bool) (r : Nat) : Prop := ∃ fl, DeliversNv 0 0 false v r fl
/-- r = a + b, r = a x b, r = a - b. -/
def fPlus (a b r : Nat) : Prop := fOp (xadd false (xval 0 0 a) (xval 0 0 b)) r
def fTimes (a b r : Nat) : Prop := fOp (xmul (xval 0 0 a) (xval 0 0 b)) r
def fMinus (a b r : Nat) : Prop := fOp (xadd false (xval 0 0 a) (xneg (xval 0 0 b))) r
/-- r = a / n, for a value n: a zero by a zero and an infinity by an infinity make NaN. -/
def fOver (a : Nat) (n : XV) (r : Nat) : Prop :=
  fOp (match xval 0 0 a, n with
    | .nan, _ => (.nan, false)
    | _, .nan => (.nan, false)
    | .inf _, .inf _ => (.nan, true)
    | .inf p, .fin q _ => (.inf (p != q), false)
    | .fin p _, .inf q => (.fin (p != q) 0, false)
    | .fin p v, .fin q w => if w = 0 then (if v = 0 then (.nan, true) else (.inf (p != q), false)) else (.fin (p != q) (v / w), false)) r
/-- r = Comb(x, w, m, h) of R374, k the stage values: terms with a coefficient of +0 are skipped, and with none left the bits of x are copied. -/
def CombIs (x : Nat) (w k : Nat → Nat) (m h r : Nat) : Prop :=
  if ∀ i < m, w i = 0 then r = x else
    ∃ acc : Nat → Nat, acc 0 = 0 ∧ (∀ i < m, if w i = 0 then acc (i + 1) = acc i else ∃ q, fTimes (w i) (k i) q ∧ fPlus (acc i) q (acc (i + 1))) ∧ ∃ q, fTimes h (acc m) q ∧ fPlus x q r
/-- r is the sum of 64 values in the tree of R103. -/
def TreeSum (v : Nat → Nat) (r : Nat) : Prop := ∃ u : Nat → Nat → Nat, (∀ j < 64, u 0 j = v j) ∧ (∀ l j, l < 6 → j < 2 ^ (5 - l) → fPlus (u l (2 * j)) (u l (2 * j + 1)) (u (l + 1) j)) ∧ r = u 6 0
/-- The Proofer of core c goes on with the run r of m, with tableau tab. -/
structure Proofs (s : State) (c : Nat) (m : Cmd) (r : PRun) (tab : BitVec 1536) : Prop where
  run : (s.core c).prf.run = some r
  tab : (s.core c).prf.tab = some tab
  cmd : r.cmd = m
  live : (s.core c).isLive m.id = true
  poison : s.poisonLoc = []
/-- The sample n has the record l, which stands in row k. -/
def Sample (s : State) (c : Nat) (m : Cmd) (n k : Nat) (l : List Byte) : Prop :=
  n < fNS (s.core c).prf.frame ∧ (s.core c).locBytes c m.lid (sampOff (s.core c).prf.frame n) 32 = some l ∧ (s.core c).locOk m.lid (sampOff (s.core c).prf.frame n) 32 = true ∧
  ∃ y, (s.core c).locOf m.lid (sampOff (s.core c).prf.frame n) = some (k, y)
/-- The decision of R376 on the record l, whose rank sums make tot of cnt elements, gives l'. The factor f of an error that is neither zero nor large is some value within FMIN and, of an accepted step, FMAX; its logarithm and power are those of `VSF` (R98). -/
def Decided (tab : BitVec 1536) (cnt tot : Nat) (l l' : List Byte) : Prop :=
  ∃ err, leAt l' 12 4 = err ∧ (∃ q, fOver tot (.fin false cnt) q ∧ ∃ fl, SfLane 4 0 0 false q err fl) ∧ leAt l' 16 4 = 0 ∧ rStg l' = 0 ∧ rEv l' = false ∧ rTend l' = rTend l ∧
    let one := 0x3F800000
    let lt := fun (a b : Nat) => xlt (xval 0 0 a) (xval 0 0 b) = true
    let nan := fun (a : Nat) => xnan (xval 0 0 a) = true
    let fin := ∃ neg v, xval 0 0 err = .fin neg v
    (¬ fin → rSt l' = 3 ∧ rT l' = rT l ∧ rH l' = rH l ∧ rXsel l' = rXsel l ∧ rClip l' = rClip l ∧ rNacc l' = rNacc l ∧ rNrej l' = rNrej l) ∧
    (fin → let ok := ¬ lt one err
      ∃ f hn, fTimes (rH l) f hn ∧ ((∃ neg, xval 0 0 err = .fin neg 0) → f = tFmax tab) ∧ ((∀ neg, xval 0 0 err ≠ .fin neg 0) → ¬ lt f (tFmin tab) ∧ (ok → ¬ lt (tFmax tab) f)) ∧
        (ok → (if rClip l then rT l' = rTend l else fPlus (rT l) (rH l) (rT l')) ∧ rXsel l' = 1 - rXsel l ∧ rNacc l' = (rNacc l + 1) % 2 ^ 32 ∧ rNrej l' = rNrej l) ∧
        (¬ ok → rT l' = rT l ∧ rXsel l' = rXsel l ∧ rNacc l' = rNacc l ∧ rNrej l' = min (rNrej l + 1) 0xFFFF) ∧
        let done := ok ∧ ¬ nan (rT l') ∧ ¬ nan (rTend l) ∧ ¬ lt (rT l') (rTend l)
        let left := xadd false (xval 0 0 (rTend l)) (xneg (xval 0 0 (rT l')))
        (done → rSt l' = 1 ∧ rH l' = hn) ∧ (¬ done → lt hn (tHmin tab) → rSt l' = 2 ∧ rH l' = hn) ∧
        (¬ done → ¬ lt hn (tHmin tab) → rSt l' = 0 ∧
          (xnan left.1 = false ∧ ¬ nan hn ∧ xlt (xval 0 0 hn) left.1 = false → fMinus (rTend l) (rT l') (rH l') ∧ rClip l' = true) ∧
          (¬ (xnan left.1 = false ∧ ¬ nan hn ∧ xlt (xval 0 0 hn) left.1 = false) → rH l' = hn ∧ rClip l' = false)))

end Sys2Proof.Claims

/-- Derived (R350, R355, R357, R359, R360, R363, R364, R367, R371 to R376, R378 to R383, R410, R446): an operation of the last cluster of a bundle has its effect and the firing goes on at the next bundle: `BKRD` and `ARD` write an x register, `BKWR` a bank, `OWR` a slot, `TOKS` takes or gives a token, a vector `VADD` of an integer type writes its lanes, and one whose guard does not hold does nothing; a firing that starts at a split bundle starts its sequences; at four `JOIN`s it goes on at NEXT; a finished row goes to its stream's tail; an input marker with nothing to fire ends the `GRUN`; `SQCOMB.TAKE` pops a row to its stage vector, at the end of its list it completes, and `SQCOMB.STAGE` without its port halts with CLASS 6 cause 3; `SQCFG` installs a valid tableau and frame, or halts with CLASS 6 cause 2; a row of `SQERR` writes x_high and ACC, and with the last row EV; `SQDEC` decides a sample; `SQNEXT` writes the list and makes it current. Where the rules leave room, the model's choices are those of log 14, 36, 37. -/
def Obligations.GridAndProofer : Prop :=
  ∀ (s : State) (c n : Nat) (m : Cmd),
    (Grids s c n m → ∀ e, e < 16 →
      (∀ fr k q, (∃ op, LastOp s c e fr k op ∧ ((∃ b, op = .bkrd q b ∨ op = .bkwr q b ∨ op = .ard q b) ∨ ∃ sl fmt z kf, op = .owr q sl fmt z kf)) → (s.core c).grid.holds e k q.g = false →
        Ends (.gridFiring c e) s fun t => NextBundle s t c e fr ∧ (t.core c).grid.x = (s.core c).grid.x ∧ (t.core c).banks = (s.core c).banks ∧ (t.core c).slots = (s.core c).slots) ∧
      (∀ fr k p q bank, (s.core c).grid.holds e k q.g = true → (s.core c).bankOf m.lid bank = some p → bitN (imgBanks (s.core c).grid.image) bank = true →
        let a := 16 * (q.off + if q.ia then ((s.core c).grid.xr e k q.xa).toNat % 2 ^ 32 else 0)
        let key := 768 * p + a / 256
        a ≤ 0x2FFF0 →
        (LastOp s c e fr k (.bkrd q bank) → Ends (.gridFiring c e) s fun t => NextBundle s t c e fr ∧ (t.core c).banks = (s.core c).banks ∧
          (t.core c).grid.x = tset (s.core c).grid.x (64 * e + 16 * k + q.x) (BitVec.ofNat 128 (fld ((s.core c).row c key).toNat (8 * (a % 256)) 128)) ∧ (t.core c).grid.y = (s.core c).grid.y) ∧
        (LastOp s c e fr k (.bkwr q bank) → Ends (.gridFiring c e) s fun t => NextBundle s t c e fr ∧ (t.core c).grid.x = (s.core c).grid.x ∧ (∀ r, r ≠ key → (t.core c).row c r = (s.core c).row c r) ∧
          (∀ b, b < 2048 → ((t.core c).row c key).getLsbD b = if 8 * (a % 256) ≤ b ∧ b < 8 * (a % 256) + 128 then ((s.core c).grid.xr e k q.x).getLsbD (b - 8 * (a % 256)) else ((s.core c).row c key).getLsbD b) ∧
          ∀ r, (t.core c).isFull r = (s.core c).isFull r ∧ (t.core c).kindOf r = (s.core c).kindOf r)) ∧
      (∀ fr k q u key, LastOp s c e fr k (.ard q u) → (s.core c).grid.holds e k q.g = true → (s.core c).clob = [] → (s.core c).results = [] → (∀ r, (s.core c).mWriter r = none) →
        (s.core c).vKey m.lid (q.off + if q.ia then ((s.core c).grid.xr e k q.xa).toNat % 2 ^ 32 else 0) = some key → q.off + (if q.ia then ((s.core c).grid.xr e k q.xa).toNat % 2 ^ 32 else 0) < 1536 →
        Ends (.gridFiring c e) s fun t => NextBundle s t c e fr ∧ (t.core c).acc = (s.core c).acc ∧
          (t.core c).grid.x = tset (s.core c).grid.x (64 * e + 16 * k + q.x) (BitVec.ofNat 128 (fld ((s.core c).accRow c key).toNat (128 * u) 128))) ∧
      (∀ fr k q sl fmt z kf p, LastOp s c e fr k (.owr q sl fmt z kf) → (s.core c).grid.holds e k q.g = true → (s.core c).slotOf m.lid sl = some p → ((s.core c).slot p).owner = some m.slot →
        let w := tyWidth fmt
        let per := 48 * (kf + 1)
        let u := 16 * (q.off + if q.ia then ((s.core c).grid.xr e k q.xa).toNat % 2 ^ 32 else 0)
        1 ≤ fmt → fmt ≤ 7 → kf < 4 → u + 16 ≤ 64 * per * w / 8 → Ends (.gridFiring c e) s fun t => NextBundle s t c e fr ∧ (t.core c).grid.x = (s.core c).grid.x ∧
          ((t.core c).slot p).lfmt = some fmt ∧ ((t.core c).slot p).lz = z ∧ ((t.core c).slot p).kf = kf + 1 ∧ ((t.core c).slot p).zps = ((s.core c).slot p).zps ∧ ((t.core c).slot p).owner = ((s.core c).slot p).owner ∧
          (∀ i b, i < 64 → b < per * w → (((t.core c).slot p).row c p i).getLsbD b = let v := i * per * w + b
            if 8 * u ≤ v ∧ v < 8 * u + 128 then ((s.core c).grid.xr e k q.x).getLsbD (v - 8 * u) else (((s.core c).slot p).row c p i).getLsbD b) ∧ ∀ r, r ≠ p → (t.core c).slot r = (s.core c).slot r) ∧
      (∀ fr k gd tok x, s.ctx c m.slot = some x → x.lid = m.lid → (s.core c).grid.holds e k gd = true →
        (LastOp s c e fr k (.toks gd true tok) → 1 ≤ x.settle.token tok → Ends (.gridFiring c e) s fun t => NextBundle s t c e fr ∧ t.ctx c m.slot = some (x.settle.take ⟨some tok, none, none⟩)) ∧
        (LastOp s c e fr k (.toks gd true tok) → x.settle.token tok = 0 → Ends (.gridFiring c e) s fun t => SameMem s t ∧ tfind (t.core c).grid.firing e = some fr ∧ t.ctx c m.slot = some x) ∧
        (LastOp s c e fr k (.toks gd false tok) → (s.core c).grid.outRow = [] → (s.core c).grid.owed = [] → x.token tok < 255 → Ends (.gridFiring c e) s fun t => NextBundle s t c e fr ∧ t.ctx c m.slot = some (signalled x (some tok)))) ∧
      (∀ fr k f, LastOp s c e fr k (.vec 0x80 f) → 8 ≤ f.t.toNat → f.t.toNat ≤ 13 → f.sat = false → f.vd.toNat < 16 → f.va.toNat < 16 → f.vb.toNat < 16 → f.g.idx.toNat < 8 → (∃ x, s.ctx c m.slot = some x ∧ x.lid = m.lid) →
        let w := tyWidth f.t.toNat
        let lane := fun (v : BitVec 11) (j : Nat) => ((s.core c).grid.xr e k v.toNat).toNat / 2 ^ (w * j) % 2 ^ w
        Ends (.gridFiring c e) s fun t => NextBundle s t c e fr ∧ (∀ r, r ≠ 64 * e + 16 * k + f.vd.toNat → tget (t.core c).grid.x 0 r = tget (s.core c).grid.x 0 r) ∧
          ∀ j, j < 128 / w → ((t.core c).grid.xr e k f.vd.toNat).toNat / 2 ^ (w * j) % 2 ^ w =
            if ((if f.g.idx = 0 then BitVec.allOnes 16 else (s.core c).grid.yr e k f.g.idx.toNat).getLsbD j) != f.g.neg
            then narrow f.t w false (iv f.t w (ngd f.na w (lane f.va j)) + iv f.t w (ngd f.nb w (lane f.vb j))) else lane f.vd j) ∧
      (tfind (s.core c).grid.firing e = none → imgNB (s.core c).grid.image e ≠ 0 → imgDin (s.core c).grid.image e = 0 → imgDout (s.core c).grid.image e = 0 → (gOp (s.core c).grid.image e 0 0).isSplit = true →
        Ends (.gridFiring c e) s fun t => SameMem s t ∧ (t.core c).grid.x = (s.core c).grid.x ∧
          tfind (t.core c).grid.firing e = some { bundle := 0, left := [], split := some ((List.range 4).map fun k => gStart (s.core c).grid.image e k), outs := [] }) ∧
      (∀ fr, tfind (s.core c).grid.firing e = some fr → fr.split = some [none, none, none, none] → gResume (s.core c).grid.image e < imgNB (s.core c).grid.image e → Ends (.splitJoinResume c e) s fun t =>
        SameMem s t ∧ (t.core c).grid.x = (s.core c).grid.x ∧ tfind (t.core c).grid.firing e = some { fr with bundle := gResume (s.core c).grid.image e, left := [0, 1, 2, 3], split := none })) ∧
    (∀ port r i st p, (s.core c).grid.outRow = [(port, [(m.id, r)])] → (s.core c).grid.owed = [] → ((s.core c).grid.running = none ∨ (s.core c).grid.firing ≠ []) → (s.core c).fpStream port m.id = some (i, st) →
      st.near = .fp p → dOut st.desc = true → st.saved = false → st.seos = none → (s.core c).canFill st = true → Ends (.fabricPortRowWrite c port) s fun t => SameMem s t ∧ (t.core c).grid.outRow = [] ∧
        (t.core c).row c (st.key st.tail) = r.row ∧ (t.core c).kindOf (st.key st.tail) = r.kind ∧ (t.core c).isFull (st.key st.tail) = true ∧
        (t.core c).streams = tset (s.core c).streams i { st with tail := (st.tail + 1) % Nat.max 1 st.depth, count := st.count + 1, eosw := st.eosw || r.kind == 1 }) ∧
    (Grids s c n m → ∀ x p i st v, Owns s c m x → imgPorts (s.core c).grid.image 1 = [p] → imgPorts (s.core c).grid.image 2 = [] → (s.core c).grid.firing = [] → (s.core c).grid.outRow = [] →
      (s.core c).queue .prism = [] → (s.core c).fpStream p m.id = some (i, st) → gridInput st = true → (s.core c).fpHead c st = .eos 0 v →
      (∀ e, e < 16 → imgNB (s.core c).grid.image e = 0 ∨ (bitN (imgDin (s.core c).grid.image e) 4 = true ∧ gPort e = some p ∧ (s.core c).grid.staged (4 * p) = []) ∨
        ∃ d k, d < 4 ∧ k < 4 ∧ bitN (imgDin (s.core c).grid.image e) d = true ∧ (s.core c).grid.link (lkKey e d k) = []) →
      Ends (.endOfInput c) s fun t => SameMem s t ∧ (t.core c).grid.running = none ∧ (t.core c).streams = (s.core c).streams ∧ Completed s t c m x) ∧
    (∀ r tab x, (s.core c).prf.run = some r → (s.core c).prf.tab = some tab → r.cmd = m → (s.core c).isLive m.id = true → Owns s c m x →
      (∀ f, m.instr = .sqcombTake f → (s.core c).prf.list[r.k]? = none → Ends (.prooferRow c) s fun t => SameMem s t ∧ (t.core c).prf.run = none ∧ (t.core c).banks = (s.core c).banks ∧ Completed s t c m x) ∧
      (∀ f w j l i st rk, m.instr = .sqcombTake f → (s.core c).prf.list[r.k]? = some (w, j) → s.prfRead c m.lid (sampOff (s.core c).prf.frame w) 32 = .ok l → rStg l = j → s.portStream c x f.port.toNat = some (i, st) →
        st.saved = false → 0 < st.count → (s.core c).isFull (st.key st.head) = true → (s.core c).kindOf (st.key st.head) = 0 → r.r < ((s.core c).prf.frame.toNat / 2 ^ 40 % 2 ^ 8) →
        let off := vecOff (s.core c).prf.frame (tS tab) w (2 + j) r.r
        (s.core c).locOk m.lid off 256 = true → (s.core c).locOf m.lid off = some (rk, 0) → Ends (.prooferRow c) s fun t => SameMem s t ∧ (t.core c).row c rk = (s.core c).row c (st.key st.head) ∧
          (∀ k, k ≠ rk → (t.core c).row c k = (s.core c).row c k) ∧ (t.core c).streams = tset (s.core c).streams i (popped st) ∧ (t.core c).prf.run = some { r with r := r.r + 1 }) ∧
      (∀ f w j, m.instr = .sqcombStage f → (s.core c).prf.list[r.k]? = some (w, j) → s.portStream c x (8 + f.port.toNat) = none → Ends (.prooferRow c) s fun t => SameMem s t ∧ (t.core c).prf.run = none ∧
        (t.core c).live = (s.core c).live.filter (fun e => e.id != m.id) ∧ ∃ z : FaultRec, z.cls = 6 ∧ z.cause = 3 ∧ z.sev = 1 ∧ z.lid = m.lid ∧ t.ctx c m.slot = some { x with afs := some (z, .ep) })) ∧
    (∀ f a fw l q x, Head s c .proofer m q x → m.instr = .sqcfg f → m.vals = [a, fw] → (s.core c).prf.run = none → (∃ v, s.launch m.lid = some v ∧ v.prf = true) → a.toNat % 64 = 0 → l.length = 192 →
      (s.setCore c (s.core c)).engRead c m false .read a.toNat 192 = (s.setCore c (s.core c), .ok l) →
      let tab := BitVec.ofNat 1536 (leNat l)
      (tabOk tab = true → (s.core c).frameOk m.lid fw (tS tab) = true → Ends (.queueHeadStart c .proofer) s fun t => SameMem s t ∧ (t.core c).queue .proofer = q ∧
        (t.core c).prf = { tab := some tab, frame := fw, list := [], run := none } ∧ (t.core c).live = (s.core c).live.filter fun e => e.id != m.id) ∧
      (leAt l 0 4 ≠ 0xB2E05A17 ∨ leAt l 4 1 = 0 ∨ 6 < leAt l 4 1 ∨ leAt l 5 1 = 0 ∨ 7 < leAt l 5 1 ∨ tabOk tab = false ∨ (s.core c).frameOk m.lid fw (tS tab) = false → x.afs = none → x.gone = false →
        Ends (.queueHeadStart c .proofer) s fun t => SameMem s t ∧ (t.core c).queue .proofer = q ∧ (t.core c).prf = (s.core c).prf ∧
          ∃ z : FaultRec, z.cls = 6 ∧ z.cause = 2 ∧ z.sev = 1 ∧ z.lid = m.lid ∧ t.ctx c m.slot = some { x.settle.take m.tk.waits with afs := some (z, .ep) })) ∧
    (∀ r tab, Proofs s c m r tab →
      (∀ f n k l, m.instr = .sqerr f → n = r.k → Sample s c m n k l → rSt l = 0 → rEv l = false → tS tab ≤ rStg l →
        let fm := (s.core c).prf.frame
        let vec := fun (v : Nat) => vecOff fm (tS tab) n v r.r
        r.r < fNR fm → ∀ (xs : Nat → Nat) (ks : Nat → Nat → Nat) (xb : List Byte) (kx yx : Nat), (s.core c).locBytes c m.lid (vec (rXsel l)) 256 = some xb → (∀ e < 64, leAt xb (4 * e) 4 = xs e) →
        (∀ i < tS tab, ∃ b, (s.core c).locBytes c m.lid (vec (2 + i)) 256 = some b ∧ ∀ e < 64, leAt b (4 * e) 4 = ks i e) → (s.core c).locOk m.lid (vec (1 - rXsel l)) 256 = true →
        (s.core c).locOf m.lid (vec (1 - rXsel l)) = some (kx, yx) → kx ≠ k →
        (∀ v, m.vals = [v] → f.ea.isSome = true → v.toNat % 256 = 0 ∧ (s.core c).locOk m.lid (v.toNat + 4 * n) 4 = true ∧ ∀ p, (s.core c).locOf m.lid (v.toNat + 4 * n) = some p → p.1 ≠ k ∧ p.1 ≠ kx) → (f.ea.isSome = true → m.vals.length = 1) →
        Ends (.prooferRow c) s fun t => SameMem s t ∧ ∃ (l' xh : List Byte) (sq : Nat → Nat) (sum : Nat), (t.core c).locBytes c m.lid (sampOff fm n) 32 = some l' ∧ (t.core c).locBytes c m.lid (vec (1 - rXsel l)) 256 = some xh ∧
          (∀ e < 64, ∃ xl d sc q u v, CombIs (xs e) (tB tab) (fun i => ks i e) (tS tab) (rH l) (leAt xh (4 * e) 4) ∧ CombIs (xs e) (tBH tab) (fun i => ks i e) (tS tab) (rH l) xl ∧ fMinus (leAt xh (4 * e) 4) xl d ∧
            u = extreme 0 true (if xnan (xval 0 0 (xs e)) then nanOf 0 else xs e % 2 ^ 31) (if xnan (xval 0 0 (leAt xh (4 * e) 4)) then nanOf 0 else leAt xh (4 * e) 4 % 2 ^ 31) ∧
            fTimes (tRtol tab) u v ∧ fPlus (tAtol tab) v sc ∧ fOver d (xval 0 0 sc) q ∧ fTimes q q (sq e)) ∧
          TreeSum sq sum ∧ fPlus (rAcc l) sum (rAcc l') ∧ rEv l' = decide (fNR fm ≤ r.r + 1) ∧ (∀ i < 32, ¬ (16 ≤ i ∧ i < 20) → i ≠ 28 → l'.getD i 0 = l.getD i 0) ∧ rXsel l' = rXsel l ∧ rClip l' = rClip l ∧
          (r.r + 1 < fNR fm → (t.core c).prf.run = some { r with k := n, r := r.r + 1 }) ∧ (fNR fm ≤ r.r + 1 → (t.core c).prf.run = some { r with k := n + 1, r := 0 } ∧
            (∀ v, m.vals = [v] → f.ea.isSome = true → (t.core c).locBytes c m.lid (v.toNat + 4 * n) 4 = some (leBytes 4 (rAcc l'))))) ∧
      (∀ f n k l tot, m.instr = .sqdec f → n = r.k → Sample s c m n k l → rSt l = 0 → rEv l = true →
        (f.gm1 = 0 → tot = rAcc l) → (f.gm1 ≠ 0 → ∃ v, m.vals = [v] ∧ ∃ (w acc : Nat → Nat), (∀ g ≤ f.gm1.toNat, (s.core c).locBytes c m.lid (v.toNat + 1024 * g + 4 * n) 4 = some (leBytes 4 (w g)) ∧ w g < 2 ^ 32) ∧
          acc 0 = w 0 ∧ (∀ g < f.gm1.toNat, fPlus (acc g) (w (g + 1)) (acc (g + 1))) ∧ tot = acc f.gm1.toNat) →
        Ends (.prooferRow c) s fun t => SameMem s t ∧ ∃ l' q, (t.core c).locBytes c m.lid (sampOff (s.core c).prf.frame n) 32 = some l' ∧ Decided tab (64 * fNR (s.core c).prf.frame * (f.gm1.toNat + 1)) tot l l' ∧
          (t.core c).prf.run = some q ∧ q.k = n + 1 ∧ q.stalls = r.stalls + (if rSt l' = 2 then 1 else 0) ∧ q.nonfin = r.nonfin + (if rSt l' = 3 then 1 else 0)) ∧
      (∀ x, Owns s c m x → ((∃ f, m.instr = .sqdec f ∧ r.first = none) ∨ ∃ f, m.instr = .sqerr f) → fNS (s.core c).prf.frame ≤ r.k → Ends (.prooferRow c) s fun t => SameMem s t ∧ (t.core c).prf.run = none ∧ (t.core c).banks = (s.core c).banks ∧ Completed s t c m x) ∧
      (∀ f v, m.instr = .sqnext f → m.vals = [v] → v.toNat % 256 = 0 → ∀ (R : Nat → List Byte) (ts : Nat → Nat), (∀ n < fNS (s.core c).prf.frame, (s.core c).locBytes c m.lid (sampOff (s.core c).prf.frame n) 32 = some (R n)) →
        let on := (List.range (fNS (s.core c).prf.frame)).filter fun n => rSt (R n) == 0 && !rEv (R n) && decide (rStg (R n) < tS tab)
        (∀ n ∈ on, ∃ q, fTimes (tC tab (rStg (R n))) (rH (R n)) q ∧ fPlus (rT (R n)) q (ts n)) → (s.core c).locOk m.lid v.toNat (8 + 8 * on.length) = true → (∀ a < 8 + 8 * on.length, ∀ b < 8 + 8 * on.length, (s.core c).locOf m.lid (v.toNat + a) = (s.core c).locOf m.lid (v.toNat + b) → a = b) →
        Ends (.prooferRow c) s fun t => SameMem s t ∧ (t.core c).prf.run = none ∧ (t.core c).prf.list = (on.map fun n => (n, rStg (R n))) ∧ (t.core c).live = (s.core c).live.filter (fun e => e.id != m.id) ∧
          (t.core c).locBytes c m.lid v.toNat 8 = some (leBytes 8 on.length) ∧
          (∀ i n, on[i]? = some n → (t.core c).locBytes c m.lid (v.toNat + 8 + 8 * i) 8 = some (leBytes 8 (ts n * 2 ^ 32 + rStg (R n) * 256 + n))) ∧
          ∀ key, (∀ a < 8 + 8 * on.length, ∀ p, (s.core c).locOf m.lid (v.toNat + a) = some p → p.1 ≠ key) → (t.core c).row c key = (s.core c).row c key))

/-- Derived (R22, R40, R43, R52, R55, R64, R66, R73, R195, R418, R419, R420): the scheduler places its choice, ends a launch that cannot be placed, saves a victim at its boundaries and restores it with its contexts as they were; a head passed over for AGEINT blocks; a gang that holds too long becomes a victim, with a CLASS 12 record; a launch that is done leaves, its completion word written; a superstep advances once every core of every participating launch is in and its transfers have landed; its entries are sent and land; a long compare wait writes a CLASS 12 record. Where the rules leave room, the model's choices are those of log 39 to 43, 56, 57. -/
def Obligations.SchedulerAndSupersteps : Prop :=
  ∀ (s : State) (l : Launch), s.launch l.lid = some l →
    (∀ b, (∀ v ∈ s.launches, v.pend = none) → s.badHead = some (l, b) → l.at 56 8 = 0 → lqIen (s.lq l.queue) = false → Ends .placeLaunch s fun t => t.launches.map Launch.lid = (s.launches.map Launch.lid).filter fun v => v != l.lid) ∧
    (s.badHead = none → (∀ v ∈ s.launches, v.pend = none) → ∀ p,
      (∀ m0 m1 ap ep, s.pick s.ordered [] = (.place l m0 m1 ap ep, p) → Ends .placeLaunch s fun t => SameMem s t ∧
        (∃ v, t.launch l.lid = some v ∧ v.phase = .placed ∧ v.everPlaced = true ∧ v.cores = m0 ∧ v.cores1 = m1 ∧ v.rcd = l.rcd) ∧ t.schedRR = (l.queue + 1) % 64 ∧
        (∀ c, m0 = [c] → m1 = [] → (s.core c).allot l.lid = none → (t.core c).apCode = (s.core c).apCode ++ [ap] ∧ (t.core c).epCode = (s.core c).epCode ++ [ep] ∧
          ∃ a, (t.core c).allot l.lid = some a ∧ a.lid = l.lid ∧ a.contexts = (s.core c).freeCtxs.take (l.at 37 1) ∧ a.banks = (s.core c).freeBanks.take (l.at 38 2) ∧
            a.tiles = (s.core c).freeTiles.take (l.at 40 1) ∧ a.slots = (s.core c).freeSlots.take (l.at 41 1) ∧
            t.ctx c (a.contexts.headD 0) = some { Ctx.start l.lid 0 false (BitVec.ofNat 64 (l.at 0 8)) (BitVec.ofNat 64 (l.at 8 8)) (BitVec.ofNat 64 (l.at 16 8)) l.base s.cycles (s.amoStart c (a.contexts.headD 0)) with uid := s.serial })) ∧
      (∀ incoming ret vs, s.pick s.ordered [] = (.preempt incoming l ret vs, p) → s.atBoundary l = true → Ends .preemptGang s fun t => SameMem s t ∧
        (∃ v, t.launch l.lid = some v ∧ v.phase = .preempted ∧ v.retained = ret ∧ v.cores = l.cores ∧ ∀ c ∈ l.allCores, ∃ k, (c, k) ∈ v.saved ∧
          k.ctxs = ((s.core c).ctxs.filter fun q => q.2.lid == l.lid).map fun q => (q.1, q.2.atSave)) ∧ ∀ c ∈ l.allCores, (t.core c).ctxs = (s.core c).ctxs.filter fun q => q.2.lid != l.lid) ∧
      (s.pick s.ordered [] = (.resume l, p) → Ends (.resumeGang l.lid) s fun t => SameMem s t ∧ (∃ v, t.launch l.lid = some v ∧ v.phase = .placed ∧ v.saved = [] ∧ v.cores = l.cores) ∧
        ∀ c k i x, l.saved = [(c, k)] → k.ctxs = [(i, x)] → t.ctx c i = some { x with cycleBase := s.cycles, ap := { x.ap with amoTag := s.amoFrom c i x.ap.amoTag } })) ∧
    (∀ q u, (s.heads.find? fun v => v.queue == q) = some l → l.passedSince = some u → u + s.ageOf ≤ s.time.toNat → Ends (.agingIntervalExpiry q) s fun t =>
      SameMem s t ∧ t.launches = changed s l.lid fun v => { v with blocking := true }) ∧
    (∀ u, l.holdWant = some u → l.phase = .placed → l.holdOver = false → l.lid ∈ s.wanted → u + s.holdlim.toNat ≤ s.time.toNat → s.holds l ≠ [] → Ends (.holdLimitExpiry l.lid) s fun t =>
      ∃ r : FaultRec, r.cls = 12 ∧ r.cause = 3 ∧ r.lid = l.lid ∧ t = { s with launches := changed s l.lid fun v => { v with holdOver := true } }.toDevice r) ∧
    (s.launchDone l = true → lqIen (s.lq l.queue) = false → (∀ v ∈ s.west.history ++ s.east.history, mcPending v = false) →
      (l.at 56 8 = 0 → Ends (.launchEnd l.lid) s fun t => SameMem s t ∧ t.launches = (s.launches.filter fun v => v.lid != l.lid).map (fun v => if v.blocking then { v with kept := (v.kept ++ l.allCores).eraseDups } else v) ∧
        ∀ c ∈ l.allCores, (t.core c).allots = (s.core c).allots.filter fun a => a.lid != l.lid) ∧
      (∀ a, l.at 56 8 ≠ 0 → s.xlateNowAll (queueDie l.queue) l.pasid 0xFFFF .write (l.at 56 8) 8 = .ok (natsFrom a 8) → (∀ i, i < 8 → regionOf (a + i) = .hbm) → Memory.wf s.mem = true → Ends (.launchEnd l.lid) s fun t =>
        t.num a 4 = l.lid.toNat ∧ (t.num (a + 4) 4 = if l.status ≠ 0 then l.status % 2 ^ 32 else if l.recorded then 2 else 0) ∧ ∀ v, (v < a ∨ a + 8 ≤ v) → t.byte v = s.byte v)) ∧
    (l.phase = .placed → l.flag 6 = true →
      (∀ landed, s.allInStep l = true → (schedSteps l.sched ≤ l.ss + 1 ∨ (landed = true ∧ (∀ i, i < schedEnts l.sched → l.entStep i = l.ss → i ∈ l.ssSent) ∧ (∀ x ∈ l.xfers, l.entStep x.entry ≠ l.ss) ∧
          leAt l.sched 0 8 + (l.ss + 1) * leAt l.sched 8 8 ≤ s.time.toNat)) →
        Ends (.superstepAdvance ⟨l.lid, true, landed⟩) s fun t => SameMem s t ∧ t.launches = changed s l.lid fun v => { v with ss := v.ss + 1, ssStart := if l.ss + 1 < schedSteps l.sched then s.time.toNat else v.ssStart }) ∧
      (∀ o landed, s.allInStep l = false ∨ o = false ∨ (landed = false ∧ l.ss + 1 < schedSteps l.sched) → exec (.superstepAdvance ⟨l.lid, o, landed⟩) s = .next s) ∧
      (∀ i b, i < schedEnts l.sched → i ∉ l.ssSent → l.entStep i ≤ l.ss → l.ssStart + l.entOff i ≤ s.time.toNat → s.entLinkUp (l.entLink i) = true →
        s.schedRead (queueDie l.queue) l.pasid (s.fndomOf l.fn) (l.entSrc i) (l.entLen i) = .ok b → Ends (.scheduleEntrySend l.lid i) s fun t =>
          SameMem s t ∧ t.launch l.lid = some { l with ssSent := i :: l.ssSent, xfers := l.xfers ++ [{ entry := i, data := b }] } ∧ t.outbox = s.outbox ++ [.xfer l.lid i])) ∧
    (∀ x o, (l.xfers.find? fun u => u.entry == x.entry) = some x → l.entSum x.entry = false → s.entLinkUp (l.entLink x.entry) = true → OpenHbm s (l.entDst x.entry) x.data.length → Memory.wf s.mem = true → Ends (.scheduleTransferLand l.lid x.entry o) s fun t =>
      (∀ i, i < x.data.length → t.byte (l.entDst x.entry + i) = x.data.getD i 0) ∧ (∀ a, (a < l.entDst x.entry ∨ l.entDst x.entry + x.data.length ≤ a) → t.byte a = s.byte a) ∧
      ∃ v, t.launch l.lid = some v ∧ v.xfers = l.xfers.filter fun u => u.entry != x.entry) ∧
    (∀ e o, s.entLinkUp (l.entLink e) = false → exec (.scheduleTransferLand l.lid e o) s = .next s) ∧
    (∀ c i x q, s.ctx c i = some x → x.lid = l.lid → x.member = false → x.afs = none → x.gone = false → l.cmpWait = [q] → q.core = c → q.slot = i → q.agreed = false → q.noted = false → q.since + 50000 ≤ s.time.toNat →
      Ends (.duplexCompareTimeout c i) s fun t => SameMem s t ∧ (∃ v, t.launch l.lid = some v ∧ v.cmpWait = [{ q with noted := true }] ∧ v.recorded = true) ∧
        ∃ r : FaultRec, r.cls = 12 ∧ r.cause = 5 ∧ r.sev = 1 ∧ r.lid = l.lid ∧ t.ctx c i = some { x with afs := some (r, .ep) })

/-- Derived (R11, R14, R15, R402, R449, R451, R452, R455, R456, R457, R464): bring-up verifies the firmware, and the dies enter step 2 together; a stack that trains sets its HBM bit, one that times out leaves it 0, and the bridge trains for both dies, which go on together; a controller that hangs is reset, and runs again once restarted; the first time lock steps device time, a slew then changes its rate by 100 ppm until it has gained or lost what it was to, and a port that locks when none is the time source becomes it; link errors are counted, retrain, cost width or a spare lane; ingest ports lose and gain lock. Where the rules leave room, the model's choices are those of log 9, 60, 62. -/
def Obligations.BringUpAndLinks : Prop :=
  ∀ (s : State) (d : Die),
    let b := (s.die d).boot
    (∀ aOk bOk, b.step = 0 →
      (let act := (s.die d).act
       (if act then bOk else aOk) = true → Ends (.bringUp d aOk bOk) s fun t =>
        let o := (s.die (Die.other d)).boot
        SameMem s t ∧ t.powered = true ∧ t.time = (if o.step = 0 then 0 else s.time) ∧
        (t.die d).boot = { b with step := if o.step = 1 then 2 else 1, since := t.time.toNat, fwok := true, fwslot := act } ∧ (t.die d).act = act ∧
        (t.die (Die.other d)).boot = (if o.step = 1 ∧ o.fwok = true then { o with step := 2, since := t.time.toNat } else o) ∧
        (t.die d).aVal = aOk ∧ (t.die d).bVal = bOk ∧ (t.die d).boots = Nat.min ((s.die d).boots + 1) 15) ∧
      (aOk = false → bOk = false → Ends (.bringUp d aOk bOk) s fun t => (t.die d).boot = { b with step := 1, since := t.time.toNat, fwok := false, fwslot := false } ∧ (t.die d).act = (s.die d).act) ∧
      ((if (s.die d).act then bOk else aOk) = false → (if (s.die d).act then aOk else bOk) = true → Ends (.bringUp d aOk bOk) s fun t => (t.die d).act = !(s.die d).act ∧ (t.die d).boot.fwslot = !(s.die d).act ∧ (t.die d).boot.fwok = true)) ∧
    (Drained s → ∀ n, b.step = 3 → n < 8 → b.hbmDone.getLsbD n = false → b.hbmDone ||| BitVec.ofNat 8 (2 ^ n) ≠ 0xFF →
      (Ends (.trainingStepDone d (.hbm n)) s fun t => SameMem s t ∧ (t.die d).boot = { b with hbm := b.hbm ||| BitVec.ofNat 8 (2 ^ n), hbmDone := b.hbmDone ||| BitVec.ofNat 8 (2 ^ n) }) ∧
      (b.since + 50000000 ≤ s.time.toNat → Ends (.trainingTimeout d (.hbm n)) s fun t => (t.die d).boot = { b with hbmDone := b.hbmDone ||| BitVec.ofNat 8 (2 ^ n) })) ∧
    (s.west.boot.step = 2 → s.east.boot.step = 2 → s.west.boot.bridgeDone = false → s.east.boot.bridgeDone = false → s.brDead = [] → Ends (.trainingStepDone d .bridge) s fun t =>
      SameMem s t ∧ ∀ e, (t.die e).boot = { (s.die e).boot with step := 3, since := s.time.toNat, bridge := true, bridgeDone := true }) ∧
    ((s.die d).ctl.up = true → (s.die (Die.other d)).ctl.up = true → 2 ≤ b.step → 2 ≤ (s.die (Die.other d)).boot.step → Ends (.controllerWatchdog d) s fun t =>
      t.die d = { s.die d with ctl := { (s.die d).ctl with up := false } }) ∧
    ((s.die d).ctl.up = false → Ends (.controllerRestartDone d) s fun t => (t.die d).ctl = { up := true, swap := false, buf := [] } ∧
      (t.die d).act = ((s.die d).act != (s.die d).ctl.swap) ∧ (t.die d).boot = { b with fwslot := (s.die d).act != (s.die d).ctl.swap } ∧ (t.die d).boots = min ((s.die d).boots + 1) 15 ∧ ((s.die d).ctl.swap = false → (s.die d).ctl.buf = [] → SameMem s t)) ∧
    (∀ p v, s.ptpLocked = false → s.west.boot.ingest.getLsbD p = true → Ends (.ptpTimeLock p v) s fun t => SameMem s t ∧ t.time = v ∧ t.ptpLocked = true ∧ t.ptpPort = some p) ∧
    (∀ n, s.ptpLocked = true → s.ptpPort.isSome = true →
      (Ends (.deviceTimeSlew false n) s fun t => t = { s with slewDebt := 0, slewGain := n, slewAcc := 0 } ∧ ∀ k, (t.runTime k).time = s.time + BitVec.ofNat 64 (k + Nat.min n (k / 10000))) ∧
      (Ends (.deviceTimeSlew true n) s fun t => t = { s with slewDebt := n, slewGain := 0, slewAcc := 0 } ∧ ∀ k, (t.runTime k).time = s.time + BitVec.ofNat 64 (k - Nat.min n (k / 10000)))) ∧
    (∀ p v, s.ptpLocked = true → s.ptpPort = none → s.west.boot.ingest.getLsbD p = true → exec (.ptpTimeLock p v) s = .next { s with ptpPort := some p }) ∧
    (∀ n, n < 6 → b.span.getLsbD n = true →
      (Ends (.flitCrcRetry (.span d n)) s fun t => tget (t.die d).lnkRetry 0 n = Nat.min (tget (s.die d).lnkRetry 0 n + 1) 0xFFFF ∧ tget (t.die d).ecnt 0 (12 + n) = counted (tget (s.die d).ecnt 0 (12 + n)) false) ∧
      (∀ lane, (∀ r ∈ s.retrain, r.link ≠ .span d n) → Ends (.linkRetryLimit (.span d n) lane) s fun t =>
        SameMem s t ∧ t.retrain = s.retrain ++ [{ link := .span d n, lane := lane, asked := false }] ∧ tget (t.die d).ecnt 0 (12 + n) = counted (tget (s.die d).ecnt 0 (12 + n)) true)) ∧
    (∀ n, n < 6 → b.step = 5 → b.spanDone.getLsbD n = false → putBit b.spanDone n true ≠ 0x3F → Ends (.trainingStepDone d (.span n)) s fun t => SameMem s t ∧
      (t.die d).boot = { b with span := if n ∈ (s.die d).lnkOff then b.span else putBit b.span n true, spanDone := putBit b.spanDone n true } ∧ tget (t.die d).lnkWidth 3 n = if n ∈ (s.die d).lnkOff then tget (s.die d).lnkWidth 3 n else 3) ∧
    (Drained s → ∀ n r, (s.retrain.find? fun q => q.link == .span d n) = some r →
      (2 ≤ tget (s.die d).lnkWidth 3 n → r.asked = false → Ends (.linkRetrainDone (.span d n) true) s fun t => tget (t.die d).lnkWidth 3 n = tget (s.die d).lnkWidth 3 n - 1 ∧
        (t.die d).boot = { b with span := putBit b.span n true } ∧ t.retrain = s.retrain.filter fun q => q.link != .span d n) ∧
      (Ends (.linkRetrainDone (.span d n) false) s fun t => (t.die d).boot = { b with span := putBit b.span n false } ∧ t.retrain = s.retrain.filter fun q => q.link != .span d n)) ∧
    (Drained s → ∀ n r, (s.retrain.find? fun q => q.link == .bridge n) = some r → tget s.brSpares 2 n ≠ 0 → Ends (.linkRetrainDone (.bridge n) true) s fun t =>
      t.brSpares = tset s.brSpares n (tget s.brSpares 2 n - 1) ∧ t.brDead = s.brDead) ∧
    (∀ p, s.west.boot.ingest.getLsbD p = true → Ends (.ingestLockLost p) s fun t => t.west.boot = { s.west.boot with ingest := putBit s.west.boot.ingest p false } ∧ tget t.west.ecnt 0 20 = counted (tget s.west.ecnt 0 20) true) ∧
    (∀ p, 6 ≤ s.west.boot.step → p < 4 → p + 8 ∉ s.west.lnkOff → Ends (.alignmentLock p) s fun t => t.west.boot = { s.west.boot with ingest := putBit s.west.boot.ingest p true } ∧ p + 8 ∉ t.west.lnkAsked ∧ (p + 8 ∉ s.west.lnkAsked → SameMem s t)) ∧
    (Ends (.meshParityResend d) s fun t => tget (t.die d).ecnt 0 19 = counted (tget (s.die d).ecnt 0 19) false ∧ (t.die d).boot = b) ∧
    (∀ ue, b.pcie = true → Ends (.pcieAerError d ue) s fun t => tget (t.die d).ecnt 0 18 = counted (tget (s.die d).ecnt 0 18) ue ∧ .aer d ue ∈ t.outbox)

/-- Derived (R105, R120, R144, R402, R403, R435, R453, R454, R461, R463): accesses to a spared frame go on once its copy is done; FREE, RETIRE and REMAP take effect with their results, and a retired frame is unmapped; a STAGE or SWAP of firmware ends; a soft error is corrected and counted, or leaves a word that a scrub finds known as bad; after a loss of power the durable tier holds what had reached the persistence domain and the power-loss record, and HBM is empty. Where the rules leave room, the model's choices are those of log 47, 61, 63, 64. -/
def Obligations.MemoryMaintenance : Prop :=
  ∀ (s : State) (d : Die),
    (Drained s → ∀ f, Ends (.rowSpareCopyDone f) s fun t => SameMem s t ∧ t.sparing = s.sparing.filter (· != f) ∧ t.spared = s.spared) ∧
    (Drained s → ∀ f k, (s.die d).ftagBusy = some { kind := k, arg := f } → isStore (4096 * f) = true → s.mapped (4096 * f) = true →
      (k = 1 → s.tag f ≠ 1 → Ends (.ftagActionDone d) s fun t => SameMem s t ∧ t.tags = s.tags ∧ (t.die d).ftagBusy = none ∧ (t.die d).ftagRes = 1) ∧
      (k = 1 → s.tag f = 1 → s.tag (f + 1) ≠ 2 → Ends (.ftagActionDone d) s fun t => SameMem s t ∧ t.tags = tdel s.tags f ∧ (t.die d).ftagBusy = none ∧ (t.die d).ftagRes = 0) ∧
      (k = 2 → Memory.wf s.mem = true → Ends (.ftagActionDone d) s fun t => t.retired = s.retired ++ [f] ∧ t.mapped (4096 * f) = false ∧ (t.die d).ftagBusy = none ∧ (t.die d).ftagRes = 0 ∧
        ∀ a, a / 4096 ≠ f → t.byte a = s.byte a) ∧
      (k = 3 → isDur (4096 * f) = false → Ends (.ftagActionDone d) s fun t => SameMem s t ∧ t.remapped = s.remapped ∧ (t.die d).ftagBusy = none ∧ (t.die d).ftagRes = 2) ∧
      (k = 3 → isDur (4096 * f) = true → s.chanSpares (4096 * f) < durSpares → Ends (.ftagActionDone d) s fun t => SameMem s t ∧ t.remapped = s.remapped ++ [f] ∧ (t.die d).ftagBusy = none ∧ (t.die d).ftagRes = 0)) ∧
    (∀ z r v, (s.die d).fwBusy = some z →
      (z.kind = 1 → r = 0 → Ends (.firmwareActionDone d r v) s fun t => SameMem s t ∧ t.die d = { s.die d with fwBusy := none, fwLast := 0, aVal := (s.die d).aVal || (s.die d).act, bVal := (s.die d).bVal || !(s.die d).act, fwVer := tset (s.die d).fwVer (b2n !(s.die d).act) v }) ∧
      (z.kind = 1 → r ≠ 0 → Ends (.firmwareActionDone d r v) s fun t => (t.die d).fwBusy = none ∧ (t.die d).fwLast = r ∧ (t.die d).aVal = (s.die d).aVal ∧ (t.die d).bVal = (s.die d).bVal ∧ (t.die d).fwVer = (s.die d).fwVer) ∧
      (z.kind ≠ 1 → (s.die d).ctl.up = true → Ends (.firmwareActionDone d r v) s fun t => SameMem s t ∧ t.die d = { s.die d with fwBusy := none, fwLast := 0 })) ∧
    (NoQueues s → ∀ w, isReg w = false → (∀ a, w = .mem a → isStore a = true) → s.spoiled w = false →
      let u := locUnit w
      (∀ i, Ends (.storageSoftError w i true) s fun t => SameMem s t ∧ t.spoiled w = true ∧ tget (t.die u.1).ecnt 0 u.2.1 = counted (tget (s.die u.1).ecnt 0 u.2.1) true) ∧
      (∀ i, Ends (.storageSoftError w i false) s fun t => SameMem s t ∧ t.spoiled w = false ∧ tget (t.die u.1).ecnt 0 u.2.1 = counted (tget (s.die u.1).ecnt 0 u.2.1) false) ∧
      (Ends (.patrolScrub w true) s fun t => SameMem s t ∧ t.spoiled w = true ∧ tget (t.die u.1).ecnt 0 u.2.1 = counted (tget (s.die u.1).ecnt 0 u.2.1) true) ∧
      (Ends (.patrolScrub w false) s fun t => SameMem s t ∧ t.spoiled w = false ∧ tget (t.die u.1).ecnt 0 u.2.1 = counted (tget (s.die u.1).ecnt 0 u.2.1) false)) ∧
    (∀ c n num i ue x, num ≠ 0 → s.ctx c n = some x → Ends (.storageSoftError (.reg c n 0 num) i ue) s fun t => SameMem s t ∧ t.ctx c n = some { x with ap := { x.ap with bad := num :: x.ap.bad } }) ∧
    (∀ full drain, Memory.wf s.mem = true → twf memDefault s.durImg = true → (∀ p ∈ s.durImg, isDur p.1 = true) → (s.plRecord full drain).length < 2 ^ 40 → Ends (.powerFailure full drain) s fun t =>
      let r := s.plRecord full drain
      t.powered = false ∧ t.cores = [] ∧ t.launches = [] ∧ t.plSeq = s.plSeq + 1 ∧ (∀ i, i < r.length → t.byte (0x010000000000 + i) = r.getD i 0) ∧
      (∀ a, isDur a = true → 0x010000000000 + r.length ≤ a → t.byte a = tget s.durImg memDefault a) ∧ ∀ a, regionOf a = .hbm → t.byte a = 0)

/-- Derived (R13, R47, R48, R51, R57, R187 to R189, R192, R400, R413, R424, R460 to R464, R466): what function 0 writes to the registers takes effect, and another function's write freezes it (R399); a launch port accepts or counts a discard; a release ends, traps or clears a frozen master; a function and a span peer read and write open HBM, with a reply; a datagram of the wrong length is a dropped line, and one of the right length of one row enters its stream. Where the rules leave room, the model's choices are those of log 44 to 46, 58, 59. -/
def Obligations.OutsideRequests : Prop :=
  ∀ (s : State) (fn : Func) (d : Die), fnIdx fn ∉ s.fnFrozen →
    (∀ q full data, q < 64 → lqForeign (s.lq q) fn = false →
      (s.discards q fn full = false → Ends (.launchPortWrite fn q full data) s fun t => SameMem s t ∧ ∃ l : Launch, t.launches = s.launches ++ [l] ∧ l.lid = BitVec.ofNat 32 (q * 2 ^ 26 + tget s.lqseq 0 q % 2 ^ 26) ∧
        l.queue = q ∧ l.phase = .queued ∧ l.fn = fn ∧ l.accepted = s.time.toNat ∧ t.lqdrop = s.lqdrop) ∧
      (s.discards q fn full = true → Ends (.launchPortWrite fn q full data) s fun t => SameMem s t ∧ t.launches = s.launches ∧ t.lqdrop = tset s.lqdrop q (Nat.min (tget s.lqdrop 0 q + 1) 0xFFFF))) ∧
    (NoSwap s → fn.num ≠ 0 → ∀ v, Ends (.fttgtWrite fn d v) s fun t => t.fnFrozen = s.fnFrozen ++ [fnIdx fn] ∧ (t.die d).fttgtEn = (s.die d).fttgtEn ∧ (t.die d).fttgtCore = (s.die d).fttgtCore) ∧
    ((s.die d).ctl.up = false → (s.die d).ctl.swap = true → ∀ f v, exec (.ftagRetire fn d f) s = .next s ∧ exec (.fttgtWrite fn d v) s = .next s) ∧
    (NoSwap s → fn.num = 0 →
      (∀ v, Ends (.registerWrite fn 0x7F0000003000 8 v) s fun t => SameMem s t ∧ t.ageint = v ∧ t.holdlim = s.holdlim) ∧
      (∀ v : Word, v.toNat / 2 ^ 63 = 0 → Ends (.fttgtWrite fn d v) s fun t => SameMem s t ∧ (t.die d).fttgtEn = false) ∧
      (∀ v : Word, v.toNat / 2 ^ 63 = 1 → v.toNat % 512 < 320 → v.toNat % 512 / 160 = dieNat d → Ends (.fttgtWrite fn d v) s fun t => SameMem s t ∧ (t.die d).fttgtEn = true ∧ (t.die d).fttgtCore = v.toNat % 512) ∧
      (∀ (m : BitVec 32) (x : Ctx) (z : Freeze), s.isFrozen d m = true → mType m < 2 → s.ctx (mCore m) (mSlot m) = some x → x.frozen = some z →
        (∀ l, s.launch x.lid = some l → Ends (.freezeReleaseAbort fn d m) s fun t => t.isFrozen (masterDie m) m = false ∧ (∃ v, t.launch x.lid = some v ∧ v.status = 3 ∧ v.tasks = []) ∧
          ∀ c ∈ l.allCores, ∀ q ∈ (t.core c).ctxs, q.2.lid ≠ x.lid) ∧
        (z.rcd.cls ≠ 12 → x.afs = none → x.gone = false → Ends (.freezeReleaseTrap fn d m) s fun t =>
          SameMem s t ∧ t.isFrozen (masterDie z.rcd.master) z.rcd.master = false ∧ t.ctx (mCore m) (mSlot m) = some { x with frozen := none, afs := some (z.rcd, z.proc) })) ∧
      (∀ m, s.isFrozen d m = true → mType m = 7 → Ends (.freezeReleaseClear fn d m) s fun t =>
        SameMem s t ∧ t.isFrozen (masterDie m) m = false ∧ t.fnFrozen = s.fnFrozen.filter (· != fnIdx ⟨masterDie m, mUnit m⟩)) ∧
      (∀ c n i st p, s.stream c i = some st → st.owner = n → st.paused = some p →
        (Ends (.streamResume fn c n i) s fun t => SameMem s t ∧ (t.core c).streams = tset (s.core c).streams i { st with paused := none }) ∧
        (∀ x, dKind st.desc ≠ 4 → st.forkOn = false → st.out = none → s.ctx c n = some x → x.lid = st.lid → x.afs = none → x.gone = false → Ends (.streamResumeAbort fn c n i) s fun t => SameMem s t ∧
          (∃ y, t.stream c i = some y ∧ y.flt = true ∧ y.fclass = 2 ∧ y.fcause = 13 ∧ y.faddr = p.2 ∧ y.paused = none) ∧ ∃ r : FaultRec, r.cls = 2 ∧ r.cause = 13 ∧ r.lid = st.lid ∧ t.ctx c n = some { x with afs := some (r, .ap) })) ∧
      (∀ f, (s.die d).ftagBusy = none → ∀ p ∈ [(Instr.ftagFree fn d f, 1), (Instr.ftagRetire fn d f, 2), (Instr.ftagRemap fn d f, 3)],
        Ends p.1 s fun t => SameMem s t ∧ (t.die d).ftagBusy = some { kind := p.2, arg := f } ∧ t.tags = s.tags) ∧
      (∀ c i, MapWaits s → (s.mapStatus false c i = 0 → s.coreHeld c = true) → Ends (.mapcmdSet fn d c i) s fun t => SameMem s t ∧ (t.die d).mapst = BitVec.ofNat 3 (s.mapStatus false c i) ∧
        (t.die (dieOf c)).history = (s.die (dieOf c)).history ++ if s.mapStatus false c i = 0 then [mapChange true false c i] else []) ∧
      (∀ c, MapWaits s → (s.mapStatus true c 0 = 0 → s.coreHeld c = true) → Ends (.mapcmdRetire fn d c) s fun t => SameMem s t ∧ (t.die d).mapst = BitVec.ofNat 3 (s.mapStatus true c 0) ∧
        (t.die (dieOf c)).history = (s.die (dieOf c)).history ++ if s.mapStatus true c 0 = 0 then [mapChange true true c 0] else []) ∧
      ((s.die d).fwBusy = none →
        (∀ a, Ends (.fwctlStage fn d a) s fun t => SameMem s t ∧ t.die d = { s.die d with fwBusy := some { kind := 1, arg := a } }) ∧
        (Ends (.fwctlSwap fn d) s fun t => SameMem s t ∧ t.die d = if (if (s.die d).act then (s.die d).aVal else (s.die d).bVal) then
          { s.die d with fwBusy := some { kind := 2, arg := 0 }, ctl := { (s.die d).ctl with up := false, swap := true } } else { s.die d with fwLast := 4 })) ∧
      (∀ k, k < 6 →
        (k ∉ (s.die d).lnkOff → Ends (.lnkctlRetrain fn d k) s fun t => SameMem s t ∧ t.retrain = s.retrain.filter (fun r => r.link != .span d k) ++ [{ link := .span d k, lane := 0, asked := true }]) ∧
        (Ends (.lnkctlDisable fn d k) s fun t => SameMem s t ∧ (t.die d).boot.span = putBit (s.die d).boot.span k false ∧ (t.die d).lnkOff = k :: (s.die d).lnkOff) ∧
        (Ends (.lnkctlEnable fn d k) s fun t => SameMem s t ∧ (t.die d).lnkOff = (s.die d).lnkOff.filter (· != k) ∧
          t.retrain = s.retrain.filter (fun r => r.link != .span d k) ++ [{ link := .span d k, lane := 0, asked := true }]))) ∧
    (∀ a n, s.pcieUp fn.link = true → OpenHbm s a n → (∀ i, i < n → s.farHeld fn.link (edgeRow fn.link 1) (a + i) = false) → Ends (.pcieRequest fn (.read a n)) s fun t => SameMem s t ∧ t.outbox = s.outbox ++ [.reply (some fn) true ((List.range n).map fun i => s.byte (a + i))]) ∧
    (∀ (a : Nat) (l : List Byte), s.pcieUp fn.link = true → OpenHbm s a l.length → (∀ i, i < l.length → s.farHeld fn.link (edgeRow fn.link 1) (a + i) = false) → Memory.wf s.mem = true → Ends (.pcieRequest fn (.write a l)) s fun t => t.outbox = s.outbox ++ [.reply (some fn) true []] ∧
      (∀ i, i < l.length → t.byte (a + i) = l.getD i 0) ∧ ∀ v, (v < a ∨ a + l.length ≤ v) → t.byte v = s.byte v) ∧
    (∀ tray a, s.west.boot.span.getLsbD (spanLink .west tray) = true → s.spanBusy .west (spanLink .west tray) = false → (∀ b, s.farHeld .west (edgeRow .west (2 + spanLink .west tray)) b = false) → tray ∉ s.peerFrozen →
      (∀ n, OpenHbm s a n → Ends (.peerRequest tray (.read a n)) s fun t => SameMem s t ∧ t.outbox = s.outbox ++ [.reply none true ((List.range n).map fun i => s.byte (a + i))]) ∧
      (∀ l : List Byte, OpenHbm s a l.length → Memory.wf s.mem = true → Ends (.peerRequest tray (.write a l)) s fun t => t.outbox = s.outbox ++ [.reply none true []] ∧
        (∀ i, i < l.length → t.byte (a + i) = l.getD i 0) ∧ ∀ v, (v < a ∨ a + l.length ≤ v) → t.byte v = s.byte v)) ∧
    (∀ p ch (proto : BitVec 2) (udp : BitVec 16) (l : List Byte), s.west.boot.ingest.getLsbD p = true → s.ingestChannel p udp.toNat = some ch → p ∉ s.ingFrozen →
      let v := (tget s.icfg 0 ch).toNat
      icProto v = proto.toNat → 2 ≤ icProto v →
      (l.length ≠ icLine v → s.ingestOf ch = none → Ends (.ingestDatagram p proto udp (.udp l)) s fun t => SameMem s t ∧ t.cores = s.cores ∧ t.idrop = tset s.idrop ch (counted (tget s.idrop 0 ch) true)) ∧
      (∀ c i st, l.length = icLine v → icLine v ≤ 256 → icTs v = false → s.ingestOf ch = some (c, i, st) → s.ingestHeld ch = false → s.stream c i = some st → dPol st.desc ≠ 2 → st.gap = 0 → st.forkOn = false → st.count + st.held + 1 ≤ st.depth →
        Ends (.ingestDatagram p proto udp (.udp l)) s fun t => SameMem s t ∧ (t.core c).row c (st.key st.tail) = bytesRow l ∧ (t.core c).isFull (st.key st.tail) = true ∧
          ∃ y, t.stream c i = some y ∧ y.count = st.count + 1 ∧ y.pos = st.pos + 1))
end

