-- ==== Sys2Proof/Laws/Config.lean ====
section
/-! SUPPORT. Laws of the sites the fuses give: a die's 160 logical cores and 8 spares stand at its 168 places, each at one of its own (R7). -/
namespace Sys2Proof.Config

/-- Drawing from places without repeats gives places of them without repeats, as many as were asked for. -/
theorem drawPlaces_spec (die : Nat) : ∀ (n : Nat) (free : List Nat), free.Nodup → n ≤ free.length →
    (drawPlaces die n free).Nodup ∧ (drawPlaces die n free).length = n ∧ ∀ p ∈ drawPlaces die n free, p ∈ free
  | 0, _, _, _ => ⟨List.nodup_nil, rfl, fun _ h => absurd h List.not_mem_nil⟩
  | n + 1, free, hd, hl => by
    have hk : fuseChoice die (167 - n) % free.length < free.length := Nat.mod_lt _ (by omega)
    obtain ⟨h1, h2, h3⟩ := drawPlaces_spec die n (free.eraseIdx (fuseChoice die (167 - n) % free.length)) (hd.eraseIdx _) (by rw [List.length_eraseIdx_of_lt hk]; omega)
    have hg : free.getD (fuseChoice die (167 - n) % free.length) 0 = free[fuseChoice die (167 - n) % free.length] := by simp [List.getD, List.getElem?_eq_getElem hk]
    refine ⟨List.nodup_cons.2 ⟨fun hm => ?_, h1⟩, by simp [drawPlaces, h2], fun p hp => ?_⟩
    · obtain ⟨i, hi, he⟩ := List.mem_eraseIdx_iff_getElem?.1 (h3 _ hm)
      rw [hg, ← List.getElem?_eq_getElem hk] at he
      exact hi ((List.getElem?_inj (List.getElem?_eq_some_iff.1 (he.trans (List.getElem?_eq_getElem hk))).1 hd).1 he)
    · rcases List.mem_cons.1 hp with h | h
      · rw [h, hg]; exact List.getElem_mem hk
      · exact List.mem_of_mem_eraseIdx (h3 p h)
/-- The 168 places of a die, no two the same. -/
theorem places_spec (die : Nat) : (places die).Nodup ∧ (places die).length = 168 ∧ ∀ p ∈ places die, p < 168 := by
  obtain ⟨h1, h2, h3⟩ := drawPlaces_spec die 168 (List.range 168) List.nodup_range (by simp)
  exact ⟨h1, h2, fun p hp => List.mem_range.1 (h3 p hp)⟩
/-- No two places of a die have one site. -/
theorem siteOf_inj (die p q : Nat) (hp : p < 168) (hq : q < 168) (h : siteOf die p = siteOf die q) : p = q := by
  have h := congrArg BitVec.toNat h
  simp only [siteOf, BitVec.toNat_ofNat] at h
  omega
/-- The place the fuses give the n-th of a die's sites. -/
theorem places_getD (die n : Nat) (h : n < 168) : (places die).getD n 0 < 168 ∧ (places die)[n]? = some ((places die).getD n 0) := by
  obtain ⟨-, h2, h3⟩ := places_spec die
  have hn : n < (places die).length := by omega
  rw [List.getD, List.getElem?_eq_getElem hn]
  exact ⟨h3 _ (List.getElem_mem hn), rfl⟩
/-- No two logical cores stand at one site. -/
theorem fuseSite_inj (c d : Nat) (hc : c < 320) (hd : d < 320) (h : fuseSite c = fuseSite d) : c = d := by
  have pc := places_getD (c / 160 % 2) (c % 160) (by omega)
  have pd := places_getD (d / 160 % 2) (d % 160) (by omega)
  have h' := congrArg BitVec.toNat h
  simp only [fuseSite, siteOf, BitVec.toNat_ofNat] at h'
  have e : c / 160 = d / 160 := by have := pc.1; have := pd.1; omega
  rw [fuseSite, fuseSite, e] at h
  rw [e] at pc
  have hp := siteOf_inj _ _ _ pc.1 pd.1 h
  obtain ⟨h1, h2, -⟩ := places_spec (d / 160 % 2)
  have := (List.getElem?_inj (by rw [h2]; omega) h1).1 (pc.2.trans ((congrArg some hp).trans pd.2.symm))
  omega

end Sys2Proof.Config
end

