-- ==== Sys2Proof/Laws/Tables.lean ====
section
/-! SUPPORT. Laws of sparse tables and of the field codec: reading after a write, the canonical form of `tput`, and that `unpack` gives back what `pack` laid. -/
namespace Sys2Proof

/-! ## Reading after a write -/

@[simp] theorem tfind_tset_self {α : Type} (t : Tbl α) (k : Nat) (v : α) : tfind (tset t k v) k = some v := by
  induction t with
  | nil => simp [tset, tfind]
  | cons p r ih =>
    obtain ⟨j, w⟩ := p
    unfold tset
    split
    · simp [tfind]
    · split
      · simp [tfind]
      · rename_i h1 h2
        simp [tfind, h1, h2, ih]

theorem tfind_tset_ne {α : Type} (t : Tbl α) (k m : Nat) (v : α) (h : m ≠ k) : tfind (tset t k v) m = tfind t m := by
  induction t with
  | nil => simp [tset, tfind, Ne.symm h]
  | cons p r ih =>
    obtain ⟨j, w⟩ := p
    unfold tset
    split
    · rename_i h1
      subst h1
      simp [tfind, Ne.symm h]
    · split
      · rename_i h1 h2
        by_cases hm : m < k
        · have : ¬ j = m := by omega
          have : m < j := by omega
          simp [tfind, Ne.symm h, *]
        · simp [tfind, Ne.symm h, hm]
      · simp [tfind, ih]

@[simp] theorem tget_tset_self {α : Type} (t : Tbl α) (d : α) (k : Nat) (v : α) : tget (tset t k v) d k = v := by simp [tget]

theorem tget_tset_ne {α : Type} (t : Tbl α) (d : α) (k m : Nat) (v : α) (h : m ≠ k) : tget (tset t k v) d m = tget t d m := by
  simp [tget, tfind_tset_ne t k m v h]

/-! ## The canonical form -/

/-- Every key of a canonical table lies above the bound, so a lower key is not listed. -/
theorem tfind_low {α : Type} [DecidableEq α] (d : α) (t : Tbl α) (l m : Nat) (h : twfAbove d (some l) t = true) (hm : m ≤ l) : tfind t m = none := by
  cases t with
  | nil => rfl
  | cons p r =>
    obtain ⟨j, w⟩ := p
    simp only [twfAbove, Bool.and_eq_true, decide_eq_true_eq] at h
    have h1 : ¬ j = m := by omega
    have h2 : m < j := by omega
    simp [tfind, h1, h2]

/-- A canonical table above a bound is canonical above a lower one, or above none. -/
theorem twfAbove_none {α : Type} [DecidableEq α] (d : α) (t : Tbl α) (lo : Option Nat) (h : twfAbove d lo t = true) : twfAbove d none t = true := by
  cases t with
  | nil => rfl
  | cons p r => simp only [twfAbove, Bool.and_eq_true] at h ⊢; exact ⟨⟨trivial, h.1.2⟩, h.2⟩

theorem twfAbove_mono {α : Type} [DecidableEq α] (d : α) (t : Tbl α) (a b : Nat) (hab : a ≤ b) (h : twfAbove d (some b) t = true) :
    twfAbove d (some a) t = true := by
  cases t with
  | nil => rfl
  | cons p r =>
    simp only [twfAbove, Bool.and_eq_true, decide_eq_true_eq] at h ⊢
    exact ⟨⟨by omega, h.1.2⟩, h.2⟩

theorem twfAbove_tset {α : Type} [DecidableEq α] (d : α) (t : Tbl α) (lo : Option Nat) (k : Nat) (v : α) (h : twfAbove d lo t = true)
    (hk : ∀ l, lo = some l → l < k) (hv : v ≠ d) : twfAbove d lo (tset t k v) = true := by
  induction t generalizing lo with
  | nil => cases lo <;> simp_all [tset, twfAbove]
  | cons p r ih =>
    obtain ⟨j, w⟩ := p
    simp only [twfAbove, Bool.and_eq_true, decide_eq_true_eq] at h
    unfold tset
    split
    · rename_i h1
      subst h1
      cases lo <;> simp_all [twfAbove]
    · split
      · rename_i h1 h2
        cases lo <;> simp_all [twfAbove]
      · rename_i h1 h2
        have := ih (some j) h.2 (by intro l hl; cases hl; omega)
        cases lo <;> simp_all [twfAbove]

theorem twfAbove_tdel {α : Type} [DecidableEq α] (d : α) (t : Tbl α) (lo : Option Nat) (k : Nat) (h : twfAbove d lo t = true) :
    twfAbove d lo (tdel t k) = true := by
  induction t generalizing lo with
  | nil => rfl
  | cons p r ih =>
    obtain ⟨j, w⟩ := p
    simp only [twfAbove, Bool.and_eq_true, decide_eq_true_eq] at h
    unfold tdel
    split
    · cases lo with
      | none => exact twfAbove_none d r _ h.2
      | some l => exact twfAbove_mono d r l j (by simp at h; omega) h.2
    · split
      · cases lo <;> simp_all [twfAbove]
      · have := ih (some j) h.2
        cases lo <;> simp_all [twfAbove]

/-- `tput` keeps the canonical form. -/
theorem twf_tput {α : Type} [DecidableEq α] (d : α) (t : Tbl α) (k : Nat) (v : α) (h : twf d t = true) : twf d (tput t d k v) = true := by
  unfold tput twf
  split
  · exact twfAbove_tdel d t none k h
  · rename_i hv
    exact twfAbove_tset d t none k v h (by simp) hv

/-- A filter of a canonical table is canonical. -/
theorem twfAbove_filter {α : Type} [DecidableEq α] (d : α) (f : Nat × α → Bool) (t : Tbl α) (lo : Option Nat) (h : twfAbove d lo t = true) :
    twfAbove d lo (t.filter f) = true := by
  induction t generalizing lo with
  | nil => rfl
  | cons p r ih =>
    obtain ⟨j, w⟩ := p
    simp only [twfAbove, Bool.and_eq_true, decide_eq_true_eq] at h
    by_cases hf : f (j, w) = true
    · simp only [List.filter_cons, hf, if_true, twfAbove, Bool.and_eq_true, decide_eq_true_eq]
      exact ⟨h.1, ih _ h.2⟩
    · simp only [List.filter_cons, hf]
      cases lo with
      | none => exact ih none (twfAbove_none d r _ h.2)
      | some l => exact ih _ (twfAbove_mono d r l j (by simp at h; omega) h.2)

theorem twf_filter {α : Type} [DecidableEq α] (d : α) (f : Nat × α → Bool) (t : Tbl α) (h : twf d t = true) : twf d (t.filter f) = true :=
  twfAbove_filter d f t none h

theorem tfind_tdel_self {α : Type} [DecidableEq α] (d : α) (t : Tbl α) (lo : Option Nat) (k : Nat) (h : twfAbove d lo t = true) : tfind (tdel t k) k = none := by
  induction t generalizing lo with
  | nil => rfl
  | cons p r ih =>
    obtain ⟨j, w⟩ := p
    simp only [twfAbove, Bool.and_eq_true, decide_eq_true_eq] at h
    unfold tdel
    split
    · rename_i h1
      subst h1
      exact tfind_low d r j j h.2 (Nat.le_refl j)
    · split
      · rename_i h1 h2
        simp [tfind, h1, h2]
      · rename_i h1 h2
        simp [tfind, h1, h2, ih _ h.2]

theorem tfind_tdel_ne {α : Type} [DecidableEq α] (d : α) (t : Tbl α) (lo : Option Nat) (k m : Nat) (h : twfAbove d lo t = true) (hm : m ≠ k) :
    tfind (tdel t k) m = tfind t m := by
  induction t generalizing lo with
  | nil => rfl
  | cons p r ih =>
    obtain ⟨j, w⟩ := p
    simp only [twfAbove, Bool.and_eq_true, decide_eq_true_eq] at h
    unfold tdel
    split
    · rename_i h1
      subst h1
      by_cases hlt : m < j
      · have : ¬ j = m := by omega
        simp [tfind, this, hlt, tfind_low d r j m h.2 (by omega)]
      · simp [tfind, Ne.symm hm, hlt]
    · split
      · rfl
      · simp [tfind, ih _ h.2]

/-- Reading after `tput`, on a canonical table. -/
theorem tget_tput {α : Type} [DecidableEq α] (d : α) (t : Tbl α) (k m : Nat) (v : α) (h : twf d t = true) :
    tget (tput t d k v) d m = if m = k then v else tget t d m := by
  unfold tput
  by_cases hm : m = k
  · subst hm
    split
    · rename_i hv
      simp [tget, tfind_tdel_self d t none m h, hv]
    · simp
  · split
    · simp [tget, tfind_tdel_ne d t none k m h hm, *]
    · simp [tget_tset_ne t d k m v hm, *]

/-! ## The field codec -/

/-- The widths of a field list sum to its total width. -/
theorem fwidth_zip (ws vs : List Nat) (h : vs.length = ws.length) : fwidth (ws.zip vs) = wsum ws := by
  induction ws generalizing vs with
  | nil => cases vs <;> simp_all [fwidth, wsum]
  | cons w r ih =>
    cases vs with
    | nil => simp at h
    | cons v s => simp only [List.zip_cons_cons, fwidth, wsum]; rw [ih s (by simpa using h)]

theorem pack_lt (ws vs : List Nat) (h : vs.length = ws.length) : pack (ws.zip vs) < 2 ^ wsum ws := by
  induction ws generalizing vs with
  | nil => cases vs <;> simp_all [pack, wsum]
  | cons w r ih =>
    cases vs with
    | nil => simp at h
    | cons v s =>
      have hs : s.length = r.length := by simpa using h
      have h1 := ih s hs
      simp only [List.zip_cons_cons, pack, wsum, fwidth_zip r s hs, Nat.pow_add]
      have h2 : v % 2 ^ w + 1 ≤ 2 ^ w := Nat.mod_lt v (Nat.two_pow_pos w)
      calc v % 2 ^ w * 2 ^ wsum r + pack (r.zip s) < v % 2 ^ w * 2 ^ wsum r + 2 ^ wsum r := by omega
        _ = (v % 2 ^ w + 1) * 2 ^ wsum r := by rw [Nat.add_mul, Nat.one_mul]
        _ ≤ 2 ^ w * 2 ^ wsum r := Nat.mul_le_mul_right _ h2

theorem unpack_mod (ws : List Nat) (x n : Nat) (h : wsum ws ≤ n) : unpack ws (x % 2 ^ n) = unpack ws x := by
  induction ws with
  | nil => rfl
  | cons w r ih =>
    simp only [unpack, wsum] at h ⊢
    rw [ih (by omega)]
    congr 1
    obtain ⟨k, rfl⟩ : ∃ k, n = wsum r + (w + k) := ⟨n - wsum r - w, by omega⟩
    rw [Nat.pow_add, ← Nat.mod_mul_right_div_self, Nat.pow_add, ← Nat.mul_assoc, Nat.mod_mul_right_mod, Nat.mod_mul_right_div_self]

/-- Fields that fit their widths come back. -/
theorem unpack_pack (ws vs : List Nat) (h : vs.length = ws.length) (hv : ∀ p ∈ ws.zip vs, p.2 < 2 ^ p.1) : unpack ws (pack (ws.zip vs)) = vs := by
  induction ws generalizing vs with
  | nil => cases vs <;> simp_all [unpack]
  | cons w r ih =>
    cases vs with
    | nil => simp at h
    | cons v s =>
      have hs : s.length = r.length := by simpa using h
      have h1 := pack_lt r s hs
      have hw : v < 2 ^ w := hv (w, v) (by simp)
      simp only [List.zip_cons_cons, pack, unpack, fwidth_zip r s hs]
      have h2 : v % 2 ^ w = v := Nat.mod_eq_of_lt hw
      have h3 : (v % 2 ^ w * 2 ^ wsum r + pack (r.zip s)) / 2 ^ wsum r = v := by
        rw [h2, Nat.mul_comm, Nat.mul_add_div (Nat.two_pow_pos _), Nat.div_eq_of_lt h1, Nat.add_zero]
      have h4 : unpack r (v % 2 ^ w * 2 ^ wsum r + pack (r.zip s)) = s := by
        rw [← unpack_mod r _ (wsum r) (Nat.le_refl _), Nat.mul_add_mod_self_right, Nat.mod_eq_of_lt h1]
        exact ih s hs (fun p hp => hv p (by simp [hp]))
      rw [h4, h3, h2]

/-- Packing the fields read gives the number back, when it fits. -/
theorem pack_unpack (ws : List Nat) (x : Nat) (h : x < 2 ^ wsum ws) : pack (ws.zip (unpack ws x)) = x := by
  induction ws generalizing x with
  | nil => simp only [wsum, Nat.pow_zero] at h; simp [unpack, pack]; omega
  | cons w r ih =>
    have hl : (unpack r x).length = r.length := by
      clear ih h
      induction r with
      | nil => rfl
      | cons a b ihb => simp [unpack, ihb]
    simp only [unpack, List.zip_cons_cons, pack, fwidth_zip r _ hl]
    have h1 := ih (x % 2 ^ wsum r) (Nat.mod_lt _ (Nat.two_pow_pos _))
    rw [unpack_mod r x _ (Nat.le_refl _)] at h1
    rw [h1, Nat.mod_mod]
    simp only [wsum, Nat.pow_add] at h
    have h2 : x / 2 ^ wsum r < 2 ^ w := Nat.div_lt_of_lt_mul (by rw [Nat.mul_comm]; exact h)
    rw [Nat.mod_eq_of_lt h2, Nat.mul_comm]
    exact Nat.div_add_mod x (2 ^ wsum r)

end Sys2Proof
end

