-- ==== Sys2Proof/Laws/State.lean ====
section
/-! SUPPORT. Laws of the named updates of the state: what each leaves of every field, cores and contexts read back, and updates of one slot that follow each other. -/
namespace Sys2Proof.Machine
open Sys2Proof

/-! ## One field, one update -/

@[simp] theorem State.setCore_launches (s : State) (c : Nat) (k : Core) : (s.setCore c k).launches = s.launches := rfl
@[simp] theorem State.setCore_west (s : State) (c : Nat) (k : Core) : (s.setCore c k).west = s.west := rfl
@[simp] theorem State.setCore_east (s : State) (c : Nat) (k : Core) : (s.setCore c k).east = s.east := rfl
@[simp] theorem State.setCore_mem (s : State) (c : Nat) (k : Core) : (s.setCore c k).mem = s.mem := rfl
@[simp] theorem State.setCore_tags (s : State) (c : Nat) (k : Core) : (s.setCore c k).tags = s.tags := rfl
@[simp] theorem State.setCore_poison (s : State) (c : Nat) (k : Core) : (s.setCore c k).poison = s.poison := rfl
@[simp] theorem State.setCore_poisonLoc (s : State) (c : Nat) (k : Core) : (s.setCore c k).poisonLoc = s.poisonLoc := rfl
@[simp] theorem State.setCore_retired (s : State) (c : Nat) (k : Core) : (s.setCore c k).retired = s.retired := rfl
@[simp] theorem State.setCore_remapped (s : State) (c : Nat) (k : Core) : (s.setCore c k).remapped = s.remapped := rfl
@[simp] theorem State.setCore_sparing (s : State) (c : Nat) (k : Core) : (s.setCore c k).sparing = s.sparing := rfl
@[simp] theorem State.setCore_spared (s : State) (c : Nat) (k : Core) : (s.setCore c k).spared = s.spared := rfl
@[simp] theorem State.setCore_rowErrs (s : State) (c : Nat) (k : Core) : (s.setCore c k).rowErrs = s.rowErrs := rfl
@[simp] theorem State.setCore_time (s : State) (c : Nat) (k : Core) : (s.setCore c k).time = s.time := rfl
@[simp] theorem State.setCore_cycles (s : State) (c : Nat) (k : Core) : (s.setCore c k).cycles = s.cycles := rfl
@[simp] theorem State.setCore_ptpLocked (s : State) (c : Nat) (k : Core) : (s.setCore c k).ptpLocked = s.ptpLocked := rfl
@[simp] theorem State.setCore_ptpPort (s : State) (c : Nat) (k : Core) : (s.setCore c k).ptpPort = s.ptpPort := rfl
@[simp] theorem State.setCore_slewDebt (s : State) (c : Nat) (k : Core) : (s.setCore c k).slewDebt = s.slewDebt := rfl
@[simp] theorem State.setCore_slewGain (s : State) (c : Nat) (k : Core) : (s.setCore c k).slewGain = s.slewGain := rfl
@[simp] theorem State.setCore_slewAcc (s : State) (c : Nat) (k : Core) : (s.setCore c k).slewAcc = s.slewAcc := rfl
@[simp] theorem State.setCore_ageint (s : State) (c : Nat) (k : Core) : (s.setCore c k).ageint = s.ageint := rfl
@[simp] theorem State.setCore_holdlim (s : State) (c : Nat) (k : Core) : (s.setCore c k).holdlim = s.holdlim := rfl
@[simp] theorem State.setCore_savebase (s : State) (c : Nat) (k : Core) : (s.setCore c k).savebase = s.savebase := rfl
@[simp] theorem State.setCore_savesize (s : State) (c : Nat) (k : Core) : (s.setCore c k).savesize = s.savesize := rfl
@[simp] theorem State.setCore_astbase (s : State) (c : Nat) (k : Core) : (s.setCore c k).astbase = s.astbase := rfl
@[simp] theorem State.setCore_lqcfg (s : State) (c : Nat) (k : Core) : (s.setCore c k).lqcfg = s.lqcfg := rfl
@[simp] theorem State.setCore_lqseq (s : State) (c : Nat) (k : Core) : (s.setCore c k).lqseq = s.lqseq := rfl
@[simp] theorem State.setCore_lqdrop (s : State) (c : Nat) (k : Core) : (s.setCore c k).lqdrop = s.lqdrop := rfl
@[simp] theorem State.setCore_part (s : State) (c : Nat) (k : Core) : (s.setCore c k).part = s.part := rfl
@[simp] theorem State.setCore_fndom (s : State) (c : Nat) (k : Core) : (s.setCore c k).fndom = s.fndom := rfl
@[simp] theorem State.setCore_icfg (s : State) (c : Nat) (k : Core) : (s.setCore c k).icfg = s.icfg := rfl
@[simp] theorem State.setCore_idrop (s : State) (c : Nat) (k : Core) : (s.setCore c k).idrop = s.idrop := rfl
@[simp] theorem State.setCore_lines (s : State) (c : Nat) (k : Core) : (s.setCore c k).lines = s.lines := rfl
@[simp] theorem State.setCore_ingq (s : State) (c : Nat) (k : Core) : (s.setCore c k).ingq = s.ingq := rfl
@[simp] theorem State.setCore_rwa (s : State) (c : Nat) (k : Core) : (s.setCore c k).rwa = s.rwa := rfl
@[simp] theorem State.setCore_rwb (s : State) (c : Nat) (k : Core) : (s.setCore c k).rwb = s.rwb := rfl
@[simp] theorem State.setCore_merges (s : State) (c : Nat) (k : Core) : (s.setCore c k).merges = s.merges := rfl
@[simp] theorem State.setCore_brSpares (s : State) (c : Nat) (k : Core) : (s.setCore c k).brSpares = s.brSpares := rfl
@[simp] theorem State.setCore_brDead (s : State) (c : Nat) (k : Core) : (s.setCore c k).brDead = s.brDead := rfl
@[simp] theorem State.setCore_cmap (s : State) (c : Nat) (k : Core) : (s.setCore c k).cmap = s.cmap := rfl
@[simp] theorem State.setCore_fnFrozen (s : State) (c : Nat) (k : Core) : (s.setCore c k).fnFrozen = s.fnFrozen := rfl
@[simp] theorem State.setCore_peerFrozen (s : State) (c : Nat) (k : Core) : (s.setCore c k).peerFrozen = s.peerFrozen := rfl
@[simp] theorem State.setCore_ingFrozen (s : State) (c : Nat) (k : Core) : (s.setCore c k).ingFrozen = s.ingFrozen := rfl
@[simp] theorem State.setCore_replay (s : State) (c : Nat) (k : Core) : (s.setCore c k).replay = s.replay := rfl
@[simp] theorem State.setCore_heldAmos (s : State) (c : Nat) (k : Core) : (s.setCore c k).heldAmos = s.heldAmos := rfl
@[simp] theorem State.setCore_durImg (s : State) (c : Nat) (k : Core) : (s.setCore c k).durImg = s.durImg := rfl
@[simp] theorem State.setCore_dstores (s : State) (c : Nat) (k : Core) : (s.setCore c k).dstores = s.dstores := rfl
@[simp] theorem State.setCore_durRel (s : State) (c : Nat) (k : Core) : (s.setCore c k).durRel = s.durRel := rfl
@[simp] theorem State.setCore_plSeq (s : State) (c : Nat) (k : Core) : (s.setCore c k).plSeq = s.plSeq := rfl
@[simp] theorem State.setCore_powered (s : State) (c : Nat) (k : Core) : (s.setCore c k).powered = s.powered := rfl
@[simp] theorem State.setCore_schedRR (s : State) (c : Nat) (k : Core) : (s.setCore c k).schedRR = s.schedRR := rfl
@[simp] theorem State.setCore_sections (s : State) (c : Nat) (k : Core) : (s.setCore c k).sections = s.sections := rfl
@[simp] theorem State.setCore_areas (s : State) (c : Nat) (k : Core) : (s.setCore c k).areas = s.areas := rfl
@[simp] theorem State.setCore_saves (s : State) (c : Nat) (k : Core) : (s.setCore c k).saves = s.saves := rfl
@[simp] theorem State.setCore_retrain (s : State) (c : Nat) (k : Core) : (s.setCore c k).retrain = s.retrain := rfl
@[simp] theorem State.setCore_cur (s : State) (c : Nat) (k : Core) : (s.setCore c k).cur = s.cur := rfl
@[simp] theorem State.setCore_serial (s : State) (c : Nat) (k : Core) : (s.setCore c k).serial = s.serial := rfl
@[simp] theorem State.setCore_fresh (s : State) (c : Nat) (k : Core) : (s.setCore c k).fresh = s.fresh := rfl
@[simp] theorem State.setCore_rr (s : State) (c : Nat) (k : Core) : (s.setCore c k).rr = s.rr := rfl
@[simp] theorem State.setCore_agenda (s : State) (c : Nat) (k : Core) : (s.setCore c k).agenda = s.agenda := rfl
@[simp] theorem State.setCore_outbox (s : State) (c : Nat) (k : Core) : (s.setCore c k).outbox = s.outbox := rfl
@[simp] theorem State.setCore_regq (s : State) (c : Nat) (k : Core) : (s.setCore c k).regq = s.regq := rfl
@[simp] theorem State.setCore_tray (s : State) (c : Nat) (k : Core) : (s.setCore c k).tray = s.tray := rfl
@[simp] theorem State.modCore_launches (s : State) (c : Nat) (f : Core → Core) : (s.modCore c f).launches = s.launches := rfl
@[simp] theorem State.modCore_west (s : State) (c : Nat) (f : Core → Core) : (s.modCore c f).west = s.west := rfl
@[simp] theorem State.modCore_east (s : State) (c : Nat) (f : Core → Core) : (s.modCore c f).east = s.east := rfl
@[simp] theorem State.modCore_mem (s : State) (c : Nat) (f : Core → Core) : (s.modCore c f).mem = s.mem := rfl
@[simp] theorem State.modCore_tags (s : State) (c : Nat) (f : Core → Core) : (s.modCore c f).tags = s.tags := rfl
@[simp] theorem State.modCore_poison (s : State) (c : Nat) (f : Core → Core) : (s.modCore c f).poison = s.poison := rfl
@[simp] theorem State.modCore_poisonLoc (s : State) (c : Nat) (f : Core → Core) : (s.modCore c f).poisonLoc = s.poisonLoc := rfl
@[simp] theorem State.modCore_retired (s : State) (c : Nat) (f : Core → Core) : (s.modCore c f).retired = s.retired := rfl
@[simp] theorem State.modCore_remapped (s : State) (c : Nat) (f : Core → Core) : (s.modCore c f).remapped = s.remapped := rfl
@[simp] theorem State.modCore_sparing (s : State) (c : Nat) (f : Core → Core) : (s.modCore c f).sparing = s.sparing := rfl
@[simp] theorem State.modCore_spared (s : State) (c : Nat) (f : Core → Core) : (s.modCore c f).spared = s.spared := rfl
@[simp] theorem State.modCore_rowErrs (s : State) (c : Nat) (f : Core → Core) : (s.modCore c f).rowErrs = s.rowErrs := rfl
@[simp] theorem State.modCore_time (s : State) (c : Nat) (f : Core → Core) : (s.modCore c f).time = s.time := rfl
@[simp] theorem State.modCore_cycles (s : State) (c : Nat) (f : Core → Core) : (s.modCore c f).cycles = s.cycles := rfl
@[simp] theorem State.modCore_ptpLocked (s : State) (c : Nat) (f : Core → Core) : (s.modCore c f).ptpLocked = s.ptpLocked := rfl
@[simp] theorem State.modCore_ptpPort (s : State) (c : Nat) (f : Core → Core) : (s.modCore c f).ptpPort = s.ptpPort := rfl
@[simp] theorem State.modCore_slewDebt (s : State) (c : Nat) (f : Core → Core) : (s.modCore c f).slewDebt = s.slewDebt := rfl
@[simp] theorem State.modCore_slewGain (s : State) (c : Nat) (f : Core → Core) : (s.modCore c f).slewGain = s.slewGain := rfl
@[simp] theorem State.modCore_slewAcc (s : State) (c : Nat) (f : Core → Core) : (s.modCore c f).slewAcc = s.slewAcc := rfl
@[simp] theorem State.modCore_ageint (s : State) (c : Nat) (f : Core → Core) : (s.modCore c f).ageint = s.ageint := rfl
@[simp] theorem State.modCore_holdlim (s : State) (c : Nat) (f : Core → Core) : (s.modCore c f).holdlim = s.holdlim := rfl
@[simp] theorem State.modCore_savebase (s : State) (c : Nat) (f : Core → Core) : (s.modCore c f).savebase = s.savebase := rfl
@[simp] theorem State.modCore_savesize (s : State) (c : Nat) (f : Core → Core) : (s.modCore c f).savesize = s.savesize := rfl
@[simp] theorem State.modCore_astbase (s : State) (c : Nat) (f : Core → Core) : (s.modCore c f).astbase = s.astbase := rfl
@[simp] theorem State.modCore_lqcfg (s : State) (c : Nat) (f : Core → Core) : (s.modCore c f).lqcfg = s.lqcfg := rfl
@[simp] theorem State.modCore_lqseq (s : State) (c : Nat) (f : Core → Core) : (s.modCore c f).lqseq = s.lqseq := rfl
@[simp] theorem State.modCore_lqdrop (s : State) (c : Nat) (f : Core → Core) : (s.modCore c f).lqdrop = s.lqdrop := rfl
@[simp] theorem State.modCore_part (s : State) (c : Nat) (f : Core → Core) : (s.modCore c f).part = s.part := rfl
@[simp] theorem State.modCore_fndom (s : State) (c : Nat) (f : Core → Core) : (s.modCore c f).fndom = s.fndom := rfl
@[simp] theorem State.modCore_icfg (s : State) (c : Nat) (f : Core → Core) : (s.modCore c f).icfg = s.icfg := rfl
@[simp] theorem State.modCore_idrop (s : State) (c : Nat) (f : Core → Core) : (s.modCore c f).idrop = s.idrop := rfl
@[simp] theorem State.modCore_lines (s : State) (c : Nat) (f : Core → Core) : (s.modCore c f).lines = s.lines := rfl
@[simp] theorem State.modCore_ingq (s : State) (c : Nat) (f : Core → Core) : (s.modCore c f).ingq = s.ingq := rfl
@[simp] theorem State.modCore_rwa (s : State) (c : Nat) (f : Core → Core) : (s.modCore c f).rwa = s.rwa := rfl
@[simp] theorem State.modCore_rwb (s : State) (c : Nat) (f : Core → Core) : (s.modCore c f).rwb = s.rwb := rfl
@[simp] theorem State.modCore_merges (s : State) (c : Nat) (f : Core → Core) : (s.modCore c f).merges = s.merges := rfl
@[simp] theorem State.modCore_brSpares (s : State) (c : Nat) (f : Core → Core) : (s.modCore c f).brSpares = s.brSpares := rfl
@[simp] theorem State.modCore_brDead (s : State) (c : Nat) (f : Core → Core) : (s.modCore c f).brDead = s.brDead := rfl
@[simp] theorem State.modCore_cmap (s : State) (c : Nat) (f : Core → Core) : (s.modCore c f).cmap = s.cmap := rfl
@[simp] theorem State.modCore_fnFrozen (s : State) (c : Nat) (f : Core → Core) : (s.modCore c f).fnFrozen = s.fnFrozen := rfl
@[simp] theorem State.modCore_peerFrozen (s : State) (c : Nat) (f : Core → Core) : (s.modCore c f).peerFrozen = s.peerFrozen := rfl
@[simp] theorem State.modCore_ingFrozen (s : State) (c : Nat) (f : Core → Core) : (s.modCore c f).ingFrozen = s.ingFrozen := rfl
@[simp] theorem State.modCore_replay (s : State) (c : Nat) (f : Core → Core) : (s.modCore c f).replay = s.replay := rfl
@[simp] theorem State.modCore_heldAmos (s : State) (c : Nat) (f : Core → Core) : (s.modCore c f).heldAmos = s.heldAmos := rfl
@[simp] theorem State.modCore_durImg (s : State) (c : Nat) (f : Core → Core) : (s.modCore c f).durImg = s.durImg := rfl
@[simp] theorem State.modCore_dstores (s : State) (c : Nat) (f : Core → Core) : (s.modCore c f).dstores = s.dstores := rfl
@[simp] theorem State.modCore_durRel (s : State) (c : Nat) (f : Core → Core) : (s.modCore c f).durRel = s.durRel := rfl
@[simp] theorem State.modCore_plSeq (s : State) (c : Nat) (f : Core → Core) : (s.modCore c f).plSeq = s.plSeq := rfl
@[simp] theorem State.modCore_powered (s : State) (c : Nat) (f : Core → Core) : (s.modCore c f).powered = s.powered := rfl
@[simp] theorem State.modCore_schedRR (s : State) (c : Nat) (f : Core → Core) : (s.modCore c f).schedRR = s.schedRR := rfl
@[simp] theorem State.modCore_sections (s : State) (c : Nat) (f : Core → Core) : (s.modCore c f).sections = s.sections := rfl
@[simp] theorem State.modCore_areas (s : State) (c : Nat) (f : Core → Core) : (s.modCore c f).areas = s.areas := rfl
@[simp] theorem State.modCore_saves (s : State) (c : Nat) (f : Core → Core) : (s.modCore c f).saves = s.saves := rfl
@[simp] theorem State.modCore_retrain (s : State) (c : Nat) (f : Core → Core) : (s.modCore c f).retrain = s.retrain := rfl
@[simp] theorem State.modCore_cur (s : State) (c : Nat) (f : Core → Core) : (s.modCore c f).cur = s.cur := rfl
@[simp] theorem State.modCore_serial (s : State) (c : Nat) (f : Core → Core) : (s.modCore c f).serial = s.serial := rfl
@[simp] theorem State.modCore_fresh (s : State) (c : Nat) (f : Core → Core) : (s.modCore c f).fresh = s.fresh := rfl
@[simp] theorem State.modCore_rr (s : State) (c : Nat) (f : Core → Core) : (s.modCore c f).rr = s.rr := rfl
@[simp] theorem State.modCore_agenda (s : State) (c : Nat) (f : Core → Core) : (s.modCore c f).agenda = s.agenda := rfl
@[simp] theorem State.modCore_outbox (s : State) (c : Nat) (f : Core → Core) : (s.modCore c f).outbox = s.outbox := rfl
@[simp] theorem State.modCore_regq (s : State) (c : Nat) (f : Core → Core) : (s.modCore c f).regq = s.regq := rfl
@[simp] theorem State.modCore_tray (s : State) (c : Nat) (f : Core → Core) : (s.modCore c f).tray = s.tray := rfl
@[simp] theorem State.setCtx_launches (s : State) (c n : Nat) (x : Ctx) : (s.setCtx c n x).launches = s.launches := rfl
@[simp] theorem State.setCtx_west (s : State) (c n : Nat) (x : Ctx) : (s.setCtx c n x).west = s.west := rfl
@[simp] theorem State.setCtx_east (s : State) (c n : Nat) (x : Ctx) : (s.setCtx c n x).east = s.east := rfl
@[simp] theorem State.setCtx_mem (s : State) (c n : Nat) (x : Ctx) : (s.setCtx c n x).mem = s.mem := rfl
@[simp] theorem State.setCtx_tags (s : State) (c n : Nat) (x : Ctx) : (s.setCtx c n x).tags = s.tags := rfl
@[simp] theorem State.setCtx_poison (s : State) (c n : Nat) (x : Ctx) : (s.setCtx c n x).poison = s.poison := rfl
@[simp] theorem State.setCtx_poisonLoc (s : State) (c n : Nat) (x : Ctx) : (s.setCtx c n x).poisonLoc = s.poisonLoc := rfl
@[simp] theorem State.setCtx_retired (s : State) (c n : Nat) (x : Ctx) : (s.setCtx c n x).retired = s.retired := rfl
@[simp] theorem State.setCtx_remapped (s : State) (c n : Nat) (x : Ctx) : (s.setCtx c n x).remapped = s.remapped := rfl
@[simp] theorem State.setCtx_sparing (s : State) (c n : Nat) (x : Ctx) : (s.setCtx c n x).sparing = s.sparing := rfl
@[simp] theorem State.setCtx_spared (s : State) (c n : Nat) (x : Ctx) : (s.setCtx c n x).spared = s.spared := rfl
@[simp] theorem State.setCtx_rowErrs (s : State) (c n : Nat) (x : Ctx) : (s.setCtx c n x).rowErrs = s.rowErrs := rfl
@[simp] theorem State.setCtx_time (s : State) (c n : Nat) (x : Ctx) : (s.setCtx c n x).time = s.time := rfl
@[simp] theorem State.setCtx_cycles (s : State) (c n : Nat) (x : Ctx) : (s.setCtx c n x).cycles = s.cycles := rfl
@[simp] theorem State.setCtx_ptpLocked (s : State) (c n : Nat) (x : Ctx) : (s.setCtx c n x).ptpLocked = s.ptpLocked := rfl
@[simp] theorem State.setCtx_ptpPort (s : State) (c n : Nat) (x : Ctx) : (s.setCtx c n x).ptpPort = s.ptpPort := rfl
@[simp] theorem State.setCtx_slewDebt (s : State) (c n : Nat) (x : Ctx) : (s.setCtx c n x).slewDebt = s.slewDebt := rfl
@[simp] theorem State.setCtx_slewGain (s : State) (c n : Nat) (x : Ctx) : (s.setCtx c n x).slewGain = s.slewGain := rfl
@[simp] theorem State.setCtx_slewAcc (s : State) (c n : Nat) (x : Ctx) : (s.setCtx c n x).slewAcc = s.slewAcc := rfl
@[simp] theorem State.setCtx_ageint (s : State) (c n : Nat) (x : Ctx) : (s.setCtx c n x).ageint = s.ageint := rfl
@[simp] theorem State.setCtx_holdlim (s : State) (c n : Nat) (x : Ctx) : (s.setCtx c n x).holdlim = s.holdlim := rfl
@[simp] theorem State.setCtx_savebase (s : State) (c n : Nat) (x : Ctx) : (s.setCtx c n x).savebase = s.savebase := rfl
@[simp] theorem State.setCtx_savesize (s : State) (c n : Nat) (x : Ctx) : (s.setCtx c n x).savesize = s.savesize := rfl
@[simp] theorem State.setCtx_astbase (s : State) (c n : Nat) (x : Ctx) : (s.setCtx c n x).astbase = s.astbase := rfl
@[simp] theorem State.setCtx_lqcfg (s : State) (c n : Nat) (x : Ctx) : (s.setCtx c n x).lqcfg = s.lqcfg := rfl
@[simp] theorem State.setCtx_lqseq (s : State) (c n : Nat) (x : Ctx) : (s.setCtx c n x).lqseq = s.lqseq := rfl
@[simp] theorem State.setCtx_lqdrop (s : State) (c n : Nat) (x : Ctx) : (s.setCtx c n x).lqdrop = s.lqdrop := rfl
@[simp] theorem State.setCtx_part (s : State) (c n : Nat) (x : Ctx) : (s.setCtx c n x).part = s.part := rfl
@[simp] theorem State.setCtx_fndom (s : State) (c n : Nat) (x : Ctx) : (s.setCtx c n x).fndom = s.fndom := rfl
@[simp] theorem State.setCtx_icfg (s : State) (c n : Nat) (x : Ctx) : (s.setCtx c n x).icfg = s.icfg := rfl
@[simp] theorem State.setCtx_idrop (s : State) (c n : Nat) (x : Ctx) : (s.setCtx c n x).idrop = s.idrop := rfl
@[simp] theorem State.setCtx_lines (s : State) (c n : Nat) (x : Ctx) : (s.setCtx c n x).lines = s.lines := rfl
@[simp] theorem State.setCtx_ingq (s : State) (c n : Nat) (x : Ctx) : (s.setCtx c n x).ingq = s.ingq := rfl
@[simp] theorem State.setCtx_rwa (s : State) (c n : Nat) (x : Ctx) : (s.setCtx c n x).rwa = s.rwa := rfl
@[simp] theorem State.setCtx_rwb (s : State) (c n : Nat) (x : Ctx) : (s.setCtx c n x).rwb = s.rwb := rfl
@[simp] theorem State.setCtx_merges (s : State) (c n : Nat) (x : Ctx) : (s.setCtx c n x).merges = s.merges := rfl
@[simp] theorem State.setCtx_brSpares (s : State) (c n : Nat) (x : Ctx) : (s.setCtx c n x).brSpares = s.brSpares := rfl
@[simp] theorem State.setCtx_brDead (s : State) (c n : Nat) (x : Ctx) : (s.setCtx c n x).brDead = s.brDead := rfl
@[simp] theorem State.setCtx_cmap (s : State) (c n : Nat) (x : Ctx) : (s.setCtx c n x).cmap = s.cmap := rfl
@[simp] theorem State.setCtx_fnFrozen (s : State) (c n : Nat) (x : Ctx) : (s.setCtx c n x).fnFrozen = s.fnFrozen := rfl
@[simp] theorem State.setCtx_peerFrozen (s : State) (c n : Nat) (x : Ctx) : (s.setCtx c n x).peerFrozen = s.peerFrozen := rfl
@[simp] theorem State.setCtx_ingFrozen (s : State) (c n : Nat) (x : Ctx) : (s.setCtx c n x).ingFrozen = s.ingFrozen := rfl
@[simp] theorem State.setCtx_replay (s : State) (c n : Nat) (x : Ctx) : (s.setCtx c n x).replay = s.replay := rfl
@[simp] theorem State.setCtx_heldAmos (s : State) (c n : Nat) (x : Ctx) : (s.setCtx c n x).heldAmos = s.heldAmos := rfl
@[simp] theorem State.setCtx_durImg (s : State) (c n : Nat) (x : Ctx) : (s.setCtx c n x).durImg = s.durImg := rfl
@[simp] theorem State.setCtx_dstores (s : State) (c n : Nat) (x : Ctx) : (s.setCtx c n x).dstores = s.dstores := rfl
@[simp] theorem State.setCtx_durRel (s : State) (c n : Nat) (x : Ctx) : (s.setCtx c n x).durRel = s.durRel := rfl
@[simp] theorem State.setCtx_plSeq (s : State) (c n : Nat) (x : Ctx) : (s.setCtx c n x).plSeq = s.plSeq := rfl
@[simp] theorem State.setCtx_powered (s : State) (c n : Nat) (x : Ctx) : (s.setCtx c n x).powered = s.powered := rfl
@[simp] theorem State.setCtx_schedRR (s : State) (c n : Nat) (x : Ctx) : (s.setCtx c n x).schedRR = s.schedRR := rfl
@[simp] theorem State.setCtx_sections (s : State) (c n : Nat) (x : Ctx) : (s.setCtx c n x).sections = s.sections := rfl
@[simp] theorem State.setCtx_areas (s : State) (c n : Nat) (x : Ctx) : (s.setCtx c n x).areas = s.areas := rfl
@[simp] theorem State.setCtx_saves (s : State) (c n : Nat) (x : Ctx) : (s.setCtx c n x).saves = s.saves := rfl
@[simp] theorem State.setCtx_retrain (s : State) (c n : Nat) (x : Ctx) : (s.setCtx c n x).retrain = s.retrain := rfl
@[simp] theorem State.setCtx_cur (s : State) (c n : Nat) (x : Ctx) : (s.setCtx c n x).cur = s.cur := rfl
@[simp] theorem State.setCtx_serial (s : State) (c n : Nat) (x : Ctx) : (s.setCtx c n x).serial = s.serial := rfl
@[simp] theorem State.setCtx_fresh (s : State) (c n : Nat) (x : Ctx) : (s.setCtx c n x).fresh = s.fresh := rfl
@[simp] theorem State.setCtx_rr (s : State) (c n : Nat) (x : Ctx) : (s.setCtx c n x).rr = s.rr := rfl
@[simp] theorem State.setCtx_agenda (s : State) (c n : Nat) (x : Ctx) : (s.setCtx c n x).agenda = s.agenda := rfl
@[simp] theorem State.setCtx_outbox (s : State) (c n : Nat) (x : Ctx) : (s.setCtx c n x).outbox = s.outbox := rfl
@[simp] theorem State.setCtx_regq (s : State) (c n : Nat) (x : Ctx) : (s.setCtx c n x).regq = s.regq := rfl
@[simp] theorem State.setCtx_tray (s : State) (c n : Nat) (x : Ctx) : (s.setCtx c n x).tray = s.tray := rfl
@[simp] theorem State.dropCtx_launches (s : State) (c n : Nat) : (s.dropCtx c n).launches = s.launches := rfl
@[simp] theorem State.dropCtx_west (s : State) (c n : Nat) : (s.dropCtx c n).west = s.west := rfl
@[simp] theorem State.dropCtx_east (s : State) (c n : Nat) : (s.dropCtx c n).east = s.east := rfl
@[simp] theorem State.dropCtx_mem (s : State) (c n : Nat) : (s.dropCtx c n).mem = s.mem := rfl
@[simp] theorem State.dropCtx_tags (s : State) (c n : Nat) : (s.dropCtx c n).tags = s.tags := rfl
@[simp] theorem State.dropCtx_poison (s : State) (c n : Nat) : (s.dropCtx c n).poison = s.poison := rfl
@[simp] theorem State.dropCtx_poisonLoc (s : State) (c n : Nat) : (s.dropCtx c n).poisonLoc = s.poisonLoc := rfl
@[simp] theorem State.dropCtx_retired (s : State) (c n : Nat) : (s.dropCtx c n).retired = s.retired := rfl
@[simp] theorem State.dropCtx_remapped (s : State) (c n : Nat) : (s.dropCtx c n).remapped = s.remapped := rfl
@[simp] theorem State.dropCtx_sparing (s : State) (c n : Nat) : (s.dropCtx c n).sparing = s.sparing := rfl
@[simp] theorem State.dropCtx_spared (s : State) (c n : Nat) : (s.dropCtx c n).spared = s.spared := rfl
@[simp] theorem State.dropCtx_rowErrs (s : State) (c n : Nat) : (s.dropCtx c n).rowErrs = s.rowErrs := rfl
@[simp] theorem State.dropCtx_time (s : State) (c n : Nat) : (s.dropCtx c n).time = s.time := rfl
@[simp] theorem State.dropCtx_cycles (s : State) (c n : Nat) : (s.dropCtx c n).cycles = s.cycles := rfl
@[simp] theorem State.dropCtx_ptpLocked (s : State) (c n : Nat) : (s.dropCtx c n).ptpLocked = s.ptpLocked := rfl
@[simp] theorem State.dropCtx_ptpPort (s : State) (c n : Nat) : (s.dropCtx c n).ptpPort = s.ptpPort := rfl
@[simp] theorem State.dropCtx_slewDebt (s : State) (c n : Nat) : (s.dropCtx c n).slewDebt = s.slewDebt := rfl
@[simp] theorem State.dropCtx_slewGain (s : State) (c n : Nat) : (s.dropCtx c n).slewGain = s.slewGain := rfl
@[simp] theorem State.dropCtx_slewAcc (s : State) (c n : Nat) : (s.dropCtx c n).slewAcc = s.slewAcc := rfl
@[simp] theorem State.dropCtx_ageint (s : State) (c n : Nat) : (s.dropCtx c n).ageint = s.ageint := rfl
@[simp] theorem State.dropCtx_holdlim (s : State) (c n : Nat) : (s.dropCtx c n).holdlim = s.holdlim := rfl
@[simp] theorem State.dropCtx_savebase (s : State) (c n : Nat) : (s.dropCtx c n).savebase = s.savebase := rfl
@[simp] theorem State.dropCtx_savesize (s : State) (c n : Nat) : (s.dropCtx c n).savesize = s.savesize := rfl
@[simp] theorem State.dropCtx_astbase (s : State) (c n : Nat) : (s.dropCtx c n).astbase = s.astbase := rfl
@[simp] theorem State.dropCtx_lqcfg (s : State) (c n : Nat) : (s.dropCtx c n).lqcfg = s.lqcfg := rfl
@[simp] theorem State.dropCtx_lqseq (s : State) (c n : Nat) : (s.dropCtx c n).lqseq = s.lqseq := rfl
@[simp] theorem State.dropCtx_lqdrop (s : State) (c n : Nat) : (s.dropCtx c n).lqdrop = s.lqdrop := rfl
@[simp] theorem State.dropCtx_part (s : State) (c n : Nat) : (s.dropCtx c n).part = s.part := rfl
@[simp] theorem State.dropCtx_fndom (s : State) (c n : Nat) : (s.dropCtx c n).fndom = s.fndom := rfl
@[simp] theorem State.dropCtx_icfg (s : State) (c n : Nat) : (s.dropCtx c n).icfg = s.icfg := rfl
@[simp] theorem State.dropCtx_idrop (s : State) (c n : Nat) : (s.dropCtx c n).idrop = s.idrop := rfl
@[simp] theorem State.dropCtx_lines (s : State) (c n : Nat) : (s.dropCtx c n).lines = s.lines := rfl
@[simp] theorem State.dropCtx_ingq (s : State) (c n : Nat) : (s.dropCtx c n).ingq = s.ingq := rfl
@[simp] theorem State.dropCtx_rwa (s : State) (c n : Nat) : (s.dropCtx c n).rwa = s.rwa := rfl
@[simp] theorem State.dropCtx_rwb (s : State) (c n : Nat) : (s.dropCtx c n).rwb = s.rwb := rfl
@[simp] theorem State.dropCtx_merges (s : State) (c n : Nat) : (s.dropCtx c n).merges = s.merges := rfl
@[simp] theorem State.dropCtx_brSpares (s : State) (c n : Nat) : (s.dropCtx c n).brSpares = s.brSpares := rfl
@[simp] theorem State.dropCtx_brDead (s : State) (c n : Nat) : (s.dropCtx c n).brDead = s.brDead := rfl
@[simp] theorem State.dropCtx_cmap (s : State) (c n : Nat) : (s.dropCtx c n).cmap = s.cmap := rfl
@[simp] theorem State.dropCtx_fnFrozen (s : State) (c n : Nat) : (s.dropCtx c n).fnFrozen = s.fnFrozen := rfl
@[simp] theorem State.dropCtx_peerFrozen (s : State) (c n : Nat) : (s.dropCtx c n).peerFrozen = s.peerFrozen := rfl
@[simp] theorem State.dropCtx_ingFrozen (s : State) (c n : Nat) : (s.dropCtx c n).ingFrozen = s.ingFrozen := rfl
@[simp] theorem State.dropCtx_replay (s : State) (c n : Nat) : (s.dropCtx c n).replay = s.replay := rfl
@[simp] theorem State.dropCtx_heldAmos (s : State) (c n : Nat) : (s.dropCtx c n).heldAmos = s.heldAmos := rfl
@[simp] theorem State.dropCtx_durImg (s : State) (c n : Nat) : (s.dropCtx c n).durImg = s.durImg := rfl
@[simp] theorem State.dropCtx_dstores (s : State) (c n : Nat) : (s.dropCtx c n).dstores = s.dstores := rfl
@[simp] theorem State.dropCtx_durRel (s : State) (c n : Nat) : (s.dropCtx c n).durRel = s.durRel := rfl
@[simp] theorem State.dropCtx_plSeq (s : State) (c n : Nat) : (s.dropCtx c n).plSeq = s.plSeq := rfl
@[simp] theorem State.dropCtx_powered (s : State) (c n : Nat) : (s.dropCtx c n).powered = s.powered := rfl
@[simp] theorem State.dropCtx_schedRR (s : State) (c n : Nat) : (s.dropCtx c n).schedRR = s.schedRR := rfl
@[simp] theorem State.dropCtx_sections (s : State) (c n : Nat) : (s.dropCtx c n).sections = s.sections := rfl
@[simp] theorem State.dropCtx_areas (s : State) (c n : Nat) : (s.dropCtx c n).areas = s.areas := rfl
@[simp] theorem State.dropCtx_saves (s : State) (c n : Nat) : (s.dropCtx c n).saves = s.saves := rfl
@[simp] theorem State.dropCtx_retrain (s : State) (c n : Nat) : (s.dropCtx c n).retrain = s.retrain := rfl
@[simp] theorem State.dropCtx_cur (s : State) (c n : Nat) : (s.dropCtx c n).cur = s.cur := rfl
@[simp] theorem State.dropCtx_serial (s : State) (c n : Nat) : (s.dropCtx c n).serial = s.serial := rfl
@[simp] theorem State.dropCtx_fresh (s : State) (c n : Nat) : (s.dropCtx c n).fresh = s.fresh := rfl
@[simp] theorem State.dropCtx_rr (s : State) (c n : Nat) : (s.dropCtx c n).rr = s.rr := rfl
@[simp] theorem State.dropCtx_agenda (s : State) (c n : Nat) : (s.dropCtx c n).agenda = s.agenda := rfl
@[simp] theorem State.dropCtx_outbox (s : State) (c n : Nat) : (s.dropCtx c n).outbox = s.outbox := rfl
@[simp] theorem State.dropCtx_regq (s : State) (c n : Nat) : (s.dropCtx c n).regq = s.regq := rfl
@[simp] theorem State.dropCtx_tray (s : State) (c n : Nat) : (s.dropCtx c n).tray = s.tray := rfl
@[simp] theorem State.modLaunch_cores (s : State) (l : BitVec 32) (f : Launch → Launch) : (s.modLaunch l f).cores = s.cores := rfl
@[simp] theorem State.modLaunch_west (s : State) (l : BitVec 32) (f : Launch → Launch) : (s.modLaunch l f).west = s.west := rfl
@[simp] theorem State.modLaunch_east (s : State) (l : BitVec 32) (f : Launch → Launch) : (s.modLaunch l f).east = s.east := rfl
@[simp] theorem State.modLaunch_mem (s : State) (l : BitVec 32) (f : Launch → Launch) : (s.modLaunch l f).mem = s.mem := rfl
@[simp] theorem State.modLaunch_tags (s : State) (l : BitVec 32) (f : Launch → Launch) : (s.modLaunch l f).tags = s.tags := rfl
@[simp] theorem State.modLaunch_poison (s : State) (l : BitVec 32) (f : Launch → Launch) : (s.modLaunch l f).poison = s.poison := rfl
@[simp] theorem State.modLaunch_poisonLoc (s : State) (l : BitVec 32) (f : Launch → Launch) : (s.modLaunch l f).poisonLoc = s.poisonLoc := rfl
@[simp] theorem State.modLaunch_retired (s : State) (l : BitVec 32) (f : Launch → Launch) : (s.modLaunch l f).retired = s.retired := rfl
@[simp] theorem State.modLaunch_remapped (s : State) (l : BitVec 32) (f : Launch → Launch) : (s.modLaunch l f).remapped = s.remapped := rfl
@[simp] theorem State.modLaunch_sparing (s : State) (l : BitVec 32) (f : Launch → Launch) : (s.modLaunch l f).sparing = s.sparing := rfl
@[simp] theorem State.modLaunch_spared (s : State) (l : BitVec 32) (f : Launch → Launch) : (s.modLaunch l f).spared = s.spared := rfl
@[simp] theorem State.modLaunch_rowErrs (s : State) (l : BitVec 32) (f : Launch → Launch) : (s.modLaunch l f).rowErrs = s.rowErrs := rfl
@[simp] theorem State.modLaunch_time (s : State) (l : BitVec 32) (f : Launch → Launch) : (s.modLaunch l f).time = s.time := rfl
@[simp] theorem State.modLaunch_cycles (s : State) (l : BitVec 32) (f : Launch → Launch) : (s.modLaunch l f).cycles = s.cycles := rfl
@[simp] theorem State.modLaunch_ptpLocked (s : State) (l : BitVec 32) (f : Launch → Launch) : (s.modLaunch l f).ptpLocked = s.ptpLocked := rfl
@[simp] theorem State.modLaunch_ptpPort (s : State) (l : BitVec 32) (f : Launch → Launch) : (s.modLaunch l f).ptpPort = s.ptpPort := rfl
@[simp] theorem State.modLaunch_slewDebt (s : State) (l : BitVec 32) (f : Launch → Launch) : (s.modLaunch l f).slewDebt = s.slewDebt := rfl
@[simp] theorem State.modLaunch_slewGain (s : State) (l : BitVec 32) (f : Launch → Launch) : (s.modLaunch l f).slewGain = s.slewGain := rfl
@[simp] theorem State.modLaunch_slewAcc (s : State) (l : BitVec 32) (f : Launch → Launch) : (s.modLaunch l f).slewAcc = s.slewAcc := rfl
@[simp] theorem State.modLaunch_ageint (s : State) (l : BitVec 32) (f : Launch → Launch) : (s.modLaunch l f).ageint = s.ageint := rfl
@[simp] theorem State.modLaunch_holdlim (s : State) (l : BitVec 32) (f : Launch → Launch) : (s.modLaunch l f).holdlim = s.holdlim := rfl
@[simp] theorem State.modLaunch_savebase (s : State) (l : BitVec 32) (f : Launch → Launch) : (s.modLaunch l f).savebase = s.savebase := rfl
@[simp] theorem State.modLaunch_savesize (s : State) (l : BitVec 32) (f : Launch → Launch) : (s.modLaunch l f).savesize = s.savesize := rfl
@[simp] theorem State.modLaunch_astbase (s : State) (l : BitVec 32) (f : Launch → Launch) : (s.modLaunch l f).astbase = s.astbase := rfl
@[simp] theorem State.modLaunch_lqcfg (s : State) (l : BitVec 32) (f : Launch → Launch) : (s.modLaunch l f).lqcfg = s.lqcfg := rfl
@[simp] theorem State.modLaunch_lqseq (s : State) (l : BitVec 32) (f : Launch → Launch) : (s.modLaunch l f).lqseq = s.lqseq := rfl
@[simp] theorem State.modLaunch_lqdrop (s : State) (l : BitVec 32) (f : Launch → Launch) : (s.modLaunch l f).lqdrop = s.lqdrop := rfl
@[simp] theorem State.modLaunch_part (s : State) (l : BitVec 32) (f : Launch → Launch) : (s.modLaunch l f).part = s.part := rfl
@[simp] theorem State.modLaunch_fndom (s : State) (l : BitVec 32) (f : Launch → Launch) : (s.modLaunch l f).fndom = s.fndom := rfl
@[simp] theorem State.modLaunch_icfg (s : State) (l : BitVec 32) (f : Launch → Launch) : (s.modLaunch l f).icfg = s.icfg := rfl
@[simp] theorem State.modLaunch_idrop (s : State) (l : BitVec 32) (f : Launch → Launch) : (s.modLaunch l f).idrop = s.idrop := rfl
@[simp] theorem State.modLaunch_lines (s : State) (l : BitVec 32) (f : Launch → Launch) : (s.modLaunch l f).lines = s.lines := rfl
@[simp] theorem State.modLaunch_ingq (s : State) (l : BitVec 32) (f : Launch → Launch) : (s.modLaunch l f).ingq = s.ingq := rfl
@[simp] theorem State.modLaunch_rwa (s : State) (l : BitVec 32) (f : Launch → Launch) : (s.modLaunch l f).rwa = s.rwa := rfl
@[simp] theorem State.modLaunch_rwb (s : State) (l : BitVec 32) (f : Launch → Launch) : (s.modLaunch l f).rwb = s.rwb := rfl
@[simp] theorem State.modLaunch_merges (s : State) (l : BitVec 32) (f : Launch → Launch) : (s.modLaunch l f).merges = s.merges := rfl
@[simp] theorem State.modLaunch_brSpares (s : State) (l : BitVec 32) (f : Launch → Launch) : (s.modLaunch l f).brSpares = s.brSpares := rfl
@[simp] theorem State.modLaunch_brDead (s : State) (l : BitVec 32) (f : Launch → Launch) : (s.modLaunch l f).brDead = s.brDead := rfl
@[simp] theorem State.modLaunch_cmap (s : State) (l : BitVec 32) (f : Launch → Launch) : (s.modLaunch l f).cmap = s.cmap := rfl
@[simp] theorem State.modLaunch_fnFrozen (s : State) (l : BitVec 32) (f : Launch → Launch) : (s.modLaunch l f).fnFrozen = s.fnFrozen := rfl
@[simp] theorem State.modLaunch_peerFrozen (s : State) (l : BitVec 32) (f : Launch → Launch) : (s.modLaunch l f).peerFrozen = s.peerFrozen := rfl
@[simp] theorem State.modLaunch_ingFrozen (s : State) (l : BitVec 32) (f : Launch → Launch) : (s.modLaunch l f).ingFrozen = s.ingFrozen := rfl
@[simp] theorem State.modLaunch_replay (s : State) (l : BitVec 32) (f : Launch → Launch) : (s.modLaunch l f).replay = s.replay := rfl
@[simp] theorem State.modLaunch_heldAmos (s : State) (l : BitVec 32) (f : Launch → Launch) : (s.modLaunch l f).heldAmos = s.heldAmos := rfl
@[simp] theorem State.modLaunch_durImg (s : State) (l : BitVec 32) (f : Launch → Launch) : (s.modLaunch l f).durImg = s.durImg := rfl
@[simp] theorem State.modLaunch_dstores (s : State) (l : BitVec 32) (f : Launch → Launch) : (s.modLaunch l f).dstores = s.dstores := rfl
@[simp] theorem State.modLaunch_durRel (s : State) (l : BitVec 32) (f : Launch → Launch) : (s.modLaunch l f).durRel = s.durRel := rfl
@[simp] theorem State.modLaunch_plSeq (s : State) (l : BitVec 32) (f : Launch → Launch) : (s.modLaunch l f).plSeq = s.plSeq := rfl
@[simp] theorem State.modLaunch_powered (s : State) (l : BitVec 32) (f : Launch → Launch) : (s.modLaunch l f).powered = s.powered := rfl
@[simp] theorem State.modLaunch_schedRR (s : State) (l : BitVec 32) (f : Launch → Launch) : (s.modLaunch l f).schedRR = s.schedRR := rfl
@[simp] theorem State.modLaunch_sections (s : State) (l : BitVec 32) (f : Launch → Launch) : (s.modLaunch l f).sections = s.sections := rfl
@[simp] theorem State.modLaunch_areas (s : State) (l : BitVec 32) (f : Launch → Launch) : (s.modLaunch l f).areas = s.areas := rfl
@[simp] theorem State.modLaunch_saves (s : State) (l : BitVec 32) (f : Launch → Launch) : (s.modLaunch l f).saves = s.saves := rfl
@[simp] theorem State.modLaunch_retrain (s : State) (l : BitVec 32) (f : Launch → Launch) : (s.modLaunch l f).retrain = s.retrain := rfl
@[simp] theorem State.modLaunch_cur (s : State) (l : BitVec 32) (f : Launch → Launch) : (s.modLaunch l f).cur = s.cur := rfl
@[simp] theorem State.modLaunch_serial (s : State) (l : BitVec 32) (f : Launch → Launch) : (s.modLaunch l f).serial = s.serial := rfl
@[simp] theorem State.modLaunch_fresh (s : State) (l : BitVec 32) (f : Launch → Launch) : (s.modLaunch l f).fresh = s.fresh := rfl
@[simp] theorem State.modLaunch_rr (s : State) (l : BitVec 32) (f : Launch → Launch) : (s.modLaunch l f).rr = s.rr := rfl
@[simp] theorem State.modLaunch_agenda (s : State) (l : BitVec 32) (f : Launch → Launch) : (s.modLaunch l f).agenda = s.agenda := rfl
@[simp] theorem State.modLaunch_outbox (s : State) (l : BitVec 32) (f : Launch → Launch) : (s.modLaunch l f).outbox = s.outbox := rfl
@[simp] theorem State.modLaunch_regq (s : State) (l : BitVec 32) (f : Launch → Launch) : (s.modLaunch l f).regq = s.regq := rfl
@[simp] theorem State.modLaunch_tray (s : State) (l : BitVec 32) (f : Launch → Launch) : (s.modLaunch l f).tray = s.tray := rfl
@[simp] theorem State.tick_cores (s : State) : (s.tick).cores = s.cores := rfl
@[simp] theorem State.tick_launches (s : State) : (s.tick).launches = s.launches := rfl
@[simp] theorem State.tick_west (s : State) : (s.tick).west = s.west := rfl
@[simp] theorem State.tick_east (s : State) : (s.tick).east = s.east := rfl
@[simp] theorem State.tick_mem (s : State) : (s.tick).mem = s.mem := rfl
@[simp] theorem State.tick_tags (s : State) : (s.tick).tags = s.tags := rfl
@[simp] theorem State.tick_poison (s : State) : (s.tick).poison = s.poison := rfl
@[simp] theorem State.tick_poisonLoc (s : State) : (s.tick).poisonLoc = s.poisonLoc := rfl
@[simp] theorem State.tick_retired (s : State) : (s.tick).retired = s.retired := rfl
@[simp] theorem State.tick_remapped (s : State) : (s.tick).remapped = s.remapped := rfl
@[simp] theorem State.tick_sparing (s : State) : (s.tick).sparing = s.sparing := rfl
@[simp] theorem State.tick_spared (s : State) : (s.tick).spared = s.spared := rfl
@[simp] theorem State.tick_rowErrs (s : State) : (s.tick).rowErrs = s.rowErrs := rfl
@[simp] theorem State.tick_time (s : State) : (s.tick).time = s.time := rfl
@[simp] theorem State.tick_cycles (s : State) : (s.tick).cycles = s.cycles := rfl
@[simp] theorem State.tick_ptpLocked (s : State) : (s.tick).ptpLocked = s.ptpLocked := rfl
@[simp] theorem State.tick_ptpPort (s : State) : (s.tick).ptpPort = s.ptpPort := rfl
@[simp] theorem State.tick_slewDebt (s : State) : (s.tick).slewDebt = s.slewDebt := rfl
@[simp] theorem State.tick_slewGain (s : State) : (s.tick).slewGain = s.slewGain := rfl
@[simp] theorem State.tick_slewAcc (s : State) : (s.tick).slewAcc = s.slewAcc := rfl
@[simp] theorem State.tick_ageint (s : State) : (s.tick).ageint = s.ageint := rfl
@[simp] theorem State.tick_holdlim (s : State) : (s.tick).holdlim = s.holdlim := rfl
@[simp] theorem State.tick_savebase (s : State) : (s.tick).savebase = s.savebase := rfl
@[simp] theorem State.tick_savesize (s : State) : (s.tick).savesize = s.savesize := rfl
@[simp] theorem State.tick_astbase (s : State) : (s.tick).astbase = s.astbase := rfl
@[simp] theorem State.tick_lqcfg (s : State) : (s.tick).lqcfg = s.lqcfg := rfl
@[simp] theorem State.tick_lqseq (s : State) : (s.tick).lqseq = s.lqseq := rfl
@[simp] theorem State.tick_lqdrop (s : State) : (s.tick).lqdrop = s.lqdrop := rfl
@[simp] theorem State.tick_part (s : State) : (s.tick).part = s.part := rfl
@[simp] theorem State.tick_fndom (s : State) : (s.tick).fndom = s.fndom := rfl
@[simp] theorem State.tick_icfg (s : State) : (s.tick).icfg = s.icfg := rfl
@[simp] theorem State.tick_idrop (s : State) : (s.tick).idrop = s.idrop := rfl
@[simp] theorem State.tick_lines (s : State) : (s.tick).lines = s.lines := rfl
@[simp] theorem State.tick_ingq (s : State) : (s.tick).ingq = s.ingq := rfl
@[simp] theorem State.tick_rwa (s : State) : (s.tick).rwa = s.rwa := rfl
@[simp] theorem State.tick_rwb (s : State) : (s.tick).rwb = s.rwb := rfl
@[simp] theorem State.tick_merges (s : State) : (s.tick).merges = s.merges := rfl
@[simp] theorem State.tick_brSpares (s : State) : (s.tick).brSpares = s.brSpares := rfl
@[simp] theorem State.tick_brDead (s : State) : (s.tick).brDead = s.brDead := rfl
@[simp] theorem State.tick_cmap (s : State) : (s.tick).cmap = s.cmap := rfl
@[simp] theorem State.tick_fnFrozen (s : State) : (s.tick).fnFrozen = s.fnFrozen := rfl
@[simp] theorem State.tick_peerFrozen (s : State) : (s.tick).peerFrozen = s.peerFrozen := rfl
@[simp] theorem State.tick_ingFrozen (s : State) : (s.tick).ingFrozen = s.ingFrozen := rfl
@[simp] theorem State.tick_replay (s : State) : (s.tick).replay = s.replay := rfl
@[simp] theorem State.tick_heldAmos (s : State) : (s.tick).heldAmos = s.heldAmos := rfl
@[simp] theorem State.tick_durImg (s : State) : (s.tick).durImg = s.durImg := rfl
@[simp] theorem State.tick_dstores (s : State) : (s.tick).dstores = s.dstores := rfl
@[simp] theorem State.tick_durRel (s : State) : (s.tick).durRel = s.durRel := rfl
@[simp] theorem State.tick_plSeq (s : State) : (s.tick).plSeq = s.plSeq := rfl
@[simp] theorem State.tick_powered (s : State) : (s.tick).powered = s.powered := rfl
@[simp] theorem State.tick_schedRR (s : State) : (s.tick).schedRR = s.schedRR := rfl
@[simp] theorem State.tick_sections (s : State) : (s.tick).sections = s.sections := rfl
@[simp] theorem State.tick_areas (s : State) : (s.tick).areas = s.areas := rfl
@[simp] theorem State.tick_saves (s : State) : (s.tick).saves = s.saves := rfl
@[simp] theorem State.tick_retrain (s : State) : (s.tick).retrain = s.retrain := rfl
@[simp] theorem State.tick_cur (s : State) : (s.tick).cur = s.cur := rfl
@[simp] theorem State.tick_fresh (s : State) : (s.tick).fresh = s.fresh := rfl
@[simp] theorem State.tick_rr (s : State) : (s.tick).rr = s.rr := rfl
@[simp] theorem State.tick_agenda (s : State) : (s.tick).agenda = s.agenda := rfl
@[simp] theorem State.tick_outbox (s : State) : (s.tick).outbox = s.outbox := rfl
@[simp] theorem State.tick_regq (s : State) : (s.tick).regq = s.regq := rfl
@[simp] theorem State.tick_tray (s : State) : (s.tick).tray = s.tray := rfl
@[simp] theorem State.drawn_cores (s : State) : (s.drawn).cores = s.cores := rfl
@[simp] theorem State.drawn_launches (s : State) : (s.drawn).launches = s.launches := rfl
@[simp] theorem State.drawn_west (s : State) : (s.drawn).west = s.west := rfl
@[simp] theorem State.drawn_east (s : State) : (s.drawn).east = s.east := rfl
@[simp] theorem State.drawn_mem (s : State) : (s.drawn).mem = s.mem := rfl
@[simp] theorem State.drawn_tags (s : State) : (s.drawn).tags = s.tags := rfl
@[simp] theorem State.drawn_poison (s : State) : (s.drawn).poison = s.poison := rfl
@[simp] theorem State.drawn_poisonLoc (s : State) : (s.drawn).poisonLoc = s.poisonLoc := rfl
@[simp] theorem State.drawn_retired (s : State) : (s.drawn).retired = s.retired := rfl
@[simp] theorem State.drawn_remapped (s : State) : (s.drawn).remapped = s.remapped := rfl
@[simp] theorem State.drawn_sparing (s : State) : (s.drawn).sparing = s.sparing := rfl
@[simp] theorem State.drawn_spared (s : State) : (s.drawn).spared = s.spared := rfl
@[simp] theorem State.drawn_rowErrs (s : State) : (s.drawn).rowErrs = s.rowErrs := rfl
@[simp] theorem State.drawn_time (s : State) : (s.drawn).time = s.time := rfl
@[simp] theorem State.drawn_cycles (s : State) : (s.drawn).cycles = s.cycles := rfl
@[simp] theorem State.drawn_ptpLocked (s : State) : (s.drawn).ptpLocked = s.ptpLocked := rfl
@[simp] theorem State.drawn_ptpPort (s : State) : (s.drawn).ptpPort = s.ptpPort := rfl
@[simp] theorem State.drawn_slewDebt (s : State) : (s.drawn).slewDebt = s.slewDebt := rfl
@[simp] theorem State.drawn_slewGain (s : State) : (s.drawn).slewGain = s.slewGain := rfl
@[simp] theorem State.drawn_slewAcc (s : State) : (s.drawn).slewAcc = s.slewAcc := rfl
@[simp] theorem State.drawn_ageint (s : State) : (s.drawn).ageint = s.ageint := rfl
@[simp] theorem State.drawn_holdlim (s : State) : (s.drawn).holdlim = s.holdlim := rfl
@[simp] theorem State.drawn_savebase (s : State) : (s.drawn).savebase = s.savebase := rfl
@[simp] theorem State.drawn_savesize (s : State) : (s.drawn).savesize = s.savesize := rfl
@[simp] theorem State.drawn_astbase (s : State) : (s.drawn).astbase = s.astbase := rfl
@[simp] theorem State.drawn_lqcfg (s : State) : (s.drawn).lqcfg = s.lqcfg := rfl
@[simp] theorem State.drawn_lqseq (s : State) : (s.drawn).lqseq = s.lqseq := rfl
@[simp] theorem State.drawn_lqdrop (s : State) : (s.drawn).lqdrop = s.lqdrop := rfl
@[simp] theorem State.drawn_part (s : State) : (s.drawn).part = s.part := rfl
@[simp] theorem State.drawn_fndom (s : State) : (s.drawn).fndom = s.fndom := rfl
@[simp] theorem State.drawn_icfg (s : State) : (s.drawn).icfg = s.icfg := rfl
@[simp] theorem State.drawn_idrop (s : State) : (s.drawn).idrop = s.idrop := rfl
@[simp] theorem State.drawn_lines (s : State) : (s.drawn).lines = s.lines := rfl
@[simp] theorem State.drawn_ingq (s : State) : (s.drawn).ingq = s.ingq := rfl
@[simp] theorem State.drawn_rwa (s : State) : (s.drawn).rwa = s.rwa := rfl
@[simp] theorem State.drawn_rwb (s : State) : (s.drawn).rwb = s.rwb := rfl
@[simp] theorem State.drawn_merges (s : State) : (s.drawn).merges = s.merges := rfl
@[simp] theorem State.drawn_brSpares (s : State) : (s.drawn).brSpares = s.brSpares := rfl
@[simp] theorem State.drawn_brDead (s : State) : (s.drawn).brDead = s.brDead := rfl
@[simp] theorem State.drawn_cmap (s : State) : (s.drawn).cmap = s.cmap := rfl
@[simp] theorem State.drawn_fnFrozen (s : State) : (s.drawn).fnFrozen = s.fnFrozen := rfl
@[simp] theorem State.drawn_peerFrozen (s : State) : (s.drawn).peerFrozen = s.peerFrozen := rfl
@[simp] theorem State.drawn_ingFrozen (s : State) : (s.drawn).ingFrozen = s.ingFrozen := rfl
@[simp] theorem State.drawn_replay (s : State) : (s.drawn).replay = s.replay := rfl
@[simp] theorem State.drawn_heldAmos (s : State) : (s.drawn).heldAmos = s.heldAmos := rfl
@[simp] theorem State.drawn_durImg (s : State) : (s.drawn).durImg = s.durImg := rfl
@[simp] theorem State.drawn_dstores (s : State) : (s.drawn).dstores = s.dstores := rfl
@[simp] theorem State.drawn_durRel (s : State) : (s.drawn).durRel = s.durRel := rfl
@[simp] theorem State.drawn_plSeq (s : State) : (s.drawn).plSeq = s.plSeq := rfl
@[simp] theorem State.drawn_powered (s : State) : (s.drawn).powered = s.powered := rfl
@[simp] theorem State.drawn_schedRR (s : State) : (s.drawn).schedRR = s.schedRR := rfl
@[simp] theorem State.drawn_sections (s : State) : (s.drawn).sections = s.sections := rfl
@[simp] theorem State.drawn_areas (s : State) : (s.drawn).areas = s.areas := rfl
@[simp] theorem State.drawn_saves (s : State) : (s.drawn).saves = s.saves := rfl
@[simp] theorem State.drawn_retrain (s : State) : (s.drawn).retrain = s.retrain := rfl
@[simp] theorem State.drawn_cur (s : State) : (s.drawn).cur = s.cur := rfl
@[simp] theorem State.drawn_serial (s : State) : (s.drawn).serial = s.serial := rfl
@[simp] theorem State.drawn_rr (s : State) : (s.drawn).rr = s.rr := rfl
@[simp] theorem State.drawn_agenda (s : State) : (s.drawn).agenda = s.agenda := rfl
@[simp] theorem State.drawn_outbox (s : State) : (s.drawn).outbox = s.outbox := rfl
@[simp] theorem State.drawn_regq (s : State) : (s.drawn).regq = s.regq := rfl
@[simp] theorem State.drawn_tray (s : State) : (s.drawn).tray = s.tray := rfl
@[simp] theorem State.putByte_cores (s : State) (a : Nat) (b : Byte) : (s.putByte a b).cores = s.cores := rfl
@[simp] theorem State.putByte_launches (s : State) (a : Nat) (b : Byte) : (s.putByte a b).launches = s.launches := rfl
@[simp] theorem State.putByte_west (s : State) (a : Nat) (b : Byte) : (s.putByte a b).west = s.west := rfl
@[simp] theorem State.putByte_east (s : State) (a : Nat) (b : Byte) : (s.putByte a b).east = s.east := rfl
@[simp] theorem State.putByte_tags (s : State) (a : Nat) (b : Byte) : (s.putByte a b).tags = s.tags := rfl
@[simp] theorem State.putByte_poison (s : State) (a : Nat) (b : Byte) : (s.putByte a b).poison = s.poison := rfl
@[simp] theorem State.putByte_poisonLoc (s : State) (a : Nat) (b : Byte) : (s.putByte a b).poisonLoc = s.poisonLoc := rfl
@[simp] theorem State.putByte_retired (s : State) (a : Nat) (b : Byte) : (s.putByte a b).retired = s.retired := rfl
@[simp] theorem State.putByte_remapped (s : State) (a : Nat) (b : Byte) : (s.putByte a b).remapped = s.remapped := rfl
@[simp] theorem State.putByte_sparing (s : State) (a : Nat) (b : Byte) : (s.putByte a b).sparing = s.sparing := rfl
@[simp] theorem State.putByte_spared (s : State) (a : Nat) (b : Byte) : (s.putByte a b).spared = s.spared := rfl
@[simp] theorem State.putByte_rowErrs (s : State) (a : Nat) (b : Byte) : (s.putByte a b).rowErrs = s.rowErrs := rfl
@[simp] theorem State.putByte_time (s : State) (a : Nat) (b : Byte) : (s.putByte a b).time = s.time := rfl
@[simp] theorem State.putByte_cycles (s : State) (a : Nat) (b : Byte) : (s.putByte a b).cycles = s.cycles := rfl
@[simp] theorem State.putByte_ptpLocked (s : State) (a : Nat) (b : Byte) : (s.putByte a b).ptpLocked = s.ptpLocked := rfl
@[simp] theorem State.putByte_ptpPort (s : State) (a : Nat) (b : Byte) : (s.putByte a b).ptpPort = s.ptpPort := rfl
@[simp] theorem State.putByte_slewDebt (s : State) (a : Nat) (b : Byte) : (s.putByte a b).slewDebt = s.slewDebt := rfl
@[simp] theorem State.putByte_slewGain (s : State) (a : Nat) (b : Byte) : (s.putByte a b).slewGain = s.slewGain := rfl
@[simp] theorem State.putByte_slewAcc (s : State) (a : Nat) (b : Byte) : (s.putByte a b).slewAcc = s.slewAcc := rfl
@[simp] theorem State.putByte_ageint (s : State) (a : Nat) (b : Byte) : (s.putByte a b).ageint = s.ageint := rfl
@[simp] theorem State.putByte_holdlim (s : State) (a : Nat) (b : Byte) : (s.putByte a b).holdlim = s.holdlim := rfl
@[simp] theorem State.putByte_savebase (s : State) (a : Nat) (b : Byte) : (s.putByte a b).savebase = s.savebase := rfl
@[simp] theorem State.putByte_savesize (s : State) (a : Nat) (b : Byte) : (s.putByte a b).savesize = s.savesize := rfl
@[simp] theorem State.putByte_astbase (s : State) (a : Nat) (b : Byte) : (s.putByte a b).astbase = s.astbase := rfl
@[simp] theorem State.putByte_lqcfg (s : State) (a : Nat) (b : Byte) : (s.putByte a b).lqcfg = s.lqcfg := rfl
@[simp] theorem State.putByte_lqseq (s : State) (a : Nat) (b : Byte) : (s.putByte a b).lqseq = s.lqseq := rfl
@[simp] theorem State.putByte_lqdrop (s : State) (a : Nat) (b : Byte) : (s.putByte a b).lqdrop = s.lqdrop := rfl
@[simp] theorem State.putByte_part (s : State) (a : Nat) (b : Byte) : (s.putByte a b).part = s.part := rfl
@[simp] theorem State.putByte_fndom (s : State) (a : Nat) (b : Byte) : (s.putByte a b).fndom = s.fndom := rfl
@[simp] theorem State.putByte_icfg (s : State) (a : Nat) (b : Byte) : (s.putByte a b).icfg = s.icfg := rfl
@[simp] theorem State.putByte_idrop (s : State) (a : Nat) (b : Byte) : (s.putByte a b).idrop = s.idrop := rfl
@[simp] theorem State.putByte_lines (s : State) (a : Nat) (b : Byte) : (s.putByte a b).lines = s.lines := rfl
@[simp] theorem State.putByte_ingq (s : State) (a : Nat) (b : Byte) : (s.putByte a b).ingq = s.ingq := rfl
@[simp] theorem State.putByte_rwa (s : State) (a : Nat) (b : Byte) : (s.putByte a b).rwa = s.rwa := rfl
@[simp] theorem State.putByte_rwb (s : State) (a : Nat) (b : Byte) : (s.putByte a b).rwb = s.rwb := rfl
@[simp] theorem State.putByte_merges (s : State) (a : Nat) (b : Byte) : (s.putByte a b).merges = s.merges := rfl
@[simp] theorem State.putByte_brSpares (s : State) (a : Nat) (b : Byte) : (s.putByte a b).brSpares = s.brSpares := rfl
@[simp] theorem State.putByte_brDead (s : State) (a : Nat) (b : Byte) : (s.putByte a b).brDead = s.brDead := rfl
@[simp] theorem State.putByte_cmap (s : State) (a : Nat) (b : Byte) : (s.putByte a b).cmap = s.cmap := rfl
@[simp] theorem State.putByte_fnFrozen (s : State) (a : Nat) (b : Byte) : (s.putByte a b).fnFrozen = s.fnFrozen := rfl
@[simp] theorem State.putByte_peerFrozen (s : State) (a : Nat) (b : Byte) : (s.putByte a b).peerFrozen = s.peerFrozen := rfl
@[simp] theorem State.putByte_ingFrozen (s : State) (a : Nat) (b : Byte) : (s.putByte a b).ingFrozen = s.ingFrozen := rfl
@[simp] theorem State.putByte_replay (s : State) (a : Nat) (b : Byte) : (s.putByte a b).replay = s.replay := rfl
@[simp] theorem State.putByte_heldAmos (s : State) (a : Nat) (b : Byte) : (s.putByte a b).heldAmos = s.heldAmos := rfl
@[simp] theorem State.putByte_durImg (s : State) (a : Nat) (b : Byte) : (s.putByte a b).durImg = s.durImg := rfl
@[simp] theorem State.putByte_dstores (s : State) (a : Nat) (b : Byte) : (s.putByte a b).dstores = s.dstores := rfl
@[simp] theorem State.putByte_durRel (s : State) (a : Nat) (b : Byte) : (s.putByte a b).durRel = s.durRel := rfl
@[simp] theorem State.putByte_plSeq (s : State) (a : Nat) (b : Byte) : (s.putByte a b).plSeq = s.plSeq := rfl
@[simp] theorem State.putByte_powered (s : State) (a : Nat) (b : Byte) : (s.putByte a b).powered = s.powered := rfl
@[simp] theorem State.putByte_schedRR (s : State) (a : Nat) (b : Byte) : (s.putByte a b).schedRR = s.schedRR := rfl
@[simp] theorem State.putByte_sections (s : State) (a : Nat) (b : Byte) : (s.putByte a b).sections = s.sections := rfl
@[simp] theorem State.putByte_areas (s : State) (a : Nat) (b : Byte) : (s.putByte a b).areas = s.areas := rfl
@[simp] theorem State.putByte_saves (s : State) (a : Nat) (b : Byte) : (s.putByte a b).saves = s.saves := rfl
@[simp] theorem State.putByte_retrain (s : State) (a : Nat) (b : Byte) : (s.putByte a b).retrain = s.retrain := rfl
@[simp] theorem State.putByte_cur (s : State) (a : Nat) (b : Byte) : (s.putByte a b).cur = s.cur := rfl
@[simp] theorem State.putByte_serial (s : State) (a : Nat) (b : Byte) : (s.putByte a b).serial = s.serial := rfl
@[simp] theorem State.putByte_fresh (s : State) (a : Nat) (b : Byte) : (s.putByte a b).fresh = s.fresh := rfl
@[simp] theorem State.putByte_rr (s : State) (a : Nat) (b : Byte) : (s.putByte a b).rr = s.rr := rfl
@[simp] theorem State.putByte_agenda (s : State) (a : Nat) (b : Byte) : (s.putByte a b).agenda = s.agenda := rfl
@[simp] theorem State.putByte_outbox (s : State) (a : Nat) (b : Byte) : (s.putByte a b).outbox = s.outbox := rfl
@[simp] theorem State.putByte_regq (s : State) (a : Nat) (b : Byte) : (s.putByte a b).regq = s.regq := rfl
@[simp] theorem State.putByte_tray (s : State) (a : Nat) (b : Byte) : (s.putByte a b).tray = s.tray := rfl
@[simp] theorem State.setDie_cores (s : State) (d : Die) (x : DieSt) : (s.setDie d x).cores = s.cores := by cases d <;> rfl
@[simp] theorem State.setDie_launches (s : State) (d : Die) (x : DieSt) : (s.setDie d x).launches = s.launches := by cases d <;> rfl
@[simp] theorem State.setDie_mem (s : State) (d : Die) (x : DieSt) : (s.setDie d x).mem = s.mem := by cases d <;> rfl
@[simp] theorem State.setDie_tags (s : State) (d : Die) (x : DieSt) : (s.setDie d x).tags = s.tags := by cases d <;> rfl
@[simp] theorem State.setDie_poison (s : State) (d : Die) (x : DieSt) : (s.setDie d x).poison = s.poison := by cases d <;> rfl
@[simp] theorem State.setDie_poisonLoc (s : State) (d : Die) (x : DieSt) : (s.setDie d x).poisonLoc = s.poisonLoc := by cases d <;> rfl
@[simp] theorem State.setDie_retired (s : State) (d : Die) (x : DieSt) : (s.setDie d x).retired = s.retired := by cases d <;> rfl
@[simp] theorem State.setDie_remapped (s : State) (d : Die) (x : DieSt) : (s.setDie d x).remapped = s.remapped := by cases d <;> rfl
@[simp] theorem State.setDie_sparing (s : State) (d : Die) (x : DieSt) : (s.setDie d x).sparing = s.sparing := by cases d <;> rfl
@[simp] theorem State.setDie_spared (s : State) (d : Die) (x : DieSt) : (s.setDie d x).spared = s.spared := by cases d <;> rfl
@[simp] theorem State.setDie_rowErrs (s : State) (d : Die) (x : DieSt) : (s.setDie d x).rowErrs = s.rowErrs := by cases d <;> rfl
@[simp] theorem State.setDie_time (s : State) (d : Die) (x : DieSt) : (s.setDie d x).time = s.time := by cases d <;> rfl
@[simp] theorem State.setDie_cycles (s : State) (d : Die) (x : DieSt) : (s.setDie d x).cycles = s.cycles := by cases d <;> rfl
@[simp] theorem State.setDie_ptpLocked (s : State) (d : Die) (x : DieSt) : (s.setDie d x).ptpLocked = s.ptpLocked := by cases d <;> rfl
@[simp] theorem State.setDie_ptpPort (s : State) (d : Die) (x : DieSt) : (s.setDie d x).ptpPort = s.ptpPort := by cases d <;> rfl
@[simp] theorem State.setDie_slewDebt (s : State) (d : Die) (x : DieSt) : (s.setDie d x).slewDebt = s.slewDebt := by cases d <;> rfl
@[simp] theorem State.setDie_slewGain (s : State) (d : Die) (x : DieSt) : (s.setDie d x).slewGain = s.slewGain := by cases d <;> rfl
@[simp] theorem State.setDie_slewAcc (s : State) (d : Die) (x : DieSt) : (s.setDie d x).slewAcc = s.slewAcc := by cases d <;> rfl
@[simp] theorem State.setDie_ageint (s : State) (d : Die) (x : DieSt) : (s.setDie d x).ageint = s.ageint := by cases d <;> rfl
@[simp] theorem State.setDie_holdlim (s : State) (d : Die) (x : DieSt) : (s.setDie d x).holdlim = s.holdlim := by cases d <;> rfl
@[simp] theorem State.setDie_savebase (s : State) (d : Die) (x : DieSt) : (s.setDie d x).savebase = s.savebase := by cases d <;> rfl
@[simp] theorem State.setDie_savesize (s : State) (d : Die) (x : DieSt) : (s.setDie d x).savesize = s.savesize := by cases d <;> rfl
@[simp] theorem State.setDie_astbase (s : State) (d : Die) (x : DieSt) : (s.setDie d x).astbase = s.astbase := by cases d <;> rfl
@[simp] theorem State.setDie_lqcfg (s : State) (d : Die) (x : DieSt) : (s.setDie d x).lqcfg = s.lqcfg := by cases d <;> rfl
@[simp] theorem State.setDie_lqseq (s : State) (d : Die) (x : DieSt) : (s.setDie d x).lqseq = s.lqseq := by cases d <;> rfl
@[simp] theorem State.setDie_lqdrop (s : State) (d : Die) (x : DieSt) : (s.setDie d x).lqdrop = s.lqdrop := by cases d <;> rfl
@[simp] theorem State.setDie_part (s : State) (d : Die) (x : DieSt) : (s.setDie d x).part = s.part := by cases d <;> rfl
@[simp] theorem State.setDie_fndom (s : State) (d : Die) (x : DieSt) : (s.setDie d x).fndom = s.fndom := by cases d <;> rfl
@[simp] theorem State.setDie_icfg (s : State) (d : Die) (x : DieSt) : (s.setDie d x).icfg = s.icfg := by cases d <;> rfl
@[simp] theorem State.setDie_idrop (s : State) (d : Die) (x : DieSt) : (s.setDie d x).idrop = s.idrop := by cases d <;> rfl
@[simp] theorem State.setDie_lines (s : State) (d : Die) (x : DieSt) : (s.setDie d x).lines = s.lines := by cases d <;> rfl
@[simp] theorem State.setDie_ingq (s : State) (d : Die) (x : DieSt) : (s.setDie d x).ingq = s.ingq := by cases d <;> rfl
@[simp] theorem State.setDie_rwa (s : State) (d : Die) (x : DieSt) : (s.setDie d x).rwa = s.rwa := by cases d <;> rfl
@[simp] theorem State.setDie_rwb (s : State) (d : Die) (x : DieSt) : (s.setDie d x).rwb = s.rwb := by cases d <;> rfl
@[simp] theorem State.setDie_merges (s : State) (d : Die) (x : DieSt) : (s.setDie d x).merges = s.merges := by cases d <;> rfl
@[simp] theorem State.setDie_brSpares (s : State) (d : Die) (x : DieSt) : (s.setDie d x).brSpares = s.brSpares := by cases d <;> rfl
@[simp] theorem State.setDie_brDead (s : State) (d : Die) (x : DieSt) : (s.setDie d x).brDead = s.brDead := by cases d <;> rfl
@[simp] theorem State.setDie_cmap (s : State) (d : Die) (x : DieSt) : (s.setDie d x).cmap = s.cmap := by cases d <;> rfl
@[simp] theorem State.setDie_fnFrozen (s : State) (d : Die) (x : DieSt) : (s.setDie d x).fnFrozen = s.fnFrozen := by cases d <;> rfl
@[simp] theorem State.setDie_peerFrozen (s : State) (d : Die) (x : DieSt) : (s.setDie d x).peerFrozen = s.peerFrozen := by cases d <;> rfl
@[simp] theorem State.setDie_ingFrozen (s : State) (d : Die) (x : DieSt) : (s.setDie d x).ingFrozen = s.ingFrozen := by cases d <;> rfl
@[simp] theorem State.setDie_replay (s : State) (d : Die) (x : DieSt) : (s.setDie d x).replay = s.replay := by cases d <;> rfl
@[simp] theorem State.setDie_heldAmos (s : State) (d : Die) (x : DieSt) : (s.setDie d x).heldAmos = s.heldAmos := by cases d <;> rfl
@[simp] theorem State.setDie_durImg (s : State) (d : Die) (x : DieSt) : (s.setDie d x).durImg = s.durImg := by cases d <;> rfl
@[simp] theorem State.setDie_dstores (s : State) (d : Die) (x : DieSt) : (s.setDie d x).dstores = s.dstores := by cases d <;> rfl
@[simp] theorem State.setDie_durRel (s : State) (d : Die) (x : DieSt) : (s.setDie d x).durRel = s.durRel := by cases d <;> rfl
@[simp] theorem State.setDie_plSeq (s : State) (d : Die) (x : DieSt) : (s.setDie d x).plSeq = s.plSeq := by cases d <;> rfl
@[simp] theorem State.setDie_powered (s : State) (d : Die) (x : DieSt) : (s.setDie d x).powered = s.powered := by cases d <;> rfl
@[simp] theorem State.setDie_schedRR (s : State) (d : Die) (x : DieSt) : (s.setDie d x).schedRR = s.schedRR := by cases d <;> rfl
@[simp] theorem State.setDie_sections (s : State) (d : Die) (x : DieSt) : (s.setDie d x).sections = s.sections := by cases d <;> rfl
@[simp] theorem State.setDie_areas (s : State) (d : Die) (x : DieSt) : (s.setDie d x).areas = s.areas := by cases d <;> rfl
@[simp] theorem State.setDie_saves (s : State) (d : Die) (x : DieSt) : (s.setDie d x).saves = s.saves := by cases d <;> rfl
@[simp] theorem State.setDie_retrain (s : State) (d : Die) (x : DieSt) : (s.setDie d x).retrain = s.retrain := by cases d <;> rfl
@[simp] theorem State.setDie_cur (s : State) (d : Die) (x : DieSt) : (s.setDie d x).cur = s.cur := by cases d <;> rfl
@[simp] theorem State.setDie_serial (s : State) (d : Die) (x : DieSt) : (s.setDie d x).serial = s.serial := by cases d <;> rfl
@[simp] theorem State.setDie_fresh (s : State) (d : Die) (x : DieSt) : (s.setDie d x).fresh = s.fresh := by cases d <;> rfl
@[simp] theorem State.setDie_rr (s : State) (d : Die) (x : DieSt) : (s.setDie d x).rr = s.rr := by cases d <;> rfl
@[simp] theorem State.setDie_agenda (s : State) (d : Die) (x : DieSt) : (s.setDie d x).agenda = s.agenda := by cases d <;> rfl
@[simp] theorem State.setDie_outbox (s : State) (d : Die) (x : DieSt) : (s.setDie d x).outbox = s.outbox := by cases d <;> rfl
@[simp] theorem State.setDie_regq (s : State) (d : Die) (x : DieSt) : (s.setDie d x).regq = s.regq := by cases d <;> rfl
@[simp] theorem State.setDie_tray (s : State) (d : Die) (x : DieSt) : (s.setDie d x).tray = s.tray := by cases d <;> rfl
@[simp] theorem State.modDie_cores (s : State) (d : Die) (f : DieSt → DieSt) : (s.modDie d f).cores = s.cores := by cases d <;> rfl
@[simp] theorem State.modDie_launches (s : State) (d : Die) (f : DieSt → DieSt) : (s.modDie d f).launches = s.launches := by cases d <;> rfl
@[simp] theorem State.modDie_mem (s : State) (d : Die) (f : DieSt → DieSt) : (s.modDie d f).mem = s.mem := by cases d <;> rfl
@[simp] theorem State.modDie_tags (s : State) (d : Die) (f : DieSt → DieSt) : (s.modDie d f).tags = s.tags := by cases d <;> rfl
@[simp] theorem State.modDie_poison (s : State) (d : Die) (f : DieSt → DieSt) : (s.modDie d f).poison = s.poison := by cases d <;> rfl
@[simp] theorem State.modDie_poisonLoc (s : State) (d : Die) (f : DieSt → DieSt) : (s.modDie d f).poisonLoc = s.poisonLoc := by cases d <;> rfl
@[simp] theorem State.modDie_retired (s : State) (d : Die) (f : DieSt → DieSt) : (s.modDie d f).retired = s.retired := by cases d <;> rfl
@[simp] theorem State.modDie_remapped (s : State) (d : Die) (f : DieSt → DieSt) : (s.modDie d f).remapped = s.remapped := by cases d <;> rfl
@[simp] theorem State.modDie_sparing (s : State) (d : Die) (f : DieSt → DieSt) : (s.modDie d f).sparing = s.sparing := by cases d <;> rfl
@[simp] theorem State.modDie_spared (s : State) (d : Die) (f : DieSt → DieSt) : (s.modDie d f).spared = s.spared := by cases d <;> rfl
@[simp] theorem State.modDie_rowErrs (s : State) (d : Die) (f : DieSt → DieSt) : (s.modDie d f).rowErrs = s.rowErrs := by cases d <;> rfl
@[simp] theorem State.modDie_time (s : State) (d : Die) (f : DieSt → DieSt) : (s.modDie d f).time = s.time := by cases d <;> rfl
@[simp] theorem State.modDie_cycles (s : State) (d : Die) (f : DieSt → DieSt) : (s.modDie d f).cycles = s.cycles := by cases d <;> rfl
@[simp] theorem State.modDie_ptpLocked (s : State) (d : Die) (f : DieSt → DieSt) : (s.modDie d f).ptpLocked = s.ptpLocked := by cases d <;> rfl
@[simp] theorem State.modDie_ptpPort (s : State) (d : Die) (f : DieSt → DieSt) : (s.modDie d f).ptpPort = s.ptpPort := by cases d <;> rfl
@[simp] theorem State.modDie_slewDebt (s : State) (d : Die) (f : DieSt → DieSt) : (s.modDie d f).slewDebt = s.slewDebt := by cases d <;> rfl
@[simp] theorem State.modDie_slewGain (s : State) (d : Die) (f : DieSt → DieSt) : (s.modDie d f).slewGain = s.slewGain := by cases d <;> rfl
@[simp] theorem State.modDie_slewAcc (s : State) (d : Die) (f : DieSt → DieSt) : (s.modDie d f).slewAcc = s.slewAcc := by cases d <;> rfl
@[simp] theorem State.modDie_ageint (s : State) (d : Die) (f : DieSt → DieSt) : (s.modDie d f).ageint = s.ageint := by cases d <;> rfl
@[simp] theorem State.modDie_holdlim (s : State) (d : Die) (f : DieSt → DieSt) : (s.modDie d f).holdlim = s.holdlim := by cases d <;> rfl
@[simp] theorem State.modDie_savebase (s : State) (d : Die) (f : DieSt → DieSt) : (s.modDie d f).savebase = s.savebase := by cases d <;> rfl
@[simp] theorem State.modDie_savesize (s : State) (d : Die) (f : DieSt → DieSt) : (s.modDie d f).savesize = s.savesize := by cases d <;> rfl
@[simp] theorem State.modDie_astbase (s : State) (d : Die) (f : DieSt → DieSt) : (s.modDie d f).astbase = s.astbase := by cases d <;> rfl
@[simp] theorem State.modDie_lqcfg (s : State) (d : Die) (f : DieSt → DieSt) : (s.modDie d f).lqcfg = s.lqcfg := by cases d <;> rfl
@[simp] theorem State.modDie_lqseq (s : State) (d : Die) (f : DieSt → DieSt) : (s.modDie d f).lqseq = s.lqseq := by cases d <;> rfl
@[simp] theorem State.modDie_lqdrop (s : State) (d : Die) (f : DieSt → DieSt) : (s.modDie d f).lqdrop = s.lqdrop := by cases d <;> rfl
@[simp] theorem State.modDie_part (s : State) (d : Die) (f : DieSt → DieSt) : (s.modDie d f).part = s.part := by cases d <;> rfl
@[simp] theorem State.modDie_fndom (s : State) (d : Die) (f : DieSt → DieSt) : (s.modDie d f).fndom = s.fndom := by cases d <;> rfl
@[simp] theorem State.modDie_icfg (s : State) (d : Die) (f : DieSt → DieSt) : (s.modDie d f).icfg = s.icfg := by cases d <;> rfl
@[simp] theorem State.modDie_idrop (s : State) (d : Die) (f : DieSt → DieSt) : (s.modDie d f).idrop = s.idrop := by cases d <;> rfl
@[simp] theorem State.modDie_lines (s : State) (d : Die) (f : DieSt → DieSt) : (s.modDie d f).lines = s.lines := by cases d <;> rfl
@[simp] theorem State.modDie_ingq (s : State) (d : Die) (f : DieSt → DieSt) : (s.modDie d f).ingq = s.ingq := by cases d <;> rfl
@[simp] theorem State.modDie_rwa (s : State) (d : Die) (f : DieSt → DieSt) : (s.modDie d f).rwa = s.rwa := by cases d <;> rfl
@[simp] theorem State.modDie_rwb (s : State) (d : Die) (f : DieSt → DieSt) : (s.modDie d f).rwb = s.rwb := by cases d <;> rfl
@[simp] theorem State.modDie_merges (s : State) (d : Die) (f : DieSt → DieSt) : (s.modDie d f).merges = s.merges := by cases d <;> rfl
@[simp] theorem State.modDie_brSpares (s : State) (d : Die) (f : DieSt → DieSt) : (s.modDie d f).brSpares = s.brSpares := by cases d <;> rfl
@[simp] theorem State.modDie_brDead (s : State) (d : Die) (f : DieSt → DieSt) : (s.modDie d f).brDead = s.brDead := by cases d <;> rfl
@[simp] theorem State.modDie_cmap (s : State) (d : Die) (f : DieSt → DieSt) : (s.modDie d f).cmap = s.cmap := by cases d <;> rfl
@[simp] theorem State.modDie_fnFrozen (s : State) (d : Die) (f : DieSt → DieSt) : (s.modDie d f).fnFrozen = s.fnFrozen := by cases d <;> rfl
@[simp] theorem State.modDie_peerFrozen (s : State) (d : Die) (f : DieSt → DieSt) : (s.modDie d f).peerFrozen = s.peerFrozen := by cases d <;> rfl
@[simp] theorem State.modDie_ingFrozen (s : State) (d : Die) (f : DieSt → DieSt) : (s.modDie d f).ingFrozen = s.ingFrozen := by cases d <;> rfl
@[simp] theorem State.modDie_replay (s : State) (d : Die) (f : DieSt → DieSt) : (s.modDie d f).replay = s.replay := by cases d <;> rfl
@[simp] theorem State.modDie_heldAmos (s : State) (d : Die) (f : DieSt → DieSt) : (s.modDie d f).heldAmos = s.heldAmos := by cases d <;> rfl
@[simp] theorem State.modDie_durImg (s : State) (d : Die) (f : DieSt → DieSt) : (s.modDie d f).durImg = s.durImg := by cases d <;> rfl
@[simp] theorem State.modDie_dstores (s : State) (d : Die) (f : DieSt → DieSt) : (s.modDie d f).dstores = s.dstores := by cases d <;> rfl
@[simp] theorem State.modDie_durRel (s : State) (d : Die) (f : DieSt → DieSt) : (s.modDie d f).durRel = s.durRel := by cases d <;> rfl
@[simp] theorem State.modDie_plSeq (s : State) (d : Die) (f : DieSt → DieSt) : (s.modDie d f).plSeq = s.plSeq := by cases d <;> rfl
@[simp] theorem State.modDie_powered (s : State) (d : Die) (f : DieSt → DieSt) : (s.modDie d f).powered = s.powered := by cases d <;> rfl
@[simp] theorem State.modDie_schedRR (s : State) (d : Die) (f : DieSt → DieSt) : (s.modDie d f).schedRR = s.schedRR := by cases d <;> rfl
@[simp] theorem State.modDie_sections (s : State) (d : Die) (f : DieSt → DieSt) : (s.modDie d f).sections = s.sections := by cases d <;> rfl
@[simp] theorem State.modDie_areas (s : State) (d : Die) (f : DieSt → DieSt) : (s.modDie d f).areas = s.areas := by cases d <;> rfl
@[simp] theorem State.modDie_saves (s : State) (d : Die) (f : DieSt → DieSt) : (s.modDie d f).saves = s.saves := by cases d <;> rfl
@[simp] theorem State.modDie_retrain (s : State) (d : Die) (f : DieSt → DieSt) : (s.modDie d f).retrain = s.retrain := by cases d <;> rfl
@[simp] theorem State.modDie_cur (s : State) (d : Die) (f : DieSt → DieSt) : (s.modDie d f).cur = s.cur := by cases d <;> rfl
@[simp] theorem State.modDie_serial (s : State) (d : Die) (f : DieSt → DieSt) : (s.modDie d f).serial = s.serial := by cases d <;> rfl
@[simp] theorem State.modDie_fresh (s : State) (d : Die) (f : DieSt → DieSt) : (s.modDie d f).fresh = s.fresh := by cases d <;> rfl
@[simp] theorem State.modDie_rr (s : State) (d : Die) (f : DieSt → DieSt) : (s.modDie d f).rr = s.rr := by cases d <;> rfl
@[simp] theorem State.modDie_agenda (s : State) (d : Die) (f : DieSt → DieSt) : (s.modDie d f).agenda = s.agenda := by cases d <;> rfl
@[simp] theorem State.modDie_outbox (s : State) (d : Die) (f : DieSt → DieSt) : (s.modDie d f).outbox = s.outbox := by cases d <;> rfl
@[simp] theorem State.modDie_regq (s : State) (d : Die) (f : DieSt → DieSt) : (s.modDie d f).regq = s.regq := by cases d <;> rfl
@[simp] theorem State.modDie_tray (s : State) (d : Die) (f : DieSt → DieSt) : (s.modDie d f).tray = s.tray := by cases d <;> rfl
@[simp] theorem State.modCtx_launches (s : State) (c n : Nat) (f : Ctx → Ctx) : (s.modCtx c n f).launches = s.launches := by unfold State.modCtx; split <;> rfl
@[simp] theorem State.modCtx_west (s : State) (c n : Nat) (f : Ctx → Ctx) : (s.modCtx c n f).west = s.west := by unfold State.modCtx; split <;> rfl
@[simp] theorem State.modCtx_east (s : State) (c n : Nat) (f : Ctx → Ctx) : (s.modCtx c n f).east = s.east := by unfold State.modCtx; split <;> rfl
@[simp] theorem State.modCtx_mem (s : State) (c n : Nat) (f : Ctx → Ctx) : (s.modCtx c n f).mem = s.mem := by unfold State.modCtx; split <;> rfl
@[simp] theorem State.modCtx_tags (s : State) (c n : Nat) (f : Ctx → Ctx) : (s.modCtx c n f).tags = s.tags := by unfold State.modCtx; split <;> rfl
@[simp] theorem State.modCtx_poison (s : State) (c n : Nat) (f : Ctx → Ctx) : (s.modCtx c n f).poison = s.poison := by unfold State.modCtx; split <;> rfl
@[simp] theorem State.modCtx_poisonLoc (s : State) (c n : Nat) (f : Ctx → Ctx) : (s.modCtx c n f).poisonLoc = s.poisonLoc := by unfold State.modCtx; split <;> rfl
@[simp] theorem State.modCtx_retired (s : State) (c n : Nat) (f : Ctx → Ctx) : (s.modCtx c n f).retired = s.retired := by unfold State.modCtx; split <;> rfl
@[simp] theorem State.modCtx_remapped (s : State) (c n : Nat) (f : Ctx → Ctx) : (s.modCtx c n f).remapped = s.remapped := by unfold State.modCtx; split <;> rfl
@[simp] theorem State.modCtx_sparing (s : State) (c n : Nat) (f : Ctx → Ctx) : (s.modCtx c n f).sparing = s.sparing := by unfold State.modCtx; split <;> rfl
@[simp] theorem State.modCtx_spared (s : State) (c n : Nat) (f : Ctx → Ctx) : (s.modCtx c n f).spared = s.spared := by unfold State.modCtx; split <;> rfl
@[simp] theorem State.modCtx_rowErrs (s : State) (c n : Nat) (f : Ctx → Ctx) : (s.modCtx c n f).rowErrs = s.rowErrs := by unfold State.modCtx; split <;> rfl
@[simp] theorem State.modCtx_time (s : State) (c n : Nat) (f : Ctx → Ctx) : (s.modCtx c n f).time = s.time := by unfold State.modCtx; split <;> rfl
@[simp] theorem State.modCtx_cycles (s : State) (c n : Nat) (f : Ctx → Ctx) : (s.modCtx c n f).cycles = s.cycles := by unfold State.modCtx; split <;> rfl
@[simp] theorem State.modCtx_ptpLocked (s : State) (c n : Nat) (f : Ctx → Ctx) : (s.modCtx c n f).ptpLocked = s.ptpLocked := by unfold State.modCtx; split <;> rfl
@[simp] theorem State.modCtx_ptpPort (s : State) (c n : Nat) (f : Ctx → Ctx) : (s.modCtx c n f).ptpPort = s.ptpPort := by unfold State.modCtx; split <;> rfl
@[simp] theorem State.modCtx_slewDebt (s : State) (c n : Nat) (f : Ctx → Ctx) : (s.modCtx c n f).slewDebt = s.slewDebt := by unfold State.modCtx; split <;> rfl
@[simp] theorem State.modCtx_slewGain (s : State) (c n : Nat) (f : Ctx → Ctx) : (s.modCtx c n f).slewGain = s.slewGain := by unfold State.modCtx; split <;> rfl
@[simp] theorem State.modCtx_slewAcc (s : State) (c n : Nat) (f : Ctx → Ctx) : (s.modCtx c n f).slewAcc = s.slewAcc := by unfold State.modCtx; split <;> rfl
@[simp] theorem State.modCtx_ageint (s : State) (c n : Nat) (f : Ctx → Ctx) : (s.modCtx c n f).ageint = s.ageint := by unfold State.modCtx; split <;> rfl
@[simp] theorem State.modCtx_holdlim (s : State) (c n : Nat) (f : Ctx → Ctx) : (s.modCtx c n f).holdlim = s.holdlim := by unfold State.modCtx; split <;> rfl
@[simp] theorem State.modCtx_savebase (s : State) (c n : Nat) (f : Ctx → Ctx) : (s.modCtx c n f).savebase = s.savebase := by unfold State.modCtx; split <;> rfl
@[simp] theorem State.modCtx_savesize (s : State) (c n : Nat) (f : Ctx → Ctx) : (s.modCtx c n f).savesize = s.savesize := by unfold State.modCtx; split <;> rfl
@[simp] theorem State.modCtx_astbase (s : State) (c n : Nat) (f : Ctx → Ctx) : (s.modCtx c n f).astbase = s.astbase := by unfold State.modCtx; split <;> rfl
@[simp] theorem State.modCtx_lqcfg (s : State) (c n : Nat) (f : Ctx → Ctx) : (s.modCtx c n f).lqcfg = s.lqcfg := by unfold State.modCtx; split <;> rfl
@[simp] theorem State.modCtx_lqseq (s : State) (c n : Nat) (f : Ctx → Ctx) : (s.modCtx c n f).lqseq = s.lqseq := by unfold State.modCtx; split <;> rfl
@[simp] theorem State.modCtx_lqdrop (s : State) (c n : Nat) (f : Ctx → Ctx) : (s.modCtx c n f).lqdrop = s.lqdrop := by unfold State.modCtx; split <;> rfl
@[simp] theorem State.modCtx_part (s : State) (c n : Nat) (f : Ctx → Ctx) : (s.modCtx c n f).part = s.part := by unfold State.modCtx; split <;> rfl
@[simp] theorem State.modCtx_fndom (s : State) (c n : Nat) (f : Ctx → Ctx) : (s.modCtx c n f).fndom = s.fndom := by unfold State.modCtx; split <;> rfl
@[simp] theorem State.modCtx_icfg (s : State) (c n : Nat) (f : Ctx → Ctx) : (s.modCtx c n f).icfg = s.icfg := by unfold State.modCtx; split <;> rfl
@[simp] theorem State.modCtx_idrop (s : State) (c n : Nat) (f : Ctx → Ctx) : (s.modCtx c n f).idrop = s.idrop := by unfold State.modCtx; split <;> rfl
@[simp] theorem State.modCtx_lines (s : State) (c n : Nat) (f : Ctx → Ctx) : (s.modCtx c n f).lines = s.lines := by unfold State.modCtx; split <;> rfl
@[simp] theorem State.modCtx_ingq (s : State) (c n : Nat) (f : Ctx → Ctx) : (s.modCtx c n f).ingq = s.ingq := by unfold State.modCtx; split <;> rfl
@[simp] theorem State.modCtx_rwa (s : State) (c n : Nat) (f : Ctx → Ctx) : (s.modCtx c n f).rwa = s.rwa := by unfold State.modCtx; split <;> rfl
@[simp] theorem State.modCtx_rwb (s : State) (c n : Nat) (f : Ctx → Ctx) : (s.modCtx c n f).rwb = s.rwb := by unfold State.modCtx; split <;> rfl
@[simp] theorem State.modCtx_merges (s : State) (c n : Nat) (f : Ctx → Ctx) : (s.modCtx c n f).merges = s.merges := by unfold State.modCtx; split <;> rfl
@[simp] theorem State.modCtx_brSpares (s : State) (c n : Nat) (f : Ctx → Ctx) : (s.modCtx c n f).brSpares = s.brSpares := by unfold State.modCtx; split <;> rfl
@[simp] theorem State.modCtx_brDead (s : State) (c n : Nat) (f : Ctx → Ctx) : (s.modCtx c n f).brDead = s.brDead := by unfold State.modCtx; split <;> rfl
@[simp] theorem State.modCtx_cmap (s : State) (c n : Nat) (f : Ctx → Ctx) : (s.modCtx c n f).cmap = s.cmap := by unfold State.modCtx; split <;> rfl
@[simp] theorem State.modCtx_fnFrozen (s : State) (c n : Nat) (f : Ctx → Ctx) : (s.modCtx c n f).fnFrozen = s.fnFrozen := by unfold State.modCtx; split <;> rfl
@[simp] theorem State.modCtx_peerFrozen (s : State) (c n : Nat) (f : Ctx → Ctx) : (s.modCtx c n f).peerFrozen = s.peerFrozen := by unfold State.modCtx; split <;> rfl
@[simp] theorem State.modCtx_ingFrozen (s : State) (c n : Nat) (f : Ctx → Ctx) : (s.modCtx c n f).ingFrozen = s.ingFrozen := by unfold State.modCtx; split <;> rfl
@[simp] theorem State.modCtx_replay (s : State) (c n : Nat) (f : Ctx → Ctx) : (s.modCtx c n f).replay = s.replay := by unfold State.modCtx; split <;> rfl
@[simp] theorem State.modCtx_heldAmos (s : State) (c n : Nat) (f : Ctx → Ctx) : (s.modCtx c n f).heldAmos = s.heldAmos := by unfold State.modCtx; split <;> rfl
@[simp] theorem State.modCtx_durImg (s : State) (c n : Nat) (f : Ctx → Ctx) : (s.modCtx c n f).durImg = s.durImg := by unfold State.modCtx; split <;> rfl
@[simp] theorem State.modCtx_dstores (s : State) (c n : Nat) (f : Ctx → Ctx) : (s.modCtx c n f).dstores = s.dstores := by unfold State.modCtx; split <;> rfl
@[simp] theorem State.modCtx_durRel (s : State) (c n : Nat) (f : Ctx → Ctx) : (s.modCtx c n f).durRel = s.durRel := by unfold State.modCtx; split <;> rfl
@[simp] theorem State.modCtx_plSeq (s : State) (c n : Nat) (f : Ctx → Ctx) : (s.modCtx c n f).plSeq = s.plSeq := by unfold State.modCtx; split <;> rfl
@[simp] theorem State.modCtx_powered (s : State) (c n : Nat) (f : Ctx → Ctx) : (s.modCtx c n f).powered = s.powered := by unfold State.modCtx; split <;> rfl
@[simp] theorem State.modCtx_schedRR (s : State) (c n : Nat) (f : Ctx → Ctx) : (s.modCtx c n f).schedRR = s.schedRR := by unfold State.modCtx; split <;> rfl
@[simp] theorem State.modCtx_sections (s : State) (c n : Nat) (f : Ctx → Ctx) : (s.modCtx c n f).sections = s.sections := by unfold State.modCtx; split <;> rfl
@[simp] theorem State.modCtx_areas (s : State) (c n : Nat) (f : Ctx → Ctx) : (s.modCtx c n f).areas = s.areas := by unfold State.modCtx; split <;> rfl
@[simp] theorem State.modCtx_saves (s : State) (c n : Nat) (f : Ctx → Ctx) : (s.modCtx c n f).saves = s.saves := by unfold State.modCtx; split <;> rfl
@[simp] theorem State.modCtx_retrain (s : State) (c n : Nat) (f : Ctx → Ctx) : (s.modCtx c n f).retrain = s.retrain := by unfold State.modCtx; split <;> rfl
@[simp] theorem State.modCtx_cur (s : State) (c n : Nat) (f : Ctx → Ctx) : (s.modCtx c n f).cur = s.cur := by unfold State.modCtx; split <;> rfl
@[simp] theorem State.modCtx_serial (s : State) (c n : Nat) (f : Ctx → Ctx) : (s.modCtx c n f).serial = s.serial := by unfold State.modCtx; split <;> rfl
@[simp] theorem State.modCtx_fresh (s : State) (c n : Nat) (f : Ctx → Ctx) : (s.modCtx c n f).fresh = s.fresh := by unfold State.modCtx; split <;> rfl
@[simp] theorem State.modCtx_rr (s : State) (c n : Nat) (f : Ctx → Ctx) : (s.modCtx c n f).rr = s.rr := by unfold State.modCtx; split <;> rfl
@[simp] theorem State.modCtx_agenda (s : State) (c n : Nat) (f : Ctx → Ctx) : (s.modCtx c n f).agenda = s.agenda := by unfold State.modCtx; split <;> rfl
@[simp] theorem State.modCtx_outbox (s : State) (c n : Nat) (f : Ctx → Ctx) : (s.modCtx c n f).outbox = s.outbox := by unfold State.modCtx; split <;> rfl
@[simp] theorem State.modCtx_regq (s : State) (c n : Nat) (f : Ctx → Ctx) : (s.modCtx c n f).regq = s.regq := by unfold State.modCtx; split <;> rfl
@[simp] theorem State.modCtx_tray (s : State) (c n : Nat) (f : Ctx → Ctx) : (s.modCtx c n f).tray = s.tray := by unfold State.modCtx; split <;> rfl

/-! ## Tables written twice -/

@[simp] theorem tset_tset {α : Type} (t : Tbl α) (k : Nat) (v w : α) : tset (tset t k v) k w = tset t k w := by
  induction t with
  | nil => simp [tset]
  | cons p r ih =>
    obtain ⟨j, u⟩ := p
    by_cases h1 : j = k
    · simp [tset, h1]
    · by_cases h2 : k < j
      · simp [tset, h1, h2]
      · simp [tset, h1, h2, ih]

/-! ## Cores -/

@[simp] theorem State.core_setCore (s : State) (c : Nat) (k : Core) : (s.setCore c k).core c = k := by simp [State.core, State.setCore]
theorem State.core_setCore_ne (s : State) (c d : Nat) (k : Core) (h : d ≠ c) : (s.setCore c k).core d = s.core d := by
  simp [State.core, State.setCore, tget_tset_ne _ _ _ _ _ h]
@[simp] theorem State.setCore_setCore (s : State) (c : Nat) (k l : Core) : (s.setCore c k).setCore c l = s.setCore c l := by simp [State.setCore]
@[simp] theorem State.core_modCore (s : State) (c : Nat) (f : Core → Core) : (s.modCore c f).core c = f (s.core c) := by simp [State.modCore]
theorem State.core_modCore_ne (s : State) (c d : Nat) (f : Core → Core) (h : d ≠ c) : (s.modCore c f).core d = s.core d := by
  simp [State.modCore, State.core_setCore_ne s c d _ h]
@[simp] theorem State.core_setDie (s : State) (d : Die) (x : DieSt) (c : Nat) : (s.setDie d x).core c = s.core c := by simp [State.core]
@[simp] theorem State.core_modDie (s : State) (d : Die) (f : DieSt → DieSt) (c : Nat) : (s.modDie d f).core c = s.core c := by simp [State.core]
@[simp] theorem State.core_tick (s : State) (c : Nat) : s.tick.core c = s.core c := rfl
@[simp] theorem State.core_modLaunch (s : State) (l : BitVec 32) (f : Launch → Launch) (c : Nat) : (s.modLaunch l f).core c = s.core c := rfl

/-! ## Contexts -/

@[simp] theorem State.ctx_setCtx (s : State) (c n : Nat) (x : Ctx) : (s.setCtx c n x).ctx c n = some x := by simp [State.ctx, State.setCtx]
theorem State.ctx_setCtx_ne (s : State) (c n d m : Nat) (x : Ctx) (h : d ≠ c ∨ m ≠ n) : (s.setCtx c n x).ctx d m = s.ctx d m := by
  unfold State.ctx State.setCtx
  by_cases hd : d = c
  · subst hd
    have hm : m ≠ n := by simpa using h
    simp [tfind_tset_ne _ _ _ _ hm]
  · rw [State.core_modCore_ne _ _ _ _ hd]
@[simp] theorem State.setCtx_setCtx (s : State) (c n : Nat) (x y : Ctx) : (s.setCtx c n x).setCtx c n y = s.setCtx c n y := by
  simp [State.setCtx, State.modCore]
theorem State.modCtx_some (s : State) (c n : Nat) (f : Ctx → Ctx) (x : Ctx) (h : s.ctx c n = some x) : s.modCtx c n f = s.setCtx c n (f x) := by
  simp [State.modCtx, h]
@[simp] theorem State.modCtx_setCtx (s : State) (c n : Nat) (f : Ctx → Ctx) (x : Ctx) : (s.setCtx c n x).modCtx c n f = s.setCtx c n (f x) := by
  rw [State.modCtx_some _ _ _ _ x (by simp), State.setCtx_setCtx]
@[simp] theorem State.setCtx_byte (s : State) (c n : Nat) (x : Ctx) (a : Nat) : (s.setCtx c n x).byte a = s.byte a := rfl
@[simp] theorem State.modCore_byte (s : State) (c : Nat) (f : Core → Core) (a : Nat) : (s.modCore c f).byte a = s.byte a := rfl

/-! ## Dies and launches -/

@[simp] theorem State.die_setDie (s : State) (d : Die) (x : DieSt) : (s.setDie d x).die d = x := by cases d <;> rfl
@[simp] theorem State.die_modDie (s : State) (d : Die) (f : DieSt → DieSt) : (s.modDie d f).die d = f (s.die d) := by cases d <;> rfl
@[simp] theorem State.die_modCore (s : State) (c : Nat) (f : Core → Core) (d : Die) : (s.modCore c f).die d = s.die d := by cases d <;> rfl
@[simp] theorem State.launch_setCtx (s : State) (c n : Nat) (x : Ctx) (l : BitVec 32) : (s.setCtx c n x).launch l = s.launch l := rfl
@[simp] theorem State.launch_modCore (s : State) (c : Nat) (f : Core → Core) (l : BitVec 32) : (s.modCore c f).launch l = s.launch l := rfl

/-- A change of a launch that keeps launch ids is what its reader sees. -/
theorem State.launch_modLaunch (s : State) (l : BitVec 32) (f : Launch → Launch) (hf : ∀ x, (f x).lid = x.lid) :
    (s.modLaunch l f).launch l = (s.launch l).map f := by
  unfold State.launch State.modLaunch
  induction s.launches with
  | nil => rfl
  | cons x r ih =>
    simp only [List.map_cons, List.find?_cons]
    by_cases h : x.lid == l
    · simp [h, hf]
    · simp [h]; simpa using ih

end Sys2Proof.Machine
end

