-- ==== Sys2Proof/Laws/Issue.lean ====
section
/-! SUPPORT. Laws of issue: what an instruction of the AP or the EP comes to once its guard holds, its registers are ready and its tokens allotted; and how each outcome ends. -/
namespace Sys2Proof.Machine
open Sys2Proof

/-! ## How an outcome ends -/

@[simp] theorem finish_done_setCtx (c n : Nat) (p : Proc) (len : Nat) (pc : Word) (s : State) (x : Ctx) :
    finish c n p len pc (.done (s.setCtx c n x)) = s.setCtx c n (x.pass p len) := by simp [finish]
theorem finish_done (c n : Nat) (p : Proc) (len : Nat) (pc : Word) (s : State) (x : Ctx) (h : s.ctx c n = some x) :
    finish c n p len pc (.done s) = s.setCtx c n (x.pass p len) := by simp [finish, State.modCtx_some _ _ _ _ _ h]
@[simp] theorem finish_jump_setCtx (c n : Nat) (p : Proc) (len : Nat) (pc a : Word) (s : State) (x : Ctx) :
    finish c n p len pc (.jump (s.setCtx c n x) a) = s.setCtx c n (x.setPc p a) := by simp [finish]
theorem finish_jump (c n : Nat) (p : Proc) (len : Nat) (pc a : Word) (s : State) (x : Ctx) (h : s.ctx c n = some x) :
    finish c n p len pc (.jump s a) = s.setCtx c n (x.setPc p a) := by simp [finish, State.modCtx_some _ _ _ _ _ h]
@[simp] theorem finish_left (c n : Nat) (p : Proc) (len : Nat) (pc : Word) (s : State) : finish c n p len pc (.left s) = s := rfl
@[simp] theorem finish_stall (c n : Nat) (p : Proc) (len : Nat) (pc : Word) (s : State) :
    finish c n p len pc (.stall s) = s.modCore c fun k => k.endBlock p := rfl
@[simp] theorem finish_trap (c n : Nat) (p : Proc) (len : Nat) (pc : Word) (s : State) (cause sub : Nat) (tval : Word) :
    finish c n p len pc (.trap s cause sub tval) = s.takeTrap c n p cause sub tval pc := rfl

/-! ## Issue on the AP -/

theorem badTok_none (s : State) (x : Ctx) (l : List (BitVec 4)) (h : ∀ t ∈ l, t.toNat < s.tokensOf x) : s.badTok x l = none := by
  unfold State.badTok
  rw [List.find?_eq_none]
  intro t ht
  simpa using h t ht

/-- An AP instruction that issues comes to its own effect. -/
theorem apIssue_run (g : Guard) (len : Nat) (regs : List (BitVec 6)) (toks : List (BitVec 4)) (fsig : Option (BitVec 4))
    (body : Nat → Nat → Ctx → State → Res) (s : State) (c n : Nat) (x : Ctx) (hc : s.cur = ⟨c, n, .ap⟩) (hx : s.ctx c n = some x)
    (hg : x.ap.holds g = true) (hr : ∀ r ∈ regs, sPhys x.ap.rrb r.toNat ∉ x.ap.pend) (ht : ∀ t ∈ toks, t.toNat < s.tokensOf x) :
    apIssue g len regs toks fsig body s = finish c n .ap len x.ap.pc (body c n x s) := by
  have h1 : (regs.any fun r => x.ap.pend.contains (sPhys x.ap.rrb r.toNat)) = false := by
    rw [List.any_eq_false]; intro r h; simpa using hr r h
  simp only [apIssue, hc, hx, hg, h1, badTok_none s x toks ht]
  simp

theorem apSimple_run (g : Guard) (regs : List (BitVec 6)) (body : Nat → Nat → Ctx → State → Res) (s : State) (c n : Nat) (x : Ctx)
    (hc : s.cur = ⟨c, n, .ap⟩) (hx : s.ctx c n = some x) (hg : x.ap.holds g = true) (hr : ∀ r ∈ regs, sPhys x.ap.rrb r.toNat ∉ x.ap.pend) :
    apSimple g regs body s = finish c n .ap 1 x.ap.pc (body c n x s) :=
  apIssue_run g 1 regs [] none body s c n x hc hx hg hr (by simp)

theorem apRegs_run (g : Guard) (regs : List (BitVec 6)) (f : ApSt → ApSt) (s : State) (c n : Nat) (x : Ctx)
    (hc : s.cur = ⟨c, n, .ap⟩) (hx : s.ctx c n = some x) (hg : x.ap.holds g = true) (hr : ∀ r ∈ regs, sPhys x.ap.rrb r.toNat ∉ x.ap.pend) :
    apRegs g regs f s = s.setCtx c n ({ x with ap := f x.ap }.pass .ap 1) := by
  unfold apRegs
  rw [apSimple_run g regs _ s c n x hc hx hg hr, finish_done_setCtx]

/-- A guard that fails moves the AP past the instruction; a D form delivers its signal. -/
theorem apIssue_failed (g : Guard) (len : Nat) (regs : List (BitVec 6)) (toks : List (BitVec 4))
    (body : Nat → Nat → Ctx → State → Res) (s : State) (c n : Nat) (x : Ctx) (hc : s.cur = ⟨c, n, .ap⟩) (hx : s.ctx c n = some x)
    (hg : x.ap.holds g = false) : apIssue g len regs toks none body s = s.setCtx c n (x.pass .ap len) := by
  simp only [apIssue, hc, hx, hg]
  simp [finish_done _ _ _ _ _ _ _ hx]

theorem apSimple_failed (g : Guard) (regs : List (BitVec 6)) (body : Nat → Nat → Ctx → State → Res) (s : State) (c n : Nat) (x : Ctx)
    (hc : s.cur = ⟨c, n, .ap⟩) (hx : s.ctx c n = some x) (hg : x.ap.holds g = false) : apSimple g regs body s = s.setCtx c n (x.pass .ap 1) :=
  apIssue_failed g 1 regs [] body s c n x hc hx hg

/-! ## Issue on the EP -/

theorem epIssue_run (g : Guard) (len : Nat) (toks : List (BitVec 4)) (fsig : Option (BitVec 4)) (body : Nat → Nat → Ctx → State → Res)
    (s : State) (c n : Nat) (x : Ctx) (hc : s.cur = ⟨c, n, .ep⟩) (hx : s.ctx c n = some x) (hg : x.ep.holds g = true)
    (ht : ∀ t ∈ toks, t.toNat < s.tokensOf x) : epIssue g len toks fsig body s = finish c n .ep len x.ep.pc (body c n x s) := by
  simp only [epIssue, hc, hx, hg, badTok_none s x toks ht]
  simp

theorem epSimple_run (g : Guard) (body : Nat → Nat → Ctx → State → Res) (s : State) (c n : Nat) (x : Ctx)
    (hc : s.cur = ⟨c, n, .ep⟩) (hx : s.ctx c n = some x) (hg : x.ep.holds g = true) :
    epSimple g body s = finish c n .ep 1 x.ep.pc (body c n x s) := epIssue_run g 1 [] none body s c n x hc hx hg (by simp)

theorem epRegs_run (g : Guard) (f : EpSt → EpSt) (s : State) (c n : Nat) (x : Ctx) (hc : s.cur = ⟨c, n, .ep⟩) (hx : s.ctx c n = some x)
    (hg : x.ep.holds g = true) : epRegs g f s = s.setCtx c n ({ x with ep := f x.ep }.pass .ep 1) := by
  unfold epRegs
  rw [epSimple_run g _ s c n x hc hx hg, finish_done_setCtx]

/-- A guard that fails moves the EP past the instruction. -/
theorem epIssue_failed (g : Guard) (len : Nat) (toks : List (BitVec 4)) (body : Nat → Nat → Ctx → State → Res) (s : State) (c n : Nat) (x : Ctx)
    (hc : s.cur = ⟨c, n, .ep⟩) (hx : s.ctx c n = some x) (hg : x.ep.holds g = false) :
    epIssue g len toks none body s = s.setCtx c n (x.pass .ep len) := by
  simp only [epIssue, hc, hx, hg]
  simp [finish_done _ _ _ _ _ _ _ hx]

end Sys2Proof.Machine
end

