-- ==== Sys2Proof/Laws/Memory.lean ====
section
/-! SUPPORT. Laws of memory: every operation that changes its bytes keeps the canonical form, what a write leaves in memory and in the durable image, and reads after writes. -/
namespace Sys2Proof.Machine
open Sys2Proof

/-! ## The canonical form -/

/-- A byte put into a canonical memory leaves it canonical. -/
theorem memory_wf_put (m : List Host.Cell) (a : Nat) (b : Byte) (h : Memory.wf m = true) : Memory.wf (tput m memDefault a b) = true := twf_tput _ _ _ _ h
/-- So do bytes put in order, as writes, the persistence domain and a loss of power put them. -/
theorem memory_wf_puts (l m : List Host.Cell) (h : Memory.wf m = true) : Memory.wf (l.foldl (fun t p => tput t memDefault p.1 p.2) m) = true := by
  induction l generalizing m with
  | nil => exact h
  | cons p r ih => exact ih _ (memory_wf_put m p.1 p.2 h)
/-- And the bytes that a retired frame or a loss of power leaves. -/
theorem memory_wf_filter (f : Host.Cell → Bool) (m : List Host.Cell) (h : Memory.wf m = true) : Memory.wf (m.filter f) = true := twf_filter _ _ _ h

/-! ## What a write changes -/

@[simp] theorem putCells_mem (s : State) (l : List Host.Cell) : (s.putCells l).mem = l.foldl (fun t p => tput t memDefault p.1 p.2) s.mem := by
  induction l generalizing s with
  | nil => rfl
  | cons p r ih => obtain ⟨a, b⟩ := p; exact ih _
@[simp] theorem putCells_durImg (s : State) (l : List Host.Cell) : (s.putCells l).durImg = s.durImg := by
  induction l generalizing s with
  | nil => rfl
  | cons p r ih => obtain ⟨a, b⟩ := p; exact ih _
@[simp] theorem unpoison_mem (s : State) (l : List Host.Cell) : (s.unpoison l).mem = s.mem := by unfold State.unpoison; split <;> rfl
@[simp] theorem unpoison_durImg (s : State) (l : List Host.Cell) : (s.unpoison l).durImg = s.durImg := by unfold State.unpoison; split <;> rfl
@[simp] theorem wakeMonitors_mem (s : State) (g : List Nat) : (s.wakeMonitors g).mem = s.mem := by simp [State.wakeMonitors]
@[simp] theorem wakeMonitors_durImg (s : State) (g : List Nat) : (s.wakeMonitors g).durImg = s.durImg := by simp [State.wakeMonitors]
@[simp] theorem wakeTasks_mem (s : State) (g : List Nat) : (s.wakeTasks g).mem = s.mem := by simp [State.wakeTasks]
@[simp] theorem wakeTasks_durImg (s : State) (g : List Nat) : (s.wakeTasks g).durImg = s.durImg := by simp [State.wakeTasks]
/-- A write puts its cells into memory, in order. -/
@[simp] theorem writeMem_mem (s : State) (l : List Host.Cell) : (s.writeMem l).mem = l.foldl (fun t p => tput t memDefault p.1 p.2) s.mem := by simp [State.writeMem]
@[simp] theorem writeMem_durImg (s : State) (l : List Host.Cell) : (s.writeMem l).durImg = s.durImg := by simp [State.writeMem]
/-- A write keeps memory canonical. -/
theorem writeMem_wf (s : State) (l : List Host.Cell) (h : Memory.wf s.mem = true) : Memory.wf (s.writeMem l).mem = true := by
  rw [writeMem_mem]; exact memory_wf_puts l s.mem h

/-! ## Durable bytes -/

@[simp] theorem addDurable_mem (s : State) (c n : Nat) (lid : BitVec 32) (cls : BitVec 4) (pos : Option Nat) (l : List Host.Cell) (pr : List Nat) (st : Option (Nat × Nat)) (m : Nat) :
    (s.addDurable c n lid cls pos l pr st m).mem = s.mem := rfl
@[simp] theorem addDurable_durImg (s : State) (c n : Nat) (lid : BitVec 32) (cls : BitVec 4) (pos : Option Nat) (l : List Host.Cell) (pr : List Nat) (st : Option (Nat × Nat)) (m : Nat) :
    (s.addDurable c n lid cls pos l pr st m).durImg = s.durImg := rfl
@[simp] theorem addDurable_cores (s : State) (c n : Nat) (lid : BitVec 32) (cls : BitVec 4) (pos : Option Nat) (l : List Host.Cell) (pr : List Nat) (st : Option (Nat × Nat)) (m : Nat) :
    (s.addDurable c n lid cls pos l pr st m).cores = s.cores := rfl
@[simp] theorem noteBytes_mem (s : State) (l : List Host.Cell) : (s.noteBytes l).mem = s.mem := by
  unfold State.noteBytes; induction l.filter (fun p => isDur p.1) generalizing s with | nil => rfl | cons p r ih => exact ih _
@[simp] theorem noteBytes_durImg (s : State) (l : List Host.Cell) : (s.noteBytes l).durImg = s.durImg := by
  unfold State.noteBytes; induction l.filter (fun p => isDur p.1) generalizing s with | nil => rfl | cons p r ih => exact ih _
/-- A write from outside the APs puts its bytes at their home, in order. -/
@[simp] theorem devWrite_mem (s : State) (l : List Host.Cell) : (s.devWrite l).mem = (l.map fun p => (s.homeAddr p.1, p.2)).foldl (fun t p => tput t memDefault p.1 p.2) s.mem := by simp [State.devWrite]
@[simp] theorem devWrite_durImg (s : State) (l : List Host.Cell) : (s.devWrite l).durImg = s.durImg := by simp [State.devWrite]
/-- It keeps memory canonical. -/
theorem devWrite_wf (s : State) (l : List Host.Cell) (h : Memory.wf s.mem = true) : Memory.wf (s.devWrite l).mem = true := by
  rw [devWrite_mem]; exact memory_wf_puts _ s.mem h
@[simp] theorem unitWrite_mem (s : State) (l : List Host.Cell) : (s.unitWrite l).mem = (l.map fun p => (s.homeAddr p.1, p.2)).foldl (fun t p => tput t memDefault p.1 p.2) s.mem := by
  unfold State.unitWrite; simp only [writeMem_mem]; split <;> rfl
@[simp] theorem unitWrite_durImg (s : State) (l : List Host.Cell) : (s.unitWrite l).durImg = s.durImg := by
  unfold State.unitWrite; simp only [writeMem_durImg]; split <;> rfl
/-- So does an atomic's from outside the APs. -/
theorem unitWrite_wf (s : State) (l : List Host.Cell) (h : Memory.wf s.mem = true) : Memory.wf (s.unitWrite l).mem = true := by
  rw [unitWrite_mem]; exact memory_wf_puts _ s.mem h

/-! ## Reads -/

@[simp] theorem bytes_length (s : State) (a n : Nat) : (s.bytes a n).length = n := by
  unfold State.bytes
  induction n generalizing a with
  | zero => rfl
  | succ k ih => simp [natsFrom]
/-- A byte depends on memory alone. -/
theorem byte_congr (s t : State) (h : s.mem = t.mem) (a : Nat) : s.byte a = t.byte a := by simp [State.byte, h]

end Sys2Proof.Machine
end

