-- ==== Sys2Proof/Laws/Ops.lean ====
section
/-! SUPPORT. Laws of the shared operations: what taking a trap, offering a record, signalling a token, completing and halting a command, and moving past an instruction come to, and that none of them touches memory. -/
namespace Sys2Proof.Machine
open Sys2Proof

/-! ## Traps -/

/-- A trap outside the handler, with a vector, enters the handler (R392). -/
theorem takeTrap_enter (s : State) (c n : Nat) (p : Proc) (cause sub : Nat) (tval tpc : Word) (x : Ctx) (hx : s.ctx c n = some x)
    (hh : x.inHandler p = false) (hv : x.vec p ≠ 0) : s.takeTrap c n p cause sub tval tpc = s.setCtx c n (x.enter p (causeWord cause sub) tpc tval) := by
  have h : (x.inHandler p || x.vec p == 0) = false := by rw [hh, Bool.false_or]; exact beq_eq_false_iff_ne.2 hv
  simp only [State.takeTrap, hx, h]
  rfl
/-- A trap without a vector, or in the handler, ends the context with a record to the launch (R393). -/
theorem takeTrap_ends (s : State) (c n : Nat) (p : Proc) (cause sub : Nat) (tval tpc : Word) (x : Ctx) (hx : s.ctx c n = some x)
    (h : x.inHandler p = true ∨ x.vec p = 0) :
    s.takeTrap c n p cause sub tval tpc = (s.trapEnd c n x).toLaunch x.lid { s.ctxRec c n x 1 3 cause (mtProc p) 0 none [] with retired := true } := by
  rcases h with h | h <;> simp [State.takeTrap, hx, h]
@[simp] theorem trapEnd_mem (s : State) (c n : Nat) (x : Ctx) : (s.trapEnd c n x).mem = s.mem := by simp [State.trapEnd]
@[simp] theorem trapEnd_durImg (s : State) (c n : Nat) (x : Ctx) : (s.trapEnd c n x).durImg = s.durImg := by simp [State.trapEnd]
/-- Entering the AP's handler saves its cause, address and value and goes to its vector. -/
theorem enter_ap (x : Ctx) (cause tpc tval : Word) : (x.enter .ap cause tpc tval).ap.tcause = cause ∧ (x.enter .ap cause tpc tval).ap.tpc = tpc ∧
    (x.enter .ap cause tpc tval).ap.tval = tval ∧ (x.enter .ap cause tpc tval).ap.pc = x.ap.tvec ∧ (x.enter .ap cause tpc tval).ap.handler = true := ⟨rfl, rfl, rfl, rfl, rfl⟩
/-- So does entering the EP's. -/
theorem enter_ep (x : Ctx) (cause tpc tval : Word) : (x.enter .ep cause tpc tval).ep.tcause = cause ∧ (x.enter .ep cause tpc tval).ep.tpc = tpc ∧
    (x.enter .ep cause tpc tval).ep.tval = tval ∧ (x.enter .ep cause tpc tval).ep.pc = x.ep.tvec ∧ (x.enter .ep cause tpc tval).ep.handler = true := ⟨rfl, rfl, rfl, rfl, rfl⟩

/-! ## Records -/

@[simp] theorem markRecorded_mem (s : State) (lid : BitVec 32) (r : FaultRec) : (s.markRecorded lid r).mem = s.mem := by unfold State.markRecorded; split <;> simp
@[simp] theorem markRecorded_durImg (s : State) (lid : BitVec 32) (r : FaultRec) : (s.markRecorded lid r).durImg = s.durImg := by unfold State.markRecorded; split <;> simp
@[simp] theorem markRecorded_ctx (s : State) (lid : BitVec 32) (r : FaultRec) (c n : Nat) : (s.markRecorded lid r).ctx c n = s.ctx c n := by
  unfold State.markRecorded; split <;> simp [State.ctx]
/-- A context that is here takes the record of its engine into its empty slot (R395). -/
theorem report_offer (s : State) (c n : Nat) (p : Proc) (r : FaultRec) (x : Ctx) (hx : s.ctx c n = some x) (hg : x.gone = false) (ha : x.afs = none) :
    s.report c n x.lid p r = (s.markRecorded x.lid r).setCtx c n { x with afs := some (r, p) } := by
  have h : ((s.markRecorded x.lid r).ctx c n).filter (fun y => y.lid == x.lid) = some x := by simp [hx, Option.filter]
  simp only [State.report, h, Ctx.offer, hg, ha]
  rfl

/-! ## Tokens and commands -/

/-- A token below 255 gains 1 (R35). -/
theorem signal_room (s : State) (c n : Nat) (lid : BitVec 32) (p : Proc) (m : BitVec 32) (t : BitVec 4) (x : Ctx) (hx : s.ctx c n = some x) (hl : x.lid = lid)
    (ht : x.token t < 255) : s.signal c n lid p m t = s.setCtx c n { x with tok := tset x.tok t.toNat (x.token t + 1) } := by
  have h : (s.ctx c n).filter (fun y => y.lid == lid) = some x := by simp [hx, hl, Option.filter]
  simp only [State.signal, h, ht, if_true]
@[simp] theorem tagDurable_cores (s : State) (c : Nat) (m : Cmd) : (s.tagDurable c m).cores = s.cores := rfl
@[simp] theorem tagDurable_mem (s : State) (c : Nat) (m : Cmd) : (s.tagDurable c m).mem = s.mem := rfl
@[simp] theorem tagDurable_ctx (s : State) (d : Nat) (m : Cmd) (c n : Nat) : (s.tagDurable d m).ctx c n = s.ctx c n := rfl
/-- A command that has no token leaves the started ones, and nothing of its context changes. -/
theorem complete_silent (s : State) (c : Nat) (m : Cmd) (h : m.tk.sig = none) :
    s.complete c m = (s.tagDurable c m).modCore c fun k => { k with live := k.live.filter fun x => x.id != m.id, score := k.score.filter fun e => e.cmd != m.id } := by
  simp [State.complete, h, State.signalOpt]
/-- A command with a token below 255 signals it in its context. -/
theorem complete_signals (s : State) (c : Nat) (m : Cmd) (t : BitVec 4) (x : Ctx) (h : m.tk.sig = some t) (hx : s.ctx c m.slot = some x) (hl : x.lid = m.lid)
    (ht : x.token t < 255) : s.complete c m =
      ((s.tagDurable c m).modCore c fun k => { k with live := k.live.filter fun x => x.id != m.id, score := k.score.filter fun e => e.cmd != m.id }).setCtx c m.slot
        { x with tok := tset x.tok t.toNat (x.token t + 1) } := by
  have hc : ((s.tagDurable c m).modCore c fun k => { k with live := k.live.filter fun x => x.id != m.id, score := k.score.filter fun e => e.cmd != m.id }).ctx c m.slot = some x := by
    have : (s.tagDurable c m).core c = s.core c := rfl
    simpa [State.ctx, this] using hx
  simp [State.complete, h, State.signalOpt, signal_room _ _ _ _ _ _ _ x hc hl ht]
@[simp] theorem drop_mem (s : State) (c : Nat) (m : Cmd) : (s.drop c m).mem = s.mem := by simp [State.drop]
/-- A command that halts leaves the started ones, and its record goes to its context's empty slot (R394, R395). -/
theorem haltCmd_offer (s : State) (c : Nat) (m : Cmd) (cls cause : Nat) (addr : Option Nat) (det : List (Nat × Nat × Nat)) (x : Ctx)
    (hx : s.ctx c m.slot = some x) (hl : x.lid = m.lid) (hg : x.gone = false) (ha : x.afs = none) :
    s.haltCmd c m cls cause addr det = ((s.drop c m).markRecorded m.lid (s.mkRec cls 1 cause (cmdMaster c m) addr m.lid x.rank det)).setCtx c m.slot
      { x with afs := some (s.mkRec cls 1 cause (cmdMaster c m) addr m.lid x.rank det, cmdProc m.instr) } := by
  have hc : (s.drop c m).ctx c m.slot = some x := by simpa [State.ctx, State.drop] using hx
  simp only [State.haltCmd, hx]
  rw [← hl, report_offer _ c m.slot _ _ x hc hg ha]

/-! ## Moving on -/

/-- Outside a loop the AP goes to the next instruction in sequence (R196). -/
theorem pass_ap (x : Ctx) (len : Nat) (h : x.ap.loops = []) : x.pass .ap len = { x with ap := { x.ap with loops := [], pc := x.ap.pc + BitVec.ofNat 64 (8 * len) } } := by
  simp [Ctx.pass, h, ApSt.passEnd]
/-- Outside a loop the EP goes to the next instruction in sequence. -/
theorem pass_ep (x : Ctx) (len : Nat) (h : x.ep.loops = []) : x.pass .ep len = { x with ep := { x.ep with loops := [], pc := x.ep.pc + BitVec.ofNat 64 (8 * len) } } := by
  simp [Ctx.pass, h, EpSt.passEnd]
/-- With no pending `TSIG` or `ETSIG` nothing is taken (R36). -/
theorem settle_idle (x : Ctx) (h : x.ap.tsigs = []) (k : x.ep.etsigs = []) : x.settle = x := by
  have h1 : x.settleAp = x := by unfold Ctx.settleAp; rw [h]; simp only [takeTsigs]; rw [← h]
  simp only [Ctx.settle, h1, k, takeTsigs]; rw [← k]
/-- A wait that meets no release acquires nothing (R129, R130). -/
@[simp] theorem acquireAll_nil (s : State) (c n : Nat) (x : Ctx) (sc : Scope) : s.acquireAll c n x sc [] = x := rfl
/-- An AP in its handler issues a stalled `TLBI` again behind it (R396). -/
theorem behind_tlbi (id : Nat) : ApWait.behind (some (.tlbi id)) = none := rfl
@[simp] theorem endBlock_ctxs (k : Core) (p : Proc) : (k.endBlock p).ctxs = k.ctxs := by cases p <;> rfl
@[simp] theorem endBlockOf_ctxs (k : Core) (n : Nat) (p : Proc) : (k.endBlockOf n p).ctxs = k.ctxs := by
  cases p <;> simp only [Core.endBlockOf] <;> split <;> simp
/-- A block of another slot goes on (R60). -/
theorem endBlockOf_other (k : Core) (n : Nat) (h : k.apBlk.sel ≠ some n) : k.endBlockOf n .ap = k := by simp [Core.endBlockOf, h]

end Sys2Proof.Machine
end

