-- ==== Sys2Proof/Laws/Select.lean ====
section
/-! SUPPORT. What the choice of a context and the order of takes can do: the trial of an issue, the selection, the EP's take (R36, R60, R61). -/
namespace Sys2Proof.Machine

/-- The trial of an instruction of a processor is its execution. -/
theorem tryExec_eq (i : Instr) (s : State) (h : i.isEvent = false) : tryExec i s = exec i s := by
  cases i <;> first | rfl | exact nomatch h

/-- A processor with a next context begins a block with it. -/
theorem selectCtx_some (s : State) (c n : Nat) (p : Proc) (h : s.nextCtx c p = some n) : s.selectCtx c p = s.inBlock c n p := by
  simp [State.selectCtx, h]
/-- A processor with none selects nothing. -/
theorem selectCtx_none (s : State) (c : Nat) (p : Proc) (h : s.nextCtx c p = none) : s.selectCtx c p = s := by simp [State.selectCtx, h]
/-- The context a processor selects is runnable, and none is where it selects none. -/
theorem nextCtx_runnable (s : State) (c n : Nat) (p : Proc) (h : s.nextCtx c p = some n) : s.runnable c n p = true := by
  have := List.find?_some h
  simpa using this
theorem nextCtx_none (s : State) (c : Nat) (p : Proc) (h : s.nextCtx c p = none) (n : Nat) (hn : n ∈ slotsAfter ((s.core c).blk p).sel) :
    s.runnable c n p = false := by
  have := List.find?_eq_none.1 h n hn
  simpa using this
/-- A context that cannot issue at all is not runnable. -/
theorem runnable_of_not (s : State) (c n : Nat) (p : Proc) (x : Ctx) (hx : s.ctx c n = some x) (h : x.runnable p = false) : s.runnable c n p = false := by
  simp [State.runnable, hx, h]
/-- A context whose issue would not stall is runnable where its processor may issue. -/
theorem runnable_of_runs (s : State) (c n : Nat) (p : Proc) (x : Ctx) (hx : s.ctx c n = some x) (h : s.wouldStall c n p = false) :
    s.runnable c n p = x.runnable p := by simp [State.runnable, hx, h]

/-- The EP takes what it can where its AP stands at no wait, and where it does not want the same tokens. -/
theorem epTakes_alone (s : State) (c n : Nat) (x : Ctx) (ws : WaitSet) (h : x.canTake ws = true)
    (hc : ∀ a, s.procWaits c n .ap = some a → x.clash ws a = false) : s.epTakes c n x ws = true := by
  cases hp : s.procWaits c n .ap with
  | none => simp [State.epTakes, h, hp]
  | some a => simp [State.epTakes, h, hp, hc a hp]
/-- It yields to an AP that stands ready to take the same tokens. -/
theorem epTakes_yields (s : State) (c n : Nat) (x : Ctx) (ws a : WaitSet) (hp : s.procWaits c n .ap = some a) (hc : x.clash ws a = true)
    (he : waitToks ws ≠ []) : s.epTakes c n x ws = false := by
  simp [State.epTakes, hp, hc, he]

end Sys2Proof.Machine
end

