-- ==== Sys2Proof/Laws/Words.lean ====
section
/-! SUPPORT. Laws of the bit-field helpers: the model's numbers kept to w bits are bit vectors of width w, and its sign extension is theirs. -/
namespace Sys2Proof

theorem two_pow_succ_pred (w : Nat) (h : 0 < w) : 2 ^ w = 2 * 2 ^ (w - 1) := by
  rw [← Nat.pow_succ']; congr 1; omega

/-- Sign extension of a number from w bits is that of the bit vector. -/
theorem signExt_eq (w v : Nat) (hw : 0 < w) (hw2 : w ≤ 64) : signExt v w = (BitVec.ofNat w v).signExtend 64 := by
  unfold signExt
  rw [if_neg (by omega)]
  apply BitVec.eq_of_toInt_eq
  rw [BitVec.toInt_signExtend_of_le hw2, BitVec.toInt_ofInt, BitVec.toInt_eq_toNat_cond, BitVec.toNat_ofNat]
  have h1 := two_pow_succ_pred w hw
  have h2 := Nat.mod_lt v (Nat.two_pow_pos w)
  have h3 : 2 ^ w ≤ 2 ^ 64 := Nat.pow_le_pow_right (by omega) hw2
  generalize hp : 2 ^ w = p at *
  generalize hq : 2 ^ (w - 1) = q at *
  have hpi : (2 : Int) ^ w = (p : Int) := by rw [← hp]; simp
  split <;> split <;> try omega
  · rw [Int.bmod_eq_of_le] <;> omega
  · rw [hpi, Int.bmod_eq_of_le] <;> omega

/-- Zero extension. -/
theorem zeroExt_eq (w v : Nat) (hw2 : w ≤ 64) : zeroExt v w = (BitVec.ofNat w v).setWidth 64 := by
  apply BitVec.eq_of_toNat_eq
  have h := Nat.mod_lt v (Nat.two_pow_pos w)
  have h3 : 2 ^ w ≤ 2 ^ 64 := Nat.pow_le_pow_right (by omega) hw2
  simp only [zeroExt, BitVec.toNat_ofNat, BitVec.toNat_setWidth]

/-- The signed value of the low bits of a number. -/
theorem sval_eq (w v : Nat) : sval v w = (BitVec.ofNat w v).toInt := by
  unfold sval
  split
  · rename_i h; subst h; simp [BitVec.toInt]; omega
  · rename_i h
    have h1 := two_pow_succ_pred w (by omega)
    rw [BitVec.toInt_eq_toNat_cond, BitVec.toNat_ofNat]
    generalize hp : 2 ^ w = p at *
    have hpi : (2 : Int) ^ w = (p : Int) := by rw [← hp]; simp
    split <;> split <;> omega

/-- A wrapped integer is the bit vector of the integer. -/
theorem ofNat_wrapN (w : Nat) (v : Int) : BitVec.ofNat w (wrapN v w) = BitVec.ofInt w v := by
  apply BitVec.eq_of_toNat_eq
  rw [BitVec.toNat_ofNat, BitVec.toNat_ofInt]
  unfold wrapN
  have h : (0 : Int) < 2 ^ w := Int.pow_pos (by omega)
  have h1 := Int.emod_nonneg v (Int.ne_of_gt h)
  have h2 := Int.emod_lt_of_pos v h
  have hc : ((2 ^ w : Nat) : Int) = 2 ^ w := by simp
  rw [hc]
  apply Nat.mod_eq_of_lt
  omega

theorem wbits_range (k : Wd) : 0 < Machine.wbits k ∧ Machine.wbits k ≤ 64 := by cases k <;> decide

end Sys2Proof
end

