-- ==== Sys2Proof/Machine/Loader.lean ====
section
/-! DEFINITION. The container a launch comes from (R228 to R232): its header, sections, synchronisation table, symbols and relocations, what the linker makes of them and what the loader rejects, and what it tells the scheduler of the code (log 20). -/
namespace Sys2Proof.Machine
open Sys2Proof

/-- An entry of the section table (R229). -/
structure DroSec where
  kind : Nat
  sfl : Nat
  align : Nat
  offset : Nat
  size : Nat
  vaddr : Nat
  deriving DecidableEq, Repr

/-- NSEC of a container (R228). -/
def droCount (c : List Byte) : Nat := leAt c 8 4
/-- Entry i of the section table. -/
def droSec (c : List Byte) (i : Nat) : DroSec :=
  let o := leAt c 12 4 + 32 * i
  { kind := leAt c o 2, sfl := leAt c (o + 2) 2, align := leAt c (o + 4) 4, offset := leAt c (o + 8) 8, size := leAt c (o + 16) 8, vaddr := leAt c (o + 24) 8 }
/-- The sections of a container. -/
def droSecs (c : List Byte) : List DroSec := (List.range (droCount c)).map (droSec c)
/-- All bytes of a range are zero. -/
def zeroAt (c : List Byte) (o n : Nat) : Bool := ((c.drop o).take n).all fun b => b == 0

/-- An entry of the synchronisation table (R231). -/
structure DroTok where
  tok : Nat
  prod : Nat
  cons : Nat
  pad : Nat
  count : Nat
  lidx : Nat
  deriving DecidableEq, Repr
/-- The entries of the synchronisation tables. -/
def droToks (c : List Byte) : List DroTok :=
  ((droSecs c).filter fun z => z.kind == 5).flatMap fun z => (List.range (z.size / 8)).map fun i =>
    let o := z.offset + 8 * i
    { tok := leAt c o 1, prod := leAt c (o + 1) 1, cons := leAt c (o + 2) 1, pad := leAt c (o + 3) 1, count := leAt c (o + 4) 2, lidx := leAt c (o + 6) 2 }

/-- The header is valid (R228). -/
def droHeadOk (c : List Byte) : Bool :=
  leAt c 0 4 == 0xD1200B2E && leAt c 4 2 == 1 && decide (leAt c 6 2 < 4) && decide (1 ≤ droCount c ∧ droCount c ≤ 65535) && leAt c 12 4 == 64 && zeroAt c 16 48
/-- FLAGS of a container: it is linked (R228). -/
def droLinked (c : List Byte) : Bool := bitN (leAt c 6 2) 0
/-- A section is valid; the address of one in a relocatable container is 0 (R229). -/
def droSecOk (linked : Bool) (z : DroSec) : Bool :=
  (linked || z.vaddr == 0) && decide (1 ≤ z.kind ∧ z.kind ≤ 9) && decide (z.sfl ≤ if z.kind = 6 then 1 else 0) && decide (z.align ≤ 12)
    && (if z.kind = 1 ∨ z.kind = 2 then decide (z.size % 8 = 0) && decide (z.size ≤ 32768) else true)
/-- The zero bytes of a symbol section (R230). -/
def droSymOk (c : List Byte) (z : DroSec) : Bool := z.kind != 7 || (List.range (z.size / 24)).all fun i => zeroAt c (z.offset + 24 * i + 16) 8
/-- A token entry is valid beside the launch records (R231, R232). -/
def droTokOk (recs : List (BitVec 1024)) (t : DroTok) : Bool :=
  t.pad == 0 && decide (t.prod ≤ 9) && decide (t.cons ≤ 9) && decide (1 ≤ t.count ∧ t.count ≤ 3) && (match recs[t.lidx]? with | some r => decide (t.tok < bytesAt r 43 1) | none => false)
/-- The loader takes the container, whose launch records are these, in order (R232). -/
def droOk (c : List Byte) (recs : List (BitVec 1024)) : Bool :=
  droHeadOk c && (droSecs c).all (fun z => droSecOk (droLinked c) z && droSymOk c z) && (droToks c).all (droTokOk recs)

/-! ## What `serzld` does (R229 to R231) -/

/-- A symbol (R230). -/
structure DroSym where
  name : Nat
  sect : Nat
  flags : Nat
  value : Nat
  deriving DecidableEq, Repr
/-- The symbols of a container, in order. -/
def droSyms (c : List Byte) : List DroSym :=
  ((droSecs c).filter fun z => z.kind == 7).flatMap fun z => (List.range (z.size / 24)).map fun i =>
    let o := z.offset + 24 * i
    { name := leAt c o 4, sect := leAt c (o + 4) 2, flags := leAt c (o + 6) 2, value := leAt c (o + 8) 8 }
/-- A relocation (R230). -/
structure DroReloc where
  offset : Nat
  sym : Nat
  ty : Nat
  sect : Nat
  deriving DecidableEq, Repr
/-- The relocations of a container, in order. -/
def droRelocs (c : List Byte) : List DroReloc :=
  ((droSecs c).filter fun z => z.kind == 8).flatMap fun z => (List.range (z.size / 16)).map fun i =>
    let o := z.offset + 16 * i
    { offset := leAt c o 8, sym := leAt c (o + 8) 4, ty := leAt c (o + 12) 2, sect := leAt c (o + 14) 2 }
/-- The address of a symbol, once sections have theirs: its value, from the start of its section unless it is absolute (R230; log 20). -/
def symAddr (secs : List DroSec) (y : DroSym) : Option Nat := if y.sect = 0xFFFF then some y.value else (secs[y.sect]?).map fun z => (z.vaddr + y.value) % 2 ^ 64
/-- What a relocation puts into its field: the symbol's address S, the addend A, the address P of the instruction; none where the linker rejects it (R230). -/
def relocValue (ty s : Nat) (a : Int) (p : Nat) : Option Nat :=
  let v := wrapN ((s : Int) + a) 64
  match ty with
  | 0 => some v
  | 1 =>
    let d : Int := (s : Int) + a - (p : Int)
    if d % 8 = 0 ∧ -(2 ^ 31 : Int) ≤ d ∧ d < 2 ^ 31 then some (wrapN d 32) else none
  | 2 => some (v % 2 ^ 32)
  | 3 => some (v / 2 ^ 32)
  | _ => none
/-- The bytes of the field a relocation patches: 8 at its offset, or OFF or IMM32, the low 4 of the word there (R204, R230). -/
def relocBytes (ty : Nat) : Nat := if ty = 0 then 8 else 4
/-- The addend already in the field; OFF is signed (R204; log 20). -/
def relocAddend (ty v : Nat) : Int := if ty = 1 then sval v 32 else v
/-- Applies a relocation: the field is read, patched, and written back; none where `serzld` rejects it (R230). -/
def relocate (secs : List DroSec) (syms : List DroSym) (c : List Byte) (r : DroReloc) : Option (List Byte) :=
  match secs[r.sect]?, (syms[r.sym]?).bind (symAddr secs) with
  | some z, some s =>
    let o := z.offset + r.offset
    let n := relocBytes r.ty
    (relocValue r.ty s (relocAddend r.ty (leAt c o n)) (z.vaddr + r.offset)).map fun v => c.take o ++ leBytes n v ++ c.drop (o + n)
  | _, _ => none
/-- Applies all relocations of a container whose sections have their addresses. -/
def relocateAll (c : List Byte) : Option (List Byte) :=
  (droRelocs c).foldl (fun o r => o.bind fun c => relocate (droSecs c) (droSyms c) c r) (some c)
/-- LIDX of the entries of the `.token` directives, each with the index its `launch=` key names, if it has one, beside the number of launch records; none where `serzld` rejects the container (R231). -/
def linkToks (recs : Nat) (l : List (DroTok × Option Nat)) : Option (List DroTok) :=
  if l.any fun q => match q.2 with | none => decide (1 < recs) | some i => decide (recs ≤ i) then none
  else some (l.map fun q => { q.1 with lidx := q.2.getD 0 })
/-- The address of the synchronisation table for record i: of the i-th section of kind 5, or of the last one (R229, R231; log 20). -/
def syncAddr (c : List Byte) (i : Nat) : Option Nat :=
  let l := (droSecs c).filter fun z => z.kind == 5
  (l[i]? <|> l.getLast?).map DroSec.vaddr
/-- `serzld` fills bytes 24 to 31 of a launch record (R227, R231). -/
def linkRecord (c : List Byte) (i : Nat) (r : BitVec 1024) : BitVec 1024 :=
  match syncAddr c i with | some a => BitVec.ofNat 1024 (setFld r.toNat 192 64 a) | none => r
/-- What a linked container has from `serzld`: at most one section of kinds 1, 2 and 5 for each launch record, whose bytes 24 to 31 name the synchronisation table (R229, R231). -/
def droShape (c : List Byte) (recs : List (BitVec 1024)) : Bool :=
  droLinked c && ([1, 2, 5].all fun k => decide (((droSecs c).filter fun z => z.kind == k).length ≤ recs.length))
    && ((List.range recs.length).zip recs).all fun q => match syncAddr c q.1 with | some a => bytesAt q.2 24 8 == a | none => true
/-- The pages a section of a linked container takes: R, W and X (R229); the other kinds are not mapped. -/
def droPages (z : DroSec) : Option (Bool × Bool × Bool) :=
  match z.kind with
  | 1 => some (false, false, true)
  | 2 => some (false, false, true)
  | 3 => some (false, false, true)
  | 6 => some (true, bitN z.sfl 0, false)
  | _ => none

/-- The code sections of a linked container, as the scheduler is told of them (R23, R197; log 20). -/
def droSections (pasid : Nat) (c : List Byte) : List Section :=
  (droSecs c).filterMap fun z =>
    if z.kind = 1 then some { proc := .ap, pasid := pasid, base := z.vaddr, words := z.size / 8 }
    else if z.kind = 2 then some { proc := .ep, pasid := pasid, base := z.vaddr, words := z.size / 8 }
    else none
/-- The loader tells the scheduler of a container's code, if it takes the container. -/
def State.loadSections (s : State) (pasid : Nat) (c : List Byte) (recs : List (BitVec 1024)) : State :=
  if droOk c recs then { s with sections := s.sections ++ droSections pasid c } else s

end Sys2Proof.Machine
end

