-- ==== Sys2Proof/Safety.lean ====
section
/-! DEFINITION. What counts as a safe step: one that neither faults nor meets a row without meaning. -/
namespace Sys2Proof.Machine
open Sys2Proof

/-- The outcome is a next state. -/
def isNext : Host.Outcome State Fault Refusal → Bool
  | .next _ => true
  | _ => false

/-- A state from which the next step neither faults nor is refused. -/
def State.safe (s : State) : Prop := isNext (step s) = true

end Sys2Proof.Machine
end

