-- ==== Sys2Proof/Tests/Slice0.lean ====
section
/-! SUPPORT. Tests: a word of every row with an encoding, written out field by field, and the words the spec writes out itself; an ill-formed term for each check; single steps; and for every statement with hypotheses the theorem `witness_<statement>`: concrete states and operands that meet the hypotheses of each of its clauses. -/
open Sys2Proof Sys2Proof.Machine Sys2Proof.Claims
set_option maxRecDepth 100000
set_option exponentiation.threshold 4096
set_option Elab.async false
namespace Sys2Proof.Tests
/-- The kernel decides p. -/
theorem yes {p : Prop} (h : p := by decide +kernel) : p := h
/-- A context at its reset values. -/
def x0 : Ctx := Ctx.start 0 0 false 0x1000 0x2000 0 0 0 0
/-- Processor p of slot 0 of core 0 issues in context x; the rest of the core is k. -/
def st (p : Proc) (k : Core) (x : Ctx) : State := { State.reset with cur := ⟨0, 0, p⟩, cores := [(0, { k with ctxs := [(0, x)] })] }
/-- The context with these s registers, and with these e registers. -/
def regs (l : List (Nat × Word)) : Ctx := { x0 with ap := { x0.ap with s := l } }
def eregs (l : List (Nat × Word)) : Ctx := { x0 with ep := { x0.ep with e := l } }
/-- The guard of p0 or q0. -/
def g0 : Guard := ⟨false, 0⟩
def k0 : Core := Core.reset
theorem at_st (p : Proc) (k : Core) (x : Ctx) : At (st p k x) 0 0 p x := ⟨rfl, rfl⟩
theorem issues_st (k : Core) (x : Ctx) (g : Guard) (l : List (BitVec 6)) (hg : x.ap.holds g = true) (hp : x.ap.pend = []) : Issues (st .ap k x) 0 0 x g l :=
  ⟨at_st _ _ _, hg, fun r _ h => by rw [hp] at h; cases h⟩
/-- A launch record with these fields: first byte, bytes, value (R42). -/
def rcd (l : List (Nat × Nat × Nat)) : BitVec 1024 := BitVec.ofNat 1024 (l.foldl (fun v q => setFld v (8 * q.1) (8 * q.2.1) q.2.2) 0)
/-- A placed launch of core 0 with id 0 and this record. -/
def lau (r : BitVec 1024) : Launch :=
  { lid := 0, rcd := r, queue := 0, fn := ⟨.west, 0⟩, pasid := 1, priv := false, producers := [], accepted := 0, phase := .placed, bad := none, everPlaced := true,
    triggered := false, blocking := false, kept := [], incoming := false, passedSince := none, holdWant := none, holdOver := false, order := 0, cores := [0], cores1 := [], bars := [], barRel := [], trigRel := [], trig := [], tasks := [],
    recorded := false, status := 0, sched := [], ss := 0, ssStart := 0, ssSent := [], xfers := [], rots := [], rotNum := [], rotating := [], saved := [], savedCopies := [], savedPoison := [], retained := false,
    cmpWait := [], divRows := [] }
/-- One core, one context, and its launch. -/
def stl (p : Proc) (k : Core) (x : Ctx) (l : Launch) : State := { st p k x with launches := [l] }
theorem issues_stl (k : Core) (x : Ctx) (l : Launch) (g : Guard) (r : List (BitVec 6)) (hg : x.ap.holds g = true) (hp : x.ap.pend = []) : Issues (stl .ap k x l) 0 0 x g r :=
  ⟨⟨rfl, rfl⟩, hg, fun r _ h => by rw [hp] at h; cases h⟩
theorem issuesEp_stl (k : Core) (x : Ctx) (l : Launch) (g : Guard) (hg : x.ep.holds g = true) : IssuesEp (stl .ep k x l) 0 0 x g := ⟨⟨rfl, rfl⟩, hg⟩
/-- A launch of sixteen tokens on one core with one context. -/
def l16 : Launch := lau (rcd [(32, 2, 1), (37, 1, 1), (43, 1, 16)])
theorem allotted_of {s : State} {x : Ctx} (h : s.tokensOf x = 16) (l : List (BitVec 4)) : Allotted s x l := fun t _ => by rw [h]; exact t.isLt
/-- A gigabyte of memory, readable and writable, mapped one to one for address space 1 in the core's TLB (R109, R114). -/
def tlb1 : TlbE := { pasid := 1, glob := false, va := 0, size := 0x40000000, leaf := 0x307, host := false }
def kM : Core := { k0 with tlb := [tlb1] }
/-- The same machine with every stack trained. -/
def hbm (s : State) : State := { s with west := { s.west with boot := { s.west.boot with hbm := 0xFF } }, east := { s.east with boot := { s.east.boot with hbm := 0xFF } } }
/-- Tokens: signals 3, awaits 4 and 15; none. -/
def tk1 : Tok := ⟨some 3, ⟨some 4, none, some 15⟩⟩
def tk0 : Tok := ⟨none, ⟨none, none, none⟩⟩
theorem room_of {s c q} (h : ((s.core c).queue q).length < match q with | .stream => 32 | .ch _ => 16 | .matrix => 32 | .prism => 8 | .proofer => 16) : Room s c q := h
theorem ok_of {ε α : Type} {e : Except ε α} {v : α} (h : e.toOption = some v) : e = .ok v := by cases e <;> simp_all [Except.toOption]
theorem pairE_of {ε α : Type} {p : State × Except ε α} {s : State} {e : ε} (h : p.1 = s) (k : (match p.2 with | .ok _ => none | .error e => some e) = some e) : p = (s, .error e) := by
  obtain ⟨a, b⟩ := p; cases b <;> simp_all
/-- The storage a launch holds on a core. -/
def alV : Allot := ⟨0, [0], [2, 3], [2, 5], [0, 1], true, true, [7]⟩
/-- An open stream of context 0: its ring is rows 0 to 3 of bank 2, its head at 3, two rows full. -/
def strm : Stream :=
  { owner := 0, lid := 0, cmd := 1, desc := 0, map := 0, saved := false, bank := 2, first := 0, depth := 4, near := .ep 0, pos := 0, mark := none, headPos := 7, head := 3, tail := 1,
    count := 2, held := 1, repl := 1, eosw := false, pend := false, sig := none, done := false, flt := false, fcause := 0, fclass := 0, faddr := 0, paused := none, forkTo := none,
    forkOn := false, forkEos := false, fhw := 0, endPos := none, effects := [], seos := none, transit := [], gap := 0, divert := false, objOk := [], sid := 0, dnar := 0xFFFF, asked := none, out := none, sent := false, skips := [], dur := false, peerEnd := false, owe := none,
    run := [], runOpen := false }
/-- A translation answers state s and value v. -/
def gives {ε α : Type} [DecidableEq α] (p : State × Except ε α) (s : State) (v : α) : Bool := match p with | (t, .ok u) => decide (t = s) && decide (u = v) | _ => false
theorem pair_of {ε α : Type} [DecidableEq α] {p : State × Except ε α} {s : State} {v : α} (h : gives p s v = true) : p = (s, .ok v) := by
  obtain ⟨t, u⟩ := p; cases u <;> simp_all [gives]
namespace Encodings
/-! A word of every row that has an encoding, written out field by field from the layouts of R201 to R215 and of each record. -/
/-- The guard of these words: GN 1, GP 5. -/
def g5 : Guard := ⟨true, 5⟩
/-- One-word rows: opcode, the other fields by lowest bit, and the instruction; the decoder reads it, and the encoder writes it. -/
def reads (p : Proc) (l : List (Nat × List (Nat × Nat) × Instr)) : Bool :=
  l.all fun q => let w := wd ((56, q.1) :: (55, 1) :: (51, 5) :: q.2.1)
    decide ((decodeFor p [w]).toOption = some q.2.2) && decide (encode q.2.2 = [w])
/-- Two-word rows, with the tokens of R213: SIG 3, W0 4, W2 15. -/
def readsD (p : Proc) (l : List (Nat × List (Nat × Nat) × List (Nat × Nat) × Instr)) : Bool :=
  l.all fun q => let ws := [wd ((56, q.1) :: (55, 1) :: (51, 5) :: q.2.1), wd ([(60, 3), (59, 1), (55, 4), (54, 1), (45, 15), (44, 1)] ++ q.2.2.1)]
    decide ((decodeFor p ws).toOption = some q.2.2.2) && decide (encode q.2.2.2 = ws)
theorem decode_ap_integer : reads .ap [
  (0x01, [(45, 3), (39, 1), (36, 2), (26, 2)], .add ⟨g5, .h, 3, 1, .reg 2⟩), (0x02, [(45, 63), (39, 40), (35, 1), (0, 0xFFFFFFFF)], .sub ⟨g5, .d, 63, 40, .imm 0xFFFFFFFF⟩),
  (0x03, [(45, 3), (39, 1), (36, 1), (26, 2)], .mul ⟨g5, .w, 3, 1, .reg 2⟩), (0x04, [(45, 3), (39, 1), (32, 1), (26, 2)], .mulh ⟨g5, .d, true, 3, 1, .reg 2⟩),
  (0x05, [(45, 3), (39, 1), (26, 2)], .div ⟨g5, .d, false, 3, 1, .reg 2⟩), (0x06, [(45, 3), (39, 1), (32, 1), (35, 1), (0, 7)], .rem ⟨g5, .d, true, 3, 1, .imm 7⟩),
  (0x07, [(45, 3), (39, 1), (36, 3), (26, 2)], .and ⟨g5, .b, 3, 1, .reg 2⟩), (0x08, [(45, 3), (39, 1), (26, 2)], .or ⟨g5, .d, 3, 1, .reg 2⟩), (0x09, [(45, 3), (39, 1), (26, 2)], .xor ⟨g5, .d, 3, 1, .reg 2⟩),
  (0x0A, [(45, 3), (39, 1), (26, 2)], .shl ⟨g5, .d, 3, 1, .reg 2⟩), (0x0B, [(45, 3), (39, 1), (26, 2)], .shr ⟨g5, .d, 3, 1, .reg 2⟩), (0x0C, [(45, 3), (39, 1), (26, 2)], .sar ⟨g5, .d, 3, 1, .reg 2⟩),
  (0x0D, [(45, 3), (39, 1), (32, 1), (26, 2)], .min ⟨g5, .d, true, 3, 1, .reg 2⟩), (0x0E, [(45, 3), (39, 1), (26, 2)], .max ⟨g5, .d, false, 3, 1, .reg 2⟩),
  (0x0F, [(45, 3), (39, 1), (36, 1), (26, 2), (20, 9)], .sel ⟨g5, .w, 3, 1, 2, 9⟩), (0x10, [(45, 3), (39, 1), (36, 2)], .clz ⟨g5, .h, 3, 1⟩), (0x11, [(45, 3), (39, 1)], .popc ⟨g5, .d, 3, 1⟩),
  (0x12, [(45, 3), (39, 1), (32, 1), (35, 1), (0, 0x805)], .bfx ⟨g5, true, 3, 1, .imm 0x805⟩), (0x13, [(45, 3), (39, 1), (26, 2), (20, 9)], .bfi ⟨g5, 3, 1, 2, 9⟩),
  (0x14, [(45, 5), (35, 1), (0, 7)], .li ⟨g5, 5, 7⟩), (0x14, [(45, 5), (35, 1), (32, 1), (0, 7)], .lih ⟨g5, 5, 7⟩), (0x15, [(45, 3), (39, 1), (26, 2), (20, 9)], .madd ⟨g5, .d, 3, 1, 2, 9⟩),
  (0x16, [(45, 5), (35, 1), (0, 0xFFFFFFF8)], .addpc ⟨g5, 5, 0xFFFFFFF8⟩), (0x18, [(47, 3), (43, 4), (41, 2), (38, 3), (37, 1), (30, 9), (24, 11)], .cmp ⟨g5, 3, 4, .or, .ge, true, 9, .reg 11⟩),
  (0x19, [(47, 3), (43, 4), (39, 7), (36, 3)], .plog ⟨g5, 3, 4, 7, .andn⟩), (0x1A, [(45, 8)], .pmovGet ⟨g5, 8⟩), (0x1A, [(32, 1), (39, 8)], .pmovSet ⟨g5, 8⟩)] = true := by decide +kernel
theorem decode_ap_control : reads .ap [
  (0x20, [(45, 5), (39, 6), (0, 0xFFFFFFF8)], .br ⟨g5, 5, 6, 0xFFFFFFF8⟩), (0x20, [(45, 62), (0, 64)], .call ⟨g5, 64⟩), (0x20, [(39, 62)], .ret ⟨g5⟩),
  (0x21, [(45, 3), (32, 3), (16, 12), (8, 2)], .loop ⟨g5, 3, true, true, 12, 2⟩), (0x22, [], .lexit ⟨g5⟩), (0x22, [(32, 1)], .lexitPop ⟨g5⟩),
  (0x24, [(36, 1), (16, 3), (15, 1), (11, 9), (10, 1), (6, 2), (5, 1)], .waitt ⟨g5, ⟨some 3, some 9, some 2⟩⟩), (0x24, [(45, 1), (39, 2), (36, 2), (30, 3), (24, 4)], .waita ⟨g5, 1, 2, 3, 4⟩),
  (0x24, [(39, 2), (36, 3), (20, 15)], .waitb ⟨g5, 15, 2⟩), (0x24, [(36, 4)], .waitl ⟨g5⟩), (0x24, [(36, 5)], .waitc ⟨g5⟩), (0x24, [(36, 6)], .ssbar ⟨g5⟩),
  (0x25, [], .yield ⟨g5⟩), (0x26, [], .exit ⟨g5⟩), (0x27, [(35, 1), (0, 0x12345678)], .trap ⟨g5, 0x12345678⟩), (0x28, [], .rft ⟨g5⟩), (0x28, [(32, 1)], .rftNext ⟨g5⟩),
  (0x29, [(45, 9), (35, 1), (0, 0x030)], .csrr ⟨g5, 9, 0x030⟩), (0x2A, [(45, 9), (39, 4), (35, 1), (0, 0x030)], .csrw ⟨g5, 9, 4, 0x030⟩),
  (0x2A, [(45, 9), (39, 4), (35, 1), (32, 1), (0, 0x048)], .csrwSet ⟨g5, 9, 4, 0x048⟩), (0x2A, [(45, 9), (39, 4), (35, 1), (32, 2), (0, 0x013)], .csrwClr ⟨g5, 9, 4, 0x013⟩),
  (0x2B, [(39, 4)], .tlbi ⟨g5, 4⟩), (0x2B, [(32, 1)], .tlbiAs ⟨g5⟩), (0x2B, [(32, 2)], .tlbiAll ⟨g5⟩), (0x2D, [(45, 4)], .time ⟨g5, 4⟩)] = true := by decide +kernel
theorem decode_ap_memory_and_gang : reads .ap [
  (0x40, [(45, 2), (39, 9), (36, 1), (35, 1), (32, 1), (28, 3), (0, 16)], .ld ⟨g5, 2, 9, .w, .imm 16, true, .global, 3⟩), (0x40, [(45, 2), (39, 9), (32, 6), (22, 5), (20, 3)], .ld ⟨g5, 2, 9, .d, .idx 5 3, false, .fe, 0⟩),
  (0x41, [(45, 2), (39, 9), (36, 3), (32, 2), (22, 5), (20, 2)], .st ⟨g5, 2, 9, .b, .idx 5 2, .loc, 0⟩),
  (0x42, [(45, 2), (39, 9), (36, 1), (32, 2), (28, 3), (22, 4), (16, 6), (12, 9), (10, 3)], .amo ⟨g5, 2, 9, true, .gang, 3, 4, 6, .cas, .ar⟩),
  (0x42, [(45, 2), (39, 9), (32, 1), (22, 4), (12, 1), (9, 1), (8, 1)], .amoSc ⟨g5, 2, 9, false, .core, 0, 4, 0, .min, .rlx⟩ true), (0x42, [(45, 2), (39, 9), (32, 1), (22, 4), (12, 1), (9, 1)], .amoHold ⟨g5, 2, 9, false, .core, 0, 4, 0, .min, .rlx⟩),
  (0x42, [(45, 2), (39, 9), (32, 1), (22, 4), (12, 1), (8, 1), (7, 1)], .amoRetry ⟨g5, 2, 9, false, .core, 0, 4, 0, .min, .rlx⟩ true false),
  (0x43, [(32, 3), (16, 0x8001), (14, 2)], .fence ⟨g5, .die, 0x8001, .rel⟩), (0x44, [(16, 5)], .dfence ⟨g5, 5⟩), (0x45, [(16, 5)], .dsync ⟨g5, 5⟩), (0x46, [(45, 2), (39, 9)], .wake ⟨g5, 2, 9⟩),
  (0x50, [(45, 2), (35, 1), (0, 15)], .bara ⟨g5, 2, 15⟩), (0x52, [], .trig ⟨g5⟩), (0x53, [(45, 2), (39, 9), (35, 1), (0, 63)], .launch ⟨g5, 2, 9, 63⟩), (0x54, [(39, 9)], .spawn ⟨g5, 9⟩),
  (0x55, [(39, 9), (32, 3), (26, 5), (20, 6)], .suspend ⟨g5, .b, 9, 5, 6⟩), (0x57, [(35, 1), (0, 7)], .notify ⟨g5, 7⟩), (0x58, [(39, 9)], .sende ⟨g5, .reg 9⟩), (0x58, [(35, 1), (0, 9)], .sende ⟨g5, .imm 9⟩),
  (0x59, [(45, 2)], .recve ⟨g5, 2⟩), (0x5A, [(45, 2), (35, 1), (0, 31)], .sinfo ⟨g5, 2, 31⟩), (0x5B, [(45, 2), (39, 9), (26, 4)], .ftest ⟨g5, 2, 9, 4⟩), (0x5B, [(45, 2), (39, 9), (26, 4), (32, 1)], .ftestRef ⟨g5, 2, 9, 4⟩),
  (0x5C, [(45, 2), (39, 9)], .cmapGet ⟨g5, 2, 9⟩), (0x5C, [(45, 2), (39, 9), (26, 4), (32, 1)], .cmapSet ⟨g5, 2, 9, 4⟩), (0x5C, [(45, 2), (39, 9), (32, 2)], .cmapRet ⟨g5, 2, 9⟩)] = true := by decide +kernel
theorem decode_ap_commands : readsD .ap [
  (0x70, [(46, 9), (45, 1), (39, 3), (34, 2)], [], .sopen ⟨g5, 9, true, 3, false, 2, tk1⟩), (0x71, [(46, 9)], [], .sclose ⟨g5, 9, tk1⟩), (0x72, [(46, 9), (18, 0x1234), (13, 30)], [], .sfork ⟨g5, 9, 0x1234, 30, tk1⟩),
  (0x73, [(46, 9)], [], .smark ⟨g5, 9, tk1⟩), (0x74, [(46, 9)], [], .srewind ⟨g5, 9, tk1⟩), (0x75, [(46, 9), (45, 1), (39, 3)], [], .ssave ⟨g5, 9, true, 3, tk1⟩),
  (0x76, [(46, 9), (39, 3), (37, 1), (34, 7), (4, 1)], [(39, 17), (29, 513)], .srest ⟨g5, 9, false, 3, true, 7, some (17, 513), tk1⟩), (0x77, [(46, 9), (5, 0x81)], [], .seos ⟨g5, 9, 0x81, tk1⟩),
  (0x78, [(45, 1), (39, 2), (33, 3), (31, 2), (22, 5), (20, 1), (18, 3), (17, 1)], [], .cpy ⟨g5, 1, 2, 3, 2, 5, .compress, 3, true, false, false, tk1⟩),
  (0x78, [(45, 1), (39, 2), (33, 3), (31, 2), (30, 1), (26, 9), (22, 5), (16, 1), (15, 1)], [], .cpyNb ⟨g5, 1, 2, 3, 2, 5, .plain, 0, false, true, true, tk1⟩ 9),
  (0x79, [(31, 3)], [], .cpdrain ⟨g5, 3, tk1⟩), (0x7A, [(39, 5), (38, 1)], [], .gload ⟨g5, 5, true, tk1⟩), (0x7B, [(38, 1)], [], .grun ⟨g5, true, tk1⟩), (0x7C, [], [], .ghalt ⟨g5, tk1⟩),
  (0x7D, [(39, 5), (33, 6), (19, 255)], [], .rot ⟨g5, 5, 6, 255, tk1⟩), (0x7E, [], [], .tsig ⟨g5, tk1⟩)] = true := by decide +kernel
/-- VD 17, VA 20, VB 33, T 8. -/
def evF : EV := ⟨g5, 17, 20, 33, 8, false, false, 0, false, 0⟩
theorem decode_ep_vector : reads .ep [
  (0x80, [(40, 17), (29, 20), (18, 33), (14, 2), (13, 1), (9, 5), (8, 1)], .vadd { evF with t := 2, na := true, rm := 5, sat := true }), (0x81, [(40, 17), (29, 20), (18, 33), (14, 8), (12, 1)], .vsub { evF with nb := true }),
  (0x82, [(40, 1551), (29, 1543), (18, 1584), (14, 8)], .vmul { evF with vd := 1551, va := 1543, vb := 1584 }), (0x83, [(40, 17), (29, 20), (18, 33), (14, 8), (0, 1)], .vfma { evF with f := 1 }),
  (0x84, [(40, 17), (29, 20), (18, 33), (14, 8)], .vmin evF), (0x85, [(40, 17), (29, 20), (18, 33), (14, 8)], .vmax evF), (0x86, [(40, 17), (29, 20), (14, 8), (8, 1)], .vabs { evF with vb := 0, sat := true }),
  (0x87, [(40, 17), (29, 20), (18, 33), (14, 8)], .vclamp evF), (0x88, [(40, 17), (29, 20), (18, 33), (14, 14)], .vand { evF with t := 14 }), (0x89, [(40, 17), (29, 20), (18, 33), (14, 8)], .vor evF),
  (0x8A, [(40, 17), (29, 20), (18, 33), (14, 8)], .vxor evF), (0x8B, [(40, 17), (29, 20), (18, 33), (14, 13), (8, 1)], .vshl { evF with t := 13, sat := true }), (0x8C, [(40, 17), (29, 20), (18, 33), (14, 8)], .vshr evF),
  (0x8D, [(40, 17), (29, 20), (18, 33), (14, 8), (0, 15)], .vsel { evF with f := 15 }), (0x8E, [(40, 17), (29, 20), (14, 8), (13, 1)], .vmov { evF with vb := 0, na := true }),
  (0x8F, [(40, 0x32), (29, 20), (18, 33), (14, 0), (9, 7), (0, 2)], .vcmp { evF with vd := 0x32, t := 0, rm := 7, f := 2 }), (0x90, [(40, 17), (29, 20), (14, 4), (9, 3), (0, 0x12)], .vcvt { evF with vb := 0, t := 4, rm := 3, f := 0x12 }),
  (0x91, [(40, 17), (29, 20), (18, 33), (14, 1), (0, 5)], .vcvtef { evF with t := 1, f := 5 }), (0x92, [(40, 17), (29, 20), (14, 2), (9, 4), (0, 7)], .vsf { evF with vb := 0, t := 2, rm := 4, f := 7 }),
  (0x93, [(40, 17), (29, 20), (14, 11), (0, 13)], .vred { evF with vb := 0, t := 11, f := 13 }), (0x94, [(40, 17), (29, 20), (18, 33), (14, 3)], .vperm { evF with t := 3 }),
  (0x95, [(40, 17), (29, 20), (14, 10), (0, 255)], .vbcast { evF with vb := 0, t := 10, f := 255 }), (0x96, [(40, 17), (14, 8), (0, 1)], .viota { evF with va := 0, vb := 0, f := 1 }),
  (0x97, [(40, 15), (29, 20), (14, 8)], .vmaskNz { evF with vd := 15, vb := 0 }), (0x97, [(40, 15), (29, 3), (18, 4), (14, 8), (0, 5)], .vmaskBool { evF with vd := 15, va := 3, vb := 4, f := 5 }),
  (0x97, [(40, 15), (29, 3), (14, 8), (0, 6)], .vmaskNot { evF with vd := 15, va := 3, vb := 0, f := 6 }), (0x97, [(40, 15), (29, 20), (14, 8), (0, 7)], .vmaskFromrow { evF with vd := 15, vb := 0, f := 7 }),
  (0x98, [(40, 31), (29, 3), (14, 8)], .vmcnt { evF with vd := 31, va := 3, vb := 0 }), (0x98, [(40, 31), (29, 3), (14, 8), (0, 1)], .vmcntFirst { evF with vd := 31, va := 3, vb := 0, f := 1 })] = true := by decide +kernel
theorem decode_vmask_torow : decodeFor .ep [wd [(56, 0x97), (40, 17), (29, 3), (14, 8), (0, 8)]] = .ok (.vmaskTorow ⟨g0, 17, 3, 0, 8, false, false, 0, false, 8⟩) := ok_of (by decide +kernel)
theorem decode_ep_scalar : reads .ep [
  (0xC0, [(45, 1), (39, 2), (26, 3)], .eadd ⟨g5, .d, 1, 2, .reg 3⟩), (0xC1, [(45, 31), (39, 30), (36, 3), (35, 1), (0, 0x80000000)], .esub ⟨g5, .b, 31, 30, .imm 0x80000000⟩), (0xC2, [(45, 1), (39, 2), (26, 3)], .emul ⟨g5, .d, 1, 2, .reg 3⟩),
  (0xC3, [(45, 1), (39, 2), (26, 3)], .eand ⟨g5, .d, 1, 2, .reg 3⟩), (0xC4, [(45, 1), (39, 2), (26, 3)], .eor ⟨g5, .d, 1, 2, .reg 3⟩), (0xC5, [(45, 1), (39, 2), (26, 3)], .exor ⟨g5, .d, 1, 2, .reg 3⟩),
  (0xC6, [(45, 1), (39, 2), (26, 3)], .eshl ⟨g5, .d, 1, 2, .reg 3⟩), (0xC7, [(45, 1), (39, 2), (32, 1), (26, 3)], .eshr ⟨g5, .d, true, 1, 2, .reg 3⟩), (0xC8, [(45, 1), (35, 1), (0, 9)], .eli ⟨g5, 1, 9⟩),
  (0xC8, [(45, 1), (35, 1), (32, 1), (0, 9)], .elih ⟨g5, 1, 9⟩), (0xC9, [(47, 3), (43, 4), (41, 1), (38, 7), (36, 1), (30, 9), (0, 0x8000)], .ecmp ⟨g5, 3, 4, .and, .tnz, false, 9, .imm 0x8000⟩),
  (0xCA, [(45, 1), (39, 2), (0, 8)], .ebr ⟨g5, 1, 2, 8⟩), (0xCB, [(45, 1), (16, 0xFFFF)], .eloop ⟨g5, 1, 0xFFFF⟩), (0xCC, [(36, 1), (11, 9), (10, 1)], .ewait ⟨g5, ⟨none, some 9, none⟩⟩), (0xCD, [(35, 1), (0, 15)], .enotify ⟨g5, 15⟩),
  (0xCE, [(45, 1), (34, 1535), (30, 9), (22, 127)], .extr ⟨g5, 1, 1535, 9, 127⟩), (0xCF, [(45, 1), (34, 5), (30, 10), (22, 255)], .eins ⟨g5, 1, 5, 10, 255⟩), (0xD0, [(45, 1), (35, 1), (0, 0x082)], .ecsrr ⟨g5, 1, 0x082⟩),
  (0xD1, [(45, 1), (39, 2), (35, 1), (0, 0x077)], .ecsrw ⟨g5, 1, 2, 0x077⟩), (0xD1, [(45, 1), (39, 2), (35, 1), (32, 1), (0, 0x013)], .ecsrwSet ⟨g5, 1, 2, 0x013⟩), (0xD1, [(45, 1), (39, 2), (35, 1), (32, 2), (0, 0x030)], .ecsrwClr ⟨g5, 1, 2, 0x030⟩),
  (0xD2, [], .eexit ⟨g5⟩), (0xD3, [(45, 1)], .epmovGet ⟨g5, 1⟩), (0xD3, [(39, 1), (32, 1)], .epmovSet ⟨g5, 1⟩), (0xD3, [(45, 1), (35, 1), (32, 2), (0, 15), (4, 3)], .epmovMget ⟨g5, 1, 15, 3⟩),
  (0xD3, [(39, 1), (35, 1), (32, 3), (0, 15), (4, 2)], .epmovMset ⟨g5, 1, 15, 2⟩), (0xD4, [], .segb ⟨g5⟩), (0xD5, [(45, 1), (39, 2)], .sege ⟨g5, 1, 2⟩), (0xD6, [], .tstart ⟨g5⟩), (0xD7, [(45, 1)], .erecv ⟨g5, 1⟩),
  (0xD8, [(39, 2)], .esend ⟨g5, .reg 2⟩), (0xD8, [(35, 1), (0, 2)], .esend ⟨g5, .imm 2⟩), (0xD9, [(45, 1), (35, 1), (0, 15)], .eport ⟨g5, 1, 15⟩), (0xDA, [(35, 1), (0, 7), (8, 0x81)], .eeos ⟨g5, 7, 0x81⟩)] = true := by decide +kernel
theorem decode_ep_records : readsD .ep [
  (0xE2, [(27, 0x800001)], [], .mzero ⟨g5, 0x800001, tk1⟩), (0xE3, [(46, 23), (41, 22), (40, 1), (29, 1535), (18, 7)], [], .mscacc ⟨g5, 23, 22, true, 1535, 7, tk1⟩), (0xE4, [(35, 0x8001)], [], .oclaim ⟨g5, 0x8001, tk1⟩),
  (0xE5, [(35, 0x8001)], [], .orel ⟨g5, 0x8001, tk1⟩), (0xE6, [(47, 15), (43, 7), (40, 5), (37, 6), (35, 3), (23, 1584)], [], .ofill ⟨g5, 15, 7, 5, 6, 3, 1584, tk1⟩), (0xE6, [(47, 15), (40, 5), (37, 6), (34, 1)], [], .ofillMeta ⟨g5, 15, 5, 6, tk1⟩),
  (0xE7, [(40, 1535), (35, 31), (27, 255)], [], .accld ⟨g5, 1535, 31, 255, tk1⟩), (0xE8, [(40, 20), (35, 8), (27, 1)], [], .accst ⟨g5, 20, 8, 1, tk1⟩), (0xE9, [(45, 63), (39, 9), (34, 6), (33, 1)], [], .mpert ⟨g5, 63, 9, 6, true, tk1⟩),
  (0xEA, [(46, 30), (41, 29)], [], .sqcfg ⟨g5, 30, 29, tk1⟩), (0xEB, [(46, 7)], [], .sqcombStage ⟨g5, 7, tk1⟩), (0xEB, [(49, 1), (46, 2)], [], .sqcombTake ⟨g5, 2, tk1⟩), (0xEC, [], [], .sqerr ⟨g5, none, tk1⟩),
  (0xEC, [(50, 1), (45, 30)], [], .sqerr ⟨g5, some 30, tk1⟩), (0xED, [(42, 319), (37, 30)], [], .sqdec ⟨g5, 319, 30, tk1⟩), (0xEE, [(46, 30)], [], .sqnext ⟨g5, 30, tk1⟩), (0xEF, [], [], .etsig ⟨g5, tk1⟩)] = true := by decide +kernel
/-- Word 1 of these records: SIG 3, W0 4, W2 15. -/
def w1 : Word := wd [(60, 3), (59, 1), (55, 4), (54, 1), (45, 15), (44, 1)]
/-- An `MMA` with every field of words 0, 2 and 3 in use. -/
def mmaA : MmaF := ⟨g5, 23, 14, 13, 12, 11, 6, 5, 2, true, true, ⟨1, 2, 3, 0xFFFF⟩, ⟨1, 2, 3, 15⟩, ⟨4, 5, 6, 8⟩, ⟨7, 0, 9, 10⟩, tk1⟩
def mmaW (o : Nat) (w4 : Word) : List Word :=
  [wd [(56, o), (55, 1), (51, 5), (46, 23), (42, 14), (38, 13), (34, 12), (30, 11), (27, 6), (24, 5), (22, 2), (21, 1), (20, 1)], w1, wd [(0, 1), (16, 2), (32, 3), (48, 0xFFFF)],
   wd [(0, 1), (4, 2), (8, 3), (12, 15), (16, 4), (20, 5), (24, 6), (28, 8), (32, 7), (36, 0), (40, 9), (44, 10)], w4, 0, 0, 0]
theorem decode_mma : decodeFor .ep (mmaW 0xE0 0) = .ok (.mma mmaA) := ok_of (by decide +kernel)
theorem decode_smma : decodeFor .ep (mmaW 0xE1 (wd [(0, 0x800000001), (48, 13)])) = .ok (.smma ⟨mmaA, 0x800000001, 13⟩) := ok_of (by decide +kernel)
theorem decode_vnest : decodeFor .ep [wd [(56, 0x9F), (55, 1), (51, 5)], w1, wd [(56, 0x82), (51, 3), (40, 1), (29, 2), (18, 3), (14, 8)], wd [(0, 2), (48, 3)], wd [(0, 0xFFFF), (16, 4)], wd [(32, 5)], wd [(48, 6)], 0] =
    .ok (.vnest ⟨g5, tk1, 0x82, ⟨⟨false, 3⟩, 1, 2, 3, 8, false, false, 0, false, 0⟩, ⟨2, 0, 0, 3⟩, ⟨0xFFFF, 4, 0, 0⟩, ⟨0, 0, 5, 0⟩, ⟨0, 0, 0, 6⟩⟩) := ok_of (by decide +kernel)
/-! Words that the spec itself writes out. -/
/-- R219's example: `(p3) LD.D.c2 s7, [s5+s6*4]`. -/
theorem decode_example_ld : (decodeFor .ap [0x4018E28021A00000]).toOption = some (.ld ⟨⟨false, 3⟩, 7, 5, .d, .idx 6 2, false, .global, 2⟩) := by decide +kernel
/-- `(!m2) VADD.RTZ.SAT.F32 v100, si1, -e3`. -/
theorem decode_example_vadd : (decodeFor .ep [0x809064C0384C1300]).toOption = some (.vadd ⟨⟨true, 2⟩, 100, 1537, 1555, 0, false, true, 1, true, 0⟩) := by decide +kernel
/-- `(p2) CPY.NB.P3.c1 ch1, [L:s5], [s4], s6, p7 sig=t3`. -/
theorem decode_example_cpy : (decodeFor .ap [0x7810828CDC4D0000, 0x3800000000000000]).toOption = some (.cpyNb ⟨⟨false, 2⟩, 4, 5, 6, 1, 1, .plain, 3, false, true, false, ⟨some 3, ⟨none, none, none⟩⟩⟩ 7) := by decide +kernel
/-- `(m1) VCMP.LT.F16 m2, m3, v10, -v11`; the loop of R245's example; `CSRW TVEC, s9`; `(!p1) CMAP.SET s9, s8, s5`. -/
theorem decode_example_words : (decodeFor .ep [0x8F083201402C5400]).toOption = some (.vcmp ⟨⟨false, 1⟩, 0x32, 10, 11, 1, false, true, 2, false, 0⟩) ∧
    (decodeFor .ap [0x2100600300030200]).toOption = some (.loop ⟨g0, 3, true, true, 3, 2⟩) ∧ (decodeFor .ap [0x2A00048800000030]).toOption = some (.csrw ⟨g0, 0, 9, 0x030⟩) ∧
    (decodeFor .ap [0x5C89240114000000]).toOption = some (.cmapSet ⟨⟨true, 1⟩, 9, 8, 5⟩) := by decide +kernel
/-- `VSUB.I32 so0, si0, v5`; `VADD.F32 so1, -si1, -si1`; `MPERT.DET 5, 9, e6`; `SQCOMB.TAKE si2`. -/
theorem decode_example_ep : (decodeFor .ep [0x810608C000160000]).toOption = some (.vsub ⟨g0, 1544, 1536, 5, 8, false, false, 0, false, 0⟩) ∧
    (decodeFor .ep [0x800609C038043000]).toOption = some (.vadd ⟨g0, 1545, 1537, 1537, 0, true, true, 0, false, 0⟩) ∧
    (decodeFor .ep [0xE900A49A00000000, 0]).toOption = some (.mpert ⟨g0, 5, 9, 6, true, tk0⟩) ∧ (decodeFor .ep [0xEB02800000000000, 0]).toOption = some (.sqcombTake ⟨g0, 2, tk0⟩) := by decide +kernel
/-- `NOP` on both processors. -/
theorem decode_nop : (decodeFor .ap [0]).toOption = some .nop ∧ (decodeFor .ep [0]).toOption = some .nop ∧ encode .nop = [0] := by decide +kernel
/-- The two operations of the bundle example of the Prism chapter. -/
theorem decode_example_bundle : gOpOf 0x8000110298400000 = some (.vec 0x80 ⟨g0, 17, 20, 1552, 0, false, false, 0, false, 0⟩) ∧ gOpOf 0x8500140278C00000 = some (.vec 0x85 ⟨g0, 20, 19, 1584, 0, false, false, 0, false, 0⟩) := by decide +kernel
/-- Words that R218 refuses: a field that is not used, a reserved width, an offset that is no multiple of 8, a loop of no words, an opcode of the other processor, an unassigned one, a `VNEST` of a word that is no vector instruction. -/
theorem decode_refuses : [decodeFor .ap [wd [(56, 0x26), (0, 1)]], decodeFor .ap [wd [(56, 0x01), (36, 4)]], decodeFor .ap [wd [(56, 0x20), (0, 4)]], decodeFor .ap [wd [(56, 0x21), (45, 3)]], decodeFor .ap [wd [(56, 0x80)]],
    decodeFor .ep [wd [(56, 0xF0)]], decodeFor .ep [wd [(56, 0x9F)], 0, wd [(56, 0xC0)], 0, 0, 0, 0, 0]].all (fun r => r.toOption.isNone) = true := by decide +kernel
end Encodings

namespace WellFormed
/-! Each check of `Instr.wf` refuses an ill-formed term. -/
def ev0 : EV := ⟨g0, 1, 2, 3, 8, false, false, 0, false, 0⟩
theorem wf_refuses_vector : [Instr.vadd { ev0 with t := 7 }, .vsub { ev0 with rm := 1 }, .vmul { ev0 with f := 1 }, .vfma { ev0 with vd := 1544 }, .vmin { ev0 with sat := true }, .vmax { ev0 with va := 1544 }, .vabs ev0,
    .vclamp { ev0 with vd := 1544 }, .vand { ev0 with t := 5 }, .vor { ev0 with rm := 1 }, .vxor { ev0 with vb := 1585 }, .vshl { ev0 with t := 0 }, .vshr { ev0 with sat := true }, .vsel { ev0 with f := 16 }, .vmov ev0,
    .vcmp { ev0 with rm := 6 }, .vcvt { ev0 with t := 15 }, .vcvtef ev0, .vsf { ev0 with vb := 0 }, .vred { ev0 with vb := 0, f := 6 }, .vperm { ev0 with na := true }, .vbcast { ev0 with vb := 0, f := 64 }, .viota ev0,
    .vmaskNz { ev0 with vd := 16, vb := 0 }, .vmaskBool ev0, .vmaskNot { ev0 with vb := 0 }, .vmaskFromrow { ev0 with vb := 0 }, .vmaskTorow { ev0 with vb := 0, f := 8, g := ⟨false, 1⟩ }, .vmcnt { ev0 with vd := 32, vb := 0 },
    .vmcntFirst { ev0 with vb := 0 }, .vnest ⟨g0, tk0, 0x99, ev0, ⟨1, 0, 0, 0⟩, ⟨0, 0, 0, 0⟩, ⟨0, 0, 0, 0⟩, ⟨0, 0, 0, 0⟩⟩, .vnest ⟨g0, tk0, 0x80, { ev0 with vb := 1584 }, ⟨1, 0, 0, 0⟩, ⟨0, 0, 0, 0⟩, ⟨0, 0, 0, 0⟩, ⟨0, 1, 0, 0⟩⟩].all (fun i => !i.wf) = true := by decide +kernel
theorem wf_refuses_scalar : [Instr.plog ⟨g0, 1, 2, 3, .not⟩, .br ⟨g0, 1, 2, 4⟩, .br ⟨g0, 62, 0, 8⟩, .br ⟨g0, 0, 62, 0⟩, .call ⟨g0, 4⟩, .loop ⟨g0, 1, true, false, 5, 9⟩, .loop ⟨g0, 1, false, false, 0, 0⟩, .csrr ⟨g0, 1, 7⟩, .csrw ⟨g0, 1, 2, 0x070⟩,
    .csrwSet ⟨g0, 1, 2, 0xFFF⟩, .csrwClr ⟨g0, 1, 2, 0x014⟩, .amo ⟨g0, 1, 2, false, .core, 0, 3, 1, .add, .rlx⟩, .amoSc ⟨g0, 1, 2, false, .core, 0, 3, 0, .fadd, .rlx⟩ true, .amoHold ⟨g0, 1, 2, false, .core, 0, 3, 1, .min, .rlx⟩,
    .amoRetry ⟨g0, 1, 2, false, .core, 0, 3, 0, .fadd, .rlx⟩ true true, .cpy ⟨g0, 1, 2, 3, 0, 0, .plain, 0, true, false, true, tk0⟩, .cpyNb ⟨g0, 1, 2, 3, 0, 0, .compress, 0, false, true, false, tk0⟩ 1, .ebr ⟨g0, 1, 2, 4⟩, .eloop ⟨g0, 1, 0⟩,
    .extr ⟨g0, 1, 2, 8, 64⟩, .eins ⟨g0, 1, 1536, 8, 0⟩, .ecsrr ⟨g0, 1, 0x010⟩, .ecsrw ⟨g0, 1, 2, 0x012⟩, .ecsrwSet ⟨g0, 1, 2, 0x078⟩, .ecsrwClr ⟨g0, 1, 2, 0x083⟩, .mma ⟨g0, 24, 0, 0, 1, 1, 0, 0, 0, false, false, ⟨1, 1, 1, 1⟩, ⟨0, 0, 0, 0⟩, ⟨0, 0, 0, 0⟩, ⟨0, 0, 0, 0⟩, tk0⟩,
    .smma ⟨⟨g0, 2, 0, 0, 1, 1, 0, 0, 0, false, false, ⟨1, 1, 1, 1⟩, ⟨0, 0, 0, 0⟩, ⟨0, 0, 0, 0⟩, ⟨0, 0, 0, 0⟩, tk0⟩, 0x1000, 0⟩, .mscacc ⟨g0, 24, 0, false, 0, 0, tk0⟩, .ofill ⟨g0, 0, 8, 0, 0, 0, 0, tk0⟩, .ofill ⟨g0, 0, 7, 0, 0, 0, 1536, tk0⟩,
    .accld ⟨g0, 1536, 0, 0, tk0⟩, .accst ⟨g0, 1584, 0, 0, tk0⟩, .sqdec ⟨g0, 320, 1, tk0⟩, .sqdec ⟨g0, 0, 1, tk0⟩].all (fun i => !i.wf) = true := by decide +kernel
end WellFormed

namespace Steps
/-! One step of one instruction; the results are computed by hand from the rules. -/
/-- The s register d after the instruction. -/
def sAfter (i : Instr) (l : List (Nat × Word)) (d : Nat) : Option Word :=
  match exec i (st .ap k0 (regs l)) with | .next t => (t.ctx 0 0).map fun x => x.ap.s' d | _ => none
/-- The e register d after the instruction. -/
def eAfter (i : Instr) (l : List (Nat × Word)) (d : Nat) : Option Word :=
  match exec i (st .ep k0 (eregs l)) with | .next t => (t.ctx 0 0).map fun x => x.ep.e' d | _ => none
theorem step_add_wraps : sAfter (.add ⟨g0, .d, 3, 1, .imm 0xFFFFFFFF⟩) [(1, 0)] 3 = some 0xFFFFFFFFFFFFFFFF := by decide +kernel
theorem step_sub_of_itself : sAfter (.sub ⟨g0, .d, 1, 2, .reg 1⟩) [(1, 5), (2, 3)] 1 = some 0xFFFFFFFFFFFFFFFE := by decide +kernel
theorem step_div_by_zero : sAfter (.div ⟨g0, .d, false, 3, 1, .reg 2⟩) [(1, 5)] 3 = some 0xFFFFFFFFFFFFFFFF := by decide +kernel
theorem step_div_corner : sAfter (.div ⟨g0, .d, false, 3, 1, .imm 0xFFFFFFFF⟩) [(1, 0x8000000000000000)] 3 = some 0x8000000000000000 := by decide +kernel
theorem step_rem_sign : sAfter (.rem ⟨g0, .d, false, 3, 1, .imm 3⟩) [(1, 0xFFFFFFFFFFFFFFF9)] 3 = some 0xFFFFFFFFFFFFFFFF := by decide +kernel
theorem step_mulh_signed : sAfter (.mulh ⟨g0, .d, false, 3, 1, .imm 0xFFFFFFFF⟩) [(1, 0xFFFFFFFFFFFFFFFF)] 3 = some 0 := by decide +kernel
theorem step_mulh_unsigned : sAfter (.mulh ⟨g0, .d, true, 3, 1, .reg 1⟩) [(1, 0xFFFFFFFFFFFFFFFF)] 3 = some 0xFFFFFFFFFFFFFFFE := by decide +kernel
theorem step_shift_of_the_width : sAfter (.shl ⟨g0, .d, 3, 1, .imm 65⟩) [(1, 5)] 3 = some 10 := by decide +kernel
theorem step_sar : sAfter (.sar ⟨g0, .d, 3, 1, .imm 63⟩) [(1, 0x8000000000000000)] 3 = some 0xFFFFFFFFFFFFFFFF := by decide +kernel
theorem step_clz_of_zero : sAfter (.clz ⟨g0, .h, 3, 1⟩) [(1, 0xFFFF0000)] 3 = some 16 := by decide +kernel
theorem step_bfx_sign : sAfter (.bfx ⟨g0, true, 3, 1, .imm 0x0404⟩) [(1, 0x80)] 3 = some 0xFFFFFFFFFFFFFFF8 := by decide +kernel
theorem step_guard_false : sAfter (.add ⟨⟨true, 0⟩, .d, 3, 1, .imm 1⟩) [(1, 5), (3, 9)] 3 = some 9 := by decide +kernel
theorem step_eshr_signed : eAfter (.eshr ⟨g0, .d, true, 3, 1, .imm 60⟩) [(1, 0x8000000000000000)] 3 = some 0xFFFFFFFFFFFFFFF8 := by decide +kernel
theorem step_elih : eAfter (.elih ⟨g0, 1, 0xDEADBEEF⟩) [(1, 0x12345678)] 1 = some 0xDEADBEEF12345678 := by decide +kernel

end Steps

namespace Alu
/-! Integer, predicate and control instructions. -/
def xa : Ctx := regs [(1, 5), (2, 0xFFFFFFFFFFFFFFFF)]
def sa : State := st .ap k0 xa
theorem ia (g : List (BitVec 6)) : Issues sa 0 0 xa g0 g := issues_st _ _ _ _ rfl rfl
def xb : Ctx := regs [(1, 0xF0F0), (2, 0x1F3E), (3, 0xFFFFFFFFFFFFFFFF), (41, 9)]
def sb : State := st .ap k0 xb
theorem ib (g : List (BitVec 6)) : Issues sb 0 0 xb g0 g := issues_st _ _ _ _ rfl rfl
def gx : Guard := ⟨true, 0⟩
/-- Contexts whose p0 does not hold: its complement for the AP, q0 for the EP. -/
def x3 : Ctx := { xa with ep := { xa.ep with q := 0 } }
def s3 : State := stl .ep k0 x3 l16
def s3a : State := stl .ap k0 xa l16
def nx : Guard := ⟨true, 0⟩
def mmaN : MmaF := ⟨nx, 1, 2, 3, 7, 7, 0, 0, 1, true, true, ⟨1,1,1,1⟩, ⟨0,0,0,0⟩, ⟨0,0,0,0⟩, ⟨0,0,0,0⟩, tk1⟩
def xc : Ctx := regs [(1, 0x3000), (2, 0x3004), (62, 0x4000)]
def sc : State := st .ap k0 xc
theorem ic (g : List (BitVec 6)) : Issues sc 0 0 xc g0 g := issues_st _ _ _ _ rfl rfl
def le : LoopEntry := { start := 0x1008, fin := 0x4000, n := 3, total := 4, done := 1, stg := 2, rot := true, epi := true }
def xd : Ctx := { xc with ap := { xc.ap with loops := [le], rrb := 0, p := 0x8100 } }
def sd : State := st .ap k0 xd
theorem id' (g : List (BitVec 6)) : Issues sd 0 0 xd g0 g := issues_st _ _ _ _ rfl rfl
def xe : Ctx := { xc with ap := { xc.ap with loops := [le, le, le, le] } }
def se : State := st .ap k0 xe
theorem ie (g : List (BitVec 6)) : Issues se 0 0 xe g0 g := issues_st _ _ _ _ rfl rfl
def xf : Ctx := { xc with ap := { xc.ap with handler := true, tpc := 0x1010 } }
def kf : Core := { k0 with apCode := [⟨0, 0x1000, [1, 2, 0x7100000000000000, 5]⟩] }
def sf : State := st .ap kf xf
theorem if' (g : List (BitVec 6)) : Issues sf 0 0 xf g0 g := issues_st _ _ _ _ rfl rfl
theorem witness_HardwiredAndNamedRegisters (H : Obligations.HardwiredAndNamedRegisters) : type_of% (And.intro ((H.1 xb.ap 63 5).2.2.1 yes yes)
    (And.intro ((H.1 xb.ap 41 5).2.2.2 40 yes yes yes)
    (And.intro ((H.2.1 xb.ap 15 true).2.2.1 yes yes)
    (And.intro ((H.2.1 xb.ap 1 true).2.2.2 15 yes yes yes)
    (And.intro ((H.2.2.1 xb.ep 31 5).2.2.1 yes)
    (And.intro ((H.2.2.2.1 xb.ep 15 true).2.2.1 yes yes)
    ((H.2.2.2.2 xb.ep 15 5).2.2.1 yes))))))) :=
  And.intro ((H.1 xb.ap 63 5).2.2.1 yes yes)
    (And.intro ((H.1 xb.ap 41 5).2.2.2 40 yes yes yes)
    (And.intro ((H.2.1 xb.ap 15 true).2.2.1 yes yes)
    (And.intro ((H.2.1 xb.ap 1 true).2.2.2 15 yes yes yes)
    (And.intro ((H.2.2.1 xb.ep 31 5).2.2.1 yes)
    (And.intro ((H.2.2.2.1 xb.ep 15 true).2.2.1 yes yes)
    ((H.2.2.2.2 xb.ep 15 5).2.2.1 yes))))))
theorem witness_IntegerResults (H : Obligations.IntegerResults) : type_of% (And.intro (H.1 ⟨g0, .b, 3, 1, .reg 2⟩ sa 0 0 xa (ia _) _ (List.mem_cons_self ..))
    (And.intro (H.1 ⟨g0, .d, 0, 2, .imm 0xFFFFFFFF⟩ sa 0 0 xa (ia _) _ (List.mem_cons_of_mem _ (List.mem_cons_self ..)))
    (And.intro (H.2 ⟨g0, .h, true, 3, 1, .reg 2⟩ sa 0 0 xa (ia _) _ (List.mem_cons_self ..))
    (H.2 ⟨g0, .d, false, 2, 2, .imm 0⟩ sa 0 0 xa (ia _) _ (List.mem_cons_of_mem _ (List.mem_cons_self ..)))))) :=
  And.intro (H.1 ⟨g0, .b, 3, 1, .reg 2⟩ sa 0 0 xa (ia _) _ (List.mem_cons_self ..))
    (And.intro (H.1 ⟨g0, .d, 0, 2, .imm 0xFFFFFFFF⟩ sa 0 0 xa (ia _) _ (List.mem_cons_of_mem _ (List.mem_cons_self ..)))
    (And.intro (H.2 ⟨g0, .h, true, 3, 1, .reg 2⟩ sa 0 0 xa (ia _) _ (List.mem_cons_self ..))
    (H.2 ⟨g0, .d, false, 2, 2, .imm 0⟩ sa 0 0 xa (ia _) _ (List.mem_cons_of_mem _ (List.mem_cons_self ..)))))
theorem witness_SelectFieldsAndConstants (H : Obligations.SelectFieldsAndConstants) : type_of% (And.intro (H.1 ⟨g0, .h, 3, 1, 2, 1⟩ sa 0 0 xa (ia _))
    (And.intro (H.2.1 ⟨g0, .h, 3, 4⟩ sa 0 0 xa (ia _))
    (And.intro (H.2.2.1 ⟨g0, true, 3, 2, .imm 0x4020⟩ sa 0 0 xa (ia _))
    (And.intro (H.2.2.2.1 ⟨g0, 4, 1, 2, 3⟩ sb 0 0 xb (ib _))
    (H.2.2.2.2 ⟨g0, 3, 0x80000000⟩ sb 0 0 xb (ib _)))))) :=
  And.intro (H.1 ⟨g0, .h, 3, 1, 2, 1⟩ sa 0 0 xa (ia _))
    (And.intro (H.2.1 ⟨g0, .h, 3, 4⟩ sa 0 0 xa (ia _))
    (And.intro (H.2.2.1 ⟨g0, true, 3, 2, .imm 0x4020⟩ sa 0 0 xa (ia _))
    (And.intro (H.2.2.2.1 ⟨g0, 4, 1, 2, 3⟩ sb 0 0 xb (ib _))
    (H.2.2.2.2 ⟨g0, 3, 0x80000000⟩ sb 0 0 xb (ib _)))))
theorem witness_PredicateResults (H : Obligations.PredicateResults) : type_of% (And.intro (H.1 ⟨g0, 3, 3, .or, .lt, true, 3, .imm 0x8000⟩ sb 0 0 xb false (ib _) ⟨by simp, fun h => absurd h (by show ¬(_ < _); decide +kernel)⟩)
    (And.intro (H.2.1 ⟨g0, 3, 0, 2, .orn⟩ sb 0 0 xb (ib _))
    (H.2.2 ⟨g0, 1⟩ sb 0 0 xb (ib _)))) :=
  And.intro (H.1 ⟨g0, 3, 3, .or, .lt, true, 3, .imm 0x8000⟩ sb 0 0 xb false (ib _) ⟨by simp, fun h => absurd h (by show ¬(_ < _); decide +kernel)⟩)
    (And.intro (H.2.1 ⟨g0, 3, 0, 2, .orn⟩ sb 0 0 xb (ib _))
    (H.2.2 ⟨g0, 1⟩ sb 0 0 xb (ib _)))
theorem witness_FailedGuardHasNoEffect (H : Obligations.FailedGuardHasNoEffect) : type_of% (And.intro ((H.1 s3a 0 0 xa gx ⟨rfl, rfl⟩ yes).1 ⟨gx, .b, 3, 1, .reg 2⟩ rfl _ (List.mem_cons_self ..))
    (And.intro ((H.1 s3a 0 0 xa gx ⟨rfl, rfl⟩ yes).2.2.2.2.2.2.2.2.2.2.2.2.2.2.2.2.2.2.1 ⟨gx, 41, 1, .h, .idx 3 1, true, .global, 5⟩ rfl _ (List.mem_cons_self ..))
    (And.intro ((H.1 s3a 0 0 xa gx ⟨rfl, rfl⟩ yes).2.2.2.2.2.2.2.2.2.2.2.2.2.2.2.2.2.2.2.2.2.2.2.2.2.2.2.2.2.2.2.2.1 ⟨gx⟩ rfl _ (List.mem_cons_self ..))
    (And.intro ((H.1 s3a 0 0 xa gx ⟨rfl, rfl⟩ yes).2.2.2.2.2.2.2.2.2.2.2.2.2.2.2.2.2.2.2.2.2.2.2.2.2.2.2.2.2.2.2.2.2.2.2.2.2.2.2.2.2.2.2.1 ⟨gx, tk1⟩ rfl _ (List.mem_cons_self ..))
    (And.intro ((H.2 s3 0 0 x3 nx ⟨rfl, rfl⟩ yes).2.2.2.2.2.2.2.2.2.2.2.2.2.2.2.2.2.1 ⟨nx⟩ rfl _ (List.mem_cons_self ..))
    (And.intro ((H.2 s3 0 0 x3 nx ⟨rfl, rfl⟩ yes).2.2.2.2.2.2.2.2.2.2.2.2.2.2.2.2.2.2.1 ⟨nx, tk1⟩ rfl _ (List.mem_cons_self ..))
    (And.intro ((H.2 s3 0 0 x3 nx ⟨rfl, rfl⟩ yes).2.2.2.2.2.2.2.2.2.2.2.2.2.2.2.2.2.2.2.2.2.2.2.2.2.2.2.2.2.2.2.1 mmaN rfl _ (List.mem_cons_self ..))
    (And.intro ((H.2 s3 0 0 x3 nx ⟨rfl, rfl⟩ yes).2.2.2.2.2.2.2.2.2.2.2.2.2.2.2.2.2.2.2.2.2.2.2.2.2.2.2.2.2.2.2.2.1 ⟨mmaN, 1, 2⟩ rfl)
    ((H.2 s3 0 0 x3 nx ⟨rfl, rfl⟩ yes).2.2.2.2.2.2.2.2.2.2.2.2.2.2.2.2.2.2.2.2.2.2.2.2.2.2.2.2.2.2.2.2.2 ⟨nx, tk1, 0x80, ⟨nx, 1, 2, 3, 8, false, false, 0, false, 0⟩, ⟨1,1,1,1⟩, ⟨0,0,0,0⟩, ⟨0,0,0,0⟩, ⟨0,0,0,0⟩⟩ rfl rfl))))))))) :=
  And.intro ((H.1 s3a 0 0 xa gx ⟨rfl, rfl⟩ yes).1 ⟨gx, .b, 3, 1, .reg 2⟩ rfl _ (List.mem_cons_self ..))
    (And.intro ((H.1 s3a 0 0 xa gx ⟨rfl, rfl⟩ yes).2.2.2.2.2.2.2.2.2.2.2.2.2.2.2.2.2.2.1 ⟨gx, 41, 1, .h, .idx 3 1, true, .global, 5⟩ rfl _ (List.mem_cons_self ..))
    (And.intro ((H.1 s3a 0 0 xa gx ⟨rfl, rfl⟩ yes).2.2.2.2.2.2.2.2.2.2.2.2.2.2.2.2.2.2.2.2.2.2.2.2.2.2.2.2.2.2.2.2.1 ⟨gx⟩ rfl _ (List.mem_cons_self ..))
    (And.intro ((H.1 s3a 0 0 xa gx ⟨rfl, rfl⟩ yes).2.2.2.2.2.2.2.2.2.2.2.2.2.2.2.2.2.2.2.2.2.2.2.2.2.2.2.2.2.2.2.2.2.2.2.2.2.2.2.2.2.2.2.1 ⟨gx, tk1⟩ rfl _ (List.mem_cons_self ..))
    (And.intro ((H.2 s3 0 0 x3 nx ⟨rfl, rfl⟩ yes).2.2.2.2.2.2.2.2.2.2.2.2.2.2.2.2.2.1 ⟨nx⟩ rfl _ (List.mem_cons_self ..))
    (And.intro ((H.2 s3 0 0 x3 nx ⟨rfl, rfl⟩ yes).2.2.2.2.2.2.2.2.2.2.2.2.2.2.2.2.2.2.1 ⟨nx, tk1⟩ rfl _ (List.mem_cons_self ..))
    (And.intro ((H.2 s3 0 0 x3 nx ⟨rfl, rfl⟩ yes).2.2.2.2.2.2.2.2.2.2.2.2.2.2.2.2.2.2.2.2.2.2.2.2.2.2.2.2.2.2.2.1 mmaN rfl _ (List.mem_cons_self ..))
    (And.intro ((H.2 s3 0 0 x3 nx ⟨rfl, rfl⟩ yes).2.2.2.2.2.2.2.2.2.2.2.2.2.2.2.2.2.2.2.2.2.2.2.2.2.2.2.2.2.2.2.2.1 ⟨mmaN, 1, 2⟩ rfl)
    ((H.2 s3 0 0 x3 nx ⟨rfl, rfl⟩ yes).2.2.2.2.2.2.2.2.2.2.2.2.2.2.2.2.2.2.2.2.2.2.2.2.2.2.2.2.2.2.2.2.2 ⟨nx, tk1, 0x80, ⟨nx, 1, 2, 3, 8, false, false, 0, false, 0⟩, ⟨1,1,1,1⟩, ⟨0,0,0,0⟩, ⟨0,0,0,0⟩, ⟨0,0,0,0⟩⟩ rfl rfl))))))))
theorem witness_BranchesOfTheAp (H : Obligations.BranchesOfTheAp) : type_of% (And.intro (((H sc 0 0 xc).1 ⟨g0, 5, 1, 0xFFFFFFF8⟩ (ic _)).1 yes)
    (And.intro (((H sc 0 0 xc).1 ⟨g0, 5, 2, 0xFFFFFFF8⟩ (ic _)).2 yes)
    (And.intro (((H sc 0 0 xc).1 ⟨g0, 5, 0, 8⟩ (ic _)).1 yes)
    (And.intro (((H sc 0 0 xc).2.1 ⟨g0, 0x100⟩ (ic _)).1 yes)
    (And.intro (((H sc 0 0 xc).2.1 ⟨g0, 0x101⟩ (ic _)).2 yes)
    (((H sd 0 0 xd).2.2 ⟨g0⟩ (id' _)).1 yes)))))) :=
  And.intro (((H sc 0 0 xc).1 ⟨g0, 5, 1, 0xFFFFFFF8⟩ (ic _)).1 yes)
    (And.intro (((H sc 0 0 xc).1 ⟨g0, 5, 2, 0xFFFFFFF8⟩ (ic _)).2 yes)
    (And.intro (((H sc 0 0 xc).1 ⟨g0, 5, 0, 8⟩ (ic _)).1 yes)
    (And.intro (((H sc 0 0 xc).2.1 ⟨g0, 0x100⟩ (ic _)).1 yes)
    (And.intro (((H sc 0 0 xc).2.1 ⟨g0, 0x101⟩ (ic _)).2 yes)
    (((H sd 0 0 xd).2.2 ⟨g0⟩ (id' _)).1 yes)))))
theorem witness_LoopsOfTheAp (H : Obligations.LoopsOfTheAp) : type_of% (And.intro ((H.1.1 ⟨g0, 0, true, true, 5, 3⟩ sd 0 0 xd (id' _)).1 yes)
    (And.intro ((H.1.1 ⟨g0, 1, true, true, 5, 3⟩ sd 0 0 xd (id' _)).2.2 yes yes)
    (And.intro ((H.1.1 ⟨g0, 1, true, true, 5, 3⟩ se 0 0 xe (ie _)).2.1 yes yes)
    (And.intro ((H.1.2 ⟨g0⟩ sc 0 0 xc (ic _)).1 rfl)
    (And.intro ((H.1.2 ⟨g0⟩ se 0 0 xe (ie _)).2 le [le, le, le] rfl)
    (And.intro ((H.2 xd.ap 0x4000 le [{ le with done := 3}]).2.2.2.2 rfl rfl)
    ((H.2 xd.ap 0x4000 { le with done := 3} [le]).2.2.2.2 rfl rfl))))))) :=
  And.intro ((H.1.1 ⟨g0, 0, true, true, 5, 3⟩ sd 0 0 xd (id' _)).1 yes)
    (And.intro ((H.1.1 ⟨g0, 1, true, true, 5, 3⟩ sd 0 0 xd (id' _)).2.2 yes yes)
    (And.intro ((H.1.1 ⟨g0, 1, true, true, 5, 3⟩ se 0 0 xe (ie _)).2.1 yes yes)
    (And.intro ((H.1.2 ⟨g0⟩ sc 0 0 xc (ic _)).1 rfl)
    (And.intro ((H.1.2 ⟨g0⟩ se 0 0 xe (ie _)).2 le [le, le, le] rfl)
    (And.intro ((H.2 xd.ap 0x4000 le [{ le with done := 3}]).2.2.2.2 rfl rfl)
    ((H.2 xd.ap 0x4000 { le with done := 3} [le]).2.2.2.2 rfl rfl))))))
theorem witness_YieldExitTrapAndReturn (H : Obligations.YieldExitTrapAndReturn) : type_of% (And.intro (H.1 sd 0 0 .ap xd (at_st _ _ _))
    (And.intro (H.2 ⟨g0⟩ sd 0 0 xd (id' _))
    (H.2 ⟨g0⟩ sf 0 0 xf (if' _)))) :=
  And.intro (H.1 sd 0 0 .ap xd (at_st _ _ _))
    (And.intro (H.2 ⟨g0⟩ sd 0 0 xd (id' _))
    (H.2 ⟨g0⟩ sf 0 0 xf (if' _)))
theorem witness_LexitInstruction (H : Obligations.LexitInstruction) : type_of% (And.intro ((H.1 0x22F8000100000000 [] rfl).2.1 yes yes)
    ((H.1 0x2200000200000000 [] rfl).2.2 yes)) :=
  And.intro ((H.1 0x22F8000100000000 [] rfl).2.1 yes yes)
    ((H.1 0x2200000200000000 [] rfl).2.2 yes)
end Alu

namespace Waits
/-! Waits, value queues and control registers. -/
def wt : WaitSet := ⟨some 3, some 3, some 15⟩
def xg : Ctx := { regs [(1, 7), (2, 0xFFFFFFFF)] with tok := [(3, 2), (15, 1)], toEp := [9], toAp := [8, 4] }
def sg : State := stl .ap k0 xg l16
theorem ig (r : List (BitVec 6)) : Issues sg 0 0 xg g0 r := issues_stl _ _ _ _ _ rfl rfl
theorem al_g (l : List (BitVec 4)) : Allotted sg xg l := allotted_of (by decide +kernel) l
def l17 : Launch := { l16 with bars := [(2, (8, 0))], producers := [5] }
def sh : State := stl .ap k0 xg l17
theorem ih (r : List (BitVec 6)) : Issues sh 0 0 xg g0 r := issues_stl _ _ _ _ _ rfl rfl
def l18 : Launch := { lau (rcd [(32, 2, 1), (36, 1, 0x40), (43, 1, 16)]) with ss := 1 }
def xh : Ctx := { xg with ap := { xg.ap with ssIn := some 0 } }
def si : State := stl .ap k0 xh l18
theorem ii (r : List (BitVec 6)) : Issues si 0 0 xh g0 r := issues_stl _ _ _ _ _ rfl rfl
def kc : Core := { k0 with qs := [(0, [⟨4, 0, 0, .nop, [], [], ⟨none, ⟨none, none, none⟩⟩, false, 0xFFFF⟩])] }
def xi : Ctx := { xg with ap := { xg.ap with wcUpto := some 4 } }
def sj : State := stl .ap kc xi l16
theorem ij (r : List (BitVec 6)) : Issues sj 0 0 xi g0 r := issues_stl _ _ _ _ _ rfl rfl
def xj : Ctx := { xg with toEp := List.replicate 64 1, toAp := [] }
def sk : State := stl .ap k0 xj l16
theorem ik (r : List (BitVec 6)) : Issues sk 0 0 xj g0 r := issues_stl _ _ _ _ _ rfl rfl
def sge : State := stl .ep k0 xg l16
theorem al_ge (l : List (BitVec 4)) : Allotted sge xg l := allotted_of (by decide +kernel) l
def xke : Ctx := { xj with toEp := [], toAp := List.replicate 16 2 }
def ske : State := stl .ep k0 xke l16
def xk : Ctx := { regs [(1, 7), (2, 0xFFFFFFFF)] with fflags := 5, rmode := 2 }
def sl : State := stl .ap k0 xk l16
theorem il (r : List (BitVec 6)) : Issues sl 0 0 xk g0 r := issues_stl _ _ _ _ _ rfl rfl
theorem witness_WaitsComplete (H : Obligations.WaitsComplete) : type_of% (And.intro ((H.2 sg 0 0 xg).1 ⟨g0, wt⟩ (ig _) (al_g _) yes)
    (And.intro (((H.2 sh 0 0 xg).2.1 ⟨g0, 2, 1⟩ l17 (ih _) rfl).1 yes)
    (And.intro (((H.2 sh 0 0 xg).2.1 ⟨g0, 3, 1⟩ l17 (ih _) rfl).2 yes)
    (And.intro (((H.2 sh 0 0 xg).2.2.1 ⟨g0⟩ l17 (ih _) rfl).2.2 yes)
    (And.intro (((H.2 si 0 0 xh).2.2.1 ⟨g0⟩ l18 (ii _) rfl).2.1 0 yes rfl yes)
    (And.intro ((H.2 sg 0 0 xg).2.2.2 ⟨g0⟩ (ig _) yes yes)
    ((H.2 sj 0 0 xi).2.2.2 ⟨g0⟩ (ij _) yes yes))))))) :=
  And.intro ((H.2 sg 0 0 xg).1 ⟨g0, wt⟩ (ig _) (al_g _) yes)
    (And.intro (((H.2 sh 0 0 xg).2.1 ⟨g0, 2, 1⟩ l17 (ih _) rfl).1 yes)
    (And.intro (((H.2 sh 0 0 xg).2.1 ⟨g0, 3, 1⟩ l17 (ih _) rfl).2 yes)
    (And.intro (((H.2 sh 0 0 xg).2.2.1 ⟨g0⟩ l17 (ih _) rfl).2.2 yes)
    (And.intro (((H.2 si 0 0 xh).2.2.1 ⟨g0⟩ l18 (ii _) rfl).2.1 0 yes rfl yes)
    (And.intro ((H.2 sg 0 0 xg).2.2.2 ⟨g0⟩ (ig _) yes yes)
    ((H.2 sj 0 0 xi).2.2.2 ⟨g0⟩ (ij _) yes yes))))))
theorem witness_ValueQueuesAndNotices (H : Obligations.ValueQueuesAndNotices) : type_of% (And.intro (((H sg 0 0 xg).1 ⟨g0, .imm 0xFFFFFFFF⟩ (ig _)).1 yes)
    (And.intro (((H sk 0 0 xj).1 ⟨g0, .reg 2⟩ (ik _)).2 yes)
    (And.intro (((H sk 0 0 xj).2.1 ⟨g0, 4⟩ (ik _)).2 rfl)
    (And.intro (((H sg 0 0 xg).2.1 ⟨g0, 4⟩ (ig _)).1 _ _ rfl)
    (And.intro (((H sge 0 0 xg).2.2.1 ⟨g0, .imm 1⟩ (issuesEp_stl _ _ _ _ rfl)).1 yes)
    (And.intro (((H ske 0 0 xke).2.2.1 ⟨g0, .imm 1⟩ (issuesEp_stl _ _ _ _ rfl)).2 yes)
    (And.intro (((H sge 0 0 xg).2.2.2.1 ⟨g0, 4⟩ (issuesEp_stl _ _ _ _ rfl)).1 _ _ rfl)
    (And.intro (((H ske 0 0 xke).2.2.2.1 ⟨g0, 4⟩ (issuesEp_stl _ _ _ _ rfl)).2 rfl)
    (And.intro ((H sg 0 0 xg).2.2.2.2.1 ⟨g0, 4⟩ (ig _) (al_g _))
    ((H sge 0 0 xg).2.2.2.2.2 ⟨g0, 4⟩ (issuesEp_stl _ _ _ _ rfl) (al_ge _))))))))))) :=
  And.intro (((H sg 0 0 xg).1 ⟨g0, .imm 0xFFFFFFFF⟩ (ig _)).1 yes)
    (And.intro (((H sk 0 0 xj).1 ⟨g0, .reg 2⟩ (ik _)).2 yes)
    (And.intro (((H sk 0 0 xj).2.1 ⟨g0, 4⟩ (ik _)).2 rfl)
    (And.intro (((H sg 0 0 xg).2.1 ⟨g0, 4⟩ (ig _)).1 _ _ rfl)
    (And.intro (((H sge 0 0 xg).2.2.1 ⟨g0, .imm 1⟩ (issuesEp_stl _ _ _ _ rfl)).1 yes)
    (And.intro (((H ske 0 0 xke).2.2.1 ⟨g0, .imm 1⟩ (issuesEp_stl _ _ _ _ rfl)).2 yes)
    (And.intro (((H sge 0 0 xg).2.2.2.1 ⟨g0, 4⟩ (issuesEp_stl _ _ _ _ rfl)).1 _ _ rfl)
    (And.intro (((H ske 0 0 xke).2.2.2.1 ⟨g0, 4⟩ (issuesEp_stl _ _ _ _ rfl)).2 rfl)
    (And.intro ((H sg 0 0 xg).2.2.2.2.1 ⟨g0, 4⟩ (ig _) (al_g _))
    ((H sge 0 0 xg).2.2.2.2.2 ⟨g0, 4⟩ (issuesEp_stl _ _ _ _ rfl) (al_ge _))))))))))
theorem witness_CsrInstructions (H : Obligations.CsrInstructions) : type_of% (And.intro ((H sl 0 0 xk).2.1 ⟨g0, 2, 2, 0x010⟩ (il _))
    ((H sl 0 0 xk).2.1 ⟨g0, 41, 1, 0x020⟩ (il _))) :=
  And.intro ((H sl 0 0 xk).2.1 ⟨g0, 2, 2, 0x010⟩ (il _))
    ((H sl 0 0 xk).2.1 ⟨g0, 41, 1, 0x020⟩ (il _))
theorem witness_RegisterNames (H : Obligations.RegisterNames) : type_of% (And.intro ((H.1 xk.ap 55 yes).1)
    (And.intro (((H.1 xk.ap 40 yes).2.1 yes).1)
    (And.intro ((H.2.1 xk.ap 15 3 yes yes).1)
    (And.intro (H.2.2.1 xk.ap true 8 yes)
    ((H.2.2.2 ⟨g0, 41, 1, 0x010⟩ sl 0 0 xk (il _)) rfl))))) :=
  And.intro ((H.1 xk.ap 55 yes).1)
    (And.intro (((H.1 xk.ap 40 yes).2.1 yes).1)
    (And.intro ((H.2.1 xk.ap 15 3 yes yes).1)
    (And.intro (H.2.2.1 xk.ap true 8 yes)
    ((H.2.2.2 ⟨g0, 41, 1, 0x010⟩ sl 0 0 xk (il _)) rfl))))
theorem witness_CsrMap (H : Obligations.CsrMap) : type_of% (And.intro (H.1 sl 0 0 xk)
    (H.2 ske 0 0 xke)) :=
  And.intro (H.1 sl 0 0 xk)
    (H.2 ske 0 0 xke)
theorem witness_CsrWriteEffects (H : Obligations.CsrWriteEffects) : type_of% (H xk 0xFFFFFFFFFFFFFFFC) :=
  H xk 0xFFFFFFFFFFFFFFFC
end Waits

namespace EpScalar
/-! The EP's scalar and control instructions, steps and traps. -/
def le1 : LoopEntry := { start := 0x1ff8, fin := 0x3000, n := 3, total := 3, done := 1, stg := 0, rot := false, epi := false }
def xg : Ctx := { eregs [(1, 7), (2, 0x3000), (4, 0x2ffc)] with tok := [(3, 2), (15, 1)] }
def xl : Ctx := { xg with ep := { xg.ep with loops := [le1], handler := true } }
def sm : State := stl .ep k0 xl l16
theorem im (g : Guard) (h : xl.ep.holds g = true) : IssuesEp sm 0 0 xl g := issuesEp_stl _ _ _ _ h
theorem al_m (l : List (BitVec 4)) : Allotted sm xl l := allotted_of (by decide +kernel) l
def sma : State := stl .ap k0 xl l16
theorem al_ma (l : List (BitVec 4)) : Allotted sma xl l := allotted_of (by decide +kernel) l
def kA : Core := { k0 with apCode := [⟨0, 0x1000, [wd [(56, 0x01), (45, 3), (39, 1), (26, 2)]]⟩], apBlk := { sel := some 0, ended := false, since := 0 } }
def ss0 : State := { stl .ep kA x0 l16 with agenda := [⟨3, 5, [(0x100000000000, 7)], .issue 0 .ap⟩] }
def ss1 : State := { stl .ep { kA with apCode := [] } x0 l16 with agenda := [⟨3, 5, [], .issue 0 .ap⟩] }
def xt : Ctx := { xl with ap := { xl.ap with tvec := 0x9000 }, ep := { xl.ep with tvec := 0xA000, handler := false } }
def rc0 : FaultRec := { cls := 2, sev := 1, cause := 3, master := 0, addr := 0, addrV := false, phys := false, isLocal := false, spill := false, retired := false, lid := 0, rank := 0, time := 0, detail := 0 }
def xu : Ctx := { xt with afs := some (rc0, .ep), ep := { xt.ep with exited := true } }
/-- The AP of the same context stands ready to take t3. -/
def xlw : Ctx := { xl with ap := { xl.ap with wait := some (.take ⟨some 3, none, none⟩ false) } }
def smw : State := stl .ep { k0 with apBlk := { sel := some 0, ended := false, since := 0 } } xlw l16
theorem al_mw (l : List (BitVec 4)) : Allotted smw xlw l := allotted_of (by decide +kernel) l
/-- The same machine with a word of its instruction store in error, with s2 in error, with an async trap due, with a wait set still to take; with no power. -/
def ss2 : State := { ss0 with poisonLoc := [.code 0 .ap 0 0x1000] }
def ss3 : State := { ss1 with poisonLoc := [.code 0 .ap 0 0x1000] }
def xB : Ctx := { x0 with ap := { x0.ap with bad := [2] } }
def rcA : FaultRec := { cls := 2, sev := 1, cause := 3, master := 0, addr := 0, addrV := false, phys := false, isLocal := false, spill := false, retired := false, lid := 0, rank := 0, time := 0, detail := 0 }
def xA : Ctx := { x0 with afs := some (rcA, .ap) }
def xW : Ctx := { xA with ap := { xA.ap with wait := some (.take ⟨some 4, none, none⟩ false) } }
def ssx (x : Ctx) : State := { stl .ep kA x l16 with agenda := [⟨3, 5, [], .issue 0 .ap⟩] }
def ssv (p : Bool) : State := { stl .ep kA x0 l16 with powered := p, agenda := [⟨3, 5, [], .event (.powerFailure true 0)⟩] }
/-- No block is open on the AP: slot 1 has a context that can issue, slot 0 is empty; and no slot has one. -/
def kN (l : List (Nat × Ctx)) : Core := { kA with ctxs := l, apBlk := { sel := some 3, ended := true, since := 0 } }
def ssn (l : List (Nat × Ctx)) : State := { State.reset with cores := [(0, kN l)], launches := [l16], agenda := [⟨3, 5, [], .issue 0 .ap⟩] }
def xSt : Ctx := x0
def sst : State := stl .ap { kA with apCode := [⟨0, 0x1000, [wd [(56, 0x24), (36, 1), (16, 3), (15, 1)]]⟩] } x0 l16
def xte : Ctx := { xt with afs := some (rc0, .ep) }
def xv : Ctx := { xu with ap := { xu.ap with tvec := 0 } }
theorem witness_EpControl (H : Obligations.EpControl) : type_of% (And.intro (((H sm 0 0 xl).1 ⟨g0, 0, 0, 8⟩ (im _ rfl)).2 yes)
    (And.intro (((H sm 0 0 xl).1 ⟨g0, 3, 4, 0⟩ (im _ rfl)).1 yes)
    (And.intro (((H sm 0 0 xl).2.1 ⟨g0, 1, 4⟩ (im _ rfl)).2.2 yes yes)
    (And.intro (((H sm 0 0 xl).2.1 ⟨g0, 0, 4⟩ (im _ rfl)).1 yes)
    (And.intro ((H sm 0 0 xl).2.2.1 ⟨g0, ⟨some 3, none, some 15⟩⟩ (im _ rfl) (al_m _) yes)
    (And.intro (((H sm 0 0 xl).2.2.1 ⟨g0, ⟨some 3, none, some 15⟩⟩ (im _ rfl) (al_m _) yes).1 (fun _ h => by cases h))
    (And.intro (((H smw 0 0 xlw).2.2.1 ⟨g0, ⟨some 3, some 3, none⟩⟩ ⟨⟨rfl, rfl⟩, rfl⟩ (al_mw _) yes).2 ⟨some 3, none, none⟩ yes yes yes)
    (And.intro ((H sm 0 0 xl).2.2.2.1 ⟨g0⟩ (im _ rfl) yes)
    (And.intro ((H sm 0 0 xl).2.2.2.2.1 ⟨g0, ⟨some 3, ⟨some 4, none, none⟩⟩⟩ (im _ rfl) (al_m _) yes)
    ((H sma 0 0 xl).2.2.2.2.2 ⟨g0, ⟨some 3, ⟨some 4, none, none⟩⟩⟩ (issues_stl _ _ _ _ _ rfl rfl) (al_ma _) yes)))))))))) :=
  And.intro (((H sm 0 0 xl).1 ⟨g0, 0, 0, 8⟩ (im _ rfl)).2 yes)
    (And.intro (((H sm 0 0 xl).1 ⟨g0, 3, 4, 0⟩ (im _ rfl)).1 yes)
    (And.intro (((H sm 0 0 xl).2.1 ⟨g0, 1, 4⟩ (im _ rfl)).2.2 yes yes)
    (And.intro (((H sm 0 0 xl).2.1 ⟨g0, 0, 4⟩ (im _ rfl)).1 yes)
    (And.intro ((H sm 0 0 xl).2.2.1 ⟨g0, ⟨some 3, none, some 15⟩⟩ (im _ rfl) (al_m _) yes)
    (And.intro (((H sm 0 0 xl).2.2.1 ⟨g0, ⟨some 3, none, some 15⟩⟩ (im _ rfl) (al_m _) yes).1 (fun _ h => by cases h))
    (And.intro (((H smw 0 0 xlw).2.2.1 ⟨g0, ⟨some 3, some 3, none⟩⟩ ⟨⟨rfl, rfl⟩, rfl⟩ (al_mw _) yes).2 ⟨some 3, none, none⟩ yes yes yes)
    (And.intro ((H sm 0 0 xl).2.2.2.1 ⟨g0⟩ (im _ rfl) yes)
    (And.intro ((H sm 0 0 xl).2.2.2.2.1 ⟨g0, ⟨some 3, ⟨some 4, none, none⟩⟩⟩ (im _ rfl) (al_m _) yes)
    ((H sma 0 0 xl).2.2.2.2.2 ⟨g0, ⟨some 3, ⟨some 4, none, none⟩⟩⟩ (issues_stl _ _ _ _ _ rfl rfl) (al_ma _) yes)))))))))
theorem witness_EpScalarResults (H : Obligations.EpScalarResults) : type_of% (And.intro (H.1 ⟨g0, .h, 3, 2, .imm 0xFFFF8003⟩ sm 0 0 xl (im _ rfl) _ (List.mem_cons_self ..))
    (And.intro (H.2.1 ⟨g0, .h, true, 3, 2, .imm 0xFFFF8003⟩ sm 0 0 xl (im _ rfl))
    (And.intro (H.2.2.1 ⟨g0, 3, 0x80000001⟩ sm 0 0 xl (im _ rfl))
    (And.intro (H.2.2.2.1 ⟨g0, 3, 3, .or, .lt, true, 2, .imm 0x8000⟩ sm 0 0 xl false (im _ rfl) ⟨by simp, fun h => absurd h (by show ¬(_ < _); decide +kernel)⟩)
    (And.intro (H.2.2.2.2.1 ⟨g0, 2⟩ sm 0 0 xl (im _ rfl))
    (H.2.2.2.2.2 ⟨g0, 2, 5, 3⟩ sm 0 0 xl (im _ rfl))))))) :=
  And.intro (H.1 ⟨g0, .h, 3, 2, .imm 0xFFFF8003⟩ sm 0 0 xl (im _ rfl) _ (List.mem_cons_self ..))
    (And.intro (H.2.1 ⟨g0, .h, true, 3, 2, .imm 0xFFFF8003⟩ sm 0 0 xl (im _ rfl))
    (And.intro (H.2.2.1 ⟨g0, 3, 0x80000001⟩ sm 0 0 xl (im _ rfl))
    (And.intro (H.2.2.2.1 ⟨g0, 3, 3, .or, .lt, true, 2, .imm 0x8000⟩ sm 0 0 xl false (im _ rfl) ⟨by simp, fun h => absurd h (by show ¬(_ < _); decide +kernel)⟩)
    (And.intro (H.2.2.2.2.1 ⟨g0, 2⟩ sm 0 0 xl (im _ rfl))
    (H.2.2.2.2.2 ⟨g0, 2, 5, 3⟩ sm 0 0 xl (im _ rfl))))))
theorem witness_StepRunsTheDecodedInstruction (H : Obligations.StepRunsTheDecodedInstruction) : type_of% (H ss0 3 5 [(0x100000000000, 7)] [] 0 0 .ap x0 (.add ⟨g0, .d, 3, 1, .reg 2⟩) rfl rfl yes yes yes (Or.inr rfl) (by rfl) yes yes) :=
  H ss0 3 5 [(0x100000000000, 7)] [] 0 0 .ap x0 (.add ⟨g0, .d, 3, 1, .reg 2⟩) rfl rfl yes yes yes (Or.inr rfl) (by rfl) yes yes
theorem witness_StepsThatIssueNothing (H : Obligations.StepsThatIssueNothing) : type_of% (And.intro ((H.1 ss1 3 5 [] [] 0 0 .ap x0 rfl rfl yes rfl).imp fun _ h => (h.2.2 (Or.inr rfl)).1 _ rfl yes)
    (And.intro ((H.1 ss3 3 5 [] [] 0 0 .ap x0 rfl rfl yes rfl).imp fun _ h => (h.2.2 (Or.inr rfl)).2.1 _ _ rfl (by rfl))
    (And.intro ((H.1 ss2 3 5 [(0x100000000000, 7)] [] 0 0 .ap x0 rfl rfl yes rfl).imp fun _ h => ((h.2.2 (Or.inr rfl)).2.2 _ (by rfl)).1 0x1000 (by rfl))
    (And.intro ((H.1 (ssx xB) 3 5 [] [] 0 0 .ap xB rfl rfl yes rfl).imp fun _ h => (((h.2.2 (Or.inr rfl)).2.2 _ (by rfl)).2 (by rfl)).1 2 (by rfl))
    (And.intro ((H.1 (ssx xA) 3 5 [] [] 0 0 .ap xA rfl rfl yes rfl).imp fun _ h => (((h.2.2 (Or.inr rfl)).2.2 _ (by rfl)).2 (by rfl)).2 (by rfl) yes)
    (And.intro ((H.1 (ssx xW) 3 5 [] [] 0 0 .ap xW rfl rfl yes rfl).imp fun _ h => h.2.1 rfl (by simp [xW, Ctx.waitSet]) yes)
    (And.intro (((H.2.1 (ssv true) 3 5 [] [] (.powerFailure true 0) rfl rfl).1 rfl fun _ _ h => by cases h))
    (And.intro (((H.2.1 (ssv false) 3 5 [] [] (.powerFailure true 0) rfl rfl).2 rfl fun _ _ _ h => by cases h))
    (And.intro (H.2.2.1 (ssn [(1, x0)]) 3 5 [] [] 0 .ap rfl rfl yes)
    (And.intro (H.2.2.1 (ssn []) 3 5 [] [] 0 .ap rfl rfl yes)
    (And.intro ((H.2.2.2.1 (stl .ap kA x0 l16) 0 0 .ap x0 (.add ⟨g0, .d, 3, 1, .reg 2⟩) rfl (Or.inr rfl) rfl (by rfl) (by rfl) yes).2)
    (And.intro ((H.2.2.2.1 sst 0 0 .ap xSt (.waitt ⟨g0, ⟨some 3, none, none⟩⟩) rfl (Or.inr rfl) rfl (by rfl) (by rfl) yes).1)
    (H.2.2.2.2 (.waitl ⟨g0⟩) sm))))))))))))) :=
  And.intro ((H.1 ss1 3 5 [] [] 0 0 .ap x0 rfl rfl yes rfl).imp fun _ h => (h.2.2 (Or.inr rfl)).1 _ rfl yes)
    (And.intro ((H.1 ss3 3 5 [] [] 0 0 .ap x0 rfl rfl yes rfl).imp fun _ h => (h.2.2 (Or.inr rfl)).2.1 _ _ rfl (by rfl))
    (And.intro ((H.1 ss2 3 5 [(0x100000000000, 7)] [] 0 0 .ap x0 rfl rfl yes rfl).imp fun _ h => ((h.2.2 (Or.inr rfl)).2.2 _ (by rfl)).1 0x1000 (by rfl))
    (And.intro ((H.1 (ssx xB) 3 5 [] [] 0 0 .ap xB rfl rfl yes rfl).imp fun _ h => (((h.2.2 (Or.inr rfl)).2.2 _ (by rfl)).2 (by rfl)).1 2 (by rfl))
    (And.intro ((H.1 (ssx xA) 3 5 [] [] 0 0 .ap xA rfl rfl yes rfl).imp fun _ h => (((h.2.2 (Or.inr rfl)).2.2 _ (by rfl)).2 (by rfl)).2 (by rfl) yes)
    (And.intro ((H.1 (ssx xW) 3 5 [] [] 0 0 .ap xW rfl rfl yes rfl).imp fun _ h => h.2.1 rfl (by simp [xW, Ctx.waitSet]) yes)
    (And.intro (((H.2.1 (ssv true) 3 5 [] [] (.powerFailure true 0) rfl rfl).1 rfl fun _ _ h => by cases h))
    (And.intro (((H.2.1 (ssv false) 3 5 [] [] (.powerFailure true 0) rfl rfl).2 rfl fun _ _ _ h => by cases h))
    (And.intro (H.2.2.1 (ssn [(1, x0)]) 3 5 [] [] 0 .ap rfl rfl yes)
    (And.intro (H.2.2.1 (ssn []) 3 5 [] [] 0 .ap rfl rfl yes)
    (And.intro ((H.2.2.2.1 (stl .ap kA x0 l16) 0 0 .ap x0 (.add ⟨g0, .d, 3, 1, .reg 2⟩) rfl (Or.inr rfl) rfl (by rfl) (by rfl) yes).2)
    (And.intro ((H.2.2.2.1 sst 0 0 .ap xSt (.waitt ⟨g0, ⟨some 3, none, none⟩⟩) rfl (Or.inr rfl) rfl (by rfl) (by rfl) yes).1)
    (H.2.2.2.2 (.waitl ⟨g0⟩) sm))))))))))))
theorem witness_Traps (H : Obligations.Traps) : type_of% (And.intro ((H.1 (stl .ap k0 xt l16) 0 0 xt 7 5 0x44 0x1000 yes yes yes).1 yes yes)
    (And.intro ((H.1 (stl .ap k0 xl l16) 0 0 xl 7 5 0x44 0x1000 yes yes yes).2.2 .ep yes)
    (And.intro (H.2.1 (stl .ap k0 xu l16) 0 0 xu .ap rc0 .ep yes rfl yes yes)
    (And.intro (H.2.2.1 (stl .ap k0 xv l16) 0 0 xv .ap rc0 .ep yes rfl yes yes)
    (And.intro ((H.2.2.2.1 xt .ap rc0).1 yes rfl)
    (And.intro ((H.2.2.2.1 xu .ap rc0).2 (Or.inr (by simp [xu])))
    (And.intro ((H.2.2.2.2 (stl .ap k0 xu l16) 0 0 xu yes).1 yes)
    (And.intro ((H.2.2.2.2 (stl .ap k0 xte l16) 0 0 xte yes).2 yes yes)
    ((H.1 (stl .ap k0 xt l16) 0 0 xt 7 5 0x44 0x1000 yes yes yes).2.1 yes yes))))))))) :=
  And.intro ((H.1 (stl .ap k0 xt l16) 0 0 xt 7 5 0x44 0x1000 yes yes yes).1 yes yes)
    (And.intro ((H.1 (stl .ap k0 xl l16) 0 0 xl 7 5 0x44 0x1000 yes yes yes).2.2 .ep yes)
    (And.intro (H.2.1 (stl .ap k0 xu l16) 0 0 xu .ap rc0 .ep yes rfl yes yes)
    (And.intro (H.2.2.1 (stl .ap k0 xv l16) 0 0 xv .ap rc0 .ep yes rfl yes yes)
    (And.intro ((H.2.2.2.1 xt .ap rc0).1 yes rfl)
    (And.intro ((H.2.2.2.1 xu .ap rc0).2 (Or.inr (by simp [xu])))
    (And.intro ((H.2.2.2.2 (stl .ap k0 xu l16) 0 0 xu yes).1 yes)
    (And.intro ((H.2.2.2.2 (stl .ap k0 xte l16) 0 0 xte yes).2 yes yes)
    ((H.1 (stl .ap k0 xt l16) 0 0 xt 7 5 0x44 0x1000 yes yes yes).2.1 yes yes))))))))
end EpScalar

namespace Queues
/-! Commands enter their queues. -/
def cm (id : Nat) (i : Instr) : Cmd := ⟨id, 0, 0, i, [], [], tk1, false, 0xFFFF⟩
def kq : Core := { k0 with qs := [(0, [cm 2 .nop]), (6, [cm 5 .nop])] }
def xq : Ctx := regs [(1, 7), (2, 8), (3, 300)]
def sq : State := { stl .ap kq xq l16 with serial := 9 }
theorem iq (r : List (BitVec 6)) : Issues sq 0 0 xq g0 r := ⟨⟨rfl, rfl⟩, rfl, fun r _ h => by cases h⟩
theorem al_q (l : List (BitVec 4)) : Allotted sq xq l := allotted_of (by decide +kernel) l
def cpf : CpyF := ⟨g0, 1, 2, 3, 3, 5, .expand, 1, true, false, false, tk1⟩
def kfull : Core := { kq with qs := [(4, List.replicate 16 (cm 2 .nop))] }
def sfu : State := { stl .ap kfull xq l16 with serial := 9 }
theorem al_fu (l : List (BitVec 4)) : Allotted sfu xq l := allotted_of (by decide +kernel) l
def k16 : Core := { kq with allots := [⟨0, [0], [0], [2, 5], [0], true, true, []⟩], acc := [(128, 5), (384, 6)] }
def xqe : Ctx := eregs [(1, 7), (2, 8), (3, 300)]
def sqe : State := { stl .ep k16 xqe l16 with serial := 9 }
theorem iqe : IssuesEp sqe 0 0 xqe g0 := ⟨⟨rfl, rfl⟩, rfl⟩
theorem al_qe (l : List (BitVec 4)) : Allotted sqe xqe l := allotted_of (by decide +kernel) l
def mmaf : MmaF := ⟨g0, 1, 2, 3, 7, 7, 0, 0, 1, true, true, ⟨1,1,1,1⟩, ⟨0,0,0,0⟩, ⟨0,0,0,0⟩, ⟨0,0,0,0⟩, tk1⟩
def sq2 : State := { sqe with cores := [(0, { k16 with ctxs := [(0, xqe)], acc := [(128, 5), (320, 6)] })] }
theorem al_2 (l : List (BitVec 4)) : Allotted sq2 xqe l := allotted_of (by decide +kernel) l

theorem witness_ApCommandsEnterTheirQueues (H : Obligations.ApCommandsEnterTheirQueues) : type_of% (And.intro ((H.1 sq 0 0 xq).1 ⟨g0, 1, true, 3, false, 2, tk1⟩ (iq _) (al_q _))
    (And.intro ((H.1 sq 0 0 xq).2.1 ⟨g0, 1, tk1⟩ (iq _) (al_q _))
    (And.intro ((H.1 sq 0 0 xq).2.2.2.2.1 ⟨g0, 1, true, 3, false, 3, none, tk1⟩ (iq _) (al_q _))
    (And.intro ((H.1 sq 0 0 xq).2.2.2.2.2.2.2.2.2.2 ⟨g0, true, tk1⟩ (iq _) (al_q _) (room_of yes))
    (And.intro (H.2 cpf 9 sq 0 0 xq (iq _) (al_q _))
    (H.2 cpf 9 sfu 0 0 xq ⟨⟨rfl, rfl⟩, rfl, fun r _ h => by cases h⟩ (al_fu _))))))) :=
  And.intro ((H.1 sq 0 0 xq).1 ⟨g0, 1, true, 3, false, 2, tk1⟩ (iq _) (al_q _))
    (And.intro ((H.1 sq 0 0 xq).2.1 ⟨g0, 1, tk1⟩ (iq _) (al_q _))
    (And.intro ((H.1 sq 0 0 xq).2.2.2.2.1 ⟨g0, 1, true, 3, false, 3, none, tk1⟩ (iq _) (al_q _))
    (And.intro ((H.1 sq 0 0 xq).2.2.2.2.2.2.2.2.2.2 ⟨g0, true, tk1⟩ (iq _) (al_q _) (room_of yes))
    (And.intro (H.2 cpf 9 sq 0 0 xq (iq _) (al_q _))
    (H.2 cpf 9 sfu 0 0 xq ⟨⟨rfl, rfl⟩, rfl, fun r _ h => by cases h⟩ (al_fu _))))))
theorem witness_EpCommandsEnterTheirQueues (H : Obligations.EpCommandsEnterTheirQueues) : type_of% (And.intro ((H sqe 0 0 xqe).1 mmaf iqe (al_qe _))
    (And.intro ((H sqe 0 0 xqe).2.2.1 ⟨g0, 3, tk1⟩ iqe (al_qe _))
    (And.intro ((H sqe 0 0 xqe).2.2.2.2.2.1 ⟨g0, 3, 2, 2, tk1⟩ iqe (al_qe _))
    (And.intro ((H sq2 0 0 xqe).2.2.2.2.2.2.2.2.1 ⟨g0, 1, 2, true, 0, 64, tk1⟩ ⟨⟨rfl, rfl⟩, rfl⟩ (al_2 _) 128 320 5 6 yes yes yes yes yes yes)
    (And.intro ((H sqe 0 0 xqe).2.2.2.2.2.2.2.2.2.1 ⟨g0, 1, 7, 3, 1, 2, 1584, tk1⟩ iqe (al_qe _))
    (And.intro ((H sqe 0 0 xqe).2.2.2.2.2.2.2.2.2.2.2.2.1 ⟨g0, some 1, tk1⟩ iqe (al_qe _))
    ((H sqe 0 0 xqe).2.2.2.2.2.2.2.2.2.2.2.2.2.2 ⟨g0, 1, tk1⟩ iqe (al_qe _)))))))) :=
  And.intro ((H sqe 0 0 xqe).1 mmaf iqe (al_qe _))
    (And.intro ((H sqe 0 0 xqe).2.2.1 ⟨g0, 3, tk1⟩ iqe (al_qe _))
    (And.intro ((H sqe 0 0 xqe).2.2.2.2.2.1 ⟨g0, 3, 2, 2, tk1⟩ iqe (al_qe _))
    (And.intro ((H sq2 0 0 xqe).2.2.2.2.2.2.2.2.1 ⟨g0, 1, 2, true, 0, 64, tk1⟩ ⟨⟨rfl, rfl⟩, rfl⟩ (al_2 _) 128 320 5 6 yes yes yes yes yes yes)
    (And.intro ((H sqe 0 0 xqe).2.2.2.2.2.2.2.2.2.1 ⟨g0, 1, 7, 3, 1, 2, 1584, tk1⟩ iqe (al_qe _))
    (And.intro ((H sqe 0 0 xqe).2.2.2.2.2.2.2.2.2.2.2.2.1 ⟨g0, some 1, tk1⟩ iqe (al_qe _))
    ((H sqe 0 0 xqe).2.2.2.2.2.2.2.2.2.2.2.2.2.2 ⟨g0, 1, tk1⟩ iqe (al_qe _)))))))
end Queues

namespace Memory
/-! Loads, stores, atomics, fences, waits on addresses, barriers, launches, tasks, translation, field test. -/
def xm : Ctx := { regs [(1, 0x1000), (2, 0xFEDCBA9876543210), (3, 4), (4, 0x40001000), (5, 0x1001), (6, 0x3000000), (7, 0xFF0000F0), (8, 0x1008), (9, 0x2000), (10, 0x4000)] with hold := [0x200, 0x201] }
def m1 : List Host.Cell := [(0x1000, 0x11), (0x1001, 0x82), (0x1008, 0xF0), (0x100b, 0xFF)]
def lw : Launch := lau (rcd [(32, 2, 1), (37, 1, 1), (42, 1, 1), (43, 1, 16)])
def kL : Core := { kM with allots := [alV], banks := [(1552, 0x8765432101)], full := [(1552, true)] }
def sM : State := hbm { stl .ap kL xm lw with mem := m1, serial := 9, time := 200000, cycles := 28 }
theorem iM (r : List (BitVec 6)) : Issues sM 0 0 xm g0 r := ⟨⟨rfl, rfl⟩, rfl, fun r _ h => by cases h⟩
def lf : LdF := ⟨g0, 41, 1, .h, .idx 3 1, true, .global, 5⟩
def sf : StF := ⟨g0, 2, 1, .d, .imm 0xFFFFFFC, .global, 5⟩
def lf2 : LdF := ⟨g0, 41, 4, .h, .imm 0, true, .global, 5⟩
def sM2 : State := { sM with west := { sM.west with walks := [⟨3, 0, 1, 0x40001, some false, some (.fault 7 0 5)⟩] } }
def lf3 : LdF := ⟨g0, 41, 6, .h, .imm 0, true, .loc, 5⟩
def lf4 : LdF := ⟨g0, 41, 5, .h, .imm 0, true, .fe, 5⟩
def lf5 : LdF := ⟨g0, 41, 1, .w, .imm 1, true, .loc, 5⟩
def lf8 : LdF := ⟨g0, 41, 1, .w, .imm 4, true, .loc, 5⟩
def sf7 : StF := ⟨g0, 2, 1, .w, .imm 0xfc, .loc, 5⟩
def lf6 : LdF := ⟨g0, 41, 1, .w, .imm 4, false, .fe, 5⟩
def lf7 : LdF := ⟨g0, 41, 1, .w, .imm 0x100, false, .fe, 5⟩
def sf5 : StF := ⟨g0, 2, 1, .w, .imm 0xfe, .loc, 5⟩
def sf6 : StF := ⟨g0, 2, 1, .w, .imm 0x104, .fe, 5⟩
def sf2 : StF := ⟨g0, 2, 4, .d, .imm 0, .global, 5⟩
def sf3 : StF := ⟨g0, 2, 6, .d, .imm 0, .loc, 5⟩
def sf4 : StF := ⟨g0, 2, 5, .d, .imm 0, .fe, 5⟩
def sf8 : StF := ⟨g0, 2, 6, .d, .imm 0, .fe, 5⟩
def sf9 : StF := ⟨g0, 2, 1, .w, .imm 0, .fe, 5⟩
theorem iM2 (r : List (BitVec 6)) : Issues sM2 0 0 xm g0 r := ⟨⟨rfl, rfl⟩, rfl, fun r _ h => by cases h⟩
/-- A context with all its places in flight taken. -/
def xfull : Ctx := { xm with ap := { xm.ap with accs := (List.replicate 32 (Access.new sM xm .ld 5 0x1000 1 false [0x1000] 0 41 true)) ++ List.replicate 32 (Access.new sM xm .st 5 0x1000 1 false [0x1000] 0 41 true) } }
def sfull : State := hbm { stl .ap kL xfull lw with mem := m1, serial := 9, time := 200000, cycles := 28 }
theorem ifull (r : List (BitVec 6)) : Issues sfull 0 0 xfull g0 r := ⟨⟨rfl, rfl⟩, rfl, fun r _ h => by cases h⟩
def ac (k : AKind) (id : Nat) (as : List Nat) : Access := { Access.new sM xm k 5 0x1000 as.length false as 0xFEDCBA9876543210 41 true with id := id }
def acs (n : Nat) : List Access := [ac .ld 3 [0x1000, 0x1001], ac .st 4 [0x1000, 0x1001, 0x1002, 0x1003], ac .amo 5 [0x1008, 0x1009, 0x100a, 0x100b]].map fun a => { a with performed := a.id == n, result := 0x77 }
def xp (n : Nat) : Ctx := { xm with ap := { xm.ap with accs := acs n, pend := [41, 41] } }
def sP (n : Nat) : State := hbm { stl .ap kM (xp n) l16 with mem := m1, serial := 9, time := 200000 }
def aP (n k : Nat) : Access := (acs n).getD k (ac .ld 0 [])
theorem inP0 : InFlight (sP 4) 0 0 (xp 4) (aP 4 0) := ⟨by decide +kernel, by decide +kernel, by decide +kernel⟩
theorem inQ0 : InFlight (sP 3) 0 0 (xp 3) (aP 3 0) := ⟨by decide +kernel, by decide +kernel, by decide +kernel⟩
theorem inQ1 : InFlight (sP 3) 0 0 (xp 3) (aP 3 1) := ⟨by decide +kernel, by decide +kernel, by decide +kernel⟩
def ah (k : AKind) : Access := { Access.new sM xm k 5 0x1000 4 false [0x100000001000, 0x100000001001, 0x100000001002, 0x100000001003] 7 41 true with issued := 20000, id := 3 }
def xh (k : AKind) : Ctx := { xm with ap := { xm.ap with accs := [ah k], pend := [41] } }
def sH (k : AKind) : State := hbm { stl .ap kL (xh k) lw with time := 200000 }
theorem inH (k : AKind) : InFlight (sH k) 0 0 (xh k) (ah k) := ⟨rfl, by simp [xh], by intro b h _; simpa [xh] using h⟩
def ml (k : AKind) : Access := { ac k 3 [0x1001, 0x1002] with left := [0, 1] }
def xl2 (k : AKind) : Ctx := { xm with ap := { xm.ap with accs := [ml k], pend := [41] } }
def sL2 (k : AKind) : State := hbm { stl .ap kM (xl2 k) l16 with mem := m1, serial := 9, time := 200000 }
theorem inL2 (k : AKind) : InFlight (sL2 k) 0 0 (xl2 k) (ml k) := ⟨rfl, by simp [xl2], by intro b h _; simpa [xl2] using h⟩
def af (op : AmoOp) (a : BitVec 6) : AmoF := ⟨g0, 42, a, true, .dev, 5, 2, 3, op, .ar⟩
def pas : List Nat := [0x1008, 0x1009, 0x100a, 0x100b]
def aq (op : AmoOp) (pf : Bool) : Access := { Access.new sM xm .amo 5 0x1008 4 false pas 0x10 41 true with op := op, id := 3, performed := pf, result := 0xFFFFFFFF000000F0, tag := 77, attempts := 0, issued := 100000 }
def xq (a : Access) : Ctx := { xm with ap := { xm.ap with accs := [a], pend := [41] } }
def sQ (a : Access) : State := hbm { stl .ap kL (xq a) lw with mem := m1, time := 300000, replay := [⟨0, 0, 0, 78, 5, 0, 1, some (aq .max false), none⟩], merges := [⟨3, 0x1008, .add, false, 200000, [(0, 5, none)]⟩], rwb := [(3, 0x4000000000000)] }
theorem inQ (a : Access) : InFlight (sQ a) 0 0 (xq a) a := ⟨rfl, by simp [xq], by intro b h _; simpa [xq] using h⟩
def aq8 : Access := { aq .max false with tag := 78 }
def aq9 : Access := { aq .max false with attempts := 8, issued := 120000 }
/-- The cycle of sM is at a wheel position of the core. -/
theorem slotM : ∃ l m, sM.launch xm.lid = some l ∧ l.at 42 1 ≠ 0 ∧ (sM.core 0).allot xm.lid = some m ∧ sM.cycles / 4 % 1024 ∈ m.wheel ∧ (sM.core 0).lastSc ≠ some (sM.cycles / 4) :=
  ⟨lw, alV, yes, yes, yes, yes, yes⟩
def sQ0 : State := { sQ (aq .max false) with replay := [] }
theorem inQ0' : InFlight sQ0 0 0 (xq (aq .max false)) (aq .max false) := ⟨rfl, by simp [xq], by intro b h _; simpa [xq] using h⟩
def fullAt : State := { sQ0 with replay := List.replicate (Config.replayDepth (Config.homeOf 1) + 1) ⟨0, 0, 0, 78, 5, 0, 1, none, none⟩ }
theorem inQf : InFlight fullAt 0 0 (xq (aq .max false)) (aq .max false) := ⟨rfl, by simp [xq], by intro b h _; simpa [xq] using h⟩
theorem is_full : fullAt.replayFull 1 = true := by
  simp [State.replayFull, fullAt]
theorem not_full : sQ0.replayFull 1 = false := by simp [State.replayFull, sQ0]
theorem none_alike : fullAt.replay.find? (fun r => r.tray == fullAt.tray && r.core == 0 && r.slot == 0 && r.tag == (aq .max false).tag) = none := by
  rw [List.find?_eq_none]; intro r hr; rw [List.eq_of_mem_replicate hr]; decide +kernel
def sQ9 : State := { sQ aq9 with replay := [] }
theorem not_full9 : sQ9.replayFull (0x1008 / 4096) = false := by simp [State.replayFull, sQ9]
def ak (k : AKind) : Access := { ac k 3 [0x1008] with performed := false }
def ds (pr : List Nat) : DStore := ⟨4, 0, 0, 0, 5, some 3, [(0x010000000000, 7), (0x010000000001, 0)], pr, none, 0, [], 0, none⟩
def xf (l : List Access) : Ctx := { xm with ap := { xm.ap with accs := l, seenRel := [(5, 2, { ids := [4], scope := .dur, core := 0, slot := 2, lid := 0 })] } }
def sF (l : List Access) : State := hbm { stl .ap kL (xf l) lw with mem := m1, serial := 9, time := 200000, dstores := [ds []], durImg := [(0x010000000001, 9)] }
theorem iF (l) (r : List (BitVec 6)) : Issues (sF l) 0 0 (xf l) g0 r := ⟨⟨rfl, rfl⟩, rfl, fun r _ h => by cases h⟩
def sG (pr : List Nat) : State := { sF [] with dstores := [ds pr, { ds [] with id := 7, pos := none }], cores := [] }
def waf (b : BitVec 6) : WaitAF := ⟨g0, 41, 8, b, 3⟩
def xw (a : Option Armed) : Ctx := { xm with ap := { xm.ap with armed := a } }
def xw2 : Ctx := { x0 with ap := { x0.ap with armed := some ⟨5, 0x1008, 0, 0, none⟩ } }
def sW (a : Option Armed) : State := hbm { stl .ap kL (xw a) lw with cores := [(0, { kL with ctxs := [(0, xw a), (2, xw2)] }), (7, { k0 with ctxs := [(1, xw2)] })], mem := m1, serial := 9, time := 200000 }
theorem iW (l) (r : List (BitVec 6)) : Issues (sW l) 0 0 (xw l) g0 r := ⟨⟨rfl, rfl⟩, rfl, fun r _ h => by cases h⟩
def arm (s : Option Nat) (t : Nat) : Option Armed := some ⟨3, 0x1008, 0, t, s⟩
/-- A die whose table of monitors is full. -/
def sWf : State := hbm { stl .ap kL (xw none) lw with cores := [(0, { kL with ctxs := [(0, xw none)] }), (7, { k0 with ctxs := List.replicate 4096 (1, xw2) })], mem := m1, serial := 9, time := 200000 }
theorem iWf (r : List (BitVec 6)) : Issues sWf 0 0 (xw none) g0 r := ⟨⟨rfl, rfl⟩, rfl, fun r _ h => by cases h⟩
def xws : Ctx := { xm with ap := { xm.ap with accs := [ak .st] } }
def sWs : State := { sW (arm none 5) with cores := [(0, { kL with ctxs := [(0, xw (arm none 5)), (2, xws)] })] }
theorem inWs : InFlight sWs 0 2 xws (ak .st) := ⟨rfl, by simp [xws], by intro b h _; simpa [xws] using h⟩
def lb : Launch := { lau (rcd [(32, 2, 2), (37, 1, 1), (42, 1, 1), (43, 1, 16)]) with bars := [(2, (8, 1)), (3, (2^32-1, 1))], cores := [0, 7] }
def sB : State := { sM with launches := [lb], lqcfg := [(5, 0x8000000000000003), (6, 0x8030000000000003)], lqseq := [(5, 2^26-1)], lqdrop := [(7, 65535)], west := { sM.west with boot := { sM.west.boot with ready := true } } }
theorem iB {r : List (BitVec 6)} : Issues sB 0 0 xm g0 r := ⟨⟨rfl, rfl⟩, rfl, fun r _ h => by cases h⟩
def xb : Ctx := { xm with ap := { xm.ap with accs := [ak .st] } }
def sBb : State := { sB with cores := [(0, { kL with ctxs := [(0, xb)] })] }
def xbw : Ctx := { xm with ap := { xm.ap with wait := some (.barrier 41 5) } }
def xlw : Ctx := { xm with ap := { xm.ap with wait := some (.launch 41 5) } }
def crec (f : Nat) : List Byte := leBytes 8 0x111000 ++ leBytes 8 0x222000 ++ leBytes 8 0 ++ leBytes 8 0x55 ++ leBytes 4 0 ++ leBytes 2 0 ++ leBytes 1 3 ++ leBytes 1 f ++ leBytes 24 0
def cells (a : Nat) (l : List Byte) : List Host.Cell := (cellsAt a l).filter fun q => q.2 != 0
def xs : Ctx := { xm with ap := { xm.ap with s := [(1, 0x2000), (2, 0x77), (3, 0x8000), (4, 0x2004)] } }
def lt : Launch := { lau (rcd [(32, 2, 1), (36, 1, 3), (37, 1, 1), (42, 1, 1), (43, 1, 16)]) with tasks := [⟨0x9000, 5, false⟩] }
def sT : State := hbm { stl .ap kL xs lt with mem := cells 0x2000 (crec 0), serial := 9, time := 200000 }
theorem iT {r : List (BitVec 6)} : Issues sT 0 0 xs g0 r := ⟨⟨rfl, rfl⟩, rfl, fun r _ h => by cases h⟩
theorem nodup_areas : (natsFrom 0x2000 64 ++ natsFrom 0x8000 0x4000).Nodup := by
  have h : ∀ a n, natsFrom a n = List.range' a n := fun a n => by rw [natsFrom, List.range_eq_range', List.map_add_range']; simp
  rw [h, h, List.nodup_append]
  refine ⟨List.nodup_range', List.nodup_range', fun a ha b hb => ?_⟩
  simp only [List.mem_range'_1] at ha hb; omega
def pas64 : List Nat := natsFrom 0x2000 64
def area : List Nat := natsFrom 0x8000 0x4000
/-- The state in which the context has begun to suspend. -/
def uT : State := sT.setCtx 0 0 { xs with suspending := true }
theorem xl_rec : uT.apXlate 0 xs .write (xs.ap.s' 1) 64 = (uT, .ok pas64) := pair_of yes
theorem xl_area : uT.apXlate 0 xs .write (xs.ap.s' 3) 0x4000 = (uT, .ok area) := pair_of yes
theorem plain_area : Plain sT (pas64 ++ area) := by
  intro a h
  refine ⟨?_, rfl, rfl⟩
  simp only [pas64, area, natsFrom, List.mem_append, List.mem_map, List.mem_range] at h; omega
def tk9 : Task := ⟨0x9000, BitVec.ofNat 512 (leNat (crec 0)), false⟩
def lt2 : Launch := { lt with tasks := [tk9] }
def sT2 : State := { sT with launches := [lt2], cores := [(0, { kL with ctxs := [], allots := [{ alV with contexts := [2] }] })] }
def tlb2 : TlbE := { tlb1 with va := 0x80000000, pasid := 2, glob := true }
def lx (n : Nat) : Launch := { lw with fn := ⟨.west, n⟩ }
def sX (n : Nat) : State := { sM with launches := [lx n], west := { sM.west with tlb := [tlb1, tlb2] }, cores := [(0, { kL with tlb := [tlb1, tlb2], ctxs := [(0, xm)] }), (3, kM)] }
theorem iX (n) {r : List (BitVec 6)} : Issues (sX n) 0 0 xm g0 r := ⟨⟨rfl, rfl⟩, rfl, fun r _ h => by cases h⟩
def xv : Ctx := { xm with ap := { xm.ap with wait := some (.tlbi 9) } }
def sV : State := stl .ap kL xv lw
def ast : List Host.Cell := cells 0x10000 (leBytes 8 0x11001) ++ cells 0x11000 (leBytes 8 0x12001) ++ cells 0x12000 (leBytes 16 (0x307)) ++ cells 0x800008 (leBytes 8 0x10001)
def wk (va : Nat) : Walk := ⟨3, 0, 1, va, some true, none⟩
def sK (va : Nat) : State := { sM with mem := ast, astbase := 0x800001, west := { sM.west with walks := [wk va], tlb := [tlb2], hosts := [⟨4, 1, 5, false, none, 255, 0⟩, ⟨6, 1, 5, true, none, 255, 0⟩] } }
def ltst : Launch := { lau (rcd [(32, 2, 1), (36, 1, 0x80), (37, 1, 4), (38, 2, 2), (40, 1, 2), (41, 1, 2), (43, 1, 16)]) with cores := [0, 7] }
def alF : Allot := ⟨0, [0, 1, 2, 3], natsFrom 0 32, natsFrom 0 24, natsFrom 0 16, true, true, []⟩
def kF : Core := { kL with allots := [alF], banks := [(5, 3)] }
def xF : Ctx := regs [(1, 0x7777), (2, 1000), (3, 7), (4, 1001), (5, 400), (6, 0)]
def sFt : State := { stl .ap kF xF ltst with cmap := [] }
theorem iFt {r : List (BitVec 6)} : Issues sFt 0 0 xF g0 r := ⟨⟨rfl, rfl⟩, rfl, fun r _ h => by cases h⟩
def sFx : State := stl .ap kF xF l16
theorem iFx {r : List (BitVec 6)} : Issues sFx 0 0 xF g0 r := ⟨⟨rfl, rfl⟩, rfl, fun r _ h => by cases h⟩
def xFw (u : Bool) : Ctx := { xF with ap := { xF.ap with wait := some (.ftest 41 u 0x7777 2 100) } }
def sFw (u : Bool) (t : Nat) : State := { stl .ap kF (xFw u) ltst with time := BitVec.ofNat 64 t }
def xS : Ctx := regs [(3, 7), (4, BitVec.ofNat 64 (Config.spareSite 0).toNat), (5, 300)]
def sS : State := { stl .ap kF xS ltst with west := { sFt.west with spareFree := 0xFF } }
theorem iS {r : List (BitVec 6)} : Issues sS 0 0 xS g0 r := ⟨⟨rfl, rfl⟩, rfl, fun r _ h => by cases h⟩
theorem siteReg : (xS.ap.s' 4).toNat = (Config.spareSite 0).toNat := by
  show (BitVec.ofNat 64 (Config.spareSite 0).toNat).toNat = _
  have h := (Config.spareSite 0).isLt; simp; omega
theorem siteDie : (xS.ap.s' 4).toNat / 256 = 0 := by
  rw [siteReg]; show (Config.siteOf 0 _).toNat / 256 = 0
  simp only [Config.siteOf, BitVec.toNat_ofNat]; omega
theorem siteFree : sS.spareOk .west (xS.ap.s' 4).toNat = true := by
  rw [siteReg]; simp [State.spareOk, natsFrom, sS, sFt, stl, st, State.reset, DieSt.reset, State.die, dieNat]
  exact ⟨0, by decide, rfl, by decide⟩
def sSi : State := stl .ap { kF with streams := [(2, strm), (3, { strm with owner := 1 })] } xS ltst
theorem iSi {r : List (BitVec 6)} : Issues sSi 0 0 xS g0 r := ⟨⟨rfl, rfl⟩, rfl, fun r _ h => by cases h⟩

theorem witness_GlobalLoadsAndStoresIssue (H : Obligations.GlobalLoadsAndStoresIssue) : type_of% (And.intro ((H.1 sM 0 0 xm [0x1008, 0x1009] (by unfold Plain; decide +kernel)).1 lf (iM _) rfl yes yes (pair_of yes))
    (And.intro ((H.1 sM 0 0 xm [0xffc, 0xffd, 0xffe, 0xfff, 0x1000, 0x1001, 0x1002, 0x1003] (by unfold Plain; decide +kernel)).2 sf (iM _) rfl yes yes (pair_of yes))
    (And.intro ((((H.2 sM2 0 0 xm).1 lf2 (iM2 _)).1 rfl).2 yes sM (.fault 7 0 0 5, 0x40001000) (pairE_of yes yes) |>.1 7 0 0 5 rfl)
    (And.intro ((((H.2 sM2 0 0 xm).2 sf2 (iM2 _)).1 rfl).2 yes sM (.fault 7 0 0 5, 0x40001000) (pairE_of yes yes) |>.1 7 0 0 5 rfl)
    (And.intro ((((H.2 sM 0 0 xm).1 lf2 (iM _)).1 rfl).2 yes (sM.apXlate 0 xm .read 0x40001000 2).1 (.wait, 0x40001000) (pairE_of rfl yes) |>.2 rfl)
    (And.intro ((((H.2 sM 0 0 xm).2 sf2 (iM _)).1 rfl).2 yes (sM.apXlate 0 xm .write 0x40001000 8).1 (.wait, 0x40001000) (pairE_of rfl yes) |>.2 rfl)
    (And.intro ((((H.2 sfull 0 0 xfull).1 lf2 (ifull _)).1 rfl).1 yes)
    (And.intro ((((H.2 sfull 0 0 xfull).2 sf2 (ifull _)).1 rfl).1 yes)
    (And.intro ((((H.2 sM 0 0 xm).1 lf3 (iM _)).2.1 rfl).1 yes)
    (And.intro ((((H.2 sM 0 0 xm).2 sf3 (iM _)).2.1 rfl).1 yes)
    (And.intro ((((H.2 sfull 0 0 xfull).1 lf5 (ifull _)).2.1 rfl).2 yes yes)
    (And.intro ((((H.2 sfull 0 0 xfull).2 sf7 (ifull _)).2.1 rfl).2 yes yes)
    (And.intro ((((H.2 sM 0 0 xm).1 lf4 (iM _)).2.2 rfl).1 yes)
    (And.intro ((((H.2 sM 0 0 xm).2 sf4 (iM _)).2.2 rfl).1 yes)
    (And.intro (((((H.2 sM 0 0 xm).2 sf8 (iM _)).2.2 rfl).2 yes).1 yes)
    (And.intro ((((((H.2 sM 0 0 xm).1 lf7 (iM _)).2.2 rfl).2 yes).2 yes).2 yes 1553 0 yes yes)
    (And.intro ((((((H.2 sM 0 0 xm).2 sf9 (iM _)).2.2 rfl).2 yes).2 yes).2 yes 1552 0 yes yes)
    ((((((H.2 sfull 0 0 xfull).2 sf9 (ifull _)).2.2 rfl).2 yes).2 yes).1 yes)))))))))))))))))) :=
  And.intro ((H.1 sM 0 0 xm [0x1008, 0x1009] (by unfold Plain; decide +kernel)).1 lf (iM _) rfl yes yes (pair_of yes))
    (And.intro ((H.1 sM 0 0 xm [0xffc, 0xffd, 0xffe, 0xfff, 0x1000, 0x1001, 0x1002, 0x1003] (by unfold Plain; decide +kernel)).2 sf (iM _) rfl yes yes (pair_of yes))
    (And.intro ((((H.2 sM2 0 0 xm).1 lf2 (iM2 _)).1 rfl).2 yes sM (.fault 7 0 0 5, 0x40001000) (pairE_of yes yes) |>.1 7 0 0 5 rfl)
    (And.intro ((((H.2 sM2 0 0 xm).2 sf2 (iM2 _)).1 rfl).2 yes sM (.fault 7 0 0 5, 0x40001000) (pairE_of yes yes) |>.1 7 0 0 5 rfl)
    (And.intro ((((H.2 sM 0 0 xm).1 lf2 (iM _)).1 rfl).2 yes (sM.apXlate 0 xm .read 0x40001000 2).1 (.wait, 0x40001000) (pairE_of rfl yes) |>.2 rfl)
    (And.intro ((((H.2 sM 0 0 xm).2 sf2 (iM _)).1 rfl).2 yes (sM.apXlate 0 xm .write 0x40001000 8).1 (.wait, 0x40001000) (pairE_of rfl yes) |>.2 rfl)
    (And.intro ((((H.2 sfull 0 0 xfull).1 lf2 (ifull _)).1 rfl).1 yes)
    (And.intro ((((H.2 sfull 0 0 xfull).2 sf2 (ifull _)).1 rfl).1 yes)
    (And.intro ((((H.2 sM 0 0 xm).1 lf3 (iM _)).2.1 rfl).1 yes)
    (And.intro ((((H.2 sM 0 0 xm).2 sf3 (iM _)).2.1 rfl).1 yes)
    (And.intro ((((H.2 sfull 0 0 xfull).1 lf5 (ifull _)).2.1 rfl).2 yes yes)
    (And.intro ((((H.2 sfull 0 0 xfull).2 sf7 (ifull _)).2.1 rfl).2 yes yes)
    (And.intro ((((H.2 sM 0 0 xm).1 lf4 (iM _)).2.2 rfl).1 yes)
    (And.intro ((((H.2 sM 0 0 xm).2 sf4 (iM _)).2.2 rfl).1 yes)
    (And.intro (((((H.2 sM 0 0 xm).2 sf8 (iM _)).2.2 rfl).2 yes).1 yes)
    (And.intro ((((((H.2 sM 0 0 xm).1 lf7 (iM _)).2.2 rfl).2 yes).2 yes).2 yes 1553 0 yes yes)
    (And.intro ((((((H.2 sM 0 0 xm).2 sf9 (iM _)).2.2 rfl).2 yes).2 yes).2 yes 1552 0 yes yes)
    ((((((H.2 sfull 0 0 xfull).2 sf9 (ifull _)).2.2 rfl).2 yes).2 yes).1 yes)))))))))))))))))
theorem witness_LocalLoadsAndStores (H : Obligations.LocalLoadsAndStores) : type_of% (And.intro (((H sM 0 0 xm yes yes yes yes yes).1 lf8 (iM _) yes).1 rfl yes)
    (And.intro (((H sM 0 0 xm yes yes yes yes yes).1 lf5 (iM _) yes).2.1 rfl yes)
    (And.intro (((H sM 0 0 xm yes yes yes yes yes).1 lf6 (iM _) yes).2.2 rfl yes 1552 4 yes yes)
    (And.intro (((H sM 0 0 xm yes yes yes yes yes).2 sf7 (iM _) yes yes).2 yes (fun h => absurd h (by decide +kernel)))
    (And.intro (((H sM 0 0 xm yes yes yes yes yes).2 sf5 (iM _) yes yes).1 rfl yes)
    (((H sM 0 0 xm yes yes yes yes yes).2 sf6 (iM _) yes yes).2 yes (fun _ => ⟨1553, 4, by decide +kernel, by decide +kernel⟩))))))) :=
  And.intro (((H sM 0 0 xm yes yes yes yes yes).1 lf8 (iM _) yes).1 rfl yes)
    (And.intro (((H sM 0 0 xm yes yes yes yes yes).1 lf5 (iM _) yes).2.1 rfl yes)
    (And.intro (((H sM 0 0 xm yes yes yes yes yes).1 lf6 (iM _) yes).2.2 rfl yes 1552 4 yes yes)
    (And.intro (((H sM 0 0 xm yes yes yes yes yes).2 sf7 (iM _) yes yes).2 yes (fun h => absurd h (by decide +kernel)))
    (And.intro (((H sM 0 0 xm yes yes yes yes yes).2 sf5 (iM _) yes yes).1 rfl yes)
    (((H sM 0 0 xm yes yes yes yes yes).2 sf6 (iM _) yes yes).2 yes (fun _ => ⟨1553, 4, by decide +kernel, by decide +kernel⟩))))))
theorem witness_LoadsAndStoresArePerformed (H : Obligations.LoadsAndStoresArePerformed) : type_of% (And.intro ((H (sP 4) 0 0 (xp 4) (aP 4 0) inP0 rfl rfl (by unfold Oldest; decide +kernel)).1 rfl yes yes (by unfold Plain; decide +kernel) yes)
    (And.intro ((H (sP 3) 0 0 (xp 3) (aP 3 0) inQ0 rfl rfl (by unfold Oldest; decide +kernel)).2.1 rfl yes)
    (And.intro ((H (sP 3) 0 0 (xp 3) (aP 3 1) inQ1 rfl rfl (by unfold Oldest; decide +kernel)).2.2.2.2.1 rfl yes (by unfold Plain; decide +kernel) yes yes yes yes yes)
    (And.intro ((H (sL2 .st) 0 0 (xl2 .st) (ml .st) (inL2 _) rfl rfl (by unfold Oldest; decide +kernel)).2.2.1 rfl yes rfl (by unfold Plain; decide +kernel) yes yes yes yes yes)
    (And.intro ((H (sL2 .ld) 0 0 (xl2 .ld) (ml .ld) (inL2 _) rfl rfl (by unfold Oldest; decide +kernel)).2.2.2.1 rfl yes yes (by unfold Plain; decide +kernel) yes yes yes)
    (And.intro (((H (sH .ld) 0 0 (xh .ld) (ah .ld) (inH _) rfl rfl (by unfold Oldest; decide +kernel)).2.2.2.2.2 yes yes yes yes).1 rfl)
    (((H (sH .st) 0 0 (xh .st) (ah .st) (inH _) rfl rfl (by unfold Oldest; decide +kernel)).2.2.2.2.2 yes yes yes yes).2 rfl))))))) :=
  And.intro ((H (sP 4) 0 0 (xp 4) (aP 4 0) inP0 rfl rfl (by unfold Oldest; decide +kernel)).1 rfl yes yes (by unfold Plain; decide +kernel) yes)
    (And.intro ((H (sP 3) 0 0 (xp 3) (aP 3 0) inQ0 rfl rfl (by unfold Oldest; decide +kernel)).2.1 rfl yes)
    (And.intro ((H (sP 3) 0 0 (xp 3) (aP 3 1) inQ1 rfl rfl (by unfold Oldest; decide +kernel)).2.2.2.2.1 rfl yes (by unfold Plain; decide +kernel) yes yes yes yes yes)
    (And.intro ((H (sL2 .st) 0 0 (xl2 .st) (ml .st) (inL2 _) rfl rfl (by unfold Oldest; decide +kernel)).2.2.1 rfl yes rfl (by unfold Plain; decide +kernel) yes yes yes yes yes)
    (And.intro ((H (sL2 .ld) 0 0 (xl2 .ld) (ml .ld) (inL2 _) rfl rfl (by unfold Oldest; decide +kernel)).2.2.2.1 rfl yes yes (by unfold Plain; decide +kernel) yes yes yes)
    (And.intro (((H (sH .ld) 0 0 (xh .ld) (ah .ld) (inH _) rfl rfl (by unfold Oldest; decide +kernel)).2.2.2.2.2 yes yes yes yes).1 rfl)
    (((H (sH .st) 0 0 (xh .st) (ah .st) (inH _) rfl rfl (by unfold Oldest; decide +kernel)).2.2.2.2.2 yes yes yes yes).2 rfl))))))
theorem witness_AtomicsIssue (H : Obligations.AtomicsIssue) : type_of% (And.intro ((H (af .cas 5) sM 0 0 xm pas (iM _)).1 yes)
    (And.intro ((H (af .cas 8) sM 0 0 xm pas (iM _)).2 yes yes yes (pair_of yes) (by unfold Plain; decide +kernel) yes)
    (((H (af .cas 8) sM 0 0 xm pas (iM _)).2 yes yes yes (pair_of yes) (by unfold Plain; decide +kernel) yes).2.2.2 slotM))) :=
  And.intro ((H (af .cas 5) sM 0 0 xm pas (iM _)).1 yes)
    (And.intro ((H (af .cas 8) sM 0 0 xm pas (iM _)).2 yes yes yes (pair_of yes) (by unfold Plain; decide +kernel) yes)
    (((H (af .cas 8) sM 0 0 xm pas (iM _)).2 yes yes yes (pair_of yes) (by unfold Plain; decide +kernel) yes).2.2.2 slotM))
theorem witness_AtomicsArePerformed (H : Obligations.AtomicsArePerformed) : type_of% (And.intro ((H.1 (sQ (aq .max true)) 0 0 (xq (aq .max true)) (aq .max true) (inQ _) rfl rfl rfl).1 yes)
    (And.intro (((H.1 sQ0 0 0 (xq (aq .max false)) (aq .max false) inQ0' rfl rfl rfl).2 yes (by unfold Oldest; decide +kernel) rfl (by unfold Plain; decide +kernel) yes yes yes yes yes yes yes).1 yes not_full)
    (And.intro (((H.1 fullAt 0 0 (xq (aq .max false)) (aq .max false) inQf rfl rfl rfl).2 yes (by unfold Oldest; decide +kernel) rfl (by unfold Plain; decide +kernel) yes yes yes yes yes yes yes).2.1 none_alike is_full)
    (And.intro (((H.1 (sQ aq8) 0 0 (xq aq8) aq8 (inQ _) rfl rfl rfl).2 yes (by unfold Oldest; decide +kernel) rfl (by unfold Plain; decide +kernel) yes yes yes yes yes yes yes).2.2 ⟨0, 0, 0, 78, 5, 0, 1, some (aq .max false), none⟩ (aq .max false) yes rfl (Or.inl rfl))
    (And.intro ((H.2.1 (sQ aq8) 0 0 (xq aq8) aq8 (inQ _) rfl yes).1 yes)
    (And.intro ((H.2.1 (sQ aq9) 0 0 (xq aq9) aq9 (inQ _) rfl yes).2 yes)
    (And.intro ((H.2.2.1 { sQ aq8 with time := 2000000 } 0 ⟨0, 0, 0, 78, 5, 0, 1, some (aq .max false), none⟩ rfl).1 yes)
    (And.intro ((H.2.2.1 (sQ aq8) 0 ⟨0, 0, 0, 78, 5, 0, 1, some (aq .max false), none⟩ rfl).2 yes)
    (H.2.2.2 sQ9 0 ⟨3, 0x1008, .add, false, 200000, [(0, 5, none)]⟩ 0xFF0000F0 5 rfl rfl rfl yes rfl yes yes not_full9 yes yes))))))))) :=
  And.intro ((H.1 (sQ (aq .max true)) 0 0 (xq (aq .max true)) (aq .max true) (inQ _) rfl rfl rfl).1 yes)
    (And.intro (((H.1 sQ0 0 0 (xq (aq .max false)) (aq .max false) inQ0' rfl rfl rfl).2 yes (by unfold Oldest; decide +kernel) rfl (by unfold Plain; decide +kernel) yes yes yes yes yes yes yes).1 yes not_full)
    (And.intro (((H.1 fullAt 0 0 (xq (aq .max false)) (aq .max false) inQf rfl rfl rfl).2 yes (by unfold Oldest; decide +kernel) rfl (by unfold Plain; decide +kernel) yes yes yes yes yes yes yes).2.1 none_alike is_full)
    (And.intro (((H.1 (sQ aq8) 0 0 (xq aq8) aq8 (inQ _) rfl rfl rfl).2 yes (by unfold Oldest; decide +kernel) rfl (by unfold Plain; decide +kernel) yes yes yes yes yes yes yes).2.2 ⟨0, 0, 0, 78, 5, 0, 1, some (aq .max false), none⟩ (aq .max false) yes rfl (Or.inl rfl))
    (And.intro ((H.2.1 (sQ aq8) 0 0 (xq aq8) aq8 (inQ _) rfl yes).1 yes)
    (And.intro ((H.2.1 (sQ aq9) 0 0 (xq aq9) aq9 (inQ _) rfl yes).2 yes)
    (And.intro ((H.2.2.1 { sQ aq8 with time := 2000000 } 0 ⟨0, 0, 0, 78, 5, 0, 1, some (aq .max false), none⟩ rfl).1 yes)
    (And.intro ((H.2.2.1 (sQ aq8) 0 ⟨0, 0, 0, 78, 5, 0, 1, some (aq .max false), none⟩ rfl).2 yes)
    (H.2.2.2 sQ9 0 ⟨3, 0x1008, .add, false, 200000, [(0, 5, none)]⟩ 0xFF0000F0 5 rfl rfl rfl yes rfl yes yes not_full9 yes yes))))))))
theorem witness_FencesAndPersistence (H : Obligations.FencesAndPersistence) : type_of% (And.intro ((H.1 ⟨g0, .sys, 0xFFFF, .full⟩ (sF [ak .st]) 0 0 _ (iF _ _)).1 yes)
    (And.intro ((H.1 ⟨g0, .sys, 0, .acq⟩ (sF [ak .st]) 0 0 _ (iF _ _)).2.1 yes (Or.inl rfl))
    (And.intro (((H.1 ⟨g0, .dur, 0xFFFF, .full⟩ (sF []) 0 0 _ (iF _ _)).2.2 yes yes (Or.inl yes)).imp fun _ h => h.2.2.imp fun _ k => k.2.2.2.2.2.2 yes _ (List.mem_cons_self ..) yes yes yes 4 (List.mem_cons_self ..) yes)
    (And.intro (((H.1 ⟨g0, .dur, 0xFFFF, .full⟩ (sF []) 0 0 _ (iF _ _)).2.2 yes yes (Or.inl yes)).imp fun _ h => h.2.2.imp fun _ k => k.2.2.2.1 yes yes (ds []) (List.mem_cons_self ..) yes yes yes)
    (And.intro ((H.2.1 ⟨g0, 0x20⟩ (sF []) 0 0 _ (iF _ _)).1)
    (And.intro ((H.2.1 ⟨g0, 0xFFDF⟩ (sF []) 0 0 _ (iF _ _)).2.1 yes yes)
    (And.intro ((H.2.1 ⟨g0, 0x20⟩ (sF []) 0 0 _ (iF _ _)).2.2 yes)
    (And.intro ((H.2.2 (sG [7]) (ds [7]) yes yes).1 yes)
    ((H.2.2 (sG [6]) (ds [6]) yes yes).2 yes (fun _ h => nomatch h)))))))))) :=
  And.intro ((H.1 ⟨g0, .sys, 0xFFFF, .full⟩ (sF [ak .st]) 0 0 _ (iF _ _)).1 yes)
    (And.intro ((H.1 ⟨g0, .sys, 0, .acq⟩ (sF [ak .st]) 0 0 _ (iF _ _)).2.1 yes (Or.inl rfl))
    (And.intro (((H.1 ⟨g0, .dur, 0xFFFF, .full⟩ (sF []) 0 0 _ (iF _ _)).2.2 yes yes (Or.inl yes)).imp fun _ h => h.2.2.imp fun _ k => k.2.2.2.2.2.2 yes _ (List.mem_cons_self ..) yes yes yes 4 (List.mem_cons_self ..) yes)
    (And.intro (((H.1 ⟨g0, .dur, 0xFFFF, .full⟩ (sF []) 0 0 _ (iF _ _)).2.2 yes yes (Or.inl yes)).imp fun _ h => h.2.2.imp fun _ k => k.2.2.2.1 yes yes (ds []) (List.mem_cons_self ..) yes yes yes)
    (And.intro ((H.2.1 ⟨g0, 0x20⟩ (sF []) 0 0 _ (iF _ _)).1)
    (And.intro ((H.2.1 ⟨g0, 0xFFDF⟩ (sF []) 0 0 _ (iF _ _)).2.1 yes yes)
    (And.intro ((H.2.1 ⟨g0, 0x20⟩ (sF []) 0 0 _ (iF _ _)).2.2 yes)
    (And.intro ((H.2.2 (sG [7]) (ds [7]) yes yes).1 yes)
    ((H.2.2 (sG [6]) (ds [6]) yes yes).2 yes (fun _ h => nomatch h)))))))))
theorem witness_WaitsOnAddresses (H : Obligations.WaitsOnAddresses) : type_of% (And.intro (((H (sW (arm (some 2) 5)) 0 0 (xw (arm (some 2) 5)) 0x1008 yes yes).1 (waf 7) (iW _ _)).1 _ 2 rfl rfl)
    (And.intro (((H (sW (arm none 5)) 0 0 (xw (arm none 5)) 0x1008 yes yes).1 (waf 7) (iW _ _)).2.1 _ rfl rfl)
    (And.intro ((((H (sW none) 0 0 (xw none) 0x1008 yes yes).1 (waf 2) (iW _ _)).2.2 rfl (pair_of yes) yes).1 yes)
    (And.intro ((((H (sW none) 0 0 (xw none) 0x1008 yes yes).1 (waf 7) (iW _ _)).2.2 rfl (pair_of yes) yes).2.1 yes yes)
    (And.intro ((((H sWf 0 0 (xw none) 0x1008 yes yes).1 (waf 7) (iWf _)).2.2 rfl (pair_of yes) yes).2.2 yes yes)
    (And.intro ((H sWs 0 0 (xw (arm none 5)) 0x1008 yes yes).2.1 ⟨3, 0x1008, 0, 5, none⟩ 0 2 xws (ak .st) rfl rfl rfl rfl inWs rfl rfl rfl (by unfold Oldest; decide +kernel) rfl (by unfold Plain; decide +kernel) yes yes yes yes)
    (And.intro (((H (sW (arm none 5)) 0 0 (xw (arm none 5)) 0x1008 yes yes).2.2.1 _ rfl rfl rfl).1 yes yes)
    (And.intro (((H (sW (arm none 0)) 0 0 (xw (arm none 0)) 0x1008 yes yes).2.2.1 _ rfl rfl rfl).2 rfl)
    ((H (sW none) 0 0 (xw none) 0x1008 yes yes).2.2.2 ⟨g0, 41, 8⟩ (iW _ _) yes (pair_of yes)))))))))) :=
  And.intro (((H (sW (arm (some 2) 5)) 0 0 (xw (arm (some 2) 5)) 0x1008 yes yes).1 (waf 7) (iW _ _)).1 _ 2 rfl rfl)
    (And.intro (((H (sW (arm none 5)) 0 0 (xw (arm none 5)) 0x1008 yes yes).1 (waf 7) (iW _ _)).2.1 _ rfl rfl)
    (And.intro ((((H (sW none) 0 0 (xw none) 0x1008 yes yes).1 (waf 2) (iW _ _)).2.2 rfl (pair_of yes) yes).1 yes)
    (And.intro ((((H (sW none) 0 0 (xw none) 0x1008 yes yes).1 (waf 7) (iW _ _)).2.2 rfl (pair_of yes) yes).2.1 yes yes)
    (And.intro ((((H sWf 0 0 (xw none) 0x1008 yes yes).1 (waf 7) (iWf _)).2.2 rfl (pair_of yes) yes).2.2 yes yes)
    (And.intro ((H sWs 0 0 (xw (arm none 5)) 0x1008 yes yes).2.1 ⟨3, 0x1008, 0, 5, none⟩ 0 2 xws (ak .st) rfl rfl rfl rfl inWs rfl rfl rfl (by unfold Oldest; decide +kernel) rfl (by unfold Plain; decide +kernel) yes yes yes yes)
    (And.intro (((H (sW (arm none 5)) 0 0 (xw (arm none 5)) 0x1008 yes yes).2.2.1 _ rfl rfl rfl).1 yes yes)
    (And.intro (((H (sW (arm none 0)) 0 0 (xw (arm none 0)) 0x1008 yes yes).2.2.1 _ rfl rfl rfl).2 rfl)
    ((H (sW none) 0 0 (xw none) 0x1008 yes yes).2.2.2 ⟨g0, 41, 8⟩ (iW _ _) yes (pair_of yes)))))))))
theorem witness_BarriersTriggersAndLaunches (H : Obligations.BarriersTriggersAndLaunches) : type_of% (And.intro (((H.1 sBb 0 0 xb lb rfl).1 ⟨g0, 41, 2⟩ ⟨⟨rfl, rfl⟩, rfl, fun r _ h => by cases h⟩).1 yes)
    (And.intro (((H.1 sB 0 0 xm lb rfl).1 ⟨g0, 41, 2⟩ iB).2 yes rfl)
    (And.intro ((H.1 { stl .ap kL xbw lb with serial := 9 } 0 0 xbw lb rfl).2.1 41 5 rfl rfl)
    (And.intro (((H.1 sBb 0 0 xb lb rfl).2.2 ⟨g0⟩ ⟨⟨rfl, rfl⟩, rfl, fun r _ h => by cases h⟩).1 yes)
    (And.intro (((H.1 sB 0 0 xm lb rfl).2.2 ⟨g0⟩ iB).2 yes)
    (And.intro (((H.2 sB 0 0 xm lb rfl).1 ⟨g0, 41, 8, 5⟩ iB yes rfl).1 yes yes)
    (And.intro (((H.2 sB 0 0 xm lb rfl).1 ⟨g0, 41, 8, 7⟩ iB yes rfl).2.1 yes yes)
    (And.intro (((H.2 sB 0 0 xm lb rfl).1 ⟨g0, 41, 8, 6⟩ iB yes rfl).2.2 yes rfl)
    ((H.2 { stl .ap kL xlw lb with serial := 9 } 0 0 xlw lb rfl).2 41 5 rfl rfl))))))))) :=
  And.intro (((H.1 sBb 0 0 xb lb rfl).1 ⟨g0, 41, 2⟩ ⟨⟨rfl, rfl⟩, rfl, fun r _ h => by cases h⟩).1 yes)
    (And.intro (((H.1 sB 0 0 xm lb rfl).1 ⟨g0, 41, 2⟩ iB).2 yes rfl)
    (And.intro ((H.1 { stl .ap kL xbw lb with serial := 9 } 0 0 xbw lb rfl).2.1 41 5 rfl rfl)
    (And.intro (((H.1 sBb 0 0 xb lb rfl).2.2 ⟨g0⟩ ⟨⟨rfl, rfl⟩, rfl, fun r _ h => by cases h⟩).1 yes)
    (And.intro (((H.1 sB 0 0 xm lb rfl).2.2 ⟨g0⟩ iB).2 yes)
    (And.intro (((H.2 sB 0 0 xm lb rfl).1 ⟨g0, 41, 8, 5⟩ iB yes rfl).1 yes yes)
    (And.intro (((H.2 sB 0 0 xm lb rfl).1 ⟨g0, 41, 8, 7⟩ iB yes rfl).2.1 yes yes)
    (And.intro (((H.2 sB 0 0 xm lb rfl).1 ⟨g0, 41, 8, 6⟩ iB yes rfl).2.2 yes rfl)
    ((H.2 { stl .ap kL xlw lb with serial := 9 } 0 0 xlw lb rfl).2 41 5 rfl rfl))))))))
theorem witness_TasksSpawnSuspendAndStart (H : Obligations.TasksSpawnSuspendAndStart) : type_of% (And.intro (((H sT 0 0 xs lt rfl yes).1 ⟨g0, 1⟩ (natsFrom 0x2000 64) iT yes).1 yes (pair_of yes) (by unfold Plain; decide +kernel) yes)
    (And.intro (((H sT 0 0 xs lt rfl yes).1 ⟨g0, 4⟩ (natsFrom 0x2000 64) iT yes).2 yes)
    (And.intro ((H sT 0 0 xs lt rfl yes).2.1 ⟨g0, .a, 1, 2, 3⟩ pas64 area iT rfl rfl yes yes yes yes yes xl_rec xl_area plain_area yes nodup_areas yes yes)
    ((H sT2 0 2 xs lt2 rfl yes).2.2 tk9 0 false [] rfl rfl yes yes)))) :=
  And.intro (((H sT 0 0 xs lt rfl yes).1 ⟨g0, 1⟩ (natsFrom 0x2000 64) iT yes).1 yes (pair_of yes) (by unfold Plain; decide +kernel) yes)
    (And.intro (((H sT 0 0 xs lt rfl yes).1 ⟨g0, 4⟩ (natsFrom 0x2000 64) iT yes).2 yes)
    (And.intro ((H sT 0 0 xs lt rfl yes).2.1 ⟨g0, .a, 1, 2, 3⟩ pas64 area iT rfl rfl yes yes yes yes yes xl_rec xl_area plain_area yes nodup_areas yes yes)
    ((H sT2 0 2 xs lt2 rfl yes).2.2 tk9 0 false [] rfl rfl yes yes)))
theorem witness_Translations (H : Obligations.Translations) : type_of% (And.intro ((H.1 sM 0 1 (2^57) 0xFFFF .read tlb1).1 yes)
    (And.intro ((H.1 sM2 0 1 0x40001000 0xFFFF .read tlb1).2.1 yes ⟨3, 0, 1, 0x40001, some false, some (.fault 7 0 5)⟩ 7 0 5 rfl rfl)
    (And.intro (((H.1 sM 0 1 0x1234 0xFFFE .read tlb1).2.2 yes yes rfl yes).1 yes)
    (And.intro (((H.1 sM 0 1 0x1234 0xFFFF .code tlb1).2.2 yes yes rfl yes).2.1 yes yes)
    (And.intro (((H.1 { sM with retired := [1] } 0 1 0x1234 0xFFFF .read tlb1).2.2 yes yes rfl yes).2.2.1 yes yes yes)
    (And.intro (((H.1 { sM with tags := [(1, 1)] } 0 1 0x1234 0xFFFF .read tlb1).2.2 yes yes rfl yes).2.2.2.1 yes yes yes yes)
    (And.intro (((H.1 sM 0 1 0x1234 0xFFFF .read tlb1).2.2 yes yes rfl yes).2.2.2.2 yes yes yes yes)
    (And.intro ((H.2.1 (sX 0) 0 0 xm (lx 0) ⟨g0, 1⟩ ⟨g0⟩ rfl rfl (iX 0)).1 rfl rfl)
    (And.intro ((H.2.1 (sX 3) 0 0 xm (lx 3) ⟨g0, 1⟩ ⟨g0⟩ rfl rfl (iX 3)).2 yes rfl)
    (And.intro ((H.2.2.1 sV 0 0 xv 9 rfl rfl).1 yes)
    (And.intro ((H.2.2.2.1 (sK 5) .west (wk 5) [] rfl rfl yes).1 0x307 2 (by rfl) rfl)
    (And.intro ((H.2.2.2.1 (sK 0x40000) .west (wk 0x40000) [] rfl rfl yes).2 3 2 0 (by rfl))
    (And.intro ((H.2.2.2.2 (sK 5) .west ⟨4, 1, 5, false, none, 255, 0⟩ (.ok true false) yes rfl rfl rfl).1 rfl)
    (And.intro ((H.2.2.2.2 (sK 5) .west ⟨6, 1, 5, true, none, 255, 0⟩ (.ok true false) yes rfl rfl rfl).2.1 rfl)
    ((H.2.2.2.2 (sK 5) .west ⟨6, 1, 5, true, none, 255, 0⟩ (.ok true false) yes rfl rfl rfl).2.2 true false rfl))))))))))))))) :=
  And.intro ((H.1 sM 0 1 (2^57) 0xFFFF .read tlb1).1 yes)
    (And.intro ((H.1 sM2 0 1 0x40001000 0xFFFF .read tlb1).2.1 yes ⟨3, 0, 1, 0x40001, some false, some (.fault 7 0 5)⟩ 7 0 5 rfl rfl)
    (And.intro (((H.1 sM 0 1 0x1234 0xFFFE .read tlb1).2.2 yes yes rfl yes).1 yes)
    (And.intro (((H.1 sM 0 1 0x1234 0xFFFF .code tlb1).2.2 yes yes rfl yes).2.1 yes yes)
    (And.intro (((H.1 { sM with retired := [1] } 0 1 0x1234 0xFFFF .read tlb1).2.2 yes yes rfl yes).2.2.1 yes yes yes)
    (And.intro (((H.1 { sM with tags := [(1, 1)] } 0 1 0x1234 0xFFFF .read tlb1).2.2 yes yes rfl yes).2.2.2.1 yes yes yes yes)
    (And.intro (((H.1 sM 0 1 0x1234 0xFFFF .read tlb1).2.2 yes yes rfl yes).2.2.2.2 yes yes yes yes)
    (And.intro ((H.2.1 (sX 0) 0 0 xm (lx 0) ⟨g0, 1⟩ ⟨g0⟩ rfl rfl (iX 0)).1 rfl rfl)
    (And.intro ((H.2.1 (sX 3) 0 0 xm (lx 3) ⟨g0, 1⟩ ⟨g0⟩ rfl rfl (iX 3)).2 yes rfl)
    (And.intro ((H.2.2.1 sV 0 0 xv 9 rfl rfl).1 yes)
    (And.intro ((H.2.2.2.1 (sK 5) .west (wk 5) [] rfl rfl yes).1 0x307 2 (by rfl) rfl)
    (And.intro ((H.2.2.2.1 (sK 0x40000) .west (wk 0x40000) [] rfl rfl yes).2 3 2 0 (by rfl))
    (And.intro ((H.2.2.2.2 (sK 5) .west ⟨4, 1, 5, false, none, 255, 0⟩ (.ok true false) yes rfl rfl rfl).1 rfl)
    (And.intro ((H.2.2.2.2 (sK 5) .west ⟨6, 1, 5, true, none, 255, 0⟩ (.ok true false) yes rfl rfl rfl).2.1 rfl)
    ((H.2.2.2.2 (sK 5) .west ⟨6, 1, 5, true, none, 255, 0⟩ (.ok true false) yes rfl rfl rfl).2.2 true false rfl))))))))))))))
theorem witness_FieldTestAndCoreMap (H : Obligations.FieldTestAndCoreMap) : type_of% (And.intro (((H sFx 0 0 xF).1 ⟨g0, 41, 1, 2⟩ iFx).1 yes)
    (And.intro (((H sFt 0 0 xF).1 ⟨g0, 41, 1, 4⟩ iFt).2.2.1 yes yes yes)
    (And.intro (((H sFt 0 0 xF).1 ⟨g0, 41, 1, 2⟩ iFt).2.2.2 yes yes yes yes rfl)
    (And.intro ((H (sFw false 2100) 0 0 (xFw false)).2.1 41 false 0x7777 2 100 rfl rfl yes)
    (And.intro ((H (sFw true 2099) 0 0 (xFw true)).2.2.1 41 true 0x7777 2 100 rfl rfl yes)
    (And.intro (((H sFx 0 0 xF).2.2.2.1 ⟨g0, 41, 3⟩ iFx).1 yes)
    (And.intro (((H sFt 0 0 xF).2.2.2.1 ⟨g0, 41, 3⟩ iFt).2.1 yes yes)
    (And.intro (((H sFt 0 0 xF).2.2.2.1 ⟨g0, 41, 5⟩ iFt).2.2.1 yes yes)
    (And.intro (((H sFt 0 0 xF).2.2.2.1 ⟨g0, 41, 5⟩ iFt).2.2.2.1 ltst rfl yes yes)
    (And.intro (((H sFt 0 0 xF).2.2.2.1 ⟨g0, 41, 3⟩ iFt).2.2.2.2.2 ltst rfl yes yes yes yes)
    (And.intro (((H sS 0 0 xS).2.2.2.2.1 ⟨g0, 41, 5, 4⟩ iS ltst rfl yes).1 yes)
    (And.intro (((H sS 0 0 xS).2.2.2.2.1 ⟨g0, 41, 3, 4⟩ iS ltst rfl yes).2 yes yes yes siteDie siteFree)
    (And.intro (((H sSi 0 0 xS).2.2.2.2.2 ⟨g0, 41, 9⟩ iSi).1 rfl)
    (And.intro (((H sSi 0 0 xS).2.2.2.2.2 ⟨g0, 41, 3⟩ iSi).2.1 _ rfl yes)
    (((H sSi 0 0 xS).2.2.2.2.2 ⟨g0, 41, 2⟩ iSi).2.2 _ rfl rfl rfl))))))))))))))) :=
  And.intro (((H sFx 0 0 xF).1 ⟨g0, 41, 1, 2⟩ iFx).1 yes)
    (And.intro (((H sFt 0 0 xF).1 ⟨g0, 41, 1, 4⟩ iFt).2.2.1 yes yes yes)
    (And.intro (((H sFt 0 0 xF).1 ⟨g0, 41, 1, 2⟩ iFt).2.2.2 yes yes yes yes rfl)
    (And.intro ((H (sFw false 2100) 0 0 (xFw false)).2.1 41 false 0x7777 2 100 rfl rfl yes)
    (And.intro ((H (sFw true 2099) 0 0 (xFw true)).2.2.1 41 true 0x7777 2 100 rfl rfl yes)
    (And.intro (((H sFx 0 0 xF).2.2.2.1 ⟨g0, 41, 3⟩ iFx).1 yes)
    (And.intro (((H sFt 0 0 xF).2.2.2.1 ⟨g0, 41, 3⟩ iFt).2.1 yes yes)
    (And.intro (((H sFt 0 0 xF).2.2.2.1 ⟨g0, 41, 5⟩ iFt).2.2.1 yes yes)
    (And.intro (((H sFt 0 0 xF).2.2.2.1 ⟨g0, 41, 5⟩ iFt).2.2.2.1 ltst rfl yes yes)
    (And.intro (((H sFt 0 0 xF).2.2.2.1 ⟨g0, 41, 3⟩ iFt).2.2.2.2.2 ltst rfl yes yes yes yes)
    (And.intro (((H sS 0 0 xS).2.2.2.2.1 ⟨g0, 41, 5, 4⟩ iS ltst rfl yes).1 yes)
    (And.intro (((H sS 0 0 xS).2.2.2.2.1 ⟨g0, 41, 3, 4⟩ iS ltst rfl yes).2 yes yes yes siteDie siteFree)
    (And.intro (((H sSi 0 0 xS).2.2.2.2.2 ⟨g0, 41, 9⟩ iSi).1 rfl)
    (And.intro (((H sSi 0 0 xS).2.2.2.2.2 ⟨g0, 41, 3⟩ iSi).2.1 _ rfl yes)
    (((H sSi 0 0 xS).2.2.2.2.2 ⟨g0, 41, 2⟩ iSi).2.2 _ rfl rfl rfl))))))))))))))
end Memory

namespace Vector
/-! The vector unit, its ports and nests, and segments. -/
def rowR (s : Nat) : Row := BitVec.ofNat 2048 (s * 0x0102030405060708090a0b0c0d0e0f)
def kV (kd : BitVec 2) : Core := { kM with allots := [alV], acc := [(128, rowR 1), (129, rowR 2), (130, rowR 3), (131, rowR 5), (132, rowR 7), (321, rowR 9)], banks := [(1539, rowR 77)], full := [(1539, true)], kind := [(1539, kd)], streams := [(4, strm)] }
def xV : Ctx := { eregs [(1, 5), (2, 0x8000000000000080)] with ports := [(1, 4), (9, 4)], tok := [(4, 1), (15, 1)], ep := { (eregs [(1, 5), (2, 0x8000000000000080)]).ep with tvec := 0x9000 } }
def sV (kd : BitVec 2) : State := stl .ep (kV kd) xV l16
theorem aV (kd) : At (sV kd) 0 0 .ep xV := ⟨rfl, rfl⟩
theorem iV (kd) : IssuesEp (sV kd) 0 0 xV g0 := ⟨⟨rfl, rfl⟩, rfl⟩
theorem quiet (kd) : Quiet (sV kd) 0 := ⟨rfl, rfl, by intro t; rfl, rfl⟩
theorem al_V (kd) (l : List (BitVec 4)) : Allotted (sV kd) xV l := allotted_of (by show (stl .ep (kV 0) xV l16).tokensOf xV = 16; decide +kernel) l
/-- A word of the vector unit: VD, VA, VB, type, F. -/
def ev (d a b t f : Nat) : EV := { g := g0, vd := BitVec.ofNat 11 d, va := BitVec.ofNat 11 a, vb := BitVec.ofNat 11 b, t := BitVec.ofNat 4 t, na := false, nb := false, rm := 0, sat := true, f := BitVec.ofNat _ f }
def evw (d a b t f : Nat) : EV := { ev d a b t f with sat := false }
theorem rows1 (f : EV) (h : f.vd = 1) (k : ∀ v ∈ [f.va, f.vb], v.toNat < 1536 ∨ 1552 ≤ v.toNat) (l : ∀ v ∈ [f.va, f.vb], v.toNat < 1536 → ((kV 0).vKey 0 v.toNat).isSome = true) : Rows (sV 0) 0 xV f 129 :=
  ⟨by rw [h]; decide +kernel, by rw [h]; decide, k, l⟩
def em (d a b f : Nat) : EV := evw d a b 8 f
def mv (d a : Nat) : EV := { evw d a 0 0 0 with t := 0 }
def sVm (x : Ctx) (st : Stream) : State := stl .ep { kV 0 with streams := [(4, st)], full := [] } x l16
theorem quietM (x st) : Quiet (sVm x st) 0 := ⟨rfl, rfl, by intro t; rfl, rfl⟩
def sV1 (x : Ctx) : State := stl .ep (kV 0) x l16
def xVx (b : Bool) : Ctx := { xV with ports := [], ap := { xV.ap with exited := b } }
theorem quiet1 (x) : Quiet (sV1 x) 0 := ⟨rfl, rfl, by intro t; rfl, rfl⟩
def nf (c ds as bs : Q16) : VnestF := { g := g0, opc := 0x80, vw := { mv 1 2 with vb := 3, t := 8 }, c := c, ds := ds, as := as, bs := bs, tk := tk1 }
def nf1 : VnestF := nf ⟨2, 1, 2, 1⟩ ⟨1, 7, 0xFFFF, 9⟩ ⟨1, 0, 1, 0⟩ ⟨0, 0, 0xFFFF, 0⟩
def nf2 : VnestF := nf ⟨2, 1, 2, 1⟩ ⟨0xFFFE, 7, 0xFFFF, 9⟩ ⟨1, 0, 1, 0⟩ ⟨0, 0, 0xFFFF, 0⟩
theorem room3 : ∀ t, nf1.tk.sig = some t → (xV.take nf1.tk.waits).token t < 255 := by intro t h; rw [← Option.some.inj h]; decide +kernel
def xg (o : Bool) : Ctx := { xV with segOpen := o, segSig := 0x12345678, segCnt := 3, ep := { xV.ep with e := [(1, 0xEDCBA987), (2, 3)] } }
def sS (o : Bool) : State := { stl .ep (kV 0) (xg o) l16 with serial := 6 }
def sgf (a : Nat) : SegeF := { g := g0, d := 4, a := BitVec.ofNat 5 a }
theorem iS (o) : IssuesEp (sS o) 0 0 (xg o) g0 := ⟨⟨rfl, rfl⟩, rfl⟩
theorem noMatrix (o) : ∀ m ∈ ((sS o).core 0).pendingCmds, m.slot = 0 → m.lid = (xg o).lid → cmdMaster 0 m ≠ coreMaster 4 0 0 0 ∨ ∃ q, m.instr = .tstart q := by intro m h; cases h
theorem single (o) : ∀ l, (sS o).launch (xg o).lid = some l → l.flag 5 = false := by intro l h; rw [← Option.some.inj h]; decide +kernel

theorem witness_VectorLanes (H : Obligations.VectorLanes) : type_of% (And.intro ((H.1 (ev 1 2 1584 8 0) (sV 0) 0 0 xV (aV 0) (quiet 0) (.vadd (ev 1 2 1584 8 0)) (List.mem_cons_self ..) yes).1 129 (rows1 _ rfl yes yes))
    (And.intro ((H.1 (ev 1535 2 3 8 0) (sV 0) 0 0 xV (aV 0) (quiet 0) (.vadd (ev 1535 2 3 8 0)) (List.mem_cons_self ..) yes).2 yes yes)
    (And.intro (H.2.1 (ev 1 2 1584 13 0) (sV 0) 0 0 129 xV (aV 0) (quiet 0) (rows1 _ rfl yes yes) yes yes 2 (.vmul (ev 1 2 1584 13 0)) _ rfl yes (fun j => rfl))
    (And.intro (H.2.2 (ev 1 2 1584 0 0) (sV 0) 0 0 129 xV (aV 0) (quiet 0) (rows1 _ rfl yes yes) yes 0 (.vadd (ev 1 2 1584 0 0)) rfl yes yes)
    (H.2.2 (ev 1 2 0 1 3) (sV 0) 0 0 129 xV (aV 0) (quiet 0) (rows1 _ rfl yes yes) yes 18 (.vsf (ev 1 2 0 1 3)) rfl yes yes))))) :=
  And.intro ((H.1 (ev 1 2 1584 8 0) (sV 0) 0 0 xV (aV 0) (quiet 0) (.vadd (ev 1 2 1584 8 0)) (List.mem_cons_self ..) yes).1 129 (rows1 _ rfl yes yes))
    (And.intro ((H.1 (ev 1535 2 3 8 0) (sV 0) 0 0 xV (aV 0) (quiet 0) (.vadd (ev 1535 2 3 8 0)) (List.mem_cons_self ..) yes).2 yes yes)
    (And.intro (H.2.1 (ev 1 2 1584 13 0) (sV 0) 0 0 129 xV (aV 0) (quiet 0) (rows1 _ rfl yes yes) yes yes 2 (.vmul (ev 1 2 1584 13 0)) _ rfl yes (fun j => rfl))
    (And.intro (H.2.2 (ev 1 2 1584 0 0) (sV 0) 0 0 129 xV (aV 0) (quiet 0) (rows1 _ rfl yes yes) yes 0 (.vadd (ev 1 2 1584 0 0)) rfl yes yes)
    (H.2.2 (ev 1 2 0 1 3) (sV 0) 0 0 129 xV (aV 0) (quiet 0) (rows1 _ rfl yes yes) yes 18 (.vsf (ev 1 2 0 1 3)) rfl yes yes))))
theorem witness_VectorConversionsAndReductions (H : Obligations.VectorConversionsAndReductions) : type_of% (And.intro ((H (ev 1 2 0 10 (11 + 16)) (sV 0) 0 0 129 xV (aV 0) (quiet 0) (rows1 _ rfl yes yes)).1 yes)
    (And.intro ((H (ev 1 2 0 0 8) (sV 0) 0 0 129 xV (aV 0) (quiet 0) (rows1 _ rfl yes yes)).1 yes)
    (And.intro ((H (evw 1 2 0 0 8) (sV 0) 0 0 129 xV (aV 0) (quiet 0) (rows1 _ rfl yes yes)).2.2 yes)
    (And.intro ((H (evw 1 2 3 0 2) (sV 0) 0 0 129 xV (aV 0) (quiet 0) (rows1 _ rfl yes yes)).2.1 yes 131 yes)
    ((H (evw 1 2 0 8 9) (sV 0) 0 0 129 xV (aV 0) (quiet 0) (rows1 _ rfl yes yes)).2.2 yes))))) :=
  And.intro ((H (ev 1 2 0 10 (11 + 16)) (sV 0) 0 0 129 xV (aV 0) (quiet 0) (rows1 _ rfl yes yes)).1 yes)
    (And.intro ((H (ev 1 2 0 0 8) (sV 0) 0 0 129 xV (aV 0) (quiet 0) (rows1 _ rfl yes yes)).1 yes)
    (And.intro ((H (evw 1 2 0 0 8) (sV 0) 0 0 129 xV (aV 0) (quiet 0) (rows1 _ rfl yes yes)).2.2 yes)
    (And.intro ((H (evw 1 2 3 0 2) (sV 0) 0 0 129 xV (aV 0) (quiet 0) (rows1 _ rfl yes yes)).2.1 yes 131 yes)
    ((H (evw 1 2 0 8 9) (sV 0) 0 0 129 xV (aV 0) (quiet 0) (rows1 _ rfl yes yes)).2.2 yes))))
theorem witness_VectorMasks (H : Obligations.VectorMasks) : type_of% (And.intro ((H (em 0x21 2 3 0) (sV 0) 0 0 xV (aV 0) (quiet 0) yes yes).1 yes yes)
    (And.intro ((H { em 0x21 2 3 0 with t := 0 } (sV 0) 0 0 xV (aV 0) (quiet 0) yes yes).2.1 yes yes)
    (And.intro ((H { em 15 2 0 0 with t := 0 } (sV 0) 0 0 xV (aV 0) (quiet 0) yes yes).2.2.1 yes)
    (And.intro ((H { em 1 2 0 7 with t := 0 } (sV 0) 0 0 xV (aV 0) (quiet 0) yes yes).2.2.2.1 yes)
    (And.intro ((H { em 1 2 0 6 with t := 0 } (sV 0) 0 0 xV (aV 0) (quiet 0) yes yes).2.2.2.2.1 yes)
    (And.intro ((H { em 1 2 3 1 with t := 0 } (sV 0) 0 0 xV (aV 0) (quiet 0) yes yes).2.2.2.2.2.1 yes)
    (And.intro ((H { em 1 2 0 8 with t := 0 } (sV 0) 0 0 xV (aV 0) (quiet 0) yes yes).2.2.2.2.2.2.1 yes 129 yes yes)
    (And.intro ((H { em 1 2 0 0 with t := 0 } (sV 0) 0 0 xV (aV 0) (quiet 0) yes yes).2.2.2.2.2.2.2.1 yes)
    ((H { em 1 2 0 1 with t := 0 } (sV 0) 0 0 xV (aV 0) (quiet 0) yes yes).2.2.2.2.2.2.2.2 yes))))))))) :=
  And.intro ((H (em 0x21 2 3 0) (sV 0) 0 0 xV (aV 0) (quiet 0) yes yes).1 yes yes)
    (And.intro ((H { em 0x21 2 3 0 with t := 0 } (sV 0) 0 0 xV (aV 0) (quiet 0) yes yes).2.1 yes yes)
    (And.intro ((H { em 15 2 0 0 with t := 0 } (sV 0) 0 0 xV (aV 0) (quiet 0) yes yes).2.2.1 yes)
    (And.intro ((H { em 1 2 0 7 with t := 0 } (sV 0) 0 0 xV (aV 0) (quiet 0) yes yes).2.2.2.1 yes)
    (And.intro ((H { em 1 2 0 6 with t := 0 } (sV 0) 0 0 xV (aV 0) (quiet 0) yes yes).2.2.2.2.1 yes)
    (And.intro ((H { em 1 2 3 1 with t := 0 } (sV 0) 0 0 xV (aV 0) (quiet 0) yes yes).2.2.2.2.2.1 yes)
    (And.intro ((H { em 1 2 0 8 with t := 0 } (sV 0) 0 0 xV (aV 0) (quiet 0) yes yes).2.2.2.2.2.2.1 yes 129 yes yes)
    (And.intro ((H { em 1 2 0 0 with t := 0 } (sV 0) 0 0 xV (aV 0) (quiet 0) yes yes).2.2.2.2.2.2.2.1 yes)
    ((H { em 1 2 0 1 with t := 0 } (sV 0) 0 0 xV (aV 0) (quiet 0) yes yes).2.2.2.2.2.2.2.2 yes))))))))
theorem witness_VectorPorts (H : Obligations.VectorPorts) : type_of% (And.intro (((H.1 (mv 1 1537) (sV 0) 0 0 xV (aV 0) (quiet 0) yes rfl rfl).1 1 129 yes yes yes yes).1 4 strm yes rfl yes yes)
    (And.intro ((((H.1 (mv 1 1537) (sV 0) 0 0 xV (aV 0) (quiet 0) yes rfl rfl).1 1 129 yes yes yes yes).1 4 strm yes rfl yes yes).1 yes)
    (And.intro ((((H.1 (mv 1 1537) (sV 1) 0 0 xV (aV 1) (quiet 1) yes rfl rfl).1 1 129 yes yes yes yes).1 4 strm yes rfl yes yes).2 yes)
    (And.intro (((H.1 (mv 1 1537) (sVm xV { strm with count := 0 }) 0 0 xV ⟨rfl, rfl⟩ (quietM _ _) yes rfl rfl).1 1 129 yes yes yes yes).2.1 4 { strm with count := 0 } yes rfl rfl)
    (And.intro (((H.1 (mv 1 1537) (sV1 (xVx true)) 0 0 (xVx true) ⟨rfl, rfl⟩ (quiet1 _) yes rfl rfl).1 1 129 yes yes yes yes).2.2.1 yes rfl yes)
    (And.intro (((H.1 (mv 1 1537) (sV1 (xVx false)) 0 0 (xVx false) ⟨rfl, rfl⟩ (quiet1 _) yes rfl rfl).1 1 129 yes yes yes yes).2.2.2 yes rfl)
    (And.intro (((H.1 (mv 1545 65) (sVm xV strm) 0 0 xV ⟨rfl, rfl⟩ (quietM _ _) yes rfl rfl).2 9 321 yes yes yes yes yes 4 strm yes rfl rfl yes).1 yes)
    (And.intro (((H.1 (mv 1545 65) (sVm xV { strm with count := 3 }) 0 0 xV ⟨rfl, rfl⟩ (quietM _ _) yes rfl rfl).2 9 321 yes yes yes yes yes 4 { strm with count := 3 } yes rfl rfl yes).2 yes)
    (And.intro (H.2.1 ⟨g0, 2, 65, 8, 63⟩ (sV 0) 0 0 321 xV (iV 0) (quiet 0) yes yes)
    (And.intro ((H.2.2.1 ⟨g0, 3, 2⟩ (sV 2) 0 0 xV (iV 2)).1 yes)
    (And.intro (((H.2.2.1 ⟨g0, 3, 9⟩ (sV 2) 0 0 xV (iV 2)).2 4 strm yes).1 yes)
    (And.intro ((((H.2.2.1 ⟨g0, 3, 1⟩ (sV 2) 0 0 xV (iV 2)).2 4 strm yes).2.2 yes rfl yes yes).2.2 yes)
    ((H.2.2.2 ⟨g0, 1, 7⟩ (sV 2) 0 0 xV (iV 2)).2 4 strm yes rfl rfl rfl yes yes))))))))))))) :=
  And.intro (((H.1 (mv 1 1537) (sV 0) 0 0 xV (aV 0) (quiet 0) yes rfl rfl).1 1 129 yes yes yes yes).1 4 strm yes rfl yes yes)
    (And.intro ((((H.1 (mv 1 1537) (sV 0) 0 0 xV (aV 0) (quiet 0) yes rfl rfl).1 1 129 yes yes yes yes).1 4 strm yes rfl yes yes).1 yes)
    (And.intro ((((H.1 (mv 1 1537) (sV 1) 0 0 xV (aV 1) (quiet 1) yes rfl rfl).1 1 129 yes yes yes yes).1 4 strm yes rfl yes yes).2 yes)
    (And.intro (((H.1 (mv 1 1537) (sVm xV { strm with count := 0 }) 0 0 xV ⟨rfl, rfl⟩ (quietM _ _) yes rfl rfl).1 1 129 yes yes yes yes).2.1 4 { strm with count := 0 } yes rfl rfl)
    (And.intro (((H.1 (mv 1 1537) (sV1 (xVx true)) 0 0 (xVx true) ⟨rfl, rfl⟩ (quiet1 _) yes rfl rfl).1 1 129 yes yes yes yes).2.2.1 yes rfl yes)
    (And.intro (((H.1 (mv 1 1537) (sV1 (xVx false)) 0 0 (xVx false) ⟨rfl, rfl⟩ (quiet1 _) yes rfl rfl).1 1 129 yes yes yes yes).2.2.2 yes rfl)
    (And.intro (((H.1 (mv 1545 65) (sVm xV strm) 0 0 xV ⟨rfl, rfl⟩ (quietM _ _) yes rfl rfl).2 9 321 yes yes yes yes yes 4 strm yes rfl rfl yes).1 yes)
    (And.intro (((H.1 (mv 1545 65) (sVm xV { strm with count := 3 }) 0 0 xV ⟨rfl, rfl⟩ (quietM _ _) yes rfl rfl).2 9 321 yes yes yes yes yes 4 { strm with count := 3 } yes rfl rfl yes).2 yes)
    (And.intro (H.2.1 ⟨g0, 2, 65, 8, 63⟩ (sV 0) 0 0 321 xV (iV 0) (quiet 0) yes yes)
    (And.intro ((H.2.2.1 ⟨g0, 3, 2⟩ (sV 2) 0 0 xV (iV 2)).1 yes)
    (And.intro (((H.2.2.1 ⟨g0, 3, 9⟩ (sV 2) 0 0 xV (iV 2)).2 4 strm yes).1 yes)
    (And.intro ((((H.2.2.1 ⟨g0, 3, 1⟩ (sV 2) 0 0 xV (iV 2)).2 4 strm yes).2.2 yes rfl yes yes).2.2 yes)
    ((H.2.2.2 ⟨g0, 1, 7⟩ (sV 2) 0 0 xV (iV 2)).2 4 strm yes rfl rfl rfl yes yes))))))))))))
theorem witness_VectorNests (H : Obligations.VectorNests) : type_of% (And.intro ((H (nf ⟨2, 0, 2, 1⟩ ⟨1, 7, 0xFFFF, 9⟩ ⟨1, 0, 1, 0⟩ ⟨0, 0, 0xFFFF, 0⟩) (sV 0) 0 0 xV (iV 0) rfl rfl rfl (al_V 0 _) yes room3).1 yes)
    (And.intro (((H nf1 (sV 0) 0 0 xV (iV 0) rfl rfl rfl (al_V 0 _) yes room3).2 (quiet 0) rfl yes yes (1, 0, 1, 0) yes yes yes yes).1 { nf1.vw with vd := 1, va := 4, vb := 2 } 129 ⟨by decide +kernel, by decide +kernel, by decide +kernel, by decide +kernel⟩ rfl yes)
    (((H nf2 (sV 0) 0 0 xV (iV 0) rfl rfl rfl (al_V 0 _) yes room3).2 (quiet 0) rfl yes yes (1, 0, 0, 0) yes yes yes yes).2 yes yes yes yes))) :=
  And.intro ((H (nf ⟨2, 0, 2, 1⟩ ⟨1, 7, 0xFFFF, 9⟩ ⟨1, 0, 1, 0⟩ ⟨0, 0, 0xFFFF, 0⟩) (sV 0) 0 0 xV (iV 0) rfl rfl rfl (al_V 0 _) yes room3).1 yes)
    (And.intro (((H nf1 (sV 0) 0 0 xV (iV 0) rfl rfl rfl (al_V 0 _) yes room3).2 (quiet 0) rfl yes yes (1, 0, 1, 0) yes yes yes yes).1 { nf1.vw with vd := 1, va := 4, vb := 2 } 129 ⟨by decide +kernel, by decide +kernel, by decide +kernel, by decide +kernel⟩ rfl yes)
    (((H nf2 (sV 0) 0 0 xV (iV 0) rfl rfl rfl (al_V 0 _) yes room3).2 (quiet 0) rfl yes yes (1, 0, 0, 0) yes yes yes yes).2 yes yes yes yes))
theorem witness_Segments (H : Obligations.Segments) : type_of% (And.intro (((H (sS false) 0 0 (xg false) rfl rfl).1 ⟨g0⟩ (iS _)).1 rfl)
    (And.intro (((H (sS true) 0 0 (xg true) rfl rfl).1 ⟨g0⟩ (iS _)).2 rfl)
    (And.intro (((H (sS true) 0 0 (xg true) rfl rfl).2 (sgf 1) (iS _) (noMatrix _) (single _)).1 rfl yes)
    (And.intro (((H (sS true) 0 0 (xg true) rfl rfl).2 (sgf 2) (iS _) (noMatrix _) (single _)).2.1 rfl yes yes)
    (((H (sS false) 0 0 (xg false) rfl rfl).2 (sgf 2) (iS _) (noMatrix _) (single _)).2.2 rfl))))) :=
  And.intro (((H (sS false) 0 0 (xg false) rfl rfl).1 ⟨g0⟩ (iS _)).1 rfl)
    (And.intro (((H (sS true) 0 0 (xg true) rfl rfl).1 ⟨g0⟩ (iS _)).2 rfl)
    (And.intro (((H (sS true) 0 0 (xg true) rfl rfl).2 (sgf 1) (iS _) (noMatrix _) (single _)).1 rfl yes)
    (And.intro (((H (sS true) 0 0 (xg true) rfl rfl).2 (sgf 2) (iS _) (noMatrix _) (single _)).2.1 rfl yes yes)
    (((H (sS false) 0 0 (xg false) rfl rfl).2 (sgf 2) (iS _) (noMatrix _) (single _)).2.2 rfl))))
end Vector

namespace Heads
/-! Heads of queues. -/
def rowR (s : Nat) : Row := BitVec.ofNat 2048 (s * 0x0102030405060708090a0b0c0d0e0f)
def c5 (i : Instr) (v : List Word) : Cmd := ⟨5, 0, 0, i, v, [], tk1, false, 0xFFFF⟩
def c6 : Cmd := ⟨6, 0, 0, .nop, [], [], tk0, false, 0xFFFF⟩
def c4 : Cmd := ⟨4, 0, 0, .tstart ⟨g0⟩, [], [], tk0, true, 0xFFFF⟩
def xH : Ctx := { x0 with tok := [(4, 1), (15, 2)], ports := [(0, 4)] }
def kH (q : Nat) (m : Cmd) : Core := { kM with allots := [alV], qs := [(q, [m, c6])], live := [c4], streams := [(4, strm)], banks := [(1539, rowR 9)], full := [(1539, true)] }
def sH (q : Nat) (m : Cmd) : State := { stl .ap (kH q m) xH l16 with serial := 9 }
def sm1 : Cmd := c5 (.smark ⟨g0, 4, tk1⟩) []
def sm2 : Cmd := c5 (.smark ⟨g0, 7, tk1⟩) []
def cpf (sl dl : Bool) : CpyF := ⟨g0, 1, 2, 3, 3, 5, .plain, 1, sl, dl, false, tk1⟩
def cp1 : Cmd := c5 (.cpy (cpf true true)) [0x100, 0x200, 0]
def cp2 : Cmd := c5 (.cpy (cpf true true)) [0x100, 0x200, 0x1000]
def cd1 : Cmd := c5 (.cpdrain ⟨g0, 3, tk1⟩) []
def sD : State := { sH 4 cd1 with cores := [(0, { kH 4 cd1 with live := [], ctxs := [(0, xH)] })] }
def rt1 : Cmd := c5 (.rot ⟨g0, 1, 2, 3, tk1⟩) [0x100, 0x200]
theorem witness_QueueHeadsStart (H : Obligations.QueueHeadsStart) : type_of% (And.intro (((H (sH 0 sm1) 0 .stream sm1 [c6] xH ⟨yes, yes, yes, yes, yes, yes, yes, yes, yes, yes, yes⟩).1 ⟨g0, 4, tk1⟩ rfl rfl).1 strm yes yes rfl rfl yes)
    (And.intro (((H (sH 0 sm2) 0 .stream sm2 [c6] xH ⟨yes, yes, yes, yes, yes, yes, yes, yes, yes, yes, yes⟩).1 ⟨g0, 7, tk1⟩ rfl rfl).2 yes rfl rfl)
    (And.intro (((H (sH 4 cp1) 0 (.ch 3) cp1 [c6] xH ⟨yes, yes, yes, yes, yes, yes, yes, yes, yes, yes, yes⟩).2.1 (cpf true true) rfl rfl 0x100 0x200 0 rfl).1 (by intro e h; cases h with | head => exact ⟨rfl, fun g h => Instr.noConfusion h⟩ | tail _ h => cases h) rfl)
    (And.intro (((H (sH 4 cp2) 0 (.ch 3) cp2 [c6] xH ⟨yes, yes, yes, yes, yes, yes, yes, yes, yes, yes, yes⟩).2.1 (cpf true true) rfl rfl 0x100 0x200 0x1000 rfl).2 yes rfl rfl rfl rfl yes yes)
    (And.intro ((H sD 0 (.ch 3) cd1 [c6] xH ⟨yes, yes, yes, yes, yes, yes, yes, yes, yes, yes, yes⟩).2.2.1 ⟨g0, 3, tk1⟩ rfl rfl yes yes)
    (And.intro ((H (sH 0 rt1) 0 .stream rt1 [c6] xH ⟨yes, yes, yes, yes, yes, yes, yes, yes, yes, yes, yes⟩).2.2.2.1 ⟨g0, 1, 2, 3, tk1⟩ rfl rfl 0x100 0x200 rfl yes yes yes yes)
    ((H (sH 0 sm1) 0 .stream sm1 [c6] xH ⟨yes, yes, yes, yes, yes, yes, yes, yes, yes, yes, yes⟩).2.2.2.2 ⟨some 1, none, none⟩ ⟨g0, 4, tk1⟩ rfl rfl yes))))))) :=
  And.intro (((H (sH 0 sm1) 0 .stream sm1 [c6] xH ⟨yes, yes, yes, yes, yes, yes, yes, yes, yes, yes, yes⟩).1 ⟨g0, 4, tk1⟩ rfl rfl).1 strm yes yes rfl rfl yes)
    (And.intro (((H (sH 0 sm2) 0 .stream sm2 [c6] xH ⟨yes, yes, yes, yes, yes, yes, yes, yes, yes, yes, yes⟩).1 ⟨g0, 7, tk1⟩ rfl rfl).2 yes rfl rfl)
    (And.intro (((H (sH 4 cp1) 0 (.ch 3) cp1 [c6] xH ⟨yes, yes, yes, yes, yes, yes, yes, yes, yes, yes, yes⟩).2.1 (cpf true true) rfl rfl 0x100 0x200 0 rfl).1 (by intro e h; cases h with | head => exact ⟨rfl, fun g h => Instr.noConfusion h⟩ | tail _ h => cases h) rfl)
    (And.intro (((H (sH 4 cp2) 0 (.ch 3) cp2 [c6] xH ⟨yes, yes, yes, yes, yes, yes, yes, yes, yes, yes, yes⟩).2.1 (cpf true true) rfl rfl 0x100 0x200 0x1000 rfl).2 yes rfl rfl rfl rfl yes yes)
    (And.intro ((H sD 0 (.ch 3) cd1 [c6] xH ⟨yes, yes, yes, yes, yes, yes, yes, yes, yes, yes, yes⟩).2.2.1 ⟨g0, 3, tk1⟩ rfl rfl yes yes)
    (And.intro ((H (sH 0 rt1) 0 .stream rt1 [c6] xH ⟨yes, yes, yes, yes, yes, yes, yes, yes, yes, yes, yes⟩).2.2.2.1 ⟨g0, 1, 2, 3, tk1⟩ rfl rfl 0x100 0x200 rfl yes yes yes yes)
    ((H (sH 0 sm1) 0 .stream sm1 [c6] xH ⟨yes, yes, yes, yes, yes, yes, yes, yes, yes, yes, yes⟩).2.2.2.2 ⟨some 1, none, none⟩ ⟨g0, 4, tk1⟩ rfl rfl yes))))))
end Heads

namespace Streams
/-! Streams, tokens and markers. -/
open Heads
def fl (d : Nat) (l : List (Nat × Nat × Nat)) : BitVec 512 := BitVec.ofNat 512 (l.foldl (fun v q => setFld v (8 * q.1) (8 * q.2.1) q.2.2) d)
def dsc (flags base n0 n1 d0 d1 rowlen fmt depth first retain qos : Nat) : BitVec 512 :=
  fl 0 [(0, 8, base), (8, 4, n0), (12, 4, n1), (16, 4, 1), (20, 4, 1), (24, 4, d0), (28, 4, d1), (40, 2, rowlen), (42, 1, fmt), (43, 1, flags), (48, 4, 0 + first * 32 + depth * 2^15), (56, 4, retain + qos * 2^16)]
def d1 := dsc 0x02 0x100 2 3 0x40 0x200 100 10 4 8 1 0
def dbytes (d : BitVec 512) : Row := d.setWidth 2048 <<< 512
def so1 : Cmd := c5 (.sopen ⟨g0, 9, true, 3, false, 2, tk1⟩) [0x40]
def kO (d : BitVec 512) (m : Cmd) : Core := { kH 0 m with banks := [(1536, dbytes d), (1539, rowR 9)], full := [(1539, true), (1544, true), (1545, true)] }
def sO (d : BitVec 512) (m : Cmd) : State := { stl .ap (kO d m) xH l16 with serial := 9 }
def d2 := fl d1.toNat [(43, 1, 0)]
def bs2 : List Byte := ((sO d2 so1).core 0).locBytes 0 0 0x40 64 |>.getD []
def sc1 : Cmd := c5 (.sclose ⟨g0, 4, tk1⟩) []
def sC : State := { stl .ap { kH 0 sc1 with streams := [(4, { strm with eosw := true })], full := [(1536, true), (1539, true), (1540, true)] } xH l16 with serial := 9 }
def dL := dsc 0x02 0x1f0 2 3 0x40 0x200 100 10 4 8 1 0
def dLo := dsc 0x03 0x1f0 2 3 0x40 0x200 100 10 4 8 1 0
def stL : Stream := { strm with desc := dL, bank := 2, first := 8, depth := 4, run := [], pos := 3, done := false, head := 0, tail := 2, count := 2, held := 0 }
def kR (st : Stream) : Core := { kH 0 sc1 with streams := [(4, st)], banks := [(1537, rowR 3), (1538, rowR 4), (1539, rowR 9), (1540, rowR 8), (1544, rowR 12)], full := [(1544, true), (1545, true)] }
def sR (st : Stream) : State := stl .ap (kR st) xH l16
theorem within (s : State) (a n : Nat) (h : a + n < 2^64) (hh : ((List.range n).all fun i => ((s.core 0).locBytes 0 0 (a + i) 1).isSome) = true) : Within s 0 0 a n := ⟨h, fun i hi => by rw [List.all_eq_true] at hh; exact hh i (List.mem_range.2 hi)⟩
def stD : Stream := { stL with pos := 6, done := true, transit := [⟨0, rowR 55⟩, ⟨1, 0⟩] }
theorem arrives : ∀ c2, (sR stD).mateCore stD.lid 0 (dFar stD.desc).1 = some c2 → (sR stD).crossHeld c2 (dieOf 0) = false := by
  intro c2 h; obtain rfl := Option.some.inj (show some 0 = some c2 from h); exact yes
def stW : Stream := { stL with desc := dLo, near := .ep 8 }
def dA := dsc 0x0D 0x1f0 2 3 0x40 0x200 100 10 4 8 1 3
def stA (b : Bool) : Stream := { stL with desc := dA, near := .ep 8, divert := b }
def lA : Launch := lau (rcd [(32, 2, 1), (37, 1, 1), (43, 1, 16), (80, 8, 0x5000), (88, 4, 0x1000), (88, 8, 0x1000)])
def stO : Stream := { stA false with out := some { id := 3, since := 0, row := 0, cells := [] } }
def sA (b : Bool) : State := { stl .ap (kR (stA b)) xH lA with mem := [(0x1000, 5)], cores := [(0, { kR (stA b) with ctxs := [(0, xH)] }), (3, kR (stA b))] }
def sOw : State := { sA false with cores := [(0, { kR stO with ctxs := [(0, xH)] })], time := 10000 }
def tp : TsigP := ⟨7, tk1, false⟩
def xT (a e : List TsigP) (t : Tbl Nat) : Ctx := { xH with tok := t, ap := { xH.ap with tsigs := a }, ep := { xH.ep with etsigs := e } }
def sT (x : Ctx) : State := stl .ap (kR stL) x l16
def tt1 : Tbl Nat := [(4, 1), (15, 2)]
def tt2 : Tbl Nat := [(3, 254), (4, 1)]
def mk1 : Marker := ⟨true, 5, some 3⟩
def mk2 : Marker := ⟨false, 5, none⟩
def sMk (x : Ctx) : State := stl .ap k0 x l16
def xMk : Ctx := { xH with markers := [mk1] }
def xMx : Ctx := { xH with markers := [mk2], ap := { xH.ap with exited := true }, ep := { xH.ep with exited := true } }
def sBn : State := { sMk xH with cores := [(0, { k0 with ctxs := [(0, xH)], apBlk := ⟨some 0, false, 0⟩ })], cycles := 12 }
def sB (e : Bool) : State := { sMk xH with cores := [(0, { k0 with ctxs := [(0, xH), (if e then 3 else 1, xH)], apBlk := ⟨some 0, e, 0⟩ })], cycles := 12 }
theorem noneB : ∀ j, j < 4 → j ≠ 0 → ¬ sBn.runnable 0 j .ap = true := by decide +kernel
theorem noneE : ∀ e, 1 ≤ e → e < 3 → ¬ (sB true).runnable 0 ((0 + e) % 4) .ap = true := by
  intro j h k; match j with | 0 => omega | 1 => decide +kernel | 2 => decide +kernel | n + 3 => omega
theorem someB : ∃ j, j < 4 ∧ j ≠ 0 ∧ (sB false).runnable 0 j .ap = true := ⟨1, yes, yes, yes⟩
theorem witness_StreamsOpenAndClose (H : Obligations.StreamsOpenAndClose) : type_of% (And.intro ((H (sO d2 so1) 0 so1 [c6] xH ⟨yes, yes, yes, yes, yes, yes, yes, yes, yes, yes, yes⟩).1 ⟨g0, 9, true, 3, false, 2, tk1⟩ rfl 0x40 bs2 2 rfl rfl rfl yes yes yes yes yes yes yes yes yes yes)
    ((H sC 0 sc1 [c6] xH ⟨yes, yes, yes, yes, yes, yes, yes, yes, yes, yes, yes⟩).2 ⟨g0, 4, tk1⟩ rfl { strm with eosw := true } yes rfl rfl rfl yes rfl rfl rfl yes)) :=
  And.intro ((H (sO d2 so1) 0 so1 [c6] xH ⟨yes, yes, yes, yes, yes, yes, yes, yes, yes, yes, yes⟩).1 ⟨g0, 9, true, 3, false, 2, tk1⟩ rfl 0x40 bs2 2 rfl rfl rfl yes yes yes yes yes yes yes yes yes yes)
    ((H sC 0 sc1 [c6] xH ⟨yes, yes, yes, yes, yes, yes, yes, yes, yes, yes, yes⟩).2 ⟨g0, 4, tk1⟩ rfl { strm with eosw := true } yes rfl rfl rfl yes rfl rfl rfl yes)
theorem witness_StreamRows (H : Obligations.StreamRows) : type_of% (And.intro (((H (sR stL) 0 4 stL yes rfl rfl rfl rfl rfl rfl).1 yes rfl rfl rfl rfl rfl rfl yes).1 ⟨yes, yes, yes, yes, yes⟩ rfl yes 0x430 yes (within _ _ _ yes yes))
    (And.intro (((H (sR stD) 0 4 stD yes rfl rfl rfl rfl rfl rfl).1 yes rfl rfl rfl rfl rfl rfl yes).2.1 ⟨yes, yes, yes, yes, yes⟩ rfl yes rfl)
    (And.intro (((H (sR stD) 0 4 stD yes rfl rfl rfl rfl rfl rfl).1 yes rfl rfl rfl rfl rfl rfl yes).2.2 ⟨0, rowR 55⟩ [⟨1, 0⟩] rfl rfl arrives)
    (And.intro ((H (sR stW) 0 4 stW yes rfl rfl rfl rfl rfl rfl).2.1 yes ⟨yes, yes, yes, yes, yes⟩ rfl rfl rfl rfl rfl yes yes yes yes 0x430 yes (within _ _ _ yes yes))
    (And.intro (((H sOw 0 4 stO yes rfl rfl rfl rfl rfl rfl).2.2 yes yes yes 0x1000 yes).1 _ rfl yes)
    (((H (sA true) 0 4 (stA true) yes rfl rfl rfl rfl rfl rfl).2.2 yes yes yes 0x1000 yes).2 rfl yes)))))) :=
  And.intro (((H (sR stL) 0 4 stL yes rfl rfl rfl rfl rfl rfl).1 yes rfl rfl rfl rfl rfl rfl yes).1 ⟨yes, yes, yes, yes, yes⟩ rfl yes 0x430 yes (within _ _ _ yes yes))
    (And.intro (((H (sR stD) 0 4 stD yes rfl rfl rfl rfl rfl rfl).1 yes rfl rfl rfl rfl rfl rfl yes).2.1 ⟨yes, yes, yes, yes, yes⟩ rfl yes rfl)
    (And.intro (((H (sR stD) 0 4 stD yes rfl rfl rfl rfl rfl rfl).1 yes rfl rfl rfl rfl rfl rfl yes).2.2 ⟨0, rowR 55⟩ [⟨1, 0⟩] rfl rfl arrives)
    (And.intro ((H (sR stW) 0 4 stW yes rfl rfl rfl rfl rfl rfl).2.1 yes ⟨yes, yes, yes, yes, yes⟩ rfl rfl rfl rfl rfl yes yes yes yes 0x430 yes (within _ _ _ yes yes))
    (And.intro (((H sOw 0 4 stO yes rfl rfl rfl rfl rfl rfl).2.2 yes yes yes 0x1000 yes).1 _ rfl yes)
    (((H (sA true) 0 4 (stA true) yes rfl rfl rfl rfl rfl rfl).2.2 yes yes yes 0x1000 yes).2 rfl yes)))))
theorem witness_TokensMarkersAndBlocks (H : Obligations.TokensMarkersAndBlocks) : type_of% (And.intro (((H.1 (sT (xT [tp] [] tt1)) 0 0 _ tp rfl rfl rfl rfl yes).1 rfl rfl).1 yes)
    (And.intro (((H.1 (sT (xT [tp] [] tt2)) 0 0 _ tp rfl rfl rfl rfl yes).1 rfl rfl).2 yes)
    (And.intro (((H.1 (sT (xT [] [tp] tt1)) 0 0 _ tp rfl rfl rfl rfl yes).2 rfl rfl).1 yes)
    (And.intro (((H.1 (sT (xT [] [tp] tt2)) 0 0 _ tp rfl rfl rfl rfl yes).2 rfl rfl).2 yes)
    (And.intro (((H.2.1 (sMk xMk) 0 0 xMk mk1 rfl rfl rfl yes)).1 rfl yes)
    (And.intro (((H.2.1 (sMk xMx) 0 0 xMx mk2 rfl rfl rfl yes)).2 rfl rfl rfl rfl rfl yes)
    (And.intro ((H.2.2 (sB false) 0 .ap 0 rfl).1 rfl yes someB)
    (And.intro ((H.2.2 sBn 0 .ap 0 rfl).2.1 yes noneB)
    ((H.2.2 (sB true) 0 .ap 0 rfl).2.2 rfl 3 yes yes yes noneE))))))))) :=
  And.intro (((H.1 (sT (xT [tp] [] tt1)) 0 0 _ tp rfl rfl rfl rfl yes).1 rfl rfl).1 yes)
    (And.intro (((H.1 (sT (xT [tp] [] tt2)) 0 0 _ tp rfl rfl rfl rfl yes).1 rfl rfl).2 yes)
    (And.intro (((H.1 (sT (xT [] [tp] tt1)) 0 0 _ tp rfl rfl rfl rfl yes).2 rfl rfl).1 yes)
    (And.intro (((H.1 (sT (xT [] [tp] tt2)) 0 0 _ tp rfl rfl rfl rfl yes).2 rfl rfl).2 yes)
    (And.intro (((H.2.1 (sMk xMk) 0 0 xMk mk1 rfl rfl rfl yes)).1 rfl yes)
    (And.intro (((H.2.1 (sMk xMx) 0 0 xMx mk2 rfl rfl rfl yes)).2 rfl rfl rfl rfl rfl yes)
    (And.intro ((H.2.2 (sB false) 0 .ap 0 rfl).1 rfl yes someB)
    (And.intro ((H.2.2 sBn 0 .ap 0 rfl).2.1 yes noneB)
    ((H.2.2 (sB true) 0 .ap 0 rfl).2.2 rfl 3 yes yes yes noneE))))))))
end Streams

namespace Copies
/-! Copies and rotations. -/
open Heads
theorem within (s : State) (a n : Nat) (h : a + n < 2^64) (hh : ((List.range n).all fun i => ((s.core 0).locBytes 0 0 (a + i) 1).isSome) = true) : Within s 0 0 a n := ⟨h, fun i hi => by rw [List.all_eq_true] at hh; exact hh i (List.mem_range.2 hi)⟩
def cpf : CpyF := ⟨g0, 1, 2, 3, 3, 5, .plain, 1, true, true, false, tk1⟩
def cp2 : Cmd := c5 (.cpy cpf) [0x100, 0x2000, 0x1000]
def kC : Core := { kM with allots := [alV], live := [cp2], banks := [(1537, rowR 9), (1544, rowR 77), (1545, rowR 5)] }
def xC : Ctx := { x0 with tok := [(3, 9)] }
def run1 : CopyRun := { cmd := cp2, core := 0, prio := 1, arr := 3, len := 0x900, src := 0x100, dst := 0x2000, next := 1, flight := [], asked := none, taken := [], stop := none }
def sC (r : CopyRun) : State := let s := { stl .ap kC xC l16 with serial := 9 }; { s with west := { s.west with copies := [r] } }
def bsC : List Byte := ((sC run1).core 0).locBytes 0 0 0x900 0x100 |>.getD []
def ch1 : Chunk := { id := 4, since := 0, far := none, off := 0x800, data := bsC, runs := [(0x2800, 0x100)], tags := [] }
def run2 : CopyRun := { run1 with next := 2, flight := [ch1] }
def rt (n : Nat) : Cmd := { c5 (.rot ⟨g0, 1, 2, 1, tk1⟩) [0x100, 0x2000] with id := 5 + n }
def rq (n : Nat) : RotReq := { rank := n, k := 0, core := 3 * n, cmd := rt n, src := 0x100 + 0x100 * n, dst := 0x2000, rows := 2, data := [] }
def lR (go : Bool) : Launch := { l16 with cores := [0, 3], rots := if go then [] else [rq 0, rq 1], rotating := [] }
def kRt (n : Nat) (x : Ctx) : Core := { kM with ctxs := [(0, x)], allots := [alV], live := [rt n], banks := [(1537, rowR (9+n)), (1538, rowR (77+n)), (1539, rowR 5)] }
def sRt (go : Bool) : State := { stl .ap kC xC (lR go) with cores := [(0, kRt 0 xC), (3, kRt 1 xC)] }
def src (i : Nat) : List Byte := (if i = 0 then ((sRt false).core 0).locBytes 0 0 0x100 512 else if i = 1 then ((sRt false).core 3).locBytes 3 0 0x200 512 else none).getD []
def go1 : List RotReq := [{ rq 0 with data := src 1 }, { rq 1 with data := src 0 }]
def lR2 : Launch := { l16 with cores := [0, 3], rotating := go1 }
def sR2 : State := { stl .ap kC xC lR2 with cores := [(0, kRt 0 xC), (3, kRt 1 xC)] }
theorem within3 (s : State) (a n : Nat) (h : a + n < 2^64) (hh : ((List.range n).all fun i => ((s.core 3).locBytes 3 0 (a + i) 1).isSome) = true) : Within s 3 0 a n := ⟨h, fun i hi => by rw [List.all_eq_true] at hh; exact hh i (List.mem_range.2 hi)⟩
theorem witness_CopiesAndRotations (H : Obligations.CopiesAndRotations) : type_of% (And.intro ((H.1 (sC run1) .west run1 cpf xC rfl rfl rfl rfl rfl rfl rfl rfl rfl rfl rfl rfl yes rfl yes).1 yes rfl yes rfl bsC yes)
    (And.intro ((H.1 (sC run2) .west run2 cpf xC rfl rfl rfl rfl rfl rfl rfl rfl rfl rfl rfl rfl yes rfl yes).2 ch1 0x2800 rfl yes rfl yes yes (within _ _ _ yes yes))
    (And.intro ((H.2 (sRt false) 0 (lR false) rfl).1 rfl rfl rfl yes yes (by intro i k r q h g; match i, k with | 0, 0 => cases h; cases g; exact ⟨rfl, rfl⟩ | 0, 1 => cases h; cases g; exact ⟨rfl, rfl⟩ | 1, 0 => cases h; cases g; exact ⟨rfl, rfl⟩ | 1, 1 => cases h; cases g; exact ⟨rfl, rfl⟩ | n + 2, _ => cases h | 0, n + 2 => cases g | 1, n + 2 => cases g) yes yes src (by intro i r h; match i with | 0 => cases h; exact yes | 1 => cases h; exact yes | n + 2 => cases h))
    ((H.2 sR2 0 lR2 rfl).2 { rq 1 with data := src 0 } xC yes yes yes yes rfl rfl yes yes yes yes (within3 _ _ _ yes yes))))) :=
  And.intro ((H.1 (sC run1) .west run1 cpf xC rfl rfl rfl rfl rfl rfl rfl rfl rfl rfl rfl rfl yes rfl yes).1 yes rfl yes rfl bsC yes)
    (And.intro ((H.1 (sC run2) .west run2 cpf xC rfl rfl rfl rfl rfl rfl rfl rfl rfl rfl rfl rfl yes rfl yes).2 ch1 0x2800 rfl yes rfl yes yes (within _ _ _ yes yes))
    (And.intro ((H.2 (sRt false) 0 (lR false) rfl).1 rfl rfl rfl yes yes (by intro i k r q h g; match i, k with | 0, 0 => cases h; cases g; exact ⟨rfl, rfl⟩ | 0, 1 => cases h; cases g; exact ⟨rfl, rfl⟩ | 1, 0 => cases h; cases g; exact ⟨rfl, rfl⟩ | 1, 1 => cases h; cases g; exact ⟨rfl, rfl⟩ | n + 2, _ => cases h | 0, n + 2 => cases g | 1, n + 2 => cases g) yes yes src (by intro i r h; match i with | 0 => cases h; exact yes | 1 => cases h; exact yes | n + 2 => cases h))
    ((H.2 sR2 0 lR2 rfl).2 { rq 1 with data := src 0 } xC yes yes yes yes rfl rfl yes yes yes yes (within3 _ _ _ yes yes))))
end Copies

namespace Matrix
/-! The matrix engine. -/
open Heads
def xMx : Ctx := { x0 with tok := [(4, 1), (15, 2)] }
theorem slots_of {f : Nat → Option Nat} {P : Nat → Prop} [DecidablePred P] {t : BitVec 16} (h : ∀ b, b < 16 → t.getLsbD b = true → (f b).any (fun p => decide (P p)) = true) :
    ∀ b, b < 16 → t.getLsbD b = true → ∃ p, f b = some p ∧ P p := by
  intro b hb ht; have := h b hb ht; cases e : f b <;> simp_all
def al (l : List (Nat × Nat)) : Tbl Row := l.map fun q => (q.1, rowR q.2)
def kX (m : Cmd) (p : Nat) : Core := { kM with allots := [alV], live := [m], staged := [(p, m)], acc := al [(130, 3), (131, 7), (320, 9), (384, 5)], banks := al [(1537, 4), (1538, 6)], slots := [(0, { Slot.reset with lfmt := some 7, lz := 3, kf := 2 }), (1, { Slot.reset with owner := some 0, lfmt := some 5 })] }
def sX (m : Cmd) (p : Nat) (x : Ctx) : State := { stl .ep (kX m p) x l16 with time := 60000 }
def hdM (m : Cmd) : State := { stl .ep { kH 5 m with live := [] } xH l16 with serial := 9 }
def mmaf : MmaF := ⟨g0, 1, 0, 1, 7, 7, 3, 4, 1, false, true, ⟨1,2,1,1⟩, ⟨0,0,0,0⟩, ⟨0,0,0,0⟩, ⟨0,0,0,0⟩, tk1⟩
def oc : Cmd := c5 (.oclaim ⟨g0, 1, tk1⟩) []
def orl : Cmd := c5 (.orel ⟨g0, 2, tk1⟩) []
def mpc : Cmd := c5 (.mpert ⟨g0, 3, 4, 2, true, tk1⟩) [0x123456789]
def mzc : Cmd := c5 (.mzero ⟨g0, 1, tk1⟩) []
def ald : Cmd := c5 (.accld ⟨g0, 3, 2, 1, tk1⟩) [0x100]
def ast : Cmd := c5 (.accst ⟨g0, 3, 2, 1, tk1⟩) [0x100]
def mm : Cmd := c5 (.mma mmaf) []
def srow (n : Nat) : BitVec 3072 := BitVec.ofNat 3072 ((List.range 384).foldl (fun a i => a + ((n * 37 + i * i * 11) % 256) * 2^(8*i)) 0)
def slotA : Slot := { rows := (List.range 64).map fun i => (i, srow i), owner := some 0, lfmt := some 7, lz := 3, kf := 2, zps := rowR 0x123, fill := none }
def slotB : Slot := { rows := (List.range 64).map fun i => (i, srow (i + 99)), owner := some 0, lfmt := some 7, lz := 4, kf := 4, zps := rowR 0x77, fill := none }
def kS : Core := { kX mm 1 with staged := [], running := [(1, { cmd := mm, k := 0, popped := [], flags := 0 })], slots := [(0, slotA), (1, slotB)] }
def sS : State := stl .ep kS xMx l16
def rW : MResult := ⟨mm, 1, 5, (List.range 64).map rowR, 0, true, none, 0⟩
def sW (l : Bool) : State := stl .ep { kS with running := [], results := [{ rW with last := l }] } xMx l16
def off : OfillF := ⟨g0, 1, 7, 2, 0, 0, 0, tk1⟩
def ofc : Cmd := c5 (.ofill off) []
def stF (_ : Nat) : Stream := { strm with count := 2, head := 3, tail := 1 }
def mrf (n : Nat) : MRun := { cmd := ofc, k := 0, popped := (List.range n).map fun i => rowR (i + 8), flags := 0 }
def kFl (n : Nat) : Core := { kX ofc 1 with staged := [], running := [(0, mrf n)], slots := [(0, slotA), (1, { slotB with lfmt := none })], streams := [(4, stF n)], full := [(1539, true)], banks := [(1539, rowR 99)] }
def xFl : Ctx := { xMx with ports := [(2, 4)] }
def sFl (n : Nat) : State := stl .ep (kFl n) xFl l16
def xWd : Ctx := { xMx with segOpen := true, segFrom := 5, segHwOff := false }
def sWd : State := { stl .ep { kX mzc 1 with mReady := [(1, 0)] } xWd l16 with time := 50000 }
def sRp : State := stl .ep { kS with running := [], results := [rW] } xMx l16
def xRw : Ctx := { xWd with window := some 0 }
def wr1 : WRec := ⟨mzc, false, false, false, 0, []⟩
def sRw : State := { stl .ep { kX mzc 1 with window := [wr1], mReady := [(1, 0)] } xRw l16 with time := 50000 }
theorem nq (s : State) (h : (s.west.ctl.up && s.east.ctl.up && !bitN s.west.fqbase.toNat 0 && !bitN s.east.fqbase.toNat 0) = true) : NoQueues s := by
  simp at h; intro d; cases d <;> simp [State.die, h]
def mmz : MmaF := { mmaf with accz := true }
def mz : Cmd := c5 (.mma mmz) []
def sIs : State := stl .ep { kS with live := [mz], running := [(1, { cmd := mz, k := 0, popped := [], flags := 0 })] } xMx l16
def rIs : MResult := ⟨mz, 0, 5, (List.range 64).map rowR, 0, false, none, 0⟩
def wr2 : WRec := ⟨mz, true, false, false, 1, []⟩
def rBad : MResult := { rIs with rows := rIs.rows.map fun r => r ^^^ 5 }
def xRv : Ctx := { xMx with window := some 0 }
def sRv : State := stl .ep { kS with live := [mz], running := [(1, { cmd := mz, k := 1, popped := [], flags := 0 })], results := [rBad], window := [wr2] } xRv l16
def aRv := ((sRv.core 0).mArgs mz 0).get (by decide +kernel)
def ts1 : Cmd := { c5 (.tstart ⟨g0⟩) [] with tk := tk0 }
def mz4 : Cmd := { mzc with id := 4 }
def hdT (l : List Cmd) : State := { stl .ep { kH 5 ts1 with live := l } xH l16 with serial := 9 }
def rn (m : Cmd) (k : Nat) : MRun := { cmd := m, k := k, popped := [], flags := 0 }
def sRun (p : Nat) (m : Cmd) (k : Nat) : State := stl .ep { kX m p with staged := [], running := [(p, rn m k)] } xMx l16
def msc : Cmd := { c5 (.mscacc ⟨g0, 0, 1, true, 64, 65, tk1⟩) [] with rows := [rowR 1, rowR 2] }
def sTwo : State := stl .ep { kS with results := [rW] } xMx l16
def mw : Cmd := c5 (.mma { mmaf with za := 0 }) []
def sBad : State := stl .ep { kS with live := [mw], running := [(1, rn mw 0)] } xMx l16
def mo : Cmd := c5 (.mma { mmaf with tile := 9 }) []
def sOut : State := stl .ep { kS with live := [mo], running := [(1, rn mo 0)] } xMx l16
def sm : Cmd := c5 (.smma ⟨mmaf, 1, 2⟩) []
def kSm : Core := { kS with allots := [{ alV with slots := [0, 1, 2] }], live := [sm], running := [(1, rn sm 0)], slots := [(0, slotA), (1, slotB), (2, { Slot.reset with owner := some 0, lfmt := some lfMeta, rows := (List.range 64).map fun i => (i, 4) })] }
def sSm : State := stl .ep kSm xMx l16
theorem metaOk : ∀ i n, i < 64 → n ∈ [0] → elemAt (((sSm.core 0).slot 2).row 0 2 i) 4 n % 4 < elemAt (((sSm.core 0).slot 2).row 0 2 i) 4 n / 4 := fun i n hi hn =>
  (by decide +kernel : ∀ i, i < 64 → ∀ n ∈ [0], elemAt (((sSm.core 0).slot 2).row 0 2 i) 4 n % 4 < elemAt (((sSm.core 0).slot 2).row 0 2 i) 4 n / 4) i hi n hn
def ofr : Cmd := { ofc with rows := [rowR 3] }
theorem isFill : FillIs (.ofill off) 8 48 2 1 0 := Or.inl ⟨off, rfl, rfl, rfl, rfl, rfl, rfl⟩
def ofm : Cmd := c5 (.ofillMeta ⟨g0, 1, 2, 0, tk1⟩) []
theorem isMeta : FillIs ofm.instr 4 48 2 1 0 := Or.inr ⟨⟨g0, 1, 2, 0, tk1⟩, rfl, rfl, rfl, rfl, rfl, rfl⟩
def wd : Redo := { cmd := mz, k := 0, trig := .error, esc := true, todo := [(5, 0)] }
def sRd (r : List MResult) (d : Redo) : State := { sRv with cores := [(0, { sRv.core 0 with results := r, redo := some d })] }
def mz3 : Cmd := c5 (.mzero ⟨g0, 3, tk1⟩) []
def zd : Redo := { cmd := mz3, k := 3, trig := .injected, esc := false, todo := [(5, 70)] }
def wrz : WRec := ⟨mz3, true, false, false, 70, []⟩
def sZd : State := stl .ep { kX mz3 1 with staged := [], window := [wrz], redo := some zd } xRv l16
def sW2 : State := stl .ep { kS with running := [], results := [{ rW with trig := some .error }] } xMx l16
theorem witness_MatrixRecords (H : Obligations.MatrixRecords) : type_of% (And.intro ((H.1 (hdM (c5 (.mma mmaf) [])) 0 (c5 (.mma mmaf) []) [c6] xH ⟨yes, yes, yes, yes, yes, yes, yes, yes, yes, yes, yes⟩ rfl rfl rfl rfl rfl).1 1 (Or.inr (Or.inl ⟨Or.inl ⟨_, rfl⟩, rfl⟩)))
    (And.intro ((H.1 (hdM ofc) 0 ofc [c6] xH ⟨yes, yes, yes, yes, yes, yes, yes, yes, yes, yes, yes⟩ rfl rfl rfl rfl rfl).1 0 (Or.inl ⟨Or.inl ⟨_, rfl⟩, rfl⟩))
    (And.intro ((H.1 (hdM ald) 0 ald [c6] xH ⟨yes, yes, yes, yes, yes, yes, yes, yes, yes, yes, yes⟩ rfl rfl rfl rfl rfl).1 2 (Or.inr (Or.inr (Or.inl ⟨Or.inl ⟨_, rfl⟩, rfl⟩))))
    (And.intro ((H.1 (hdM oc) 0 oc [c6] xH ⟨yes, yes, yes, yes, yes, yes, yes, yes, yes, yes, yes⟩ rfl rfl rfl rfl rfl).1 3 (Or.inr (Or.inr (Or.inr ⟨Or.inl ⟨_, rfl⟩, rfl⟩))))
    (And.intro ((H.1 (hdT []) 0 ts1 [c6] xH ⟨yes, yes, yes, yes, yes, yes, yes, yes, yes, yes, yes⟩ rfl rfl rfl rfl rfl).2.1 ⟨g0⟩ rfl (fun e h => nomatch h))
    (And.intro ((H.1 (hdT [mz4]) 0 ts1 [c6] xH ⟨yes, yes, yes, yes, yes, yes, yes, yes, yes, yes, yes⟩ rfl rfl rfl rfl rfl).2.2 ⟨g0⟩ mz4 rfl (List.mem_cons_self ..) yes rfl rfl rfl yes)
    (And.intro ((H.2.1 (sX oc 3 xMx) 0 oc xMx ⟨rfl, rfl, rfl, rfl, rfl, rfl, rfl, rfl, rfl, rfl, rfl, yes⟩).1 ⟨g0, 1, tk1⟩ rfl ⟨rfl, rfl, rfl⟩ (slots_of yes))
    (And.intro ((H.2.1 (sX orl 3 xMx) 0 orl xMx ⟨rfl, rfl, rfl, rfl, rfl, rfl, rfl, rfl, rfl, rfl, rfl, yes⟩).2.1 ⟨g0, 2, tk1⟩ rfl ⟨rfl, rfl, rfl⟩ (slots_of yes))
    (And.intro ((H.2.1 (sX mpc 3 xMx) 0 mpc xMx ⟨rfl, rfl, rfl, rfl, rfl, rfl, rfl, rfl, rfl, rfl, rfl, yes⟩).2.2.1 ⟨g0, 3, 4, 2, true, tk1⟩ 0x123456789 rfl rfl ⟨rfl, rfl, rfl⟩)
    (And.intro ((H.2.1 (sX mzc 1 xMx) 0 mzc xMx ⟨rfl, rfl, rfl, rfl, rfl, rfl, rfl, rfl, rfl, rfl, rfl, yes⟩).2.2.2.1 ⟨g0, 1, tk1⟩ rfl rfl ⟨rfl, rfl, rfl⟩ yes)
    (And.intro ((H.2.1 (sRun 1 mzc 3) 0 mzc xMx ⟨rfl, rfl, rfl, rfl, rfl, rfl, rfl, rfl, rfl, rfl, rfl, yes⟩).2.2.2.2.1 ⟨g0, 1, tk1⟩ (rn mzc 3) 0 2 rfl rfl rfl rfl yes rfl)
    (And.intro ((H.2.1 (sRun 1 mzc 63) 0 mzc xMx ⟨rfl, rfl, rfl, rfl, rfl, rfl, rfl, rfl, rfl, rfl, rfl, yes⟩).2.2.2.2.1 ⟨g0, 1, tk1⟩ (rn mzc 63) 0 2 rfl rfl rfl rfl yes rfl)
    (And.intro ((H.2.1 (sX msc 1 xMx) 0 msc xMx ⟨rfl, rfl, rfl, rfl, rfl, rfl, rfl, rfl, rfl, rfl, rfl, yes⟩).2.2.2.2.2.1 ⟨g0, 0, 1, true, 64, 65, tk1⟩ rfl rfl rfl ⟨rfl, rfl, rfl⟩ yes yes)
    (And.intro ((H.2.1 (sRun 1 msc 3) 0 msc xMx ⟨rfl, rfl, rfl, rfl, rfl, rfl, rfl, rfl, rfl, rfl, rfl, yes⟩).2.2.2.2.2.2.1 ⟨g0, 0, 1, true, 64, 65, tk1⟩ (rn msc 3) (rowR 1) (rowR 2) 2 5 rfl rfl rfl rfl yes rfl yes yes)
    (And.intro ((H.2.1 (sX ald 2 xMx) 0 ald xMx ⟨rfl, rfl, rfl, rfl, rfl, rfl, rfl, rfl, rfl, rfl, rfl, yes⟩).2.2.2.2.2.2.2.1 3 1 0x100 rfl yes yes yes yes ⟨rfl, rfl, rfl⟩ ⟨g0, 3, 2, 1, tk1⟩ (Or.inl rfl) rfl rfl)
    (And.intro ((H.2.1 (sX ast 2 xMx) 0 ast xMx ⟨rfl, rfl, rfl, rfl, rfl, rfl, rfl, rfl, rfl, rfl, rfl, yes⟩).2.2.2.2.2.2.2.1 3 1 0x100 rfl yes yes yes yes ⟨rfl, rfl, rfl⟩ ⟨g0, 3, 2, 1, tk1⟩ (Or.inr rfl) rfl rfl)
    (And.intro (((H.2.1 (sRun 2 ald 0) 0 ald xMx ⟨rfl, rfl, rfl, rfl, rfl, rfl, rfl, rfl, rfl, rfl, rfl, yes⟩).2.2.2.2.2.2.2.2.1 ⟨g0, 3, 2, 1, tk1⟩ (rn ald 0) 0x100 131 1537 rfl rfl rfl rfl yes yes yes).1 rfl)
    (And.intro (((H.2.1 (sRun 2 ast 1) 0 ast xMx ⟨rfl, rfl, rfl, rfl, rfl, rfl, rfl, rfl, rfl, rfl, rfl, yes⟩).2.2.2.2.2.2.2.2.1 ⟨g0, 3, 2, 1, tk1⟩ (rn ast 1) 0x100 132 1538 rfl rfl rfl rfl yes yes yes).2 rfl)
    (And.intro ((H.2.1 (sX mm 1 xMx) 0 mm xMx ⟨rfl, rfl, rfl, rfl, rfl, rfl, rfl, rfl, rfl, rfl, rfl, yes⟩).2.2.2.2.2.2.2.2.2.1 mmaf (Or.inl rfl) ⟨rfl, rfl, rfl⟩)
    (And.intro ((H.2.1 (sX sm 1 xMx) 0 sm xMx ⟨rfl, rfl, rfl, rfl, rfl, rfl, rfl, rfl, rfl, rfl, rfl, yes⟩).2.2.2.2.2.2.2.2.2.1 mmaf (Or.inr ⟨_, rfl, rfl⟩) ⟨rfl, rfl, rfl⟩)
    (And.intro (((H.2.1 (sS) 0 mm xMx ⟨rfl, rfl, rfl, rfl, rfl, rfl, rfl, rfl, rfl, rfl, rfl, yes⟩).2.2.2.2.2.2.2.2.2.2.1 mmaf (rn mm 0) 1 0 4 5 0 1 rfl ⟨rfl, rfl, rfl, rfl, rfl, yes, yes, yes, yes, yes, yes, yes⟩).1 yes (fun r h => nomatch h))
    (And.intro (((H.2.1 (sTwo) 0 mm xMx ⟨rfl, rfl, rfl, rfl, rfl, rfl, rfl, rfl, rfl, rfl, rfl, yes⟩).2.2.2.2.2.2.2.2.2.2.1 mmaf (rn mm 0) 1 0 4 5 0 1 rfl ⟨rfl, rfl, rfl, rfl, rfl, yes, yes, yes, yes, yes, yes, yes⟩).2.1 ⟨rW, List.mem_cons_self .., rfl, rfl⟩ yes)
    (And.intro (((H.2.1 (sBad) 0 mw xMx ⟨rfl, rfl, rfl, rfl, rfl, rfl, rfl, rfl, rfl, rfl, rfl, yes⟩).2.2.2.2.2.2.2.2.2.2.1 _ (rn mw 0) 1 0 4 5 0 1 rfl ⟨rfl, rfl, rfl, rfl, rfl, yes, yes, yes, yes, yes, yes, yes⟩).2.2 4 yes yes rfl rfl rfl)
    (And.intro ((H.2.1 (sOut) 0 mo xMx ⟨rfl, rfl, rfl, rfl, rfl, rfl, rfl, rfl, rfl, rfl, rfl, yes⟩).2.2.2.2.2.2.2.2.2.2.2.1 _ (rn mo 0) (Or.inl rfl) rfl rfl rfl rfl rfl rfl yes)
    (And.intro ((H.2.1 (sSm) 0 sm xMx ⟨rfl, rfl, rfl, rfl, rfl, rfl, rfl, rfl, rfl, rfl, rfl, yes⟩).2.2.2.2.2.2.2.2.2.2.2.2.1 _ (rn sm 0) 1 0 4 5 0 1 2 [0] rfl ⟨rfl, rfl, rfl, rfl, rfl, yes, yes, yes, yes, yes, yes, yes⟩ yes yes yes rfl rfl metaOk (fun r h => nomatch h))
    (And.intro ((H.2.1 (sW true) 0 mm xMx ⟨rfl, rfl, rfl, rfl, rfl, rfl, rfl, rfl, rfl, rfl, rfl, yes⟩).2.2.2.2.2.2.2.2.2.2.2.2.2.1 rW [] rfl yes rfl rfl yes)
    (And.intro ((H.2.1 (sW false) 0 mm xMx ⟨rfl, rfl, rfl, rfl, rfl, rfl, rfl, rfl, rfl, rfl, rfl, yes⟩).2.2.2.2.2.2.2.2.2.2.2.2.2.1 { rW with last := false } [] rfl yes rfl rfl yes)
    (And.intro ((H.2.1 (sX ofr 0 xMx) 0 ofr xMx ⟨rfl, rfl, rfl, rfl, rfl, rfl, rfl, rfl, rfl, rfl, rfl, yes⟩).2.2.2.2.2.2.2.2.2.2.2.2.2.2.1 8 48 2 1 0 1 isFill ⟨rfl, rfl, rfl⟩ yes yes yes (fun f _ _ => ⟨_, rfl⟩))
    (And.intro ((H.2.1 (sX ofm 0 xMx) 0 ofm xMx ⟨rfl, rfl, rfl, rfl, rfl, rfl, rfl, rfl, rfl, rfl, rfl, yes⟩).2.2.2.2.2.2.2.2.2.2.2.2.2.2.1 4 48 2 1 0 1 isMeta ⟨rfl, rfl, rfl⟩ yes yes yes (fun f h _ => nomatch h))
    (And.intro ((H.2.1 (sFl 3) 0 ofc xFl ⟨rfl, rfl, rfl, rfl, rfl, rfl, rfl, rfl, rfl, rfl, rfl, yes⟩).2.2.2.2.2.2.2.2.2.2.2.2.2.2.2.1 8 48 2 1 0 (mrf 3) 4 (stF 3) 1 isFill yes rfl rfl rfl rfl yes rfl yes yes yes yes yes)
    (And.intro ((H.2.1 (sFl 11) 0 ofc xFl ⟨rfl, rfl, rfl, rfl, rfl, rfl, rfl, rfl, rfl, rfl, rfl, yes⟩).2.2.2.2.2.2.2.2.2.2.2.2.2.2.2.1 8 48 2 1 0 (mrf 11) 4 (stF 11) 1 isFill yes rfl rfl rfl rfl yes rfl yes yes yes yes yes)
    (And.intro (((H.2.1 (sWd) 0 mzc xWd ⟨rfl, rfl, rfl, rfl, rfl, rfl, rfl, rfl, rfl, rfl, rfl, yes⟩).2.2.2.2.2.2.2.2.2.2.2.2.2.2.2.2 rfl rfl).1 ⟨g0, 1, tk1⟩ rfl ⟨rfl, rfl, rfl⟩ rfl yes rfl yes)
    (And.intro (((H.2.1 (sRp) 0 mm xMx ⟨rfl, rfl, rfl, rfl, rfl, rfl, rfl, rfl, rfl, rfl, rfl, yes⟩).2.2.2.2.2.2.2.2.2.2.2.2.2.2.2.2 rfl rfl).2 rW [] _ rfl yes (Or.inl rfl))
    (And.intro (((H.2.1 (sW2) 0 mm xMx ⟨rfl, rfl, rfl, rfl, rfl, rfl, rfl, rfl, rfl, rfl, rfl, yes⟩).2.2.2.2.2.2.2.2.2.2.2.2.2.2.2.2 rfl rfl).2 { rW with trig := some .error } [] _ rfl yes (Or.inr ⟨rfl, rfl⟩))
    (And.intro ((H.2.2.1 sRw 0 mzc xRw wr1 rfl rfl rfl rfl rfl (nq _ yes) rfl rfl rfl rfl rfl rfl rfl rfl).1 ⟨g0, 1, tk1⟩ rfl rfl rfl rfl rfl rfl yes rfl yes)
    (And.intro ((H.2.2.1 sRv 0 mz xRv wr2 rfl rfl rfl rfl rfl (nq _ yes) rfl rfl rfl rfl rfl rfl rfl rfl).2 mmz rBad aRv.1 aRv.2 rfl rfl rfl rfl rfl rfl yes rfl rfl rfl)
    (And.intro (((H.2.2.2.1 (sRd [rBad] wd) 0 mz xRv wr2 wd (.matrixSingleIssue 0) rfl rfl rfl rfl rfl (nq _ yes) rfl rfl rfl rfl rfl rfl rfl yes).1 mmz aRv.1 aRv.2 [] rfl rfl rfl yes).1 rBad rfl rfl rfl)
    (And.intro (((H.2.2.2.1 (sRd [] wd) 0 mz xRv wr2 wd (.matrixSingleIssue 0) rfl rfl rfl rfl rfl (nq _ yes) rfl rfl rfl rfl rfl rfl rfl yes).1 mmz aRv.1 aRv.2 [] rfl rfl rfl yes).2 rfl)
    (And.intro ((H.2.2.2.1 sZd 0 mz3 xRv wrz zd (.matrixResultWrite 0) rfl rfl rfl rfl rfl (nq _ yes) rfl rfl rfl rfl rfl rfl rfl yes).2.1 ⟨g0, 3, tk1⟩ 70 [] 1 5 rfl rfl rfl yes rfl)
    (And.intro ((H.2.2.2.1 (sRd [rBad] { wd with todo := [] }) 0 mz xRv wr2 { wd with todo := [] } (.matrixSingleIssue 0) rfl rfl rfl rfl rfl (nq _ yes) rfl rfl rfl rfl rfl rfl rfl yes).2.2 rfl rfl rfl yes)
    (And.intro ((H.2.2.2.2.1 6 6 5 [(1, 2, 3, 4)]).1 yes)
    (And.intro ((H.2.2.2.2.1 1 2 0x3F800000 [(0x3C00, 0, 0xBF80, 0)]).2 yes yes yes)
    (And.intro ((H.2.2.2.2.2 false 0x3F800000 0x40000000 127 126 yes yes yes yes).1)
    ((H.2.2.2.2.2 true 0x3F800000 7 127 126 yes yes yes yes).2 yes yes)))))))))))))))))))))))))))))))))))))))))))) :=
  And.intro ((H.1 (hdM (c5 (.mma mmaf) [])) 0 (c5 (.mma mmaf) []) [c6] xH ⟨yes, yes, yes, yes, yes, yes, yes, yes, yes, yes, yes⟩ rfl rfl rfl rfl rfl).1 1 (Or.inr (Or.inl ⟨Or.inl ⟨_, rfl⟩, rfl⟩)))
    (And.intro ((H.1 (hdM ofc) 0 ofc [c6] xH ⟨yes, yes, yes, yes, yes, yes, yes, yes, yes, yes, yes⟩ rfl rfl rfl rfl rfl).1 0 (Or.inl ⟨Or.inl ⟨_, rfl⟩, rfl⟩))
    (And.intro ((H.1 (hdM ald) 0 ald [c6] xH ⟨yes, yes, yes, yes, yes, yes, yes, yes, yes, yes, yes⟩ rfl rfl rfl rfl rfl).1 2 (Or.inr (Or.inr (Or.inl ⟨Or.inl ⟨_, rfl⟩, rfl⟩))))
    (And.intro ((H.1 (hdM oc) 0 oc [c6] xH ⟨yes, yes, yes, yes, yes, yes, yes, yes, yes, yes, yes⟩ rfl rfl rfl rfl rfl).1 3 (Or.inr (Or.inr (Or.inr ⟨Or.inl ⟨_, rfl⟩, rfl⟩))))
    (And.intro ((H.1 (hdT []) 0 ts1 [c6] xH ⟨yes, yes, yes, yes, yes, yes, yes, yes, yes, yes, yes⟩ rfl rfl rfl rfl rfl).2.1 ⟨g0⟩ rfl (fun e h => nomatch h))
    (And.intro ((H.1 (hdT [mz4]) 0 ts1 [c6] xH ⟨yes, yes, yes, yes, yes, yes, yes, yes, yes, yes, yes⟩ rfl rfl rfl rfl rfl).2.2 ⟨g0⟩ mz4 rfl (List.mem_cons_self ..) yes rfl rfl rfl yes)
    (And.intro ((H.2.1 (sX oc 3 xMx) 0 oc xMx ⟨rfl, rfl, rfl, rfl, rfl, rfl, rfl, rfl, rfl, rfl, rfl, yes⟩).1 ⟨g0, 1, tk1⟩ rfl ⟨rfl, rfl, rfl⟩ (slots_of yes))
    (And.intro ((H.2.1 (sX orl 3 xMx) 0 orl xMx ⟨rfl, rfl, rfl, rfl, rfl, rfl, rfl, rfl, rfl, rfl, rfl, yes⟩).2.1 ⟨g0, 2, tk1⟩ rfl ⟨rfl, rfl, rfl⟩ (slots_of yes))
    (And.intro ((H.2.1 (sX mpc 3 xMx) 0 mpc xMx ⟨rfl, rfl, rfl, rfl, rfl, rfl, rfl, rfl, rfl, rfl, rfl, yes⟩).2.2.1 ⟨g0, 3, 4, 2, true, tk1⟩ 0x123456789 rfl rfl ⟨rfl, rfl, rfl⟩)
    (And.intro ((H.2.1 (sX mzc 1 xMx) 0 mzc xMx ⟨rfl, rfl, rfl, rfl, rfl, rfl, rfl, rfl, rfl, rfl, rfl, yes⟩).2.2.2.1 ⟨g0, 1, tk1⟩ rfl rfl ⟨rfl, rfl, rfl⟩ yes)
    (And.intro ((H.2.1 (sRun 1 mzc 3) 0 mzc xMx ⟨rfl, rfl, rfl, rfl, rfl, rfl, rfl, rfl, rfl, rfl, rfl, yes⟩).2.2.2.2.1 ⟨g0, 1, tk1⟩ (rn mzc 3) 0 2 rfl rfl rfl rfl yes rfl)
    (And.intro ((H.2.1 (sRun 1 mzc 63) 0 mzc xMx ⟨rfl, rfl, rfl, rfl, rfl, rfl, rfl, rfl, rfl, rfl, rfl, yes⟩).2.2.2.2.1 ⟨g0, 1, tk1⟩ (rn mzc 63) 0 2 rfl rfl rfl rfl yes rfl)
    (And.intro ((H.2.1 (sX msc 1 xMx) 0 msc xMx ⟨rfl, rfl, rfl, rfl, rfl, rfl, rfl, rfl, rfl, rfl, rfl, yes⟩).2.2.2.2.2.1 ⟨g0, 0, 1, true, 64, 65, tk1⟩ rfl rfl rfl ⟨rfl, rfl, rfl⟩ yes yes)
    (And.intro ((H.2.1 (sRun 1 msc 3) 0 msc xMx ⟨rfl, rfl, rfl, rfl, rfl, rfl, rfl, rfl, rfl, rfl, rfl, yes⟩).2.2.2.2.2.2.1 ⟨g0, 0, 1, true, 64, 65, tk1⟩ (rn msc 3) (rowR 1) (rowR 2) 2 5 rfl rfl rfl rfl yes rfl yes yes)
    (And.intro ((H.2.1 (sX ald 2 xMx) 0 ald xMx ⟨rfl, rfl, rfl, rfl, rfl, rfl, rfl, rfl, rfl, rfl, rfl, yes⟩).2.2.2.2.2.2.2.1 3 1 0x100 rfl yes yes yes yes ⟨rfl, rfl, rfl⟩ ⟨g0, 3, 2, 1, tk1⟩ (Or.inl rfl) rfl rfl)
    (And.intro ((H.2.1 (sX ast 2 xMx) 0 ast xMx ⟨rfl, rfl, rfl, rfl, rfl, rfl, rfl, rfl, rfl, rfl, rfl, yes⟩).2.2.2.2.2.2.2.1 3 1 0x100 rfl yes yes yes yes ⟨rfl, rfl, rfl⟩ ⟨g0, 3, 2, 1, tk1⟩ (Or.inr rfl) rfl rfl)
    (And.intro (((H.2.1 (sRun 2 ald 0) 0 ald xMx ⟨rfl, rfl, rfl, rfl, rfl, rfl, rfl, rfl, rfl, rfl, rfl, yes⟩).2.2.2.2.2.2.2.2.1 ⟨g0, 3, 2, 1, tk1⟩ (rn ald 0) 0x100 131 1537 rfl rfl rfl rfl yes yes yes).1 rfl)
    (And.intro (((H.2.1 (sRun 2 ast 1) 0 ast xMx ⟨rfl, rfl, rfl, rfl, rfl, rfl, rfl, rfl, rfl, rfl, rfl, yes⟩).2.2.2.2.2.2.2.2.1 ⟨g0, 3, 2, 1, tk1⟩ (rn ast 1) 0x100 132 1538 rfl rfl rfl rfl yes yes yes).2 rfl)
    (And.intro ((H.2.1 (sX mm 1 xMx) 0 mm xMx ⟨rfl, rfl, rfl, rfl, rfl, rfl, rfl, rfl, rfl, rfl, rfl, yes⟩).2.2.2.2.2.2.2.2.2.1 mmaf (Or.inl rfl) ⟨rfl, rfl, rfl⟩)
    (And.intro ((H.2.1 (sX sm 1 xMx) 0 sm xMx ⟨rfl, rfl, rfl, rfl, rfl, rfl, rfl, rfl, rfl, rfl, rfl, yes⟩).2.2.2.2.2.2.2.2.2.1 mmaf (Or.inr ⟨_, rfl, rfl⟩) ⟨rfl, rfl, rfl⟩)
    (And.intro (((H.2.1 (sS) 0 mm xMx ⟨rfl, rfl, rfl, rfl, rfl, rfl, rfl, rfl, rfl, rfl, rfl, yes⟩).2.2.2.2.2.2.2.2.2.2.1 mmaf (rn mm 0) 1 0 4 5 0 1 rfl ⟨rfl, rfl, rfl, rfl, rfl, yes, yes, yes, yes, yes, yes, yes⟩).1 yes (fun r h => nomatch h))
    (And.intro (((H.2.1 (sTwo) 0 mm xMx ⟨rfl, rfl, rfl, rfl, rfl, rfl, rfl, rfl, rfl, rfl, rfl, yes⟩).2.2.2.2.2.2.2.2.2.2.1 mmaf (rn mm 0) 1 0 4 5 0 1 rfl ⟨rfl, rfl, rfl, rfl, rfl, yes, yes, yes, yes, yes, yes, yes⟩).2.1 ⟨rW, List.mem_cons_self .., rfl, rfl⟩ yes)
    (And.intro (((H.2.1 (sBad) 0 mw xMx ⟨rfl, rfl, rfl, rfl, rfl, rfl, rfl, rfl, rfl, rfl, rfl, yes⟩).2.2.2.2.2.2.2.2.2.2.1 _ (rn mw 0) 1 0 4 5 0 1 rfl ⟨rfl, rfl, rfl, rfl, rfl, yes, yes, yes, yes, yes, yes, yes⟩).2.2 4 yes yes rfl rfl rfl)
    (And.intro ((H.2.1 (sOut) 0 mo xMx ⟨rfl, rfl, rfl, rfl, rfl, rfl, rfl, rfl, rfl, rfl, rfl, yes⟩).2.2.2.2.2.2.2.2.2.2.2.1 _ (rn mo 0) (Or.inl rfl) rfl rfl rfl rfl rfl rfl yes)
    (And.intro ((H.2.1 (sSm) 0 sm xMx ⟨rfl, rfl, rfl, rfl, rfl, rfl, rfl, rfl, rfl, rfl, rfl, yes⟩).2.2.2.2.2.2.2.2.2.2.2.2.1 _ (rn sm 0) 1 0 4 5 0 1 2 [0] rfl ⟨rfl, rfl, rfl, rfl, rfl, yes, yes, yes, yes, yes, yes, yes⟩ yes yes yes rfl rfl metaOk (fun r h => nomatch h))
    (And.intro ((H.2.1 (sW true) 0 mm xMx ⟨rfl, rfl, rfl, rfl, rfl, rfl, rfl, rfl, rfl, rfl, rfl, yes⟩).2.2.2.2.2.2.2.2.2.2.2.2.2.1 rW [] rfl yes rfl rfl yes)
    (And.intro ((H.2.1 (sW false) 0 mm xMx ⟨rfl, rfl, rfl, rfl, rfl, rfl, rfl, rfl, rfl, rfl, rfl, yes⟩).2.2.2.2.2.2.2.2.2.2.2.2.2.1 { rW with last := false } [] rfl yes rfl rfl yes)
    (And.intro ((H.2.1 (sX ofr 0 xMx) 0 ofr xMx ⟨rfl, rfl, rfl, rfl, rfl, rfl, rfl, rfl, rfl, rfl, rfl, yes⟩).2.2.2.2.2.2.2.2.2.2.2.2.2.2.1 8 48 2 1 0 1 isFill ⟨rfl, rfl, rfl⟩ yes yes yes (fun f _ _ => ⟨_, rfl⟩))
    (And.intro ((H.2.1 (sX ofm 0 xMx) 0 ofm xMx ⟨rfl, rfl, rfl, rfl, rfl, rfl, rfl, rfl, rfl, rfl, rfl, yes⟩).2.2.2.2.2.2.2.2.2.2.2.2.2.2.1 4 48 2 1 0 1 isMeta ⟨rfl, rfl, rfl⟩ yes yes yes (fun f h _ => nomatch h))
    (And.intro ((H.2.1 (sFl 3) 0 ofc xFl ⟨rfl, rfl, rfl, rfl, rfl, rfl, rfl, rfl, rfl, rfl, rfl, yes⟩).2.2.2.2.2.2.2.2.2.2.2.2.2.2.2.1 8 48 2 1 0 (mrf 3) 4 (stF 3) 1 isFill yes rfl rfl rfl rfl yes rfl yes yes yes yes yes)
    (And.intro ((H.2.1 (sFl 11) 0 ofc xFl ⟨rfl, rfl, rfl, rfl, rfl, rfl, rfl, rfl, rfl, rfl, rfl, yes⟩).2.2.2.2.2.2.2.2.2.2.2.2.2.2.2.1 8 48 2 1 0 (mrf 11) 4 (stF 11) 1 isFill yes rfl rfl rfl rfl yes rfl yes yes yes yes yes)
    (And.intro (((H.2.1 (sWd) 0 mzc xWd ⟨rfl, rfl, rfl, rfl, rfl, rfl, rfl, rfl, rfl, rfl, rfl, yes⟩).2.2.2.2.2.2.2.2.2.2.2.2.2.2.2.2 rfl rfl).1 ⟨g0, 1, tk1⟩ rfl ⟨rfl, rfl, rfl⟩ rfl yes rfl yes)
    (And.intro (((H.2.1 (sRp) 0 mm xMx ⟨rfl, rfl, rfl, rfl, rfl, rfl, rfl, rfl, rfl, rfl, rfl, yes⟩).2.2.2.2.2.2.2.2.2.2.2.2.2.2.2.2 rfl rfl).2 rW [] _ rfl yes (Or.inl rfl))
    (And.intro (((H.2.1 (sW2) 0 mm xMx ⟨rfl, rfl, rfl, rfl, rfl, rfl, rfl, rfl, rfl, rfl, rfl, yes⟩).2.2.2.2.2.2.2.2.2.2.2.2.2.2.2.2 rfl rfl).2 { rW with trig := some .error } [] _ rfl yes (Or.inr ⟨rfl, rfl⟩))
    (And.intro ((H.2.2.1 sRw 0 mzc xRw wr1 rfl rfl rfl rfl rfl (nq _ yes) rfl rfl rfl rfl rfl rfl rfl rfl).1 ⟨g0, 1, tk1⟩ rfl rfl rfl rfl rfl rfl yes rfl yes)
    (And.intro ((H.2.2.1 sRv 0 mz xRv wr2 rfl rfl rfl rfl rfl (nq _ yes) rfl rfl rfl rfl rfl rfl rfl rfl).2 mmz rBad aRv.1 aRv.2 rfl rfl rfl rfl rfl rfl yes rfl rfl rfl)
    (And.intro (((H.2.2.2.1 (sRd [rBad] wd) 0 mz xRv wr2 wd (.matrixSingleIssue 0) rfl rfl rfl rfl rfl (nq _ yes) rfl rfl rfl rfl rfl rfl rfl yes).1 mmz aRv.1 aRv.2 [] rfl rfl rfl yes).1 rBad rfl rfl rfl)
    (And.intro (((H.2.2.2.1 (sRd [] wd) 0 mz xRv wr2 wd (.matrixSingleIssue 0) rfl rfl rfl rfl rfl (nq _ yes) rfl rfl rfl rfl rfl rfl rfl yes).1 mmz aRv.1 aRv.2 [] rfl rfl rfl yes).2 rfl)
    (And.intro ((H.2.2.2.1 sZd 0 mz3 xRv wrz zd (.matrixResultWrite 0) rfl rfl rfl rfl rfl (nq _ yes) rfl rfl rfl rfl rfl rfl rfl yes).2.1 ⟨g0, 3, tk1⟩ 70 [] 1 5 rfl rfl rfl yes rfl)
    (And.intro ((H.2.2.2.1 (sRd [rBad] { wd with todo := [] }) 0 mz xRv wr2 { wd with todo := [] } (.matrixSingleIssue 0) rfl rfl rfl rfl rfl (nq _ yes) rfl rfl rfl rfl rfl rfl rfl yes).2.2 rfl rfl rfl yes)
    (And.intro ((H.2.2.2.2.1 6 6 5 [(1, 2, 3, 4)]).1 yes)
    (And.intro ((H.2.2.2.2.1 1 2 0x3F800000 [(0x3C00, 0, 0xBF80, 0)]).2 yes yes yes)
    (And.intro ((H.2.2.2.2.2 false 0x3F800000 0x40000000 127 126 yes yes yes yes).1)
    ((H.2.2.2.2.2 true 0x3F800000 7 127 126 yes yes yes yes).2 yes yes)))))))))))))))))))))))))))))))))))))))))))
end Matrix

namespace Grid
/-! The grid and the Proofer. -/
open Heads
def xG : Ctx := { x0 with tok := [(3, 9)], ports := [(1, 4)] }
def im (ws : List Nat) : List Byte := leBytes 64 (2 ^ 65) ++ leBytes 64 0 ++ leBytes 2 384 ++ leBytes 1 (ws.length / 4) ++ leBytes 13 0 ++ leBytes 240 0 ++ ws.flatMap (leBytes 8)
def bk (x xa ia b off : Nat) : Nat := pack [(8, 0xF2), (1, 0), (4, 0), (4, x), (4, xa), (1, ia), (5, b), (14, off), (23, 0)]
def sp (b : Nat) : Nat := pack [(8, 0xF0), (5, 0), (5, b), (46, 0)]
def jn (b : Nat) : Nat := pack [(8, 0xF1), (5, 0), (6, b), (45, 0)]
def im1 := im ([0, 0, 0, bk 5 2 1 1 3] ++ [0,0,0,0])
def im2 := im ([sp 1, sp 1, sp 1, sp 1] ++ [jn 2, jn 2, jn 2, jn 2] ++ [0,0,0,0])
def gm : Cmd := c5 (.grun ⟨g0, true, tk1⟩) []
def frm (b : Nat) (l : List Nat) (sp : Option (List (Option Nat))) : Firing := { bundle := b, left := l, split := sp, outs := [] }
def kG (im : List Byte) (fr : Tbl Firing) : Core := { kM with allots := [alV], live := [gm], banks := [(3*768 + 2, rowR 9), (2*768, rowR 99)], grid := { Grid.reset with images := [(1, im)], running := some (1, gm), gruns := [(5, 0)], x := [(50, 30)], firing := fr } }
def sG (im : List Byte) (fr : Tbl Firing) : State := stl .ep (kG im fr) xG l16
theorem gg (im fr) : Grids (sG im fr) 0 1 gm := ⟨rfl, rfl, rfl, rfl, rfl, rfl⟩
def imE : List Byte := leBytes 64 (2 ^ 96) ++ leBytes 64 0 ++ leBytes 2 384 ++ leBytes 1 1 ++ leBytes 1 0x10 ++ leBytes 12 0 ++ leBytes 240 0 ++ leBytes 32 0
def stE : Stream := { strm with near := .fp 0 }
def sE : State := stl .ep { kG imE [] with streams := [(4, stE)], banks := [(1539, 7)], full := [(1539, true)], kind := [(1539, 1)] } xG l16
theorem starved : ∀ e, e < 16 → imgNB (sE.core 0).grid.image e = 0 ∨ (bitN (imgDin (sE.core 0).grid.image e) 4 = true ∧ gPort e = some 0 ∧ (sE.core 0).grid.staged (4 * 0) = []) ∨
    ∃ d k, d < 4 ∧ k < 4 ∧ bitN (imgDin (sE.core 0).grid.image e) d = true ∧ (sE.core 0).grid.link (lkKey e d k) = [] := fun e he =>
  (Nat.eq_zero_or_pos e).elim (fun h => Or.inr (Or.inl (by subst h; exact ⟨yes, yes, yes⟩)))
    (fun h => Or.inl ((by decide +kernel : ∀ e, e < 16 → 0 < e → imgNB (sE.core 0).grid.image e = 0) e he h))
def f1 : Tbl Firing := [(0, frm 0 [3] none), (7, frm 2 [1] none)]
def gq : GMem := ⟨g0, 5, 2, true, 3⟩
def f3 : Tbl Firing := [(0, frm 0 [] (some [none, none, none, none]))]
def stP : Stream := { strm with desc := BitVec.ofNat 512 (2^(8*43)), near := .fp 2, count := 1, head := 1, tail := 2, held := 0 }
def kP : Core := { kG im1 f1 with grid := { (kG im1 f1).grid with outRow := [(2, [(5, ⟨0, rowR 7⟩)])] }, streams := [(4, stP)] }
def sP : State := stl .ep kP xG l16
abbrev tab0 : BitVec 1536 := BitVec.ofNat 1536 (4 * 2^32)
def frameW : Word := BitVec.ofNat 64 (2 * 2^40 + 3 * 2^32 + 0x20 * 2^16 + 0x10)
def tkc : Cmd := c5 (.sqcombTake ⟨g0, 1, tk1⟩) []
def kQ (l : List (Nat × Nat)) (k r : Nat) : Core := { kM with allots := [alV], live := [tkc], prf := { tab := some tab0, frame := frameW, list := l, run := some ⟨tkc, k, r, 0, 0, none⟩ }, streams := [(4, { strm with count := 1 })], full := [(1539, true)], banks := [(1536 + 16, BitVec.ofNat 2048 (1 * 2^(8*(32*0+26)))), (1539, rowR 99)] }
def sQ (l : List (Nat × Nat)) (k r : Nat) : State := stl .ep (kQ l k r) xG l16
def pr (k r : Nat) : PRun := ⟨tkc, k, r, 0, 0, none⟩
def lQ : List Byte := match (sQ [(0,1)] 0 1).prfRead 0 0 (sampOff frameW 0) 32 with | .ok l => l | .error _ => []
def sgc : Cmd := c5 (.sqcombStage ⟨g0, 1, tk1⟩) []
def kQs : Core := { kQ [(0,1)] 0 1 with live := [sgc], prf := { (kQ [(0,1)] 0 1).prf with run := some ⟨sgc, 0, 1, 0, 0, none⟩ } }
def sQs : State := stl .ep kQs xG l16
/-- The grid about to run the operation `w` of cluster 3, and then a bundle of `NOP`s. -/
def sOp (w : Nat) : State := stl .ep { kG (im [0, 0, 0, w, 0, 0, 0, 0]) [(0, frm 0 [3] none)] with acc := [(320, rowR 5)], slots := [(1, { Slot.reset with owner := some 0 })] } xG l16
theorem go (w) : Grids (sOp w) 0 1 gm := ⟨rfl, rfl, rfl, rfl, rfl, rfl⟩
def bkw (gn opc : Nat) : Nat := pack [(8, opc), (1, gn), (4, 0), (4, 5), (4, 2), (1, 1), (5, 1), (14, 3), (23, 0)]
def ardw : Nat := pack [(8, 0xF5), (1, 0), (4, 0), (4, 5), (4, 0), (1, 0), (11, 64), (4, 3), (27, 0)]
def owrw : Nat := pack [(8, 0xF4), (1, 0), (4, 0), (4, 5), (4, 0), (1, 0), (4, 1), (4, 7), (3, 2), (2, 0), (11, 3), (18, 0)]
def tokw (tk tok : Nat) : Nat := pack [(8, 0xF6), (1, 0), (4, 0), (1, tk), (4, tok), (46, 0)]
def vf : EV := ⟨g0, 3, 1, 2, 8, false, false, 0, false, 0⟩
def vecw : Nat := ((encode (.vadd vf)).headD 0).toNat
theorem last {w : Nat} {op : GOp} (h : gOp ((sOp w).core 0).grid.image 0 0 3 = op) (g : (gOp ((sOp w).core 0).grid.image 0 0 0).isSplit = false) (k : 0 + 1 < imgNB ((sOp w).core 0).grid.image 0) :
    LastOp (sOp w) 0 0 (frm 0 [3] none) 3 op := ⟨rfl, rfl, rfl, by decide, g, h, k, rfl⟩
/-- A tableau of one stage (Euler), and a core whose samples stand at it. -/
def tabV : BitVec 1536 := BitVec.ofNat 1536 (0xB2E05A17 + 2^32 + 2^40 + 0x3F800000 * 2^(8*92) + 0x3F666666 * 2^(8*140) + 0x3E4CCCCD * 2^(8*144) + 0x41200000 * 2^(8*148) + 0x3A83126F * 2^(8*156))
def tabBytes (v : BitVec 1536) : List Byte := leBytes 192 v.toNat
def cfgc : Cmd := c5 (.sqcfg ⟨g0, 1, 2, tk1⟩) [0x3000, frameW]
def lP : Launch := lau (rcd [(32, 2, 1), (37, 1, 1), (43, 1, 16), (96, 1, 1)])
def sCfg (v : BitVec 1536) : State := { hbm (stl .ep { kH (qKey .proofer) cfgc with live := [] } xH lP) with mem := (cellsAt 0x3000 (tabBytes v)).filter fun q => q.2 != 0, serial := 9 }
def givesE (p : State × Eng (List Byte)) (s : State) (v : List Byte) : Bool := match p with | (t, .ok u) => decide (t = s) && decide (u = v) | _ => false
theorem eng_of {p : State × Eng (List Byte)} {s : State} {v : List Byte} (h : givesE p s v = true) : p = (s, .ok v) := by
  obtain ⟨t, u⟩ := p; cases u <;> simp_all [givesE]
def recd (st stg fl acc : Nat) : Row := BitVec.ofNat 2048 (st * 2^(8*27) + stg * 2^(8*26) + fl * 2^(8*28) + acc * 2^(8*16))
def sPf (i : Instr) (v : List Word) (r : Row) (k : Nat) : State := let m := c5 i v
  stl .ep { kM with allots := [alV], live := [m], prf := { tab := some tabV, frame := frameW, list := [], run := some ⟨m, k, 0, 0, 0, none⟩ }, banks := [(1552, r), (1568, rowR 3)] } xG l16
def recOf (s : State) : List Byte := ((s.core 0).locBytes 0 0 0x1000 32).getD []
def ier : Instr := .sqerr ⟨g0, none, tk1⟩
def sEr : State := sPf ier [] (recd 0 1 0 0) 0
def ide : Instr := .sqdec ⟨g0, 0, 1, tk1⟩
def sDe : State := sPf ide [7] (recd 0 1 4 0x3F800000) 0
def inx : Instr := .sqnext ⟨g0, 1, tk1⟩
def sNx : State := sPf inx [0x8000] 0 0
def bytesAt' (s : State) (a : Nat) : List Byte := ((s.core 0).locBytes 0 0 a 256).getD []
def RN (n : Nat) : List Byte := ((sNx.core 0).locBytes 0 0 (sampOff frameW n) 32).getD []
theorem zeroV : xval 0 0 0 = .fin false 0 := by simp [xval, magOf, fw, tyWidth]
theorem zeroT : fTimes 0 0 0 := ⟨0, 0, by rw [zeroV]; simp [xmul, Delivers], by rw [zeroV]; simp [xmul]⟩
theorem zeroP : fPlus 0 0 0 := ⟨0, 0, by rw [zeroV]; simp [xadd, sg, Delivers], by rw [zeroV]; simp [xadd, sg]⟩
theorem nextTimes (n : Nat) (h : n ∈ List.range (fNS frameW)) : ∃ q, fTimes (tC tabV (rStg (RN n))) (rH (RN n)) q ∧ fPlus (rT (RN n)) q 0 := by
  have k := (show ∀ n ∈ List.range (fNS frameW), tC tabV (rStg (RN n)) = 0 ∧ rH (RN n) = 0 ∧ rT (RN n) = 0 by decide +kernel) n h
  rw [k.1, k.2.1, k.2.2]; exact ⟨0, zeroT, zeroP⟩

theorem witness_GridAndProofer (H : Obligations.GridAndProofer) : type_of% (And.intro (((H (sOp (bkw 1 0xF2)) 0 1 gm).1 (go _) 0 yes).1 (frm 0 [3] none) 3 ⟨⟨true, 0⟩, 5, 2, true, 3⟩ ⟨_, last yes yes yes, Or.inl ⟨1, Or.inl rfl⟩⟩ yes)
    (And.intro (((H (sOp (bkw 0 0xF2)) 0 1 gm).1 (go _) 0 yes).2.1 (frm 0 [3] none) 3 3 gq 1 yes yes yes yes |>.1 (last yes yes yes))
    (And.intro (((H (sOp (bkw 0 0xF3)) 0 1 gm).1 (go _) 0 yes).2.1 (frm 0 [3] none) 3 3 gq 1 yes yes yes yes |>.2 (last yes yes yes))
    (And.intro (((H (sOp ardw) 0 1 gm).1 (go _) 0 yes).2.2.1 (frm 0 [3] none) 3 ⟨g0, 5, 0, false, 64⟩ 3 320 (last yes yes yes) yes rfl rfl (fun _ => rfl) yes yes)
    (And.intro (((H (sOp owrw) 0 1 gm).1 (go _) 0 yes).2.2.2.1 (frm 0 [3] none) 3 ⟨g0, 5, 0, false, 3⟩ 1 7 2 0 1 (last yes yes yes) yes yes yes yes yes yes yes)
    (And.intro (((H (sOp (tokw 1 3)) 0 1 gm).1 (go _) 0 yes).2.2.2.2.1 (frm 0 [3] none) 3 g0 3 xG rfl rfl yes |>.1 (last yes yes yes) yes)
    (And.intro (((H (sOp (tokw 1 5)) 0 1 gm).1 (go _) 0 yes).2.2.2.2.1 (frm 0 [3] none) 3 g0 5 xG rfl rfl yes |>.2.1 (last yes yes yes) yes)
    (And.intro (((H (sOp (tokw 0 3)) 0 1 gm).1 (go _) 0 yes).2.2.2.2.1 (frm 0 [3] none) 3 g0 3 xG rfl rfl yes |>.2.2 (last yes yes yes) rfl rfl yes)
    (And.intro (((H (sOp vecw) 0 1 gm).1 (go _) 0 yes).2.2.2.2.2.1 (frm 0 [3] none) 3 vf (last yes yes yes) yes yes yes yes yes yes yes ⟨xG, rfl, rfl⟩)
    (And.intro (((H (sG im2 []) 0 1 gm).1 (gg _ _) 0 yes).2.2.2.2.2.2.1 rfl yes yes yes yes)
    (And.intro (((H (sG im2 f3) 0 1 gm).1 (gg _ _) 0 yes).2.2.2.2.2.2.2 (frm 0 [] (some [none, none, none, none])) rfl rfl yes)
    (And.intro ((H sP 0 1 gm).2.1 2 ⟨0, rowR 7⟩ 4 stP 2 rfl rfl (Or.inr yes) yes rfl yes rfl rfl yes)
    (And.intro ((H sE 0 1 gm).2.2.1 ⟨rfl, rfl, rfl, rfl, rfl, rfl⟩ xG 0 4 stE 7 ⟨rfl, rfl, yes, rfl, rfl⟩ yes yes rfl rfl rfl yes yes yes starved)
    (And.intro (((H (sQ [(0,1)] 1 0) 0 1 tkc).2.2.2.1 (pr 1 0) tab0 xG rfl rfl rfl rfl ⟨rfl, rfl, yes, rfl, rfl⟩).1 ⟨g0, 1, tk1⟩ rfl rfl)
    (And.intro (((H (sQ [(0,1)] 0 1) 0 1 tkc).2.2.2.1 (pr 0 1) tab0 xG rfl rfl rfl rfl ⟨rfl, rfl, yes, rfl, rfl⟩).2.1 ⟨g0, 1, tk1⟩ 0 1 lQ 4 { strm with count := 1 } (((sQ [(0,1)] 0 1).core 0).locOf 0 (vecOff frameW (tS tab0) 0 3 1) |>.get yes |>.1) rfl rfl (ok_of yes) yes yes rfl yes yes yes yes yes yes)
    (And.intro (((H sQs 0 1 sgc).2.2.2.1 ⟨sgc, 0, 1, 0, 0, none⟩ tab0 xG rfl rfl rfl rfl ⟨rfl, rfl, yes, rfl, rfl⟩).2.2 ⟨g0, 1, tk1⟩ 0 1 rfl rfl yes)
    (And.intro (((H (sCfg tabV) 0 1 cfgc).2.2.2.2.1 ⟨g0, 1, 2, tk1⟩ 0x3000 frameW (tabBytes tabV) [c6] xH ⟨yes, yes, yes, yes, yes, yes, yes, yes, yes, yes, yes⟩ rfl rfl rfl ⟨lP, rfl, yes⟩ yes yes (eng_of yes)).1 yes yes)
    (And.intro (((H (sCfg tab0) 0 1 cfgc).2.2.2.2.1 ⟨g0, 1, 2, tk1⟩ 0x3000 frameW (tabBytes tab0) [c6] xH ⟨yes, yes, yes, yes, yes, yes, yes, yes, yes, yes, yes⟩ rfl rfl rfl ⟨lP, rfl, yes⟩ yes yes (eng_of yes)).2 yes rfl rfl)
    (And.intro (((H sEr 0 1 (c5 ier [])).2.2.2.2.2 ⟨_, 0, 0, 0, 0, none⟩ tabV ⟨rfl, rfl, rfl, yes, rfl⟩).1 ⟨g0, none, tk1⟩ 0 1552 (recOf sEr) rfl rfl ⟨yes, yes, yes, 0, yes⟩ yes yes yes yes (fun e => leAt (bytesAt' sEr (vecOff frameW 1 0 0 0)) (4 * e) 4) (fun _ e => leAt (bytesAt' sEr (vecOff frameW 1 0 2 0)) (4 * e) 4) (bytesAt' sEr (vecOff frameW 1 0 0 0)) 1571 0 yes (fun _ _ => rfl) (fun i hi => match i, hi with | 0, _ => ⟨_, yes, fun _ _ => rfl⟩ | n + 1, h => absurd h (by show ¬ (n + 1 < 1); omega)) yes yes yes (fun v h => nomatch h) (fun h => nomatch h))
    (And.intro (((H sDe 0 1 (c5 ide [7])).2.2.2.2.2 ⟨_, 0, 0, 0, 0, none⟩ tabV ⟨rfl, rfl, rfl, yes, rfl⟩).2.1 ⟨g0, 0, 1, tk1⟩ 0 1552 (recOf sDe) 0x3F800000 rfl rfl ⟨yes, yes, yes, 0, yes⟩ yes yes (fun _ => yes) (fun h => absurd rfl h))
    (And.intro (((H (sPf ier [] 0 4) 0 1 (c5 ier [])).2.2.2.2.2 ⟨_, 4, 0, 0, 0, none⟩ tabV ⟨rfl, rfl, rfl, yes, rfl⟩).2.2.1 xG ⟨rfl, rfl, yes, rfl, rfl⟩ (Or.inr ⟨_, rfl⟩) yes)
    (((H sNx 0 1 (c5 inx [0x8000])).2.2.2.2.2 ⟨_, 0, 0, 0, 0, none⟩ tabV ⟨rfl, rfl, rfl, yes, rfl⟩).2.2.2 ⟨g0, 1, tk1⟩ 0x8000 rfl rfl yes RN (fun _ => 0) yes (fun n hn => nextTimes n (List.mem_filter.1 hn).1) yes yes)))))))))))))))))))))) :=
  And.intro (((H (sOp (bkw 1 0xF2)) 0 1 gm).1 (go _) 0 yes).1 (frm 0 [3] none) 3 ⟨⟨true, 0⟩, 5, 2, true, 3⟩ ⟨_, last yes yes yes, Or.inl ⟨1, Or.inl rfl⟩⟩ yes)
    (And.intro (((H (sOp (bkw 0 0xF2)) 0 1 gm).1 (go _) 0 yes).2.1 (frm 0 [3] none) 3 3 gq 1 yes yes yes yes |>.1 (last yes yes yes))
    (And.intro (((H (sOp (bkw 0 0xF3)) 0 1 gm).1 (go _) 0 yes).2.1 (frm 0 [3] none) 3 3 gq 1 yes yes yes yes |>.2 (last yes yes yes))
    (And.intro (((H (sOp ardw) 0 1 gm).1 (go _) 0 yes).2.2.1 (frm 0 [3] none) 3 ⟨g0, 5, 0, false, 64⟩ 3 320 (last yes yes yes) yes rfl rfl (fun _ => rfl) yes yes)
    (And.intro (((H (sOp owrw) 0 1 gm).1 (go _) 0 yes).2.2.2.1 (frm 0 [3] none) 3 ⟨g0, 5, 0, false, 3⟩ 1 7 2 0 1 (last yes yes yes) yes yes yes yes yes yes yes)
    (And.intro (((H (sOp (tokw 1 3)) 0 1 gm).1 (go _) 0 yes).2.2.2.2.1 (frm 0 [3] none) 3 g0 3 xG rfl rfl yes |>.1 (last yes yes yes) yes)
    (And.intro (((H (sOp (tokw 1 5)) 0 1 gm).1 (go _) 0 yes).2.2.2.2.1 (frm 0 [3] none) 3 g0 5 xG rfl rfl yes |>.2.1 (last yes yes yes) yes)
    (And.intro (((H (sOp (tokw 0 3)) 0 1 gm).1 (go _) 0 yes).2.2.2.2.1 (frm 0 [3] none) 3 g0 3 xG rfl rfl yes |>.2.2 (last yes yes yes) rfl rfl yes)
    (And.intro (((H (sOp vecw) 0 1 gm).1 (go _) 0 yes).2.2.2.2.2.1 (frm 0 [3] none) 3 vf (last yes yes yes) yes yes yes yes yes yes yes ⟨xG, rfl, rfl⟩)
    (And.intro (((H (sG im2 []) 0 1 gm).1 (gg _ _) 0 yes).2.2.2.2.2.2.1 rfl yes yes yes yes)
    (And.intro (((H (sG im2 f3) 0 1 gm).1 (gg _ _) 0 yes).2.2.2.2.2.2.2 (frm 0 [] (some [none, none, none, none])) rfl rfl yes)
    (And.intro ((H sP 0 1 gm).2.1 2 ⟨0, rowR 7⟩ 4 stP 2 rfl rfl (Or.inr yes) yes rfl yes rfl rfl yes)
    (And.intro ((H sE 0 1 gm).2.2.1 ⟨rfl, rfl, rfl, rfl, rfl, rfl⟩ xG 0 4 stE 7 ⟨rfl, rfl, yes, rfl, rfl⟩ yes yes rfl rfl rfl yes yes yes starved)
    (And.intro (((H (sQ [(0,1)] 1 0) 0 1 tkc).2.2.2.1 (pr 1 0) tab0 xG rfl rfl rfl rfl ⟨rfl, rfl, yes, rfl, rfl⟩).1 ⟨g0, 1, tk1⟩ rfl rfl)
    (And.intro (((H (sQ [(0,1)] 0 1) 0 1 tkc).2.2.2.1 (pr 0 1) tab0 xG rfl rfl rfl rfl ⟨rfl, rfl, yes, rfl, rfl⟩).2.1 ⟨g0, 1, tk1⟩ 0 1 lQ 4 { strm with count := 1 } (((sQ [(0,1)] 0 1).core 0).locOf 0 (vecOff frameW (tS tab0) 0 3 1) |>.get yes |>.1) rfl rfl (ok_of yes) yes yes rfl yes yes yes yes yes yes)
    (And.intro (((H sQs 0 1 sgc).2.2.2.1 ⟨sgc, 0, 1, 0, 0, none⟩ tab0 xG rfl rfl rfl rfl ⟨rfl, rfl, yes, rfl, rfl⟩).2.2 ⟨g0, 1, tk1⟩ 0 1 rfl rfl yes)
    (And.intro (((H (sCfg tabV) 0 1 cfgc).2.2.2.2.1 ⟨g0, 1, 2, tk1⟩ 0x3000 frameW (tabBytes tabV) [c6] xH ⟨yes, yes, yes, yes, yes, yes, yes, yes, yes, yes, yes⟩ rfl rfl rfl ⟨lP, rfl, yes⟩ yes yes (eng_of yes)).1 yes yes)
    (And.intro (((H (sCfg tab0) 0 1 cfgc).2.2.2.2.1 ⟨g0, 1, 2, tk1⟩ 0x3000 frameW (tabBytes tab0) [c6] xH ⟨yes, yes, yes, yes, yes, yes, yes, yes, yes, yes, yes⟩ rfl rfl rfl ⟨lP, rfl, yes⟩ yes yes (eng_of yes)).2 yes rfl rfl)
    (And.intro (((H sEr 0 1 (c5 ier [])).2.2.2.2.2 ⟨_, 0, 0, 0, 0, none⟩ tabV ⟨rfl, rfl, rfl, yes, rfl⟩).1 ⟨g0, none, tk1⟩ 0 1552 (recOf sEr) rfl rfl ⟨yes, yes, yes, 0, yes⟩ yes yes yes yes (fun e => leAt (bytesAt' sEr (vecOff frameW 1 0 0 0)) (4 * e) 4) (fun _ e => leAt (bytesAt' sEr (vecOff frameW 1 0 2 0)) (4 * e) 4) (bytesAt' sEr (vecOff frameW 1 0 0 0)) 1571 0 yes (fun _ _ => rfl) (fun i hi => match i, hi with | 0, _ => ⟨_, yes, fun _ _ => rfl⟩ | n + 1, h => absurd h (by show ¬ (n + 1 < 1); omega)) yes yes yes (fun v h => nomatch h) (fun h => nomatch h))
    (And.intro (((H sDe 0 1 (c5 ide [7])).2.2.2.2.2 ⟨_, 0, 0, 0, 0, none⟩ tabV ⟨rfl, rfl, rfl, yes, rfl⟩).2.1 ⟨g0, 0, 1, tk1⟩ 0 1552 (recOf sDe) 0x3F800000 rfl rfl ⟨yes, yes, yes, 0, yes⟩ yes yes (fun _ => yes) (fun h => absurd rfl h))
    (And.intro (((H (sPf ier [] 0 4) 0 1 (c5 ier [])).2.2.2.2.2 ⟨_, 4, 0, 0, 0, none⟩ tabV ⟨rfl, rfl, rfl, yes, rfl⟩).2.2.1 xG ⟨rfl, rfl, yes, rfl, rfl⟩ (Or.inr ⟨_, rfl⟩) yes)
    (((H sNx 0 1 (c5 inx [0x8000])).2.2.2.2.2 ⟨_, 0, 0, 0, 0, none⟩ tabV ⟨rfl, rfl, rfl, yes, rfl⟩).2.2.2 ⟨g0, 1, tk1⟩ 0x8000 rfl rfl yes RN (fun _ => 0) yes (fun n hn => nextTimes n (List.mem_filter.1 hn).1) yes yes)))))))))))))))))))))
end Grid

namespace Scheduler
/-! The scheduler, supersteps and transfers. -/
def lE (n fl : Nat) (r : List (Nat × Nat × Nat)) : Launch := { lau (rcd ([(36, 1, fl), (0, 8, 0x1000), (8, 8, 0x2000), (32, 2, 1), (34, 1, 1), (35, 1, 1), (37, 1, 3), (38, 2, 3), (40, 1, 1), (41, 1, 1), (43, 1, 16)] ++ r)) with lid := BitVec.ofNat 32 n }
def tlbX : TlbE := { tlb1 with leaf := 0x30F }
def base : State := hbm { State.reset with time := 60000000, astbase := 1, holdlim := 1000, savesize := 0x100000, cmap := [(0, 0x8000)], sections := [⟨.ap, 1, 0x1000, 1⟩, ⟨.ep, 1, 0x2000, 1⟩], mem := [(0x1000, 7)], west := { State.reset.west with tlb := [tlbX] } }
def lQ : Launch := { lE 5 0 [] with phase := .queued, everPlaced := false, cores := [] }
def sQ : State := { base with launches := [lQ] }
def lB : Launch := { lQ with bad := some ⟨12, 2, none, []⟩ }
def sB : State := { base with launches := [lB] }
def placed (q : Choice × List Launch) (l : Launch) (a b : List Nat) (c d : CodeSec) (p : List Launch) : Bool :=
  match q with | (.place l1 a1 b1 c1 d1, p1) => decide (l1 = l) && decide (a1 = a) && decide (b1 = b) && decide (c1 = c) && decide (d1 = d) && decide (p1 = p) | _ => false
theorem placed_of {q : Choice × List Launch} {l a b c d p} (h : placed q l a b c d p = true) : q = (.place l a b c d, p) := by obtain ⟨k, v⟩ := q; cases k <;> simp_all [placed]
def preempted (q : Choice × List Launch) : Option (Launch × Launch × Bool × List Launch × List Launch) := match q with | (.preempt l v r vs, p) => some (l, v, r, vs, p) | _ => none
theorem preempted_of {q : Choice × List Launch} {l v r vs p} (h : preempted q = some (l, v, r, vs, p)) : q = (.preempt l v r vs, p) := by obtain ⟨k, w⟩ := q; cases k <;> simp_all [preempted]
def resumed (q : Choice × List Launch) : Option (Launch × List Launch) := match q with | (.resume l, p) => some (l, p) | _ => none
theorem resumed_of {q : Choice × List Launch} {l p} (h : resumed q = some (l, p)) : q = (.resume l, p) := by obtain ⟨k, w⟩ := q; cases k <;> simp_all [resumed]
def al5 : Allot := ⟨5, [0, 1, 2], [2, 3, 4], [2], [0], false, false, []⟩
def x5 : Ctx := { x0 with lid := 5, hold := [5], ap := { x0.ap with ssIn := some 0 } }
def k5 : Core := { k0 with allots := [al5], ctxs := [(0, x5)] }
/-- Launch 6, at level 8, wants what launch 5 holds, which may be pre-empted. -/
def lV : Launch := { lE 5 0x11 [] with holdOver := true }
def l6 : Launch := { lQ with lid := 6, rcd := (lE 6 8 []).rcd, queue := 1 }
def sV : State := { base with launches := [lV, l6], cores := [(0, k5)] }
def lR : Launch := { lE 5 0 [] with phase := .preempted, saved := [(0, k5)] }
def sR : State := { base with launches := [lR] }
def lA : Launch := { lQ with passedSince := some 0 }
def sA : State := { base with launches := [lA] }
def lH : Launch := { lE 5 0x11 [] with holdWant := some 0 }
def sH : State := { base with launches := [lH, l6], cores := [(0, k5)] }
def lD : Launch := lE 5 0 []
def sD : State := { base with launches := [lD] }
def lD8 : Launch := lE 5 0 [(56, 8, 0x3000)]
def sD8 : State := { base with launches := [lD8] }
def sch : List Byte := leBytes 8 0 ++ leBytes 8 100 ++ leBytes 4 2 ++ leBytes 4 1 ++ leBytes 40 0 ++ (leBytes 4 0 ++ leBytes 4 5 ++ leBytes 8 0x1000 ++ leBytes 8 0x5000 ++ leBytes 4 3 ++ leBytes 1 2 ++ leBytes 35 0)
def lS (b : Bool) : Launch := { lE 5 0x40 [] with sched := sch, ssSent := if b then [0] else [] }
def sS (b : Bool) : State := { base with launches := [lS b], cores := [(0, k5)], west := { base.west with boot := { base.west.boot with span := 0x3F } } }
def sS2 : State := { sS true with cores := [(0, { k5 with ctxs := [(0, { x5 with ap := { x5.ap with ssIn := none } })] })] }
def lX : Launch := { lS true with xfers := [⟨0, [1, 2, 3]⟩] }
def sX : State := { sS true with launches := [lX], cores := [] }
def lC : Launch := { lE 5 0x20 [] with cmpWait := [⟨0, 0, 9, 0, false, false⟩] }
def sC : State := { base with launches := [lC], cores := [(0, k5)] }
theorem witness_SchedulerAndSupersteps (H : Obligations.SchedulerAndSupersteps) : type_of% (And.intro ((H sB lB rfl).1 ⟨12, 2, none, []⟩ yes yes yes yes)
    (And.intro (((H sQ lQ rfl).2.1 yes yes []).1 [0] [] ⟨5, 0x1000, [7]⟩ ⟨5, 0x2000, [0]⟩ (placed_of yes))
    (And.intro (((H sV lV rfl).2.1 yes yes []).2.1 l6 true [lV] (preempted_of yes) yes)
    (And.intro (((H sR lR rfl).2.1 yes yes []).2.2 (resumed_of yes))
    (And.intro ((H sA lA rfl).2.2.1 0 0 yes rfl yes)
    (And.intro ((H sH lH rfl).2.2.2.1 0 rfl rfl rfl yes yes yes)
    (And.intro (((H sD lD rfl).2.2.2.2.1 yes yes yes).1 yes)
    (And.intro (((H sD8 lD8 rfl).2.2.2.2.1 yes yes yes).2 0x3000 yes (ok_of yes) yes yes)
    (And.intro (((H (sS true) (lS true) rfl).2.2.2.2.2.1 rfl yes).1 true yes (Or.inr ⟨rfl, yes, yes, yes⟩))
    (And.intro (((H sS2 (lS true) rfl).2.2.2.2.2.1 rfl yes).2.1 true false (Or.inl yes))
    (And.intro (((H (sS false) (lS false) rfl).2.2.2.2.2.1 rfl yes).2.2 0 [7, 0, 0] yes yes yes yes yes (ok_of yes))
    (And.intro ((H sX lX rfl).2.2.2.2.2.2.1 ⟨0, [1, 2, 3]⟩ [] yes yes yes ⟨yes, yes⟩ yes)
    (And.intro ((H { sX with west := base.west } lX rfl).2.2.2.2.2.2.2.1 0 [] yes)
    ((H sC lC rfl).2.2.2.2.2.2.2.2 0 0 x5 ⟨0, 0, 9, 0, false, false⟩ rfl rfl rfl rfl rfl rfl rfl rfl rfl rfl yes)))))))))))))) :=
  And.intro ((H sB lB rfl).1 ⟨12, 2, none, []⟩ yes yes yes yes)
    (And.intro (((H sQ lQ rfl).2.1 yes yes []).1 [0] [] ⟨5, 0x1000, [7]⟩ ⟨5, 0x2000, [0]⟩ (placed_of yes))
    (And.intro (((H sV lV rfl).2.1 yes yes []).2.1 l6 true [lV] (preempted_of yes) yes)
    (And.intro (((H sR lR rfl).2.1 yes yes []).2.2 (resumed_of yes))
    (And.intro ((H sA lA rfl).2.2.1 0 0 yes rfl yes)
    (And.intro ((H sH lH rfl).2.2.2.1 0 rfl rfl rfl yes yes yes)
    (And.intro (((H sD lD rfl).2.2.2.2.1 yes yes yes).1 yes)
    (And.intro (((H sD8 lD8 rfl).2.2.2.2.1 yes yes yes).2 0x3000 yes (ok_of yes) yes yes)
    (And.intro (((H (sS true) (lS true) rfl).2.2.2.2.2.1 rfl yes).1 true yes (Or.inr ⟨rfl, yes, yes, yes⟩))
    (And.intro (((H sS2 (lS true) rfl).2.2.2.2.2.1 rfl yes).2.1 true false (Or.inl yes))
    (And.intro (((H (sS false) (lS false) rfl).2.2.2.2.2.1 rfl yes).2.2 0 [7, 0, 0] yes yes yes yes yes (ok_of yes))
    (And.intro ((H sX lX rfl).2.2.2.2.2.2.1 ⟨0, [1, 2, 3]⟩ [] yes yes yes ⟨yes, yes⟩ yes)
    (And.intro ((H { sX with west := base.west } lX rfl).2.2.2.2.2.2.2.1 0 [] yes)
    ((H sC lC rfl).2.2.2.2.2.2.2.2 0 0 x5 ⟨0, 0, 9, 0, false, false⟩ rfl rfl rfl rfl rfl rfl rfl rfl rfl rfl yes)))))))))))))
end Scheduler

namespace Device
/-! Bring-up, links, memory maintenance and requests from outside. -/
def bst (n : Nat) : Boot := { Boot.reset with step := n, span := 0x3F, ingest := 0xF, pcie := true, ready := true, fwslot := false }
def sv (n : Nat) (w : DieSt) : State := { State.reset with time := 60000000, powered := true, west := { w with boot := bst n }, east := { State.reset.east with boot := bst n } }
def wS : DieSt := State.reset.west
def sRt (k : LinkId) : State := { sv 6 wS with retrain := [⟨k, 1, false⟩] }
theorem dr {s : State} (h : s.ingq = []) (w : s.west.recWait = []) (e : s.east.recWait = []) : Drained s := ⟨h, fun d => d.casesOn w e⟩
def sF (k a : Nat) : State := hbm (sv 6 { wS with ftagBusy := some ⟨k, a⟩ })
def fD : Nat := 0x010000000000 / 4096
def sW (k : Nat) : State := sv 6 { wS with fwBusy := some ⟨k, 0⟩ }
def sP : State := { hbm (sv 6 wS) with mem := [(0x1000, 5)], durImg := [(0x010000010000, 3)] }
theorem noq : NoQueues sP := by intro d; cases d <;> exact ⟨rfl, by decide +kernel⟩
def w0 : Func := ⟨.west, 0⟩
def sL : State := { hbm (sv 6 wS) with lqcfg := [(63, BitVec.ofNat 64 (2 ^ 63))], mem := [(0x1000, 5)] }
theorem span_up (k : Nat) (h : k < 6) : (0x3F : BitVec 6).getLsbD k = true := (by decide : ∀ k, k < 6 → (0x3F : BitVec 6).getLsbD k = true) k h
def frz : Freeze := ⟨⟨7, 0, 3, 0, 0, false, false, false, false, false, 5, 0, 0, 0⟩, false, .ap⟩
def xZ : Ctx := { x0 with lid := 5, frozen := some frz }
def sZ : State := { sL with launches := [Scheduler.lD], cores := [(0, { k0 with ctxs := [(0, xZ)] })], west := { sL.west with frozen := [⟨0⟩, ⟨masterOf 7 0 0 3 .west⟩] } }
def sPs : State := { sL with cores := [(0, { k0 with ctxs := [(0, x0)], streams := [(4, { strm with paused := some (3, 9) })] })] }
def icv (p proto udp line : Nat) : Word := BitVec.ofNat 64 (2 ^ 63 + p * 2 ^ 61 + proto * 2 ^ 59 + udp * 2 ^ 42 + (line - 1) * 2 ^ 27)
def sI (k : List (Nat × Core)) : State := { sL with icfg := [(63, icv 3 2 0x1234 4)], cores := k }
def stI : Stream := { strm with desc := BitVec.ofNat 512 (5 * 2 ^ 64 + 2 ^ 96 + 2 ^ 128 + 2 ^ 160 + 2 ^ (8 * 43 + 1) * 3 + 63 * 2 ^ (8 * 52)), depth := 4, count := 2, held := 1 }
theorem waits (s : State) (h : s.west.history ++ s.east.history = []) : MapWaits s := by intro v hv; rw [h] at hv; cases hv
theorem rowFree {s : State} (h : s.brDead = []) (k : s.retrain = []) (row : Nat) : s.rowHeld row = false := by simp [State.rowHeld, State.bridgeLive, h, k]
theorem noFar {s : State} (h : s.brDead = []) (k : s.retrain = []) {d : Die} {row a : Nat} : s.farHeld d row a = false := by simp [State.farHeld, rowFree h k]
theorem heldI {k : List (Nat × Core)} : (sI k).ingestHeld 63 = false := by
  unfold State.ingestHeld; split
  · simp [rowFree (s := sI k) rfl rfl]
  · rfl
theorem nsw {s : State} (w : s.west.ctl.up = true) (e : s.east.ctl.up = true) : NoSwap s := fun d => d.casesOn (Or.inl w) (Or.inl e)
theorem witness_BringUpAndLinks (H : Obligations.BringUpAndLinks) : type_of% (And.intro (((H (sv 0 wS) .west).1 true false rfl).1 rfl)
    (And.intro (((H (sv 0 wS) .east).1 false false rfl).2.1 rfl rfl)
    (And.intro (((H (sv 0 wS) .west).1 false true rfl).2.2 rfl rfl)
    (And.intro (((H (sv 3 wS) .west).2.1 (dr rfl rfl rfl) 7 rfl yes rfl yes).1)
    (And.intro (((H (sv 3 wS) .west).2.1 (dr rfl rfl rfl) 0 rfl yes rfl yes).2 yes)
    (And.intro ((H (sv 2 wS) .west).2.2.1 rfl rfl rfl rfl rfl)
    (And.intro ((H (sv 2 wS) .east).2.2.2.1 rfl rfl yes yes)
    (And.intro ((H (sv 6 { wS with ctl := ⟨false, true, []⟩ }) .west).2.2.2.2.1 rfl)
    (And.intro ((H (sv 6 wS) .west).2.2.2.2.2.1 3 77 rfl rfl)
    (And.intro ((H ({ sv 6 wS with ptpLocked := true, ptpPort := some 3 }) .west).2.2.2.2.2.2.1 6000 rfl rfl)
    (And.intro ((H ({ sv 6 wS with ptpLocked := true }) .west).2.2.2.2.2.2.2.1 3 77 rfl rfl rfl)
    (And.intro (((H (sv 6 wS) .west).2.2.2.2.2.2.2.2.1 5 yes rfl).1)
    (And.intro (((H (sv 6 wS) .west).2.2.2.2.2.2.2.2.1 0 yes rfl).2 2 yes)
    (And.intro ((H (sv 5 { wS with lnkOff := [2] }) .west).2.2.2.2.2.2.2.2.2.1 2 yes rfl rfl yes)
    (And.intro ((H (sv 5 wS) .west).2.2.2.2.2.2.2.2.2.1 5 yes rfl rfl yes)
    (And.intro (((H (sRt (.span .west 4)) .west).2.2.2.2.2.2.2.2.2.2.1 (dr rfl rfl rfl) 4 ⟨.span .west 4, 1, false⟩ yes).1 yes rfl)
    (And.intro (((H (sRt (.span .west 4)) .west).2.2.2.2.2.2.2.2.2.2.1 (dr rfl rfl rfl) 4 ⟨.span .west 4, 1, false⟩ yes).2)
    (And.intro ((H (sRt (.bridge 2)) .west).2.2.2.2.2.2.2.2.2.2.2.1 (dr rfl rfl rfl) 2 ⟨.bridge 2, 1, false⟩ yes yes)
    (And.intro ((H (sv 6 wS) .west).2.2.2.2.2.2.2.2.2.2.2.2.1 3 rfl)
    (And.intro ((H (sv 6 wS) .west).2.2.2.2.2.2.2.2.2.2.2.2.2.1 0 yes yes yes)
    ((H (sv 6 wS) .west).2.2.2.2.2.2.2.2.2.2.2.2.2.2.2 true rfl))))))))))))))))))))) :=
  And.intro (((H (sv 0 wS) .west).1 true false rfl).1 rfl)
    (And.intro (((H (sv 0 wS) .east).1 false false rfl).2.1 rfl rfl)
    (And.intro (((H (sv 0 wS) .west).1 false true rfl).2.2 rfl rfl)
    (And.intro (((H (sv 3 wS) .west).2.1 (dr rfl rfl rfl) 7 rfl yes rfl yes).1)
    (And.intro (((H (sv 3 wS) .west).2.1 (dr rfl rfl rfl) 0 rfl yes rfl yes).2 yes)
    (And.intro ((H (sv 2 wS) .west).2.2.1 rfl rfl rfl rfl rfl)
    (And.intro ((H (sv 2 wS) .east).2.2.2.1 rfl rfl yes yes)
    (And.intro ((H (sv 6 { wS with ctl := ⟨false, true, []⟩ }) .west).2.2.2.2.1 rfl)
    (And.intro ((H (sv 6 wS) .west).2.2.2.2.2.1 3 77 rfl rfl)
    (And.intro ((H ({ sv 6 wS with ptpLocked := true, ptpPort := some 3 }) .west).2.2.2.2.2.2.1 6000 rfl rfl)
    (And.intro ((H ({ sv 6 wS with ptpLocked := true }) .west).2.2.2.2.2.2.2.1 3 77 rfl rfl rfl)
    (And.intro (((H (sv 6 wS) .west).2.2.2.2.2.2.2.2.1 5 yes rfl).1)
    (And.intro (((H (sv 6 wS) .west).2.2.2.2.2.2.2.2.1 0 yes rfl).2 2 yes)
    (And.intro ((H (sv 5 { wS with lnkOff := [2] }) .west).2.2.2.2.2.2.2.2.2.1 2 yes rfl rfl yes)
    (And.intro ((H (sv 5 wS) .west).2.2.2.2.2.2.2.2.2.1 5 yes rfl rfl yes)
    (And.intro (((H (sRt (.span .west 4)) .west).2.2.2.2.2.2.2.2.2.2.1 (dr rfl rfl rfl) 4 ⟨.span .west 4, 1, false⟩ yes).1 yes rfl)
    (And.intro (((H (sRt (.span .west 4)) .west).2.2.2.2.2.2.2.2.2.2.1 (dr rfl rfl rfl) 4 ⟨.span .west 4, 1, false⟩ yes).2)
    (And.intro ((H (sRt (.bridge 2)) .west).2.2.2.2.2.2.2.2.2.2.2.1 (dr rfl rfl rfl) 2 ⟨.bridge 2, 1, false⟩ yes yes)
    (And.intro ((H (sv 6 wS) .west).2.2.2.2.2.2.2.2.2.2.2.2.1 3 rfl)
    (And.intro ((H (sv 6 wS) .west).2.2.2.2.2.2.2.2.2.2.2.2.2.1 0 yes yes yes)
    ((H (sv 6 wS) .west).2.2.2.2.2.2.2.2.2.2.2.2.2.2.2 true rfl))))))))))))))))))))
theorem witness_MemoryMaintenance (H : Obligations.MemoryMaintenance) : type_of% (And.intro ((H (sF 1 5) .west).1 (dr rfl rfl rfl) 5)
    (And.intro (((H (sF 1 5) .west).2.1 (dr rfl rfl rfl) 5 1 rfl yes yes).1 rfl yes)
    (And.intro (((H { sF 1 5 with tags := [(5, 1)] } .west).2.1 (dr rfl rfl rfl) 5 1 rfl yes yes).2.1 rfl yes yes)
    (And.intro (((H (sF 2 5) .west).2.1 (dr rfl rfl rfl) 5 2 rfl yes yes).2.2.1 rfl yes)
    (And.intro (((H (sF 3 5) .west).2.1 (dr rfl rfl rfl) 5 3 rfl yes yes).2.2.2.1 rfl yes)
    (And.intro (((H (sF 3 fD) .west).2.1 (dr rfl rfl rfl) fD 3 rfl yes yes).2.2.2.2 rfl yes yes)
    (And.intro (((H (sW 1) .west).2.2.1 ⟨1, 0⟩ 0 7 rfl).1 rfl rfl)
    (And.intro (((H (sW 1) .west).2.2.1 ⟨1, 0⟩ 3 7 rfl).2.1 rfl yes)
    (And.intro (((H (sW 2) .west).2.2.1 ⟨2, 0⟩ 0 7 rfl).2.2 yes rfl)
    (And.intro ((H sP .west).2.2.2.1 noq (.mem 0x1000) yes (fun a h => by cases h; decide +kernel) yes)
    (And.intro ((H sP .west).2.2.2.1 noq (.bank 3 2 700 5) yes (fun a h => by cases h) yes)
    (And.intro ((H { sP with cores := [(0, { k0 with ctxs := [(0, x0)] })] } .west).2.2.2.2.1 0 0 63 5 true x0 yes rfl)
    ((H sP .west).2.2.2.2.2 true 9 yes yes yes yes))))))))))))) :=
  And.intro ((H (sF 1 5) .west).1 (dr rfl rfl rfl) 5)
    (And.intro (((H (sF 1 5) .west).2.1 (dr rfl rfl rfl) 5 1 rfl yes yes).1 rfl yes)
    (And.intro (((H { sF 1 5 with tags := [(5, 1)] } .west).2.1 (dr rfl rfl rfl) 5 1 rfl yes yes).2.1 rfl yes yes)
    (And.intro (((H (sF 2 5) .west).2.1 (dr rfl rfl rfl) 5 2 rfl yes yes).2.2.1 rfl yes)
    (And.intro (((H (sF 3 5) .west).2.1 (dr rfl rfl rfl) 5 3 rfl yes yes).2.2.2.1 rfl yes)
    (And.intro (((H (sF 3 fD) .west).2.1 (dr rfl rfl rfl) fD 3 rfl yes yes).2.2.2.2 rfl yes yes)
    (And.intro (((H (sW 1) .west).2.2.1 ⟨1, 0⟩ 0 7 rfl).1 rfl rfl)
    (And.intro (((H (sW 1) .west).2.2.1 ⟨1, 0⟩ 3 7 rfl).2.1 rfl yes)
    (And.intro (((H (sW 2) .west).2.2.1 ⟨2, 0⟩ 0 7 rfl).2.2 yes rfl)
    (And.intro ((H sP .west).2.2.2.1 noq (.mem 0x1000) yes (fun a h => by cases h; decide +kernel) yes)
    (And.intro ((H sP .west).2.2.2.1 noq (.bank 3 2 700 5) yes (fun a h => by cases h) yes)
    (And.intro ((H { sP with cores := [(0, { k0 with ctxs := [(0, x0)] })] } .west).2.2.2.2.1 0 0 63 5 true x0 yes rfl)
    ((H sP .west).2.2.2.2.2 true 9 yes yes yes yes))))))))))))
theorem witness_OutsideRequests (H : Obligations.OutsideRequests) : type_of% (And.intro (((H sL w0 .west yes).1 63 true 0 yes yes).1 yes)
    (And.intro (((H sL w0 .west yes).1 63 false 0 yes yes).2 yes)
    (And.intro ((H sL ⟨.east, 8⟩ .east yes).2.1 (nsw rfl rfl) yes 5)
    (And.intro ((H (sv 6 { wS with ctl := ⟨false, true, []⟩ }) w0 .west yes).2.2.1 rfl rfl 5 7)
    (And.intro (((H sL w0 .west yes).2.2.2.1 (nsw rfl rfl) rfl).1 77)
    (And.intro (((H sL w0 .west yes).2.2.2.1 (nsw rfl rfl) rfl).2.1 159 yes)
    (And.intro (((H sL w0 .west yes).2.2.2.1 (nsw rfl rfl) rfl).2.2.1 (BitVec.ofNat 64 (2 ^ 63 + 159)) yes yes yes)
    (And.intro ((((H sZ w0 .west yes).2.2.2.1 (nsw rfl rfl) rfl).2.2.2.1 0 xZ frz yes yes rfl rfl).1 Scheduler.lD rfl)
    (And.intro ((((H sZ w0 .west yes).2.2.2.1 (nsw rfl rfl) rfl).2.2.2.1 0 xZ frz yes yes rfl rfl).2 yes rfl rfl)
    (And.intro (((H sZ w0 .west yes).2.2.2.1 (nsw rfl rfl) rfl).2.2.2.2.1 (masterOf 7 0 0 3 .west) yes yes)
    (And.intro ((((H sPs w0 .west yes).2.2.2.1 (nsw rfl rfl) rfl).2.2.2.2.2.1 0 0 4 { strm with paused := some (3, 9) } (3, 9) rfl rfl rfl).1)
    (And.intro ((((H sPs w0 .west yes).2.2.2.1 (nsw rfl rfl) rfl).2.2.2.2.2.1 0 0 4 { strm with paused := some (3, 9) } (3, 9) rfl rfl rfl).2 x0 yes rfl rfl rfl rfl rfl rfl)
    (And.intro (((H sL w0 .west yes).2.2.2.1 (nsw rfl rfl) rfl).2.2.2.2.2.2.1 5 rfl (.ftagRetire w0 .west 5, 2) (by simp))
    (And.intro (((H sZ w0 .west yes).2.2.2.1 (nsw rfl rfl) rfl).2.2.2.2.2.2.2.1 0 300 (waits _ rfl) (fun _ => yes))
    (And.intro (((H sL w0 .west yes).2.2.2.1 (nsw rfl rfl) rfl).2.2.2.2.2.2.2.1 511 300 (waits _ rfl) (fun h => absurd h yes))
    (And.intro (((H sZ w0 .west yes).2.2.2.1 (nsw rfl rfl) rfl).2.2.2.2.2.2.2.2.1 0 (waits _ rfl) (fun _ => yes))
    (And.intro ((((H sL w0 .west yes).2.2.2.1 (nsw rfl rfl) rfl).2.2.2.2.2.2.2.2.2.1 rfl).1 0)
    (And.intro ((((H sL w0 .west yes).2.2.2.1 (nsw rfl rfl) rfl).2.2.2.2.2.2.2.2.2.2 5 yes).1 yes)
    (And.intro ((H sL w0 .west yes).2.2.2.2.1 0xFFF 3 rfl ⟨yes, yes⟩ yes)
    (And.intro ((H sL w0 .west yes).2.2.2.2.2.1 0xFFF [1, 2, 3] rfl ⟨yes, yes⟩ yes yes)
    (And.intro (((H sL w0 .west yes).2.2.2.2.2.2.1 7 0 (span_up _ (Nat.mod_lt _ yes)) yes (fun _ => noFar rfl rfl) yes).1 2 ⟨yes, yes⟩)
    (And.intro (((H sL w0 .west yes).2.2.2.2.2.2.1 0 0xFFE (span_up _ (Nat.mod_lt _ yes)) yes (fun _ => noFar rfl rfl) yes).2 [1, 2, 3] ⟨yes, yes⟩ yes)
    (And.intro (((H (sI []) w0 .west yes).2.2.2.2.2.2.2 3 63 2 0x1234 [1, 2] yes yes yes yes yes).1 yes rfl)
    (((H (sI [(0, { k0 with streams := [(4, stI)] })]) w0 .west yes).2.2.2.2.2.2.2 3 63 2 0x1234 [1, 2, 3, 4] yes yes yes yes yes).2 0 4 stI yes yes yes yes heldI rfl yes rfl rfl yes)))))))))))))))))))))))) :=
  And.intro (((H sL w0 .west yes).1 63 true 0 yes yes).1 yes)
    (And.intro (((H sL w0 .west yes).1 63 false 0 yes yes).2 yes)
    (And.intro ((H sL ⟨.east, 8⟩ .east yes).2.1 (nsw rfl rfl) yes 5)
    (And.intro ((H (sv 6 { wS with ctl := ⟨false, true, []⟩ }) w0 .west yes).2.2.1 rfl rfl 5 7)
    (And.intro (((H sL w0 .west yes).2.2.2.1 (nsw rfl rfl) rfl).1 77)
    (And.intro (((H sL w0 .west yes).2.2.2.1 (nsw rfl rfl) rfl).2.1 159 yes)
    (And.intro (((H sL w0 .west yes).2.2.2.1 (nsw rfl rfl) rfl).2.2.1 (BitVec.ofNat 64 (2 ^ 63 + 159)) yes yes yes)
    (And.intro ((((H sZ w0 .west yes).2.2.2.1 (nsw rfl rfl) rfl).2.2.2.1 0 xZ frz yes yes rfl rfl).1 Scheduler.lD rfl)
    (And.intro ((((H sZ w0 .west yes).2.2.2.1 (nsw rfl rfl) rfl).2.2.2.1 0 xZ frz yes yes rfl rfl).2 yes rfl rfl)
    (And.intro (((H sZ w0 .west yes).2.2.2.1 (nsw rfl rfl) rfl).2.2.2.2.1 (masterOf 7 0 0 3 .west) yes yes)
    (And.intro ((((H sPs w0 .west yes).2.2.2.1 (nsw rfl rfl) rfl).2.2.2.2.2.1 0 0 4 { strm with paused := some (3, 9) } (3, 9) rfl rfl rfl).1)
    (And.intro ((((H sPs w0 .west yes).2.2.2.1 (nsw rfl rfl) rfl).2.2.2.2.2.1 0 0 4 { strm with paused := some (3, 9) } (3, 9) rfl rfl rfl).2 x0 yes rfl rfl rfl rfl rfl rfl)
    (And.intro (((H sL w0 .west yes).2.2.2.1 (nsw rfl rfl) rfl).2.2.2.2.2.2.1 5 rfl (.ftagRetire w0 .west 5, 2) (by simp))
    (And.intro (((H sZ w0 .west yes).2.2.2.1 (nsw rfl rfl) rfl).2.2.2.2.2.2.2.1 0 300 (waits _ rfl) (fun _ => yes))
    (And.intro (((H sL w0 .west yes).2.2.2.1 (nsw rfl rfl) rfl).2.2.2.2.2.2.2.1 511 300 (waits _ rfl) (fun h => absurd h yes))
    (And.intro (((H sZ w0 .west yes).2.2.2.1 (nsw rfl rfl) rfl).2.2.2.2.2.2.2.2.1 0 (waits _ rfl) (fun _ => yes))
    (And.intro ((((H sL w0 .west yes).2.2.2.1 (nsw rfl rfl) rfl).2.2.2.2.2.2.2.2.2.1 rfl).1 0)
    (And.intro ((((H sL w0 .west yes).2.2.2.1 (nsw rfl rfl) rfl).2.2.2.2.2.2.2.2.2.2 5 yes).1 yes)
    (And.intro ((H sL w0 .west yes).2.2.2.2.1 0xFFF 3 rfl ⟨yes, yes⟩ yes)
    (And.intro ((H sL w0 .west yes).2.2.2.2.2.1 0xFFF [1, 2, 3] rfl ⟨yes, yes⟩ yes yes)
    (And.intro (((H sL w0 .west yes).2.2.2.2.2.2.1 7 0 (span_up _ (Nat.mod_lt _ yes)) yes (fun _ => noFar rfl rfl) yes).1 2 ⟨yes, yes⟩)
    (And.intro (((H sL w0 .west yes).2.2.2.2.2.2.1 0 0xFFE (span_up _ (Nat.mod_lt _ yes)) yes (fun _ => noFar rfl rfl) yes).2 [1, 2, 3] ⟨yes, yes⟩ yes)
    (And.intro (((H (sI []) w0 .west yes).2.2.2.2.2.2.2 3 63 2 0x1234 [1, 2] yes yes yes yes yes).1 yes rfl)
    (((H (sI [(0, { k0 with streams := [(4, stI)] })]) w0 .west yes).2.2.2.2.2.2.2 3 63 2 0x1234 [1, 2, 3, 4] yes yes yes yes yes).2 0 4 stI yes yes yes yes heldI rfl yes rfl rfl yes)))))))))))))))))))))))
end Device

namespace Words
/-! Words, guards, memory and the reset state. -/
def wadd : Instr := .add ⟨g0, .d, 3, 1, .reg 2⟩
def wcpy : Instr := .cpy ⟨g0, 1, 2, 3, 3, 5, .plain, 1, true, true, false, tk1⟩
def w8 (w : Nat) : List Word := BitVec.ofNat 64 w :: List.replicate 7 0
def vin : VIn := ⟨2048, ⟨g0, 1, 2, 3, 8, false, false, 0, false, 0⟩, 0, 0, 0, 0, 0, none, x0.ep⟩
def mem1 : State := { State.reset with mem := [(5, 9)] }
def turn1 : State := { mem1 with agenda := [⟨3, 2, [(0x100000000000, 4)], .event (.bringUp .west true true)⟩] }
/-- The next state, or the other. -/
def after (o : Host.Outcome State Fault Refusal) (d : State) : State := match o with | .next t => t | _ => d
theorem next_of {o : Host.Outcome State Fault Refusal} (h : (match o with | .next _ => true | _ => false) = true) : o = .next (after o State.reset) := by cases o <;> simp_all [after]

theorem witness_GuardsHold (H : Obligations.GuardsHold) : type_of% (And.intro (H.2.2 vin x0.ep (fun i => (i, 0)) 15 (fun i => i == 3) (fun i _ => ⟨rfl, rfl⟩))
    (And.intro ((H.2.1 x0.ep ⟨true, 7⟩).2.2.2 255 yes)
    ((H.1 x0.ap ⟨false, 0⟩).2.1 rfl))) :=
  And.intro (H.2.2 vin x0.ep (fun i => (i, 0)) 15 (fun i => i == 3) (fun i _ => ⟨rfl, rfl⟩))
    (And.intro ((H.2.1 x0.ep ⟨true, 7⟩).2.2.2 255 yes)
    ((H.1 x0.ap ⟨false, 0⟩).2.1 rfl))
theorem witness_WordsWithoutCode (H : Obligations.WordsWithoutCode) : type_of% (And.intro (H.1 [⟨0, 0x1000, [1]⟩] 0 0x1008 yes)
    (H.1 [⟨0, 0x1000, [1]⟩, ⟨3, 0xFF8, [1, 2, 3]⟩] 0 0xFFF yes)) :=
  And.intro (H.1 [⟨0, 0x1000, [1]⟩] 0 0x1008 yes)
    (H.1 [⟨0, 0x1000, [1]⟩, ⟨3, 0xFF8, [1, 2, 3]⟩] 0 0xFFF yes)
theorem witness_DecodeOfEncode (H : Obligations.DecodeOfEncode) : type_of% (And.intro (H wadd .ap [7] yes rfl (Or.inr rfl))
    (And.intro (H wcpy .ap [] yes rfl (Or.inr rfl))
    (H .nop .ep [] yes rfl (Or.inl rfl)))) :=
  And.intro (H wadd .ap [7] yes rfl (Or.inr rfl))
    (And.intro (H wcpy .ap [] yes rfl (Or.inr rfl))
    (H .nop .ep [] yes rfl (Or.inl rfl)))
theorem witness_EncodeOfDecode (H : Obligations.EncodeOfDecode) : type_of% (H .ap (w8 0x0100608008000000) (.add ⟨g0, .d, 3, 1, .reg 2⟩) (ok_of yes) yes) :=
  H .ap (w8 0x0100608008000000) (.add ⟨g0, .d, 3, 1, .reg 2⟩) (ok_of yes) yes
theorem witness_OpcodesAndLengths (H : Obligations.OpcodesAndLengths) : type_of% (And.intro ((H.1 .ap (w8 0xF000000000000000)).1 yes)
    (And.intro ((H.1 .ep (w8 0x7F00000000000000)).2.1 yes)
    (And.intro ((H.1 .ep (w8 0xDE00000000000000)).2.2 (0xDB, 0xDF) yes yes yes)
    (And.intro ((H.2.1 (w8 0x7800000000000000) (.cpy ⟨g0, 0, 0, 0, 0, 0, .plain, 0, false, false, false, tk0⟩)).1 (ok_of yes))
    (And.intro ((H.2.1 (w8 0) .nop).2 (ok_of yes))
    (H.2.2 255 yes)))))) :=
  And.intro ((H.1 .ap (w8 0xF000000000000000)).1 yes)
    (And.intro ((H.1 .ep (w8 0x7F00000000000000)).2.1 yes)
    (And.intro ((H.1 .ep (w8 0xDE00000000000000)).2.2 (0xDB, 0xDF) yes yes yes)
    (And.intro ((H.2.1 (w8 0x7800000000000000) (.cpy ⟨g0, 0, 0, 0, 0, 0, .plain, 0, false, false, false, tk0⟩)).1 (ok_of yes))
    (And.intro ((H.2.1 (w8 0) .nop).2 (ok_of yes))
    (H.2.2 255 yes)))))
theorem witness_BytesWrittenAreReadBack (H : Obligations.BytesWrittenAreReadBack) : type_of% (And.intro ((H.1 mem1 5 0 yes).2.1 4 yes)
    (H.2.1 mem1 [(5, 0), (6, 1), (5, 2)] yes)) :=
  And.intro ((H.1 mem1 5 0 yes).2.1 4 yes)
    (H.2.1 mem1 [(5, 0), (6, 1), (5, 2)] yes)
theorem witness_ResetState (H : Obligations.ResetState) : type_of% (And.intro (H.1.2.2.2.2.2.2.2.1 ⟨.east, 8⟩ 4 yes yes)
    (And.intro (H.1.2.2.2.2.2.2.2.1 ⟨.west, 0⟩ 0 yes yes)
    (And.intro (H.1.2.2.2.2.2.2.2.2.2.2.2.2.2.2.1 63 yes)
    (And.intro ((H.2 5 0 false 0 0 0 0 0 0).2.2.2.2.2.1 63 yes)
    ((H.2 5 0 false 0 0 0 0 0 0).2.2.2.2.2.2.1 15 yes))))) :=
  And.intro (H.1.2.2.2.2.2.2.2.1 ⟨.east, 8⟩ 4 yes yes)
    (And.intro (H.1.2.2.2.2.2.2.2.1 ⟨.west, 0⟩ 0 yes yes)
    (And.intro (H.1.2.2.2.2.2.2.2.2.2.2.2.2.2.2.1 63 yes)
    (And.intro ((H.2 5 0 false 0 0 0 0 0 0).2.2.2.2.2.1 63 yes)
    ((H.2 5 0 false 0 0 0 0 0 0).2.2.2.2.2.2.1 15 yes))))
theorem witness_EveryStepKeepsMemoryCanonical (H : Obligations.EveryStepKeepsMemoryCanonical) : type_of% (And.intro (H mem1 _ ⟨yes, yes⟩ (next_of yes))
    (H turn1 _ ⟨yes, yes⟩ (next_of yes))) :=
  And.intro (H mem1 _ ⟨yes, yes⟩ (next_of yes))
    (H turn1 _ ⟨yes, yes⟩ (next_of yes))
end Words

end Sys2Proof.Tests
end

/-! SUPPORT. The statements of 00_scope.md: what the CSRs of both processors read as, what memory holds after a write, and the reset values of the module and of a new context. -/
namespace Sys2Proof.Machine
open Sys2Proof

/-! ## Control and status registers -/

/-- LC of the top entry counts the passes left, 0 once all are done. -/
theorem loopLc_cons (e : LoopEntry) (r : List LoopEntry) : loopLc (e :: r) = e.n - Nat.min e.done e.n := by
  simp only [loopLc, Nat.min_def]
  split <;> omega

theorem ofNat_b2n (w : Nat) (b : Bool) : BitVec.ofNat w (b2n b) = if b then 1 else 0 := by cases b <;> rfl

/-- MEMBER reads as a Boolean. -/
theorem csrShared_member (s : State) (c n : Nat) (x : Ctx) : s.csrShared c n x 0x005 = if x.member then 1 else 0 :=
  ofNat_b2n 64 x.member

/-- GANG and the superstep, while the context's launch is known. -/
theorem csrShared_launch (s : State) (c n : Nat) (x : Ctx) (l : Launch) (h : s.launch x.lid = some l) :
    s.csrShared c n x 0x003 = BitVec.ofNat 64 (l.gang * 2 ^ 32 + x.rank) ∧ s.csrShared c n x 0x006 = BitVec.ofNat 64 l.ss := by
  simp [State.csrShared, State.gangWord, State.launchOf, h]

/-- The words of the async fault slot lie from 0x040 on, on the AP (R262). -/
theorem apCsrRead_afs (s : State) (c n : Nat) (x : Ctx) (k : Nat) (hk : k < 8) : s.apCsrRead c n x (0x040 + k) = x.afsWord k := by
  interval_cases k <;> rfl

/-- And on the EP (R322). -/
theorem epCsrRead_afs (s : State) (c n : Nat) (x : Ctx) (k : Nat) (hk : k < 8) : s.epCsrRead c n x (0x040 + k) = x.afsWord k := by
  interval_cases k <;> rfl

/-- The loop CSRs of an AP outside every loop read 0. -/
theorem apCsrRead_loops_nil (s : State) (c n : Nat) (x : Ctx) (h : x.ap.loops = []) :
    s.apCsrRead c n x 0x011 = 0 ∧ s.apCsrRead c n x 0x012 = 0 := by
  simp [State.apCsrRead, loopLc, loopEc, h]

/-- Within a loop they are those of its top entry. -/
theorem apCsrRead_loops_cons (s : State) (c n : Nat) (x : Ctx) (e : LoopEntry) (r : List LoopEntry) (h : x.ap.loops = e :: r) :
    s.apCsrRead c n x 0x011 = BitVec.ofNat 64 (e.n - Nat.min e.done e.n) ∧
    s.apCsrRead c n x 0x012 = BitVec.ofNat 64 (e.total - Nat.max e.done e.n) := by
  simp [State.apCsrRead, loopLc_cons, loopEc, h]

/-- ELC of an EP outside every loop reads 0. -/
theorem epCsrRead_loops_nil (s : State) (c n : Nat) (x : Ctx) (h : x.ep.loops = []) : s.epCsrRead c n x 0x011 = 0 := by
  simp [State.epCsrRead, loopLc, h]

/-- Within a loop it is that of its top entry. -/
theorem epCsrRead_loops_cons (s : State) (c n : Nat) (x : Ctx) (e : LoopEntry) (r : List LoopEntry) (h : x.ep.loops = e :: r) :
    s.epCsrRead c n x 0x011 = BitVec.ofNat 64 (e.n - Nat.min e.done e.n) := by
  simp [State.epCsrRead, loopLc_cons, h]

/-- The gap counters lie from 0x070 on. -/
theorem epCsrRead_gap (s : State) (c n : Nat) (x : Ctx) (k : Nat) (hk : k < 8) :
    s.epCsrRead c n x (0x070 + k) = (tget x.gapc 0 k).setWidth 64 := by
  interval_cases k <;> rfl

/-! ## Memory -/

/-- A byte after one byte is put. -/
theorem byte_putByte (s : State) (a k : Nat) (b : Byte) (h : Memory.wf s.mem = true) :
    (s.putByte a b).byte k = if k = a then b else s.byte k := tget_tput memDefault s.mem a k b h

/-- After a list of cells is put in order, the last cell of an address counts. -/
theorem tget_foldl_tput (m l : List Host.Cell) (a : Nat) (h : Memory.wf m = true) :
    tget (l.foldl (fun t p => tput t memDefault p.1 p.2) m) memDefault a =
      ((l.reverse.find? (fun q => q.1 == a)).map Prod.snd).getD (tget m memDefault a) := by
  induction l using List.reverseRecOn with
  | nil => rfl
  | append_singleton r p ih =>
    have hr : Memory.wf (r.foldl (fun t p => tput t memDefault p.1 p.2) m) = true := memory_wf_puts r m h
    rw [List.foldl_append, List.foldl_cons, List.foldl_nil, tget_tput memDefault _ p.1 a p.2 hr, ih, List.reverse_append,
      List.reverse_singleton, List.singleton_append]
    by_cases hp : p.1 = a
    · simp [hp]
    · simp [hp, Ne.symm hp]

/-- A byte after a write: the write's last cell for its address, else the byte before. -/
theorem byte_writeMem (s : State) (l : List Host.Cell) (a : Nat) (h : Memory.wf s.mem = true) :
    (s.writeMem l).byte a = ((l.reverse.find? (fun q => q.1 == a)).map Prod.snd).getD (s.byte a) := by
  rw [State.byte, writeMem_mem, tget_foldl_tput s.mem l a h, State.byte]

theorem natsFrom_succ (a n : Nat) : natsFrom a (n + 1) = a :: natsFrom (a + 1) n := by
  simp only [natsFrom, List.range_succ_eq_map, List.map_cons, List.map_map, Nat.add_zero]
  congr 2
  funext i
  simp only [Function.comp_apply]
  omega

/-- Little-endian: the first byte is the lowest digit in base 256 (R3). -/
theorem num_succ (s : State) (a n : Nat) : s.num a (n + 1) = (s.byte a).toNat + 256 * s.num (a + 1) n := by
  simp only [State.num, State.bytes, natsFrom_succ, List.map_cons, leNat]

/-! ## Reset -/

/-- PART resets to all ones on the physical function of either die (R57). -/
theorem partReset_fnIdx (fn : Func) (k : Nat) (hfn : fn.num ≤ 8) (hk : k < 5) :
    partReset (8 * fnIdx fn + k) = if fn.num = 0 then BitVec.allOnes 64 else 0 := by
  have h : (8 * fnIdx fn + k) / 8 % 9 = fn.num := by
    unfold fnIdx
    omega
  rw [partReset, h]

theorem regRead_part_reset (fn : Func) (k : Nat) (hfn : fn.num ≤ 8) (hk : k < 5) :
    State.reset.regRead (.part fn k) = if fn.num = 0 then 2 ^ 64 - 1 else 0 := by
  change (partReset (8 * fnIdx fn + k)).toNat = _
  rw [partReset_fnIdx fn k hfn hk]
  split <;> rfl

theorem regRead_dstat_reset (d : Die) : State.reset.regRead (.dstat d) = 0 := by cases d <;> decide

/-! What a new context's registers read as (R18, R322). -/

@[simp] theorem start_s (pc : Word) (tag : BitVec 32) (n : Nat) : (ApSt.start pc tag).s' n = 0 := by
  unfold ApSt.s'
  split <;> rfl

@[simp] theorem start_pr (pc : Word) (tag : BitVec 32) (n : Nat) : (ApSt.start pc tag).pr n = decide (n = 0) := by
  simp [ApSt.pr, ApSt.start, beq_eq_decide]

@[simp] theorem start_e (pc : Word) (n : Nat) : (EpSt.start pc).e' n = 0 := by
  unfold EpSt.e'
  split <;> rfl

@[simp] theorem start_qr (pc : Word) (n : Nat) : (EpSt.start pc).qr n = decide (n = 0) := by
  simp [EpSt.qr, EpSt.start, beq_eq_decide]

@[simp] theorem start_mr (pc : Word) (n : Nat) : (EpSt.start pc).mr n = if n = 0 then BitVec.allOnes 256 else 0 := rfl

end Sys2Proof.Machine

namespace Sys2Proof.Proofs
open Sys2Proof Sys2Proof.Machine Sys2Proof.Claims

/-- Settles O12: number by number, the AP's map, then the EP's; the registers both list are those of `State.csrShared`. -/
theorem csrMap : Obligations.CsrMap := by
  unfold Obligations.CsrMap
  refine ⟨fun s c n x => ?_, fun s c n x => ?_⟩
  · exact ⟨rfl, rfl, rfl, rfl, csrShared_member s c n x, csrShared_launch s c n x, rfl,
      apCsrRead_loops_nil s c n x, apCsrRead_loops_cons s c n x, rfl, rfl, rfl, rfl, rfl, rfl, rfl, rfl, apCsrRead_afs s c n x, rfl, rfl, rfl, rfl, rfl, rfl⟩
  · exact ⟨rfl, rfl, rfl, rfl, epCsrRead_loops_nil s c n x, epCsrRead_loops_cons s c n x, rfl, rfl, rfl, rfl, rfl, rfl, rfl, rfl, rfl,
      csrShared_member s c n x, csrShared_launch s c n x, epCsrRead_afs s c n x, rfl, rfl, epCsrRead_gap s c n x, rfl, rfl, ofNat_b2n 64 x.segOpen⟩

/-- Settles O27, from what `tput` leaves of a canonical table and an induction over the cells written. -/
theorem bytesWrittenAreReadBack : Obligations.BytesWrittenAreReadBack := by
  unfold Obligations.BytesWrittenAreReadBack
  refine ⟨fun s a b h => ⟨?_, fun k hk => ?_, memory_wf_put s.mem a b h⟩, fun s l h => ⟨writeMem_wf s l h, fun a => ?_⟩,
    fun s a n => ⟨rfl, num_succ s a n⟩⟩
  · rw [byte_putByte s a a b h, if_pos rfl]
  · rw [byte_putByte s a k b h, if_neg hk]
  · rw [byte_writeMem s l a h]
    cases l.reverse.find? (fun q => q.1 == a) <;> rfl

/-- Settles O28: the fields of the reset state, and of a new context, read through the model's accessors. -/
theorem resetState : Obligations.ResetState := by
  unfold Obligations.ResetState
  constructor
  · exact ⟨rfl, rfl, rfl, rfl, rfl, rfl, rfl, regRead_part_reset, fun _ => rfl, rfl, rfl, rfl, rfl, rfl, fun _ _ => rfl, regRead_dstat_reset⟩
  · intro lid rank m apc epc argp prio cyc tag
    exact ⟨rfl, rfl, rfl, rfl, rfl, fun n _ => start_s apc tag n, fun n _ => start_pr apc tag n, start_e epc, fun n _ => start_qr epc n, start_mr epc,
      rfl, rfl, rfl, rfl, fun _ => rfl, rfl, rfl, rfl, rfl, rfl, rfl, rfl, rfl, rfl, rfl, rfl, rfl, rfl, fun _ => rfl⟩

end Sys2Proof.Proofs

/-! SUPPORT. What the way of a record to its queue can change (R395, R398, R457): neither device time, nor bring-up, nor links, nor registers. -/
namespace Sys2Proof.Machine
open Sys2Proof

/-! ## Writes from outside the APs -/

/-- A launch's id and its cores, which no record changes. -/
def Launch.stand (l : Launch) : BitVec 32 × List Nat × List Nat := (l.lid, l.cores, l.cores1)

theorem putCells_cases (s : State) (l : List Host.Cell) : ∃ mem, s.putCells l = { s with mem := mem } := by
  induction l generalizing s with
  | nil => exact ⟨s.mem, rfl⟩
  | cons p r ih => exact ih (s.putByte p.1 p.2)

theorem unpoison_cases (s : State) (l : List Host.Cell) : ∃ poison, s.unpoison l = { s with poison := poison } := by
  unfold State.unpoison
  split
  · exact ⟨s.poison, rfl⟩
  · exact ⟨_, rfl⟩

theorem noteBytes_cases (s : State) (l : List Host.Cell) : ∃ dstores serial, s.noteBytes l = { s with dstores := dstores, serial := serial } := by
  unfold State.noteBytes
  induction l.filter (fun p => isDur p.1) generalizing s with
  | nil => exact ⟨s.dstores, s.serial, rfl⟩
  | cons p r ih => exact ih (s.addDurable 0x1FF 0 noLid 0 none [p] [] none 0)

theorem wakeTasks_stand (s : State) (gs : List Nat) : (s.wakeTasks gs).launches.map Launch.stand = s.launches.map Launch.stand := by
  simp only [State.wakeTasks, List.map_map]
  rfl

/-- A write changes memory, what waits on it, and the notes about its bytes. -/
theorem writeMem_cases (s : State) (l : List Host.Cell) : ∃ cores launches mem poison durRel,
    s.writeMem l = { s with cores := cores, launches := launches, mem := mem, poison := poison, durRel := durRel } ∧
    launches.map Launch.stand = s.launches.map Launch.stand := by
  obtain ⟨mem, hm⟩ := putCells_cases s l
  obtain ⟨poison, hp⟩ := unpoison_cases { s with mem := mem } l
  unfold State.writeMem
  rw [hm, hp]
  exact ⟨_, _, _, _, _, rfl, wakeTasks_stand _ (granulesOf l)⟩

/-- So does one from outside the APs, which also notes the durable bytes it writes. -/
theorem devWrite_cases (s : State) (l : List Host.Cell) : ∃ cores launches mem poison durRel dstores serial,
    s.devWrite l = { s with cores := cores, launches := launches, mem := mem, poison := poison, durRel := durRel, dstores := dstores, serial := serial } ∧
    launches.map Launch.stand = s.launches.map Launch.stand := by
  obtain ⟨dstores, serial, hn⟩ := noteBytes_cases s (l.map fun p => (s.homeAddr p.1, p.2))
  obtain ⟨cores, launches, mem, poison, durRel, hw, hl⟩ := writeMem_cases { s with dstores := dstores, serial := serial } (l.map fun p => (s.homeAddr p.1, p.2))
  unfold State.devWrite
  dsimp only
  rw [hn, hw]
  exact ⟨_, _, _, _, _, _, _, rfl, hl⟩

/-! ## What records leave alone -/

/-- A die without what the way of a record can change: lost records, the controller's buffer, what waits, and when records of corrected errors went out. -/
def DieSt.bare (x : DieSt) : DieSt := { x with miss := 0, ctl := DieSt.reset.ctl, recWait := [], asks := [], hosts := [], lastSev0 := [] }
/-- The module without what the way of a record can change. -/
def State.bare (s : State) : State :=
  { s with
    cores := [], launches := [], west := s.west.bare, east := s.east.bare, mem := [], poison := [], sparing := [], spared := [], remapped := [], rowErrs := [],
    dstores := [], durRel := [], serial := 0, outbox := [] }

/-- From s to t nothing has happened but records on their way to their queues. -/
structure Filed (s t : State) : Prop where
  bare : t.bare = s.bare
  ctl : ∀ d, (s.die d).ctl.up = true → (t.die d).ctl = (s.die d).ctl
  stand : t.launches.map Launch.stand = s.launches.map Launch.stand
  sent : s.outbox <+: t.outbox

namespace Filed

theorem refl (s : State) : Filed s s := ⟨rfl, fun _ _ => rfl, rfl, List.prefix_rfl⟩

theorem trans {s t u : State} (h : Filed s t) (k : Filed t u) : Filed s u where
  bare := k.bare.trans h.bare
  ctl d hd := (k.ctl d (by rw [h.ctl d hd, hd])).trans (h.ctl d hd)
  stand := k.stand.trans h.stand
  sent := h.sent.trans k.sent

theorem foldl {α : Type} (f : State → α → State) (hf : ∀ s x, Filed s (f s x)) (l : List α) (s : State) : Filed s (l.foldl f s) := by
  induction l generalizing s with
  | nil => exact refl s
  | cons x r ih => exact (hf s x).trans (ih (f s x))

/-- What has only records filed on a die differs from it in nothing else. -/
theorem dieBare {s t : State} (h : Filed s t) (d : Die) : (t.die d).bare = (s.die d).bare := by
  cases d
  · exact congrArg State.west h.bare
  · exact congrArg State.east h.bare

section
variable {s t : State} (h : Filed s t)
include h
theorem time : t.time = s.time := (congrArg State.time h.bare :)
theorem retrain : t.retrain = s.retrain := (congrArg State.retrain h.bare :)
theorem brSpares : t.brSpares = s.brSpares := (congrArg State.brSpares h.bare :)
theorem brDead : t.brDead = s.brDead := (congrArg State.brDead h.bare :)
theorem ingq : t.ingq = s.ingq := (congrArg State.ingq h.bare :)
theorem fnFrozen : t.fnFrozen = s.fnFrozen := (congrArg State.fnFrozen h.bare :)
theorem boot (d : Die) : (t.die d).boot = (s.die d).boot := (congrArg DieSt.boot (h.dieBare d) :)
theorem ecnt (d : Die) : (t.die d).ecnt = (s.die d).ecnt := (congrArg DieSt.ecnt (h.dieBare d) :)
theorem act (d : Die) : (t.die d).act = (s.die d).act := (congrArg DieSt.act (h.dieBare d) :)
theorem boots (d : Die) : (t.die d).boots = (s.die d).boots := (congrArg DieSt.boots (h.dieBare d) :)
theorem lnkWidth (d : Die) : (t.die d).lnkWidth = (s.die d).lnkWidth := (congrArg DieSt.lnkWidth (h.dieBare d) :)
theorem lnkRetry (d : Die) : (t.die d).lnkRetry = (s.die d).lnkRetry := (congrArg DieSt.lnkRetry (h.dieBare d) :)
theorem lnkAsked (d : Die) : (t.die d).lnkAsked = (s.die d).lnkAsked := (congrArg DieSt.lnkAsked (h.dieBare d) :)
theorem fttgtEn (d : Die) : (t.die d).fttgtEn = (s.die d).fttgtEn := (congrArg DieSt.fttgtEn (h.dieBare d) :)
theorem fttgtCore (d : Die) : (t.die d).fttgtCore = (s.die d).fttgtCore := (congrArg DieSt.fttgtCore (h.dieBare d) :)
end

/-- A launch keeps its id and its cores. -/
theorem launch {s t : State} (h : Filed s t) (lid : BitVec 32) : (t.launch lid).map Launch.stand = (s.launch lid).map Launch.stand := by
  have key : ∀ u : State, (u.launch lid).map Launch.stand = (u.launches.map Launch.stand).find? fun p => p.1 == lid := fun u => by
    rw [List.find?_map]
    rfl
  rw [key, key, h.stand]

end Filed

/-- A change of what the records' way can change of a die. -/
theorem filed_modDie (s : State) (d : Die) (f : DieSt → DieSt) (hb : ∀ x, (f x).bare = x.bare) (hc : (s.die d).ctl.up = true → (f (s.die d)).ctl = (s.die d).ctl) :
    Filed s (s.modDie d f) where
  bare := by cases d <;> simp [State.bare, State.modDie, State.setDie, State.die, hb]
  ctl e he := by
    cases d <;> cases e
    · exact hc he
    · rfl
    · rfl
    · exact hc he
  stand := by simp
  sent := by simp

theorem filed_devWrite (s : State) (l : List Host.Cell) : Filed s (s.devWrite l) := by
  obtain ⟨cores, launches, mem, poison, durRel, dstores, serial, h, hl⟩ := devWrite_cases s l
  rw [h]
  exact ⟨rfl, fun d _ => by cases d <;> rfl, hl, List.prefix_rfl⟩

theorem filed_msix (s : State) (fn : Func) (v : Nat) : Filed s (s.msix fn v) := by
  unfold State.msix
  split
  · exact Filed.refl s
  · exact ⟨rfl, fun d _ => by cases d <;> rfl, rfl, List.prefix_append _ _⟩

theorem filed_missOne (s : State) (d : Die) : Filed s (s.missOne d) := filed_modDie s d _ (fun _ => rfl) fun _ => rfl

theorem holdRec_eq (s : State) (d : Die) (lid : Option (BitVec 32)) (r : FaultRec) : s.holdRec d lid r = s.missOne d ∨
    s.holdRec d lid r = s.modDie d fun x => { x with ctl := { x.ctl with buf := x.ctl.buf ++ [{ lid := lid, rcd := r }] } } := by
  unfold State.holdRec
  dsimp only
  split
  · exact .inr rfl
  · exact .inl rfl

/-- A restarting controller holds a record; one that runs would not. -/
theorem filed_holdRec (s : State) (d : Die) (lid : Option (BitVec 32)) (r : FaultRec) (h : (s.die d).ctl.up = false) : Filed s (s.holdRec d lid r) := by
  rcases holdRec_eq s d lid r with e | e <;> rw [e]
  · exact filed_missOne s d
  · exact filed_modDie s d _ (fun _ => rfl) fun hu => absurd hu (by simp [h])

/-- A record that enters a queue, or is counted as lost in it, is written to memory. -/
theorem ringPut_cases (s : State) (hd : List Nat) (sl : Nat → Option (List Nat)) (r : FaultRec) (p : State × Bool) (h : s.ringPut hd sl r = some p) :
    ∃ l, p.1 = s.devWrite l ∨ ∃ m, p.1 = (s.devWrite l).devWrite m := by
  unfold State.ringPut at h
  dsimp only at h
  split at h
  · cases h
    exact ⟨_, .inl rfl⟩
  · split at h
    · cases h
    · cases h
      exact ⟨_, .inr ⟨_, rfl⟩⟩

theorem filed_ringPut (s : State) (hd : List Nat) (sl : Nat → Option (List Nat)) (r : FaultRec) (p : State × Bool) (h : s.ringPut hd sl r = some p) : Filed s p.1 := by
  obtain ⟨l, e | ⟨m, e⟩⟩ := ringPut_cases s hd sl r p h <;> rw [e]
  · exact filed_devWrite s l
  · exact (filed_devWrite s l).trans (filed_devWrite _ m)

/-- What becomes of a record for a device queue (R398, R457, R459): a restarting controller holds it, or it is lost, or it is written, with an interrupt where there was room. -/
theorem toDevice_cases (s : State) (r : FaultRec) :
    ((s.die (masterDie r.master)).ctl.up = false ∧ s.toDevice r = s.holdRec (masterDie r.master) none r) ∨ s.toDevice r = s.missOne (masterDie r.master) ∨
    ∃ hd sl p, s.ringPut hd sl r = some p ∧ (s.toDevice r = p.1 ∨ ∃ fn v, s.toDevice r = p.1.msix fn v) := by
  unfold State.toDevice
  dsimp only
  split
  · next h => exact .inl ⟨by simpa using h, rfl⟩
  · split
    · exact .inr (.inl rfl)
    · split
      · exact .inr (.inl rfl)
      · split
        · exact .inr (.inl rfl)
        · next h => exact .inr (.inr ⟨_, _, _, h, .inr ⟨_, _, rfl⟩⟩)
        · next h => exact .inr (.inr ⟨_, _, _, h, .inl rfl⟩)

theorem filed_toDevice (s : State) (r : FaultRec) : Filed s (s.toDevice r) := by
  rcases toDevice_cases s r with ⟨hu, e⟩ | e | ⟨hd, sl, p, hp, e | ⟨fn, v, e⟩⟩ <;> rw [e]
  · exact filed_holdRec s _ none r hu
  · exact filed_missOne s _
  · exact filed_ringPut s hd sl r p hp
  · exact (filed_ringPut s hd sl r p hp).trans (filed_msix _ fn v)

theorem devWrite_die (s : State) (l : List Host.Cell) (d : Die) : (s.devWrite l).die d = s.die d := by
  obtain ⟨cores, launches, mem, poison, durRel, dstores, serial, h, -⟩ := devWrite_cases s l
  rw [h]
  cases d <;> rfl

theorem msix_die (s : State) (fn : Func) (v : Nat) (d : Die) : (s.msix fn v).die d = s.die d := by
  unfold State.msix
  split <;> cases d <;> rfl

theorem die_modDie_ne (s : State) (d e : Die) (f : DieSt → DieSt) (h : e ≠ d) : (s.modDie d f).die e = s.die e := by
  cases d <;> cases e
  · exact absurd rfl h
  · rfl
  · rfl
  · exact absurd rfl h

/-- A record for a device queue changes of the dies at most its own one's count of lost records and its controller's buffer. -/
theorem toDevice_die (s : State) (r : FaultRec) : (∀ d, (s.toDevice r).die d = s.die d) ∨
    ∃ m b, s.toDevice r = s.modDie (masterDie r.master) fun x => { x with miss := m, ctl := { x.ctl with buf := b } } := by
  rcases toDevice_cases s r with ⟨-, e⟩ | e | ⟨hd, sl, p, hp, e⟩
  · rcases holdRec_eq s (masterDie r.master) none r with k | k <;> rw [e, k]
    · exact .inr ⟨_, _, rfl⟩
    · exact .inr ⟨(s.die (masterDie r.master)).miss, _, rfl⟩
  · rw [e]
    exact .inr ⟨_, _, rfl⟩
  · have hd : ∀ d, p.1.die d = s.die d := by
      obtain ⟨l, k | ⟨m, k⟩⟩ := ringPut_cases s hd sl r p hp <;> intro d <;> simp [k, devWrite_die]
    rcases e with e | ⟨fn, v, e⟩ <;> rw [e] <;> exact .inl fun d => by simp [msix_die, hd]

/-- The other die is as before. -/
theorem toDevice_die_ne (s : State) (r : FaultRec) (d : Die) (h : d ≠ masterDie r.master) : (s.toDevice r).die d = s.die d := by
  rcases toDevice_die s r with e | ⟨m, b, e⟩
  · exact e d
  · rw [e, die_modDie_ne s _ _ _ h]

/-- What waits for a launch's queue still waits. -/
theorem toDevice_recWait (s : State) (r : FaultRec) (d : Die) : ((s.toDevice r).die d).recWait = (s.die d).recWait := by
  rcases toDevice_die s r with e | ⟨m, b, e⟩
  · rw [e]
  · rw [e]
    by_cases h : d = masterDie r.master
    · rw [h, State.die_modDie]
    · rw [die_modDie_ne s _ _ _ h]

/-- A record of a corrected error goes to the device queue, or is one too many in its millisecond (R455). -/
theorem corrected_cases (s : State) (u : Nat) (r : FaultRec) : s.corrected u r = s ∨
    ∃ l, s.corrected u r = (s.toDevice r).modDie (masterDie r.master) fun x => { x with lastSev0 := tset x.lastSev0 u l } := by
  unfold State.corrected
  dsimp only
  split
  · split
    · exact .inl rfl
    · exact .inr ⟨_, rfl⟩
  · exact .inr ⟨_, rfl⟩

theorem filed_corrected (s : State) (u : Nat) (r : FaultRec) : Filed s (s.corrected u r) := by
  rcases corrected_cases s u r with e | ⟨l, e⟩ <;> rw [e]
  · exact Filed.refl s
  · exact (filed_toDevice s r).trans (filed_modDie _ _ _ (fun _ => rfl) fun _ => rfl)

theorem corrected_recWait (s : State) (u : Nat) (r : FaultRec) (d : Die) : ((s.corrected u r).die d).recWait = (s.die d).recWait := by
  rcases corrected_cases s u r with e | ⟨l, e⟩ <;> rw [e]
  rw [← toDevice_recWait s r d]
  by_cases h : d = masterDie r.master
  · rw [h, State.die_modDie]
  · rw [die_modDie_ne _ _ _ _ h]


/-! ## Launch queues -/

/-- From s to t the scheduler has asked the host or a peer for pages, or met their answers, and no more has happened (R118). -/
structure Asked (s t : State) : Prop extends Filed s t where
  rest : ∃ west east serial outbox, t = { s with west := west, east := east, serial := serial, outbox := outbox }

theorem Asked.refl (s : State) : Asked s s := { Filed.refl s with rest := ⟨_, _, _, _, rfl⟩ }

theorem Asked.trans {s t u : State} (h : Asked s t) (k : Asked t u) : Asked s u where
  toFiled := h.toFiled.trans k.toFiled
  rest := by
    obtain ⟨_, _, _, _, rfl⟩ := h.rest
    obtain ⟨_, _, _, _, rfl⟩ := k.rest
    exact ⟨_, _, _, _, rfl⟩

theorem Asked.foldl {α : Type} (f : State → α → State) (hf : ∀ s x, Asked s (f s x)) (l : List α) (s : State) : Asked s (l.foldl f s) := by
  induction l generalizing s with
  | nil => exact refl s
  | cons x r ih => exact (hf s x).trans (ih (f s x))

/-- A change of what a die asks, or of what the host has answered. -/
theorem asked_modDie (s : State) (d : Die) (asks : DieSt → List SchedAsk) (hosts : DieSt → List HostXl) :
    Asked s (s.modDie d fun x => { x with asks := asks x, hosts := hosts x }) where
  toFiled := filed_modDie s d _ (fun _ => rfl) fun _ => rfl
  rest := by cases d <;> exact ⟨_, _, _, _, rfl⟩

theorem asked_asksMet (s : State) (d : Die) (pasid : Nat) : Asked s (s.asksMet d pasid) := by
  unfold State.asksMet
  split
  · exact Asked.refl s
  · exact asked_modDie s d _ DieSt.hosts

theorem asked_dropHost (s : State) (d : Die) (pasid page : Nat) : Asked s (s.dropHost d pasid page) := asked_modDie s d DieSt.asks _

theorem asked_tick (s : State) : Asked s s.tick where
  toFiled := ⟨rfl, fun d _ => by cases d <;> rfl, rfl, List.prefix_rfl⟩
  rest := ⟨_, _, _, _, rfl⟩

/-- A message that leaves the module. -/
theorem asked_send (s : State) (m : OutMsg) : Asked s { s with outbox := s.outbox ++ [m] } where
  toFiled := ⟨rfl, fun d _ => by cases d <;> rfl, rfl, List.prefix_append _ _⟩
  rest := ⟨_, _, _, _, rfl⟩

theorem asked_askHost (s : State) (d : Die) (pasid page lvl ent : Nat) : Asked s (s.askHost d pasid page lvl ent) := by
  have asks : ∀ (hosts : List HostXl) (m : OutMsg), Asked s { (s.setDie d { s.die d with hosts := hosts }).tick with outbox := s.outbox ++ [m] } := fun hosts m => by
    have h := ((asked_modDie s d DieSt.asks fun _ => hosts).trans (asked_tick _)).trans (asked_send _ m)
    cases d <;> exact h
  unfold State.askHost
  dsimp only
  split
  · split
    · exact Asked.refl s
    · exact asks _ _
  · exact asks _ _

theorem asked_schedMet (s : State) (d : Die) (pasid : Nat) (mask : BitVec 16) (a : Acc) (va n : Nat) : Asked s (s.schedMet d pasid mask a va n) := by
  unfold State.schedMet
  split
  · refine (asked_modDie s d _ DieSt.hosts).trans (Asked.foldl _ (fun s p => ?_) _ _)
    split
    · split
      · exact asked_dropHost s d _ _
      · exact Asked.refl s
    · exact Asked.refl s
  · split
    · have asked : ∀ (b : Bool) page lvl ent, Asked s (if b then s.askHost d pasid page lvl ent else s) := fun b page lvl ent => by
        cases b
        · exact Asked.refl s
        · exact asked_askHost s d pasid page lvl ent
      extract_lets reg s1 far
      have h : Asked s s1 := asked _ _ _ _
      split
      · exact (h.trans (asked_modDie _ d _ DieSt.hosts)).trans (asked_tick _)
      · exact h
    · exact Asked.refl s

/-- The notes of a row that is copied to a spare (R454). -/
theorem filed_spared (s : State) (sparing spared remapped : List Nat) (rowErrs : Tbl (List Nat)) :
    Filed s { s with sparing := sparing, spared := spared, remapped := remapped, rowErrs := rowErrs } := ⟨rfl, fun d _ => by cases d <;> rfl, rfl, List.prefix_rfl⟩

/-- A row that is copied to a spare is noted, and reported (R454). -/
theorem filed_spareRow (s : State) (a : Nat) : Filed s (s.spareRow a) := by
  have file : ∀ (t : State) (cause : Nat), Filed t (t.rowRecord a cause) := fun t cause => filed_toDevice t _
  have copied : ∀ sparing spared remapped rowErrs cause,
      Filed s (State.rowRecord { s with sparing := sparing, spared := spared, remapped := remapped, rowErrs := rowErrs } a cause) := fun _ _ _ _ cause =>
    (filed_spared s _ _ _ _).trans (file _ cause)
  unfold State.spareRow
  dsimp only
  split
  · exact Filed.refl s
  · split
    · split
      · exact Filed.refl s
      · split
        · exact (copied _ _ _ _ 8).trans (file _ 9)
        · exact copied _ _ _ _ 8
    · split
      · exact file s 7
      · split
        · exact copied _ _ _ _ 6
        · exact (copied _ _ _ _ 6).trans (file _ 9)

theorem filed_usedBad (s : State) (pas : List Nat) : Filed s (s.usedBad pas) := by
  unfold State.usedBad
  refine Filed.foldl _ (fun s a => ?_) _ _
  split
  · exact Filed.refl s
  · exact filed_spareRow s _

theorem filed_modLaunch (s : State) (lid : BitVec 32) (f : Launch → Launch) (hf : ∀ l, (f l).stand = l.stand) : Filed s (s.modLaunch lid f) where
  bare := rfl
  ctl d _ := by cases d <;> rfl
  stand := by
    simp only [State.modLaunch, List.map_map]
    refine List.map_congr_left fun l _ => ?_
    simp only [Function.comp_apply]
    split
    · exact hf l
    · rfl
  sent := List.prefix_rfl

/-- A record for a launch's queue is written, held, lost or made to wait, and its failure reported, and no more (R395, R398, R424). -/
theorem filed_toLaunch (s : State) (lid : BitVec 32) (r : FaultRec) : Filed s (s.toLaunch lid r) := by
  unfold State.toLaunch
  split
  · exact filed_toDevice s r
  · extract_lets base s0 d wait bad spoilt poison
    have noted : Filed s s0 := filed_modLaunch s lid _ fun _ => rfl
    have waits : Filed s wait := noted.trans (filed_modDie s0 d _ (fun _ => rfl) fun _ => rfl)
    have fails : ∀ a n e, Filed s (bad a n e) := fun a n e => by
      cases e with
      | fault code lvl tag en => exact (noted.trans (filed_toDevice _ _)).trans (asked_asksMet _ _ _).toFiled
      | wait => exact waits.trans (asked_schedMet _ _ _ _ _ _ _).toFiled
      | ok pa leaf => exact noted
      | breach => exact noted
    have spoils : ∀ a p, Filed s (spoilt a p) := fun a p => (noted.trans (filed_usedBad _ _)).trans (filed_toDevice _ _)
    split
    · exact filed_toDevice s r
    · split
      · next h =>
        have hu : (s0.die (masterDie r.master)).ctl.up = false := by
          rw [← Bool.not_eq_true']
          cases hd : masterDie r.master <;> rw [hd] at h <;> exact h
        exact noted.trans (filed_holdRec _ _ _ r hu)
      · split
        · exact waits
        · split
          · exact fails _ _ _
          · split
            · exact spoils _ _
            · extract_lets k va
              split
              · next h => exact noted.trans (filed_ringPut _ _ _ _ _ h)
              · split
                · exact fails _ _ _
                · exact spoils _ _

end Sys2Proof.Machine

/-! SUPPORT. Bring-up and device time (R11, R14, R15, R456): when the dies enter the next step, what a part's training or its time-out leaves, and how device time runs while it slews. -/
namespace Sys2Proof.Machine
open Sys2Proof

/-! ## Dies -/

@[simp] theorem die_other_modDie (s : State) (d : Die) (f : DieSt → DieSt) : (s.modDie d f).die (Die.other d) = s.die (Die.other d) := by cases d <;> rfl
@[simp] theorem die_modBoot (s : State) (d : Die) (f : Boot → Boot) : (s.modBoot d f).die d = { s.die d with boot := f (s.die d).boot } := by cases d <;> rfl
@[simp] theorem die_other_modBoot (s : State) (d : Die) (f : Boot → Boot) : (s.modBoot d f).die (Die.other d) = s.die (Die.other d) := by cases d <;> rfl
@[simp] theorem modBoot_time (s : State) (d : Die) (f : Boot → Boot) : (s.modBoot d f).time = s.time := by cases d <;> rfl
@[simp] theorem modBoot_byte (s : State) (d : Die) (f : Boot → Boot) (a : Nat) : (s.modBoot d f).byte a = s.byte a := by cases d <;> rfl
@[simp] theorem modDie_byte (s : State) (d : Die) (f : DieSt → DieSt) (a : Nat) : (s.modDie d f).byte a = s.byte a := by cases d <;> rfl
@[simp] theorem setDie_byte (s : State) (d : Die) (x : DieSt) (a : Nat) : (s.setDie d x).byte a = s.byte a := by cases d <;> rfl
theorem ne_other (d : Die) : d ≠ Die.other d := by cases d <;> exact nofun

/-! ## The next step -/

/-- The bring-up state with its next step begun. -/
def Boot.up (b : Boot) (now : Nat) : Boot := { b with step := b.step + 1, since := now }

theorem Boot.not_dead_of_partDone (b : Boot) (h : b.partDone = true) : b.dead = false := by
  by_cases h1 : b.step = 1
  · simp only [Boot.partDone, h1] at h
    simp [Boot.dead, h]
  · simp [Boot.dead, h1]

theorem Boot.not_partDone_of_dead (b : Boot) (h : b.dead = true) : b.partDone = false := by
  by_contra hp
  have := b.not_dead_of_partDone (by simpa using hp)
  simp [h] at this

/-- Dies that have ended the same step enter the next one together (R14). -/
theorem advanceBoot_together (s : State) (hw : s.west.boot.partDone = true) (he : s.east.boot.partDone = true) (h : s.east.boot.step = s.west.boot.step) :
    s.advanceBoot = (s.modBoot .west fun b => b.up s.time.toNat).modBoot .east fun b => b.up s.time.toNat := by
  simp only [State.advanceBoot, hw, he, h, beq_self_eq_true, Boot.not_dead_of_partDone _ he]
  rfl

/-- A die goes on without one whose firmware failed (R456). -/
theorem advanceBoot_alone (s : State) (d : Die) (hp : (s.die d).boot.partDone = true) (ho : (s.die (Die.other d)).boot.dead = true) :
    s.advanceBoot = s.modBoot d fun b => b.up s.time.toNat := by
  have hn := Boot.not_partDone_of_dead _ ho
  cases d
  · change s.west.boot.partDone = true at hp
    change s.east.boot.dead = true at ho
    simp only [State.advanceBoot, hp, ho]
    rfl
  · change s.east.boot.partDone = true at hp
    change s.west.boot.dead = true at ho
    change s.west.boot.partDone = false at hn
    simp only [State.advanceBoot, hp, ho, hn]
    rfl

/-- Dies in different steps, neither with failed firmware, stay in them. -/
theorem advanceBoot_apart (s : State) (h : s.east.boot.step ≠ s.west.boot.step) (hw : s.west.boot.dead = false) (he : s.east.boot.dead = false) : s.advanceBoot = s := by
  have hs : (s.east.boot.step == s.west.boot.step) = false := by simpa using h
  simp [State.advanceBoot, hs, hw, he]

/-- A die that has not ended its step, though its firmware runs, holds both back. -/
theorem advanceBoot_waits (s : State) (d : Die) (hp : (s.die d).boot.partDone = false) (hd : (s.die d).boot.dead = false) : s.advanceBoot = s := by
  cases d
  · change s.west.boot.partDone = false at hp
    change s.west.boot.dead = false at hd
    simp [State.advanceBoot, hp, hd]
  · change s.east.boot.partDone = false at hp
    change s.east.boot.dead = false at hd
    simp [State.advanceBoot, hp, hd]

/-- The next step changes of a die its step and the time it began, and these only where the die has ended its step. -/
theorem advanceBoot_die (s : State) (d : Die) : s.advanceBoot.die d = s.die d ∨
    ((s.die d).boot.partDone = true ∧ s.advanceBoot.die d = { s.die d with boot := (s.die d).boot.up s.time.toNat }) := by
  unfold State.advanceBoot
  dsimp only
  split
  · next h =>
    obtain ⟨hw, he⟩ := by simpa using h
    split
    · cases d
      · exact .inr ⟨hw, rfl⟩
      · exact .inl rfl
    · next hd =>
      cases d
      · exact .inr ⟨hw, rfl⟩
      · rcases he with he | ⟨-, he⟩
        · exact absurd he hd
        · exact .inr ⟨he, rfl⟩
  · split
    · next h =>
      obtain ⟨he, -⟩ := by simpa using h
      cases d
      · exact .inl rfl
      · exact .inr ⟨he, rfl⟩
    · exact .inl rfl

/-- Nothing but the dies changes. -/
theorem advanceBoot_rest (s : State) : s.advanceBoot = { s with west := s.advanceBoot.west, east := s.advanceBoot.east } := by
  unfold State.advanceBoot
  dsimp only
  split
  · split <;> rfl
  · split <;> rfl
@[simp] theorem advanceBoot_time (s : State) : s.advanceBoot.time = s.time := by rw [advanceBoot_rest]
@[simp] theorem advanceBoot_powered (s : State) : s.advanceBoot.powered = s.powered := by rw [advanceBoot_rest]
@[simp] theorem advanceBoot_byte (s : State) (a : Nat) : s.advanceBoot.byte a = s.byte a := by rw [advanceBoot_rest]; rfl

/-- A die whose firmware is verified enters step 2 with another one in step 1, which comes along if its own firmware is verified (R14, R456). -/
theorem advanceBoot_verified (s : State) (d : Die) (h : (s.die d).boot.step = 1) (hf : (s.die d).boot.fwok = true) :
    s.advanceBoot.die d = { s.die d with boot := if (s.die (Die.other d)).boot.step = 1 then (s.die d).boot.up s.time.toNat else (s.die d).boot } ∧
    (s.advanceBoot.die (Die.other d)).boot = if (s.die (Die.other d)).boot.step = 1 ∧ (s.die (Die.other d)).boot.fwok = true
      then (s.die (Die.other d)).boot.up s.time.toNat else (s.die (Die.other d)).boot := by
  have hp : (s.die d).boot.partDone = true := by simp [Boot.partDone, h, hf]
  have hd := Boot.not_dead_of_partDone _ hp
  by_cases ho : (s.die (Die.other d)).boot.step = 1
  · by_cases hof : (s.die (Die.other d)).boot.fwok = true
    · have hop : (s.die (Die.other d)).boot.partDone = true := by simp [Boot.partDone, ho, hof]
      cases d
      · rw [advanceBoot_together s hp hop (ho.trans h.symm)]
        simp only [ho, hof, and_self, if_true]
        exact ⟨rfl, rfl⟩
      · rw [advanceBoot_together s hop hp (h.trans ho.symm)]
        simp only [ho, hof, and_self, if_true]
        exact ⟨rfl, rfl⟩
    · have hod : (s.die (Die.other d)).boot.dead = true := by simp [Boot.dead, ho, hof]
      rw [advanceBoot_alone s d hp hod]
      simp [ho, hof]
  · have hod : (s.die (Die.other d)).boot.dead = false := by simp [Boot.dead, ho]
    have he : s.advanceBoot = s := by
      cases d
      · exact advanceBoot_apart s (fun e => ho (e.trans h)) hd hod
      · exact advanceBoot_apart s (fun e => ho (e.symm.trans h)) hod hd
    rw [he]
    simp [ho]

/-! ## The first step -/

/-- The module as bring-up of a die finds it: with power, and with device time started by the first die (R11, R14). -/
def State.powerOn (s : State) (d : Die) : State :=
  let first := (s.die (Die.other d)).boot.step = 0
  { s with powered := true, time := if first then 0 else s.time, slewDebt := if first then 0 else s.slewDebt, slewGain := if first then 0 else s.slewGain,
           slewAcc := if first then 0 else s.slewAcc, ptpLocked := s.ptpLocked && !first, ptpPort := if first then none else s.ptpPort }
@[simp] theorem powerOn_die (s : State) (d e : Die) : (s.powerOn d).die e = s.die e := by cases e <;> rfl
@[simp] theorem powerOn_byte (s : State) (d : Die) (a : Nat) : (s.powerOn d).byte a = s.byte a := rfl
/-- The slots have been verified, and one more boot counted. -/
def State.verified (s : State) (d : Die) (aOk bOk : Bool) : State := s.modDie d fun x => { x with aVal := aOk, bVal := bOk, boots := Nat.min (x.boots + 1) 15 }
/-- A slot's firmware runs. -/
def State.runSlot (s : State) (d : Die) (slot : Bool) (now : Nat) : State :=
  (s.modDie d fun x => { x with act := slot }).modBoot d fun b => { b with step := 1, since := now, fwok := true, fwslot := slot }

section
variable (s : State) (d : Die) (aOk bOk : Bool) (h : (s.die d).boot.step = 0)
include h

/-- The active slot's firmware is good. -/
theorem exec_bringUp_active (ha : (if (s.die d).act then bOk else aOk) = true) : exec (.bringUp d aOk bOk) s =
    .next (((s.powerOn d).verified d aOk bOk).runSlot d (s.die d).act (s.powerOn d).time.toNat).advanceBoot := by
  simp only [exec, execBringUp, h, ha]
  rfl

/-- Only the other slot's firmware is good: it runs, with a record. -/
theorem exec_bringUp_other (ha : (if (s.die d).act then bOk else aOk) = false) (hb : (if !(s.die d).act then bOk else aOk) = true) : exec (.bringUp d aOk bOk) s =
    .next ((((s.powerOn d).verified d aOk bOk).ctlRecord d 1 2 [(32, 1, b2n (s.die d).act)]).runSlot d (!(s.die d).act) (s.powerOn d).time.toNat).advanceBoot := by
  simp only [exec, execBringUp, h, ha, hb, Bool.false_or, ne_eq, not_true, if_false, if_true, Bool.false_eq_true]
  rfl

/-- Neither is: the die stays in step 1, with two records. -/
theorem exec_bringUp_none (ha : aOk = false) (hb : bOk = false) : exec (.bringUp d aOk bOk) s =
    .next (((((s.powerOn d).verified d aOk bOk).ctlRecord d 1 2 [(32, 1, b2n (s.die d).act)]).ctlRecord d 1 2 [(32, 1, b2n !(s.die d).act)]).modBoot d fun b =>
      { b with step := 1, since := (s.powerOn d).time.toNat, fwok := false, fwslot := false }).advanceBoot := by
  subst ha hb
  simp only [exec, execBringUp, h, ite_self, Bool.or_self, ne_eq, not_true, if_false, Bool.false_eq_true]
  rfl

end

open Sys2Proof.Claims

/-! ## Controllers -/

theorem masterDie_dieMaster (ty unit : Nat) (d : Die) : masterDie (dieMaster ty unit d) = d := by
  have h : (dieMaster ty unit d).toNat % 2 = dieNat d := by
    simp only [dieMaster, masterOf, BitVec.toNat_ofNat, pack, fwidth]
    cases d <;> simp only [dieNat] <;> omega
  rw [masterDie, h]
  cases d <;> rfl

theorem filed_ctlRecord (s : State) (d : Die) (sev cause : Nat) (det : List (Nat × Nat × Nat)) : Filed s (s.ctlRecord d sev cause det) := filed_toDevice s _

/-- A controller's record leaves the other die alone. -/
theorem ctlRecord_die (s : State) (d : Die) (sev cause : Nat) (det : List (Nat × Nat × Nat)) : (s.ctlRecord (Die.other d) sev cause det).die d = s.die d :=
  toDevice_die_ne s _ d (by
    change d ≠ masterDie (dieMaster mtCtl 0 (Die.other d))
    rw [masterDie_dieMaster]
    exact ne_other d)

/-- Records that nothing waits for are settled. -/
theorem settleRecs_idle (s : State) (h : ∀ d, (s.die d).recWait = []) : s.settleRecs = s := by
  have hw : s.west.recWait = [] := h .west
  have he : s.east.recWait = [] := h .east
  simp [State.settleRecs, hw, he]

/-- A die whose controller runs again (R457, R463). -/
def DieSt.restarted (x : DieSt) : DieSt :=
  { x with ctl := { up := true, swap := false, buf := [] }, act := if x.ctl.swap then !x.act else x.act, boots := Nat.min (x.boots + 1) 15,
           boot := { x.boot with fwslot := if x.ctl.swap then !x.act else x.act } }

/-! ## Counted errors -/

theorem countErr_ecnt (s : State) (d : Die) (u : Nat) (ue : Bool) : tget ((s.countErr d u ue).die d).ecnt 0 u = counted (tget (s.die d).ecnt 0 u) ue := by
  simp only [State.countErr, State.die_modDie, tget_tset_self]
  rfl
@[simp] theorem countErr_boot (s : State) (d e : Die) (u : Nat) (ue : Bool) : ((s.countErr d u ue).die e).boot = (s.die e).boot := by cases d <;> cases e <;> rfl
@[simp] theorem countErr_lnkRetry (s : State) (d e : Die) (u : Nat) (ue : Bool) : ((s.countErr d u ue).die e).lnkRetry = (s.die e).lnkRetry := by cases d <;> cases e <;> rfl
@[simp] theorem countErr_byte (s : State) (d : Die) (u : Nat) (ue : Bool) (a : Nat) : (s.countErr d u ue).byte a = s.byte a := by cases d <;> rfl
@[simp] theorem drawn_die (s : State) (d : Die) : s.drawn.die d = s.die d := by cases d <;> rfl

theorem filed_linkRecord (s : State) (l : LinkId) (sev cause lane val : Nat) : Filed s (s.linkRecord l sev cause lane val) := by
  unfold State.linkRecord
  dsimp only
  split
  · exact filed_corrected s _ _
  · exact filed_toDevice s _
theorem linkRecord_recWait (s : State) (l : LinkId) (sev cause lane val : Nat) (d : Die) : ((s.linkRecord l sev cause lane val).die d).recWait = (s.die d).recWait := by
  unfold State.linkRecord
  dsimp only
  split
  · exact corrected_recWait s _ _ d
  · exact toDevice_recWait s _ d

/-! ## Device time -/

/-- Device time that is to gain n ns gains one in each 10,000 until it has (R11). -/
theorem runTime_gain (s : State) (n k : Nat) :
    (State.runTime { s with slewDebt := 0, slewGain := n, slewAcc := 0 } k).time = s.time + BitVec.ofNat 64 (k + Nat.min n (k / 10000)) := by
  simp [State.runTime]
/-- So it loses n. -/
theorem runTime_lag (s : State) (n k : Nat) :
    (State.runTime { s with slewDebt := n, slewGain := 0, slewAcc := 0 } k).time = s.time + BitVec.ofNat 64 (k - Nat.min n (k / 10000)) := by
  simp [State.runTime]

end Sys2Proof.Machine

namespace Sys2Proof.Proofs
open Sys2Proof Sys2Proof.Machine Sys2Proof.Claims

section
variable (s : State) (d : Die)

/-! ## Bring-up -/

theorem bringUp_active (aOk bOk : Bool) (h : (s.die d).boot.step = 0) (ha : (if (s.die d).act then bOk else aOk) = true) : Ends (.bringUp d aOk bOk) s fun t =>
    let o := (s.die (Die.other d)).boot
    SameMem s t ∧ t.powered = true ∧ t.time = (if o.step = 0 then 0 else s.time) ∧
    (t.die d).boot = { (s.die d).boot with step := if o.step = 1 then 2 else 1, since := t.time.toNat, fwok := true, fwslot := (s.die d).act } ∧ (t.die d).act = (s.die d).act ∧
    (t.die (Die.other d)).boot = (if o.step = 1 ∧ o.fwok = true then { o with step := 2, since := t.time.toNat } else o) ∧
    (t.die d).aVal = aOk ∧ (t.die d).bVal = bOk ∧ (t.die d).boots = Nat.min ((s.die d).boots + 1) 15 := by
  refine ⟨_, exec_bringUp_active s d aOk bOk h ha, ?_⟩
  set u := ((s.powerOn d).verified d aOk bOk).runSlot d (s.die d).act (s.powerOn d).time.toNat with hu
  have ht : u.time = (s.powerOn d).time := by rw [hu]; cases d <;> rfl
  have hd : u.die d = { s.die d with aVal := aOk, bVal := bOk, boots := Nat.min ((s.die d).boots + 1) 15, boot := { (s.die d).boot with step := 1, since := (s.powerOn d).time.toNat, fwok := true, fwslot := (s.die d).act } } := by
    simp [hu, State.runSlot, State.verified]
  have ho : u.die (Die.other d) = s.die (Die.other d) := by simp [hu, State.runSlot, State.verified]
  obtain ⟨kd, ko⟩ := advanceBoot_verified u d (by rw [hd]) (by rw [hd])
  rw [ho, hd, ht] at kd
  rw [ho, ht] at ko
  refine ⟨fun a => ?_, ?_, ?_, ?_, ?_, ?_, ?_, ?_, ?_⟩
  · simp [hu, State.runSlot, State.verified]
  · rw [advanceBoot_powered, hu]; cases d <;> rfl
  · rw [advanceBoot_time, ht]; rfl
  · rw [kd, advanceBoot_time, ht]
    by_cases h1 : (s.die (Die.other d)).boot.step = 1 <;> simp [h1, Boot.up]
  · rw [kd]
  · rw [ko, advanceBoot_time, ht]
    by_cases h1 : (s.die (Die.other d)).boot.step = 1 ∧ (s.die (Die.other d)).boot.fwok = true
    · simp [h1, Boot.up]
    · simp only [h1, if_false]
  · rw [kd]
  · rw [kd]
  · rw [kd]

theorem bringUp_none (aOk bOk : Bool) (h : (s.die d).boot.step = 0) (ha : aOk = false) (hb : bOk = false) : Ends (.bringUp d aOk bOk) s fun t =>
    (t.die d).boot = { (s.die d).boot with step := 1, since := t.time.toNat, fwok := false, fwslot := false } ∧ (t.die d).act = (s.die d).act := by
  refine ⟨_, exec_bringUp_none s d aOk bOk h ha hb, ?_⟩
  set v := (s.powerOn d).verified d aOk bOk with hv
  have F := (filed_ctlRecord v d 1 2 [(32, 1, b2n (s.die d).act)]).trans (filed_ctlRecord _ d 1 2 [(32, 1, b2n !(s.die d).act)])
  set w := (v.ctlRecord d 1 2 [(32, 1, b2n (s.die d).act)]).ctlRecord d 1 2 [(32, 1, b2n !(s.die d).act)]
  have hb : (v.die d).boot = (s.die d).boot := by simp [hv, State.verified]
  have ha : (v.die d).act = (s.die d).act := by simp [hv, State.verified]
  have ht : v.time = (s.powerOn d).time := by rw [hv]; cases d <;> rfl
  have hs := (advanceBoot_die (w.modBoot d fun b => { b with step := 1, since := (s.powerOn d).time.toNat, fwok := false, fwslot := false }) d).resolve_right
    (fun k => by simp [Boot.partDone] at k)
  dsimp only
  rw [hs, advanceBoot_time, die_modBoot, modBoot_time, F.time, F.act, F.boot, hb, ha, ht]
  exact ⟨rfl, rfl⟩

theorem bringUp_other (aOk bOk : Bool) (h : (s.die d).boot.step = 0) (ha : (if (s.die d).act then bOk else aOk) = false) (hb : (if (s.die d).act then aOk else bOk) = true) :
    Ends (.bringUp d aOk bOk) s fun t => (t.die d).act = !(s.die d).act ∧ (t.die d).boot.fwslot = !(s.die d).act ∧ (t.die d).boot.fwok = true := by
  have hb' : (if !(s.die d).act then bOk else aOk) = true := by cases hact : (s.die d).act <;> simpa [hact] using hb
  refine ⟨_, exec_bringUp_other s d aOk bOk h ha hb', ?_⟩
  rcases advanceBoot_die ((((s.powerOn d).verified d aOk bOk).ctlRecord d 1 2 [(32, 1, b2n (s.die d).act)]).runSlot d (!(s.die d).act) (s.powerOn d).time.toNat) d with
    k | ⟨-, k⟩ <;> rw [k] <;> simp [State.runSlot, Boot.up]

/-! ## Training -/

theorem hbm_trained (hD : Drained s) (n : Nat) (h : (s.die d).boot.step = 3) (hn : n < 8) (ho : (s.die d).boot.hbmDone.getLsbD n = false)
    (hf : (s.die d).boot.hbmDone ||| BitVec.ofNat 8 (2 ^ n) ≠ 0xFF) : Ends (.trainingStepDone d (.hbm n)) s fun t => SameMem s t ∧
    (t.die d).boot = { (s.die d).boot with hbm := (s.die d).boot.hbm ||| BitVec.ofNat 8 (2 ^ n), hbmDone := (s.die d).boot.hbmDone ||| BitVec.ofNat 8 (2 ^ n) } := by
  have hopen : (s.die d).boot.open' (.hbm n) = true := by simp only [Boot.open', h, hn, ho, beq_self_eq_true, decide_true, Bool.not_false, Bool.and_self]
  have hw : (s.modBoot d fun b => b.trained (.hbm n) true).advanceBoot = s.modBoot d fun b => b.trained (.hbm n) true :=
    advanceBoot_waits _ d (by simpa [Boot.partDone, Boot.trained, h, putBit] using hf) (by simp [Boot.dead, Boot.trained, h])
  have hs : (s.modBoot d fun b => b.trained (.hbm n) true).settleRecs = s.modBoot d fun b => b.trained (.hbm n) true :=
    settleRecs_idle _ fun e => by rw [← hD.2 e]; cases d <;> cases e <;> rfl
  refine ⟨s.modBoot d fun b => b.trained (.hbm n) true, ?_, fun a => modBoot_byte s d _ a, by simp [Boot.trained, putBit]⟩
  simp only [exec, execTrainingStepDone, hopen, Bool.not_true, Bool.false_eq_true, if_false, hw, hs]

theorem hbm_timedOut (n : Nat) (h : (s.die d).boot.step = 3) (hn : n < 8) (ho : (s.die d).boot.hbmDone.getLsbD n = false)
    (hf : (s.die d).boot.hbmDone ||| BitVec.ofNat 8 (2 ^ n) ≠ 0xFF) (ht : (s.die d).boot.since + 50000000 ≤ s.time.toNat) :
    Ends (.trainingTimeout d (.hbm n)) s fun t => (t.die d).boot = { (s.die d).boot with hbmDone := (s.die d).boot.hbmDone ||| BitVec.ofNat 8 (2 ^ n) } := by
  have hopen : (s.die d).boot.open' (.hbm n) = true := by simp only [Boot.open', h, hn, ho, beq_self_eq_true, decide_true, Bool.not_false, Bool.and_self]
  have hlate : ¬ s.time.toNat < (s.die d).boot.since + 50000000 := by omega
  have F := filed_ctlRecord s d 1 6 [(32, 1, (s.die d).boot.step)]
  set w := s.ctlRecord d 1 6 [(32, 1, (s.die d).boot.step)]
  have hw : (w.modBoot d fun b => b.trained (.hbm n) false).advanceBoot = w.modBoot d fun b => b.trained (.hbm n) false :=
    advanceBoot_waits _ d (by simpa [Boot.partDone, Boot.trained, F.boot, h, putBit] using hf) (by simp [Boot.dead, Boot.trained, F.boot, h])
  refine ⟨w.modBoot d fun b => b.trained (.hbm n) false, ?_, by simp [Boot.trained, putBit, F.boot]⟩
  rw [← hw]
  simp only [exec, execTrainingTimeout, hopen, partLimit, hlate, decide_false, Bool.not_true, Bool.or_self, Bool.false_eq_true, if_false]
  rfl

theorem bridge_trained (hw : s.west.boot.step = 2) (he : s.east.boot.step = 2) (hwd : s.west.boot.bridgeDone = false) (hed : s.east.boot.bridgeDone = false) (hb : s.brDead = []) :
    Ends (.trainingStepDone d .bridge) s fun t =>
      SameMem s t ∧ ∀ e, (t.die e).boot = { (s.die e).boot with step := 3, since := s.time.toNat, bridge := true, bridgeDone := true } := by
  have hopen : (s.die d).boot.open' .bridge = true := by cases d <;> simp [State.die, Boot.open', *]
  have hboth : (s.die (Die.other d)).boot.step = 2 ∧ s.bridgeLive = true := ⟨by cases d <;> assumption, by simp [State.bridgeLive, hb]⟩
  have hx : exec (.trainingStepDone d .bridge) s = .next ((s.modBoot .west fun b => b.trained .bridge true).modBoot .east fun b => b.trained .bridge true).advanceBoot := by
    simp only [exec, execTrainingStepDone, hopen, Bool.not_true, Bool.false_eq_true, if_false, hboth, and_self, if_true]
  refine ⟨_, hx, fun a => ?_, fun e => ?_⟩
  · simp
  · rw [advanceBoot_together]
    · cases e <;> simp [State.modBoot, State.modDie, State.setDie, State.die, Boot.trained, Boot.up, hw, he]
    all_goals simp [State.modBoot, State.modDie, State.setDie, State.die, Boot.trained, Boot.partDone, hw, he]

theorem span_trained (n : Nat) (hn : n < 6) (h : (s.die d).boot.step = 5) (ho : (s.die d).boot.spanDone.getLsbD n = false) (hf : putBit (s.die d).boot.spanDone n true ≠ 0x3F) :
    Ends (.trainingStepDone d (.span n)) s fun t => SameMem s t ∧
      (t.die d).boot = { (s.die d).boot with span := if n ∈ (s.die d).lnkOff then (s.die d).boot.span else putBit (s.die d).boot.span n true,
                                             spanDone := putBit (s.die d).boot.spanDone n true } ∧
      tget (t.die d).lnkWidth 3 n = if n ∈ (s.die d).lnkOff then tget (s.die d).lnkWidth 3 n else 3 := by
  have hopen : (s.die d).boot.open' (.span n) = true := by simp only [Boot.open', h, hn, ho, beq_self_eq_true, decide_true, Bool.not_false, Bool.and_self]
  by_cases hoff : n ∈ (s.die d).lnkOff
  · have hw : (s.modBoot d fun b => b.trained (.span n) false).advanceBoot = s.modBoot d fun b => b.trained (.span n) false :=
      advanceBoot_waits _ d (by simpa [Boot.partDone, Boot.trained, h] using hf) (by simp [Boot.dead, Boot.trained, h])
    refine ⟨s.modBoot d fun b => b.trained (.span n) false, ?_, fun a => modBoot_byte s d _ a, by simp [Boot.trained, hoff], by simp [hoff]⟩
    rw [← hw]
    simp [exec, execTrainingStepDone, hopen, hoff]
  · set u := s.modDie d fun x => { x with lnkWidth := tset x.lnkWidth n 3 } with hu
    have hb : u.die d = { s.die d with lnkWidth := tset (s.die d).lnkWidth n 3 } := by simp [hu]
    have hw : (u.modBoot d fun b => b.trained (.span n) true).advanceBoot = u.modBoot d fun b => b.trained (.span n) true :=
      advanceBoot_waits _ d (by simpa [Boot.partDone, Boot.trained, hb, h] using hf) (by simp [Boot.dead, Boot.trained, hb, h])
    refine ⟨u.modBoot d fun b => b.trained (.span n) true, ?_, fun a => by simp [hu], by simp [Boot.trained, hb, hoff], by simp [hb, hoff]⟩
    rw [← hw]
    simp [exec, execTrainingStepDone, hopen, hoff, hu]

end

section
variable (s : State) (d : Die)

/-! ## Controllers and device time -/

theorem controller_hangs (hd : (s.die d).ctl.up = true) (ho : (s.die (Die.other d)).ctl.up = true) (bd : 2 ≤ (s.die d).boot.step) (bo : 2 ≤ (s.die (Die.other d)).boot.step) :
    Ends (.controllerWatchdog d) s fun t => t.die d = { s.die d with ctl := { (s.die d).ctl with up := false } } := by
  refine ⟨(s.modDie d fun x => { x with ctl := { x.ctl with up := false } }).ctlRecord (Die.other d) 1 1 [], ?_, (ctlRecord_die _ d 1 1 []).trans (State.die_modDie s d _)⟩
  simp only [exec, execControllerWatchdog, hd, ho, Nat.not_lt.2 bd, Nat.not_lt.2 bo, decide_false, Bool.not_true, Bool.or_self, Bool.false_eq_true, if_false]

theorem controller_restarts (h : (s.die d).ctl.up = false) : Ends (.controllerRestartDone d) s fun t => (t.die d).ctl = { up := true, swap := false, buf := [] } ∧
    (t.die d).act = ((s.die d).act != (s.die d).ctl.swap) ∧ (t.die d).boot = { (s.die d).boot with fwslot := (s.die d).act != (s.die d).ctl.swap } ∧
    (t.die d).boots = min ((s.die d).boots + 1) 15 ∧ ((s.die d).ctl.swap = false → (s.die d).ctl.buf = [] → SameMem s t) := by
  set file := fun (u : State) (r : HeldRec) => match r.lid with | some lid => u.toLaunch lid r.rcd | none => u.toDevice r.rcd with hfile
  set u := s.setDie d (s.die d).restarted with hu
  have hud : u.die d = (s.die d).restarted := by simp [hu]
  have hx : exec (.controllerRestartDone d) s = .next (if (s.die d).ctl.swap then ((s.die d).ctl.buf.foldl file u).ctlRecord d 0 3 [] else (s.die d).ctl.buf.foldl file u) := by
    simp only [exec, execControllerRestartDone, h, Bool.false_eq_true, if_false]
    rfl
  have F : Filed u ((s.die d).ctl.buf.foldl file u) := Filed.foldl file (fun v r => by
    rw [hfile]
    dsimp only
    split
    · exact filed_toLaunch v _ _
    · exact filed_toDevice v _) _ u
  refine ⟨_, hx, ?_⟩
  have G : Filed u (if (s.die d).ctl.swap then ((s.die d).ctl.buf.foldl file u).ctlRecord d 0 3 [] else (s.die d).ctl.buf.foldl file u) := by
    split
    · exact F.trans (filed_ctlRecord _ d 0 3 [])
    · exact F
  have slot : (if (s.die d).ctl.swap then !(s.die d).act else (s.die d).act) = ((s.die d).act != (s.die d).ctl.swap) := by
    cases (s.die d).ctl.swap <;> simp
  rw [← slot]
  refine ⟨(G.ctl d (by rw [hud]; rfl)).trans (by rw [hud]; rfl), (G.act d).trans (by rw [hud]; rfl), (G.boot d).trans (by rw [hud]; rfl),
    (G.boots d).trans (by rw [hud]; rfl), fun hs hb a => ?_⟩
  simp only [hs, hb, List.foldl_nil, Bool.false_eq_true, if_false]
  rw [hu]
  cases d <;> rfl

theorem time_locks (p : Nat) (v : Word) (hl : s.ptpLocked = false) (hp : s.west.boot.ingest.getLsbD p = true) :
    Ends (.ptpTimeLock p v) s fun t => SameMem s t ∧ t.time = v ∧ t.ptpLocked = true ∧ t.ptpPort = some p := by
  refine ⟨{ s with time := v, ptpLocked := true, ptpPort := some p, slewDebt := 0, slewGain := 0, slewAcc := 0 }, ?_, fun _ => rfl, rfl, rfl, rfl⟩
  simp only [exec, execPtpTimeLock, hl, hp, Bool.not_true, Bool.not_false, Bool.false_eq_true, if_false, if_true]

theorem source_chosen (p : Nat) (v : Word) (hl : s.ptpLocked = true) (hn : s.ptpPort = none) (hp : s.west.boot.ingest.getLsbD p = true) :
    exec (.ptpTimeLock p v) s = .next { s with ptpPort := some p } := by
  simp only [exec, execPtpTimeLock, hl, hn, hp, Bool.not_true, Bool.false_eq_true, if_false, Option.isNone_none, if_true]

theorem time_slews (n : Nat) (hl : s.ptpLocked = true) (hp : s.ptpPort.isSome = true) :
    (Ends (.deviceTimeSlew false n) s fun t => t = { s with slewDebt := 0, slewGain := n, slewAcc := 0 } ∧ ∀ k, (t.runTime k).time = s.time + BitVec.ofNat 64 (k + Nat.min n (k / 10000))) ∧
    (Ends (.deviceTimeSlew true n) s fun t => t = { s with slewDebt := n, slewGain := 0, slewAcc := 0 } ∧ ∀ k, (t.runTime k).time = s.time + BitVec.ofNat 64 (k - Nat.min n (k / 10000))) := by
  have hn : s.ptpPort.isNone = false := by simpa [Option.isSome_iff_ne_none] using hp
  refine ⟨⟨_, ?_, rfl, runTime_gain s n⟩, ⟨_, ?_, rfl, runTime_lag s n⟩⟩ <;>
    simp only [exec, execDeviceTimeSlew, hl, hn, Bool.not_true, Bool.or_self, Bool.false_eq_true, if_false, if_true]

/-! ## Links -/

theorem span_retries (n : Nat) (hn : n < 6) (hs : (s.die d).boot.span.getLsbD n = true) : Ends (.flitCrcRetry (.span d n)) s fun t =>
    tget (t.die d).lnkRetry 0 n = Nat.min (tget (s.die d).lnkRetry 0 n + 1) 0xFFFF ∧ tget (t.die d).ecnt 0 (12 + n) = counted (tget (s.die d).ecnt 0 (12 + n)) false := by
  have hup : s.linkUp (.span d n) = true := by simp only [State.linkUp, hn, hs, decide_true, Bool.and_self]
  set u := (s.countErr d (linkUnit (.span d n)) false).modDie d fun x => { x with lnkRetry := tset x.lnkRetry n (Nat.min (tget x.lnkRetry 0 n + 1) 0xFFFF) } with hu
  have hx : exec (.flitCrcRetry (.span d n)) s = .next (u.drawn.linkRecord (.span d n) 0 1 (Config.freeWord u.fresh).toNat (u.linkVal (.span d n))) := by
    simp only [exec, execFlitCrcRetry, hup, Bool.not_true, Bool.false_eq_true, if_false, State.linkDie]
    rfl
  have F := filed_linkRecord u.drawn (.span d n) 0 1 (Config.freeWord u.fresh).toNat (u.linkVal (.span d n))
  refine ⟨_, hx, ?_, ?_⟩
  · refine (congrArg (tget · 0 n) (F.lnkRetry d)).trans ?_
    simp [hu]
  · refine (congrArg (tget · 0 (12 + n)) (F.ecnt d)).trans ?_
    have hc := countErr_ecnt s d (linkUnit (.span d n)) false
    rw [linkUnit, Nat.mod_eq_of_lt hn] at hc
    rw [drawn_die, hu, State.die_modDie, linkUnit, Nat.mod_eq_of_lt hn]
    exact hc

theorem span_retrains (n lane : Nat) (hn : n < 6) (hs : (s.die d).boot.span.getLsbD n = true) (hr : ∀ r ∈ s.retrain, r.link ≠ .span d n) :
    Ends (.linkRetryLimit (.span d n) lane) s fun t => SameMem s t ∧ t.retrain = s.retrain ++ [{ link := .span d n, lane := lane, asked := false }] ∧
      tget (t.die d).ecnt 0 (12 + n) = counted (tget (s.die d).ecnt 0 (12 + n)) true := by
  have hup : s.linkUp (.span d n) = true := by simp only [State.linkUp, hn, hs, decide_true, Bool.and_self]
  have hno : (s.retrain.any fun r => r.link == .span d n) = false := by simpa using hr
  set u := s.countErr d (linkUnit (.span d n)) true with hu
  refine ⟨{ u.drawn with retrain := s.retrain ++ [{ link := .span d n, lane := lane, asked := false }] }, ?_, fun a => countErr_byte s d _ true a, rfl, ?_⟩
  · simp only [exec, execLinkRetryLimit, hup, hno, Bool.not_true, Bool.or_self, Bool.false_eq_true, if_false]
    rfl
  · have hd : State.die { u.drawn with retrain := s.retrain ++ [{ link := .span d n, lane := lane, asked := false }] } d = u.die d := by cases d <;> rfl
    have hc := countErr_ecnt s d (linkUnit (.span d n)) true
    rw [← hu, ← hd, linkUnit, Nat.mod_eq_of_lt hn] at hc
    exact hc

/-- The end of a retrain that settles nothing else. -/
theorem exec_linkRetrainDone_span (n : Nat) (r : Retrain) (ok : Bool) (hD : Drained s) (hr : (s.retrain.find? fun q => q.link == .span d n) = some r)
    (u : State) (l : LinkId) (sev cause lane val : Nat) (hu : ∀ e, (u.die e).recWait = (s.die e).recWait)
    (h : State.spanDone { s with retrain := s.retrain.filter fun q => q.link != .span d n } d n r.lane r.asked ok = u.linkRecord l sev cause lane val) :
    exec (.linkRetrainDone (.span d n) ok) s = .next (u.linkRecord l sev cause lane val) := by
  simp only [exec, execLinkRetrainDone, hr, h]
  rw [settleRecs_idle _ fun e => by rw [linkRecord_recWait, hu, hD.2 e]]

theorem span_narrows (n : Nat) (r : Retrain) (hD : Drained s) (hr : (s.retrain.find? fun q => q.link == .span d n) = some r) (hw : 2 ≤ tget (s.die d).lnkWidth 3 n) (ha : r.asked = false) :
    Ends (.linkRetrainDone (.span d n) true) s fun t => tget (t.die d).lnkWidth 3 n = tget (s.die d).lnkWidth 3 n - 1 ∧
      (t.die d).boot = { (s.die d).boot with span := putBit (s.die d).boot.span n true } ∧ t.retrain = s.retrain.filter fun q => q.link != .span d n := by
  set v : State := { s with retrain := s.retrain.filter fun q => q.link != .span d n } with hv
  set w := tget (s.die d).lnkWidth 3 n with hwd
  have hvd : ∀ e, v.die e = s.die e := fun e => by cases e <;> rfl
  set u := v.modDie d fun x => { x with lnkWidth := tset x.lnkWidth n (w - 1), boot := { x.boot with span := putBit x.boot.span n true } } with hu
  have hsd : v.spanDone d n r.lane r.asked true = u.linkRecord (.span d n) 1 3 r.lane (w - 1) := by
    have hle : ¬ w ≤ 1 := by omega
    simp only [State.spanDone, ha, hvd, ← hwd, hle, Bool.not_true, Bool.not_false, Bool.true_and, decide_false, Bool.or_self, Bool.false_eq_true, if_false]
    rfl
  have hud : u.die d = { s.die d with lnkWidth := tset (s.die d).lnkWidth n (w - 1), boot := { (s.die d).boot with span := putBit (s.die d).boot.span n true } } := by
    rw [hu, State.die_modDie, hvd]
  have hrec : ∀ e, (u.die e).recWait = (s.die e).recWait := fun e => by cases d <;> cases e <;> rfl
  have F := filed_linkRecord u (.span d n) 1 3 r.lane (w - 1)
  refine ⟨_, exec_linkRetrainDone_span s d n r true hD hr u (.span d n) 1 3 r.lane (w - 1) hrec hsd, ?_, ?_, ?_⟩
  · rw [F.lnkWidth, hud, tget_tset_self]
  · rw [F.boot, hud]
  · rw [F.retrain]
    cases d <;> rfl

theorem span_fails (n : Nat) (r : Retrain) (hD : Drained s) (hr : (s.retrain.find? fun q => q.link == .span d n) = some r) :
    Ends (.linkRetrainDone (.span d n) false) s fun t => (t.die d).boot = { (s.die d).boot with span := putBit (s.die d).boot.span n false } ∧
      t.retrain = s.retrain.filter fun q => q.link != .span d n := by
  set v : State := { s with retrain := s.retrain.filter fun q => q.link != .span d n } with hv
  have hvd : ∀ e, v.die e = s.die e := fun e => by cases e <;> rfl
  have hrec : ∀ e, ((v.spanDown d n).die e).recWait = (s.die e).recWait := fun e => by cases d <;> cases e <;> rfl
  have F := filed_linkRecord (v.spanDown d n) (.span d n) 1 4 r.lane 0
  refine ⟨_, exec_linkRetrainDone_span s d n r false hD hr (v.spanDown d n) (.span d n) 1 4 r.lane 0 hrec (by simp only [State.spanDone, Bool.not_false, Bool.true_or, if_true]; rfl), ?_, ?_⟩
  · rw [F.boot, State.spanDown, State.die_modDie, hvd]
  · rw [F.retrain]
    cases d <;> rfl

theorem bridge_takesSpare (n : Nat) (r : Retrain) (hD : Drained s) (hr : (s.retrain.find? fun q => q.link == .bridge n) = some r) (hn : tget s.brSpares 2 n ≠ 0) :
    Ends (.linkRetrainDone (.bridge n) true) s fun t => t.brSpares = tset s.brSpares n (tget s.brSpares 2 n - 1) ∧ t.brDead = s.brDead := by
  set v : State := { s with retrain := s.retrain.filter fun q => q.link != .bridge n, brSpares := tset s.brSpares n (tget s.brSpares 2 n - 1) } with hv
  have F := filed_linkRecord v (.bridge n) 0 2 r.lane (tget s.brSpares 2 n - 1)
  set w := v.linkRecord (.bridge n) 0 2 r.lane (tget s.brSpares 2 n - 1) with hw
  have hq : w.ingq = [] := F.ingq.trans hD.1
  have hflush : w.flushIngest = w := by
    unfold State.flushIngest
    rw [hq, List.foldl_nil, ← hq]
  have hset : w.settleRecs = w := settleRecs_idle w fun e => by
    rw [hw, linkRecord_recWait, ← hD.2 e]
    cases e <;> rfl
  have hb : (tget s.brSpares 2 n != 0) = true := by simpa using hn
  refine ⟨w, ?_, F.brSpares, F.brDead⟩
  simp only [exec, execLinkRetrainDone, hr, State.bridgeDone, hb, Bool.and_self, if_true]
  exact congrArg Host.Outcome.next ((congrArg State.settleRecs hflush).trans hset)

/-! ## Ingest ports, the mesh, PCIe -/

theorem lock_lost (p : Nat) (hp : s.west.boot.ingest.getLsbD p = true) : Ends (.ingestLockLost p) s fun t =>
    t.west.boot = { s.west.boot with ingest := putBit s.west.boot.ingest p false } ∧ tget t.west.ecnt 0 20 = counted (tget s.west.ecnt 0 20) true := by
  set u := (s.unlock p).countErr .west 20 true with hu
  refine ⟨_, by simp only [exec, execIngestLockLost, hp, Bool.not_true, Bool.false_eq_true, if_false]; rfl, ?_, ?_⟩
  · exact (Filed.boot (filed_toDevice u _) .west).trans (countErr_boot _ .west .west 20 true)
  · exact (congrArg (tget · 0 20) (Filed.ecnt (filed_toDevice u _) .west)).trans (countErr_ecnt _ .west 20 true)

theorem lock_gained (p : Nat) (h6 : 6 ≤ s.west.boot.step) (hp : p < 4) (ho : p + 8 ∉ s.west.lnkOff) : Ends (.alignmentLock p) s fun t =>
    t.west.boot = { s.west.boot with ingest := putBit s.west.boot.ingest p true } ∧ p + 8 ∉ t.west.lnkAsked ∧ (p + 8 ∉ s.west.lnkAsked → SameMem s t) := by
  have hopen : (decide (s.west.boot.step < 6) || decide (4 ≤ p) || s.west.lnkOff.contains (p + 8)) = false := by simp [ho]; omega
  set u := s.modBoot .west fun b => { b with ingest := putBit b.ingest p true } with hu
  by_cases ha : p + 8 ∈ s.west.lnkAsked
  · set v := u.modDie .west fun x => { x with lnkAsked := x.lnkAsked.filter (· != p + 8) } with hv
    have F := filed_corrected v 20 (u.mkRec 10 0 5 (dieMaster mtIngest p .west) none noLid 0xFFFF [(32, 1, 0), (33, 1, 3)])
    refine ⟨_, by simp only [exec, execAlignmentLock, hopen, Bool.false_eq_true, if_false, List.contains_iff_mem.2 ha, Bool.not_true]; rfl, F.boot .west, ?_, fun hn => absurd ha hn⟩
    intro hm
    have hl : (v.die .west).lnkAsked = s.west.lnkAsked.filter (· != p + 8) := rfl
    have hm' : p + 8 ∈ (v.die .west).lnkAsked := by rw [← F.lnkAsked .west]; exact hm
    rw [hl] at hm'
    simp at hm'
  · have hc : s.west.lnkAsked.contains (p + 8) = false := by simpa using ha
    refine ⟨u, ?_, rfl, ha, fun _ _ => rfl⟩
    simp only [exec, execAlignmentLock, hopen, Bool.false_eq_true, if_false, hc, Bool.not_false, if_true]
    rfl

theorem mesh_resends : Ends (.meshParityResend d) s fun t => tget (t.die d).ecnt 0 19 = counted (tget (s.die d).ecnt 0 19) false ∧ (t.die d).boot = (s.die d).boot := by
  set u := s.countErr d 19 false with hu
  have F := filed_corrected u 19 (u.mkRec 10 0 6 (dieMaster mtMesh 0 d) none noLid 0xFFFF [])
  exact ⟨_, rfl, by rw [← countErr_ecnt s d 19 false]; exact congrArg (tget · 0 19) (F.ecnt d), (F.boot d).trans (countErr_boot s d d 19 false)⟩

theorem pcie_errs (ue : Bool) (hp : (s.die d).boot.pcie = true) : Ends (.pcieAerError d ue) s fun t =>
    tget (t.die d).ecnt 0 18 = counted (tget (s.die d).ecnt 0 18) ue ∧ .aer d ue ∈ t.outbox := by
  set u : State := { s.countErr d 18 ue with outbox := (s.countErr d 18 ue).outbox ++ [OutMsg.aer d ue] } with hu
  have hx : exec (.pcieAerError d ue) s = .next (if ue then u.linkRecord (.pcie d) 1 9 0 0 else u.linkRecord (.pcie d) 0 1 0 0) := by
    simp only [exec, execPcieAerError, hp, Bool.not_true, Bool.false_eq_true, if_false]
    rfl
  have F : Filed u (if ue then u.linkRecord (.pcie d) 1 9 0 0 else u.linkRecord (.pcie d) 0 1 0 0) := by split <;> exact filed_linkRecord u _ _ _ _ _
  have hd : u.die d = (s.countErr d 18 ue).die d := by cases d <;> rfl
  exact ⟨_, hx, by rw [F.ecnt, hd, countErr_ecnt], F.sent.subset (by simp [hu])⟩

end

/-- Settles O58, event by event. -/
theorem bringUpAndLinks : Obligations.BringUpAndLinks := by
  unfold Obligations.BringUpAndLinks
  intro s d
  refine ⟨fun aOk bOk h => ⟨bringUp_active s d aOk bOk h, bringUp_none s d aOk bOk h, bringUp_other s d aOk bOk h⟩,
    fun hD n h hn ho hf => ⟨hbm_trained s d hD n h hn ho hf, hbm_timedOut s d n h hn ho hf⟩, bridge_trained s d, controller_hangs s d, controller_restarts s d,
    time_locks s, time_slews s, fun p v hl hn hp => source_chosen s p v hl hn hp, fun n hn hs => ⟨span_retries s d n hn hs, fun lane hr => span_retrains s d n lane hn hs hr⟩,
    span_trained s d, fun hD n r hr => ⟨span_narrows s d n r hD hr, span_fails s d n r hD hr⟩, fun hD n r hr hn => bridge_takesSpare s n r hD hr hn,
    lock_lost s, lock_gained s, mesh_resends s d, pcie_errs s d⟩

end Sys2Proof.Proofs

/-! SUPPORT. What reaches the module from outside (R13, R47, R187, R192, R400, R460 to R464): who may write a register, what a submission leaves, the release of frozen masters, and what requests read and write. -/
namespace Sys2Proof.Machine
open Sys2Proof Sys2Proof.Claims

/-! ## Registers -/

/-- With no controller restarting for a SWAP no write waits (R465). -/
theorem mmioWaits_noSwap (s : State) (pas : List Nat) (h : NoSwap s) : s.mmioWaits false pas = false := by
  simp only [State.mmioWaits, List.any_eq_false]
  intro a _
  split
  · next d _ _ => rcases h d with hd | hd <;> simp [hd]
  · simp

theorem contains_false {l : List Nat} {n : Nat} (h : n ∉ l) : l.contains n = false := by simpa using h

section
variable (s : State) (fn : Func) (addr : Nat) (f : State → State) (hf : fnIdx fn ∉ s.fnFrozen)
include hf

/-- A physical function's write takes effect (R13). -/
theorem byFn_writes (hN : NoSwap s) (h0 : fn.num = 0) : s.byFn fn addr f = f s := by
  simp only [State.byFn, contains_false hf, mmioWaits_noSwap s _ hN, h0, Bool.false_eq_true, if_false, if_true]

/-- Another function's freezes it (R399). -/
theorem byFn_breaks (hN : NoSwap s) (h0 : fn.num ≠ 0) : s.byFn fn addr f = s.freezeFn fn 2 addr 1 := by
  simp only [State.byFn, contains_false hf, mmioWaits_noSwap s _ hN, h0, Bool.false_eq_true, if_false]

/-- In a SWAP it waits. -/
theorem byFn_waits (h : s.mmioWaits false [addr] = true) : s.byFn fn addr f = s := by
  simp only [State.byFn, contains_false hf, h, Bool.false_eq_true, if_false, if_true]

/-- A frozen function, with a record, is among the frozen ones. -/
theorem freezeFn_fnFrozen (cause acc : Nat) : (s.freezeFn fn cause addr acc).fnFrozen = s.fnFrozen ++ [fnIdx fn] := by
  simp only [State.freezeFn, contains_false hf, Bool.false_eq_true, if_false]
  refine (filed_toDevice _ _).fnFrozen.trans ?_
  unfold State.addFrozen
  split
  · rfl
  · simp

theorem freezeFn_fttgt (cause acc : Nat) (d : Die) :
    ((s.freezeFn fn cause addr acc).die d).fttgtEn = (s.die d).fttgtEn ∧ ((s.freezeFn fn cause addr acc).die d).fttgtCore = (s.die d).fttgtCore := by
  have frozen : ∀ (v : State) (m : BitVec 32), ((v.addFrozen m).die d).fttgtEn = (v.die d).fttgtEn ∧ ((v.addFrozen m).die d).fttgtCore = (v.die d).fttgtCore := fun v m => by
    unfold State.addFrozen
    split
    · exact ⟨rfl, rfl⟩
    · cases masterDie m <;> cases d <;> exact ⟨rfl, rfl⟩
  simp only [State.freezeFn, contains_false hf, Bool.false_eq_true, if_false]
  have F := filed_toDevice (State.addFrozen { s with fnFrozen := s.fnFrozen ++ [fnIdx fn] } (dieMaster mtFunc fn.num fn.link))
    { s.mkRec 8 2 cause (dieMaster mtFunc fn.num fn.link) (some addr) noLid 0xFFFF [(52, 1, acc)] with phys := true }
  obtain ⟨he, hc⟩ := frozen { s with fnFrozen := s.fnFrozen ++ [fnIdx fn] } (dieMaster mtFunc fn.num fn.link)
  exact ⟨(F.fttgtEn d).trans (he.trans (by cases d <;> rfl)), (F.fttgtCore d).trans (hc.trans (by cases d <;> rfl))⟩

end

/-- The window of a die's registers (R105). -/
theorem regionOf_mmioAddr (d : Die) (o : Nat) (ho : o < 0x1000000) : regionOf (mmioAddr d o) = .mmio d o := by
  cases d
  · have h : mmioAddr .west o = 0x7F0000000000 + o := rfl
    rw [h, regionOf, if_neg (by omega), if_neg (by omega), if_neg (by omega), if_neg (by omega), if_neg (by omega), if_pos (by omega), Nat.add_sub_cancel_left]
  · have h : mmioAddr .east o = 0x7F0001000000 + o := rfl
    rw [h, regionOf, if_neg (by omega), if_neg (by omega), if_neg (by omega), if_neg (by omega), if_neg (by omega), if_neg (by omega), if_pos (by omega), Nat.add_sub_cancel_left]

/-- In a SWAP a write to a register of the die waits, unless it is a submission (R465). -/
theorem mmioWaits_swap (s : State) (d : Die) (o : Nat) (hu : (s.die d).ctl.up = false) (hs : (s.die d).ctl.swap = true) (ho : o < 0x1000000)
    (hr : ∀ q, regAt d (o / 8 * 8) ≠ some (.port q)) : s.mmioWaits false [mmioAddr d o] = true := by
  simp only [State.mmioWaits, List.any_cons, List.any_nil, regionOf_mmioAddr d o ho, regOf, hu, hs]
  rfl

/-- The bytes written below lo, with those from lo to lo + n behind them. -/
theorem setFld_next (x v lo n : Nat) : setFld (x % 2 ^ lo + v / 2 ^ lo * 2 ^ lo) lo n (x / 2 ^ lo) = x % 2 ^ (lo + n) + v / 2 ^ (lo + n) * 2 ^ (lo + n) := by
  have hp : 0 < 2 ^ lo := Nat.two_pow_pos lo
  have hl : (x % 2 ^ lo + v / 2 ^ lo * 2 ^ lo) % 2 ^ lo = x % 2 ^ lo := by rw [Nat.add_mul_mod_self_right, Nat.mod_mod]
  have hh : (x % 2 ^ lo + v / 2 ^ lo * 2 ^ lo) / 2 ^ lo = v / 2 ^ lo := by
    rw [Nat.add_mul_div_right _ _ hp, Nat.div_eq_of_lt (Nat.mod_lt _ hp), Nat.zero_add]
  rw [setFld, hl, Nat.pow_add, ← Nat.div_div_eq_div_mul, hh, Nat.div_div_eq_div_mul, Nat.mod_mul, Nat.mul_comm (2 ^ lo) (x / 2 ^ lo % 2 ^ n)]

/-- A write of 8 bytes to an aligned word in place of another leaves the word written. -/
theorem setFld_bytes (x v k : Nat) (hv : v < 2 ^ (8 * k)) :
    (List.range k).foldl (fun u i => setFld u (8 * i) 8 (x / 2 ^ (8 * i))) v = x % 2 ^ (8 * k) := by
  have key : ∀ j, (List.range j).foldl (fun u i => setFld u (8 * i) 8 (x / 2 ^ (8 * i))) v = x % 2 ^ (8 * j) + v / 2 ^ (8 * j) * 2 ^ (8 * j) := fun j => by
    induction j with
    | zero => simp [Nat.mod_one]
    | succ j ih =>
      rw [List.range_succ, List.foldl_append, ih, List.foldl_cons, List.foldl_nil, setFld_next]
      rfl
  rw [key k, Nat.div_eq_of_lt hv, Nat.zero_mul, Nat.add_zero]

theorem setFld_mod (u lo n x : Nat) : setFld u lo n (x % 2 ^ n) = setFld u lo n x := by simp [setFld]

/-! ## Submissions -/

/-- The record of a launch is read, or waited for: the launch keeps its place in its queue. -/
theorem readLaunch_cases (s : State) (l : Launch) : Asked s (s.readLaunch l).1 ∧
    ∃ rcd producers sched bad ssStart pend, (s.readLaunch l).2 = { l with rcd := rcd, producers := producers, sched := sched, bad := bad, ssStart := ssStart, pend := pend } := by
  unfold State.readLaunch
  split
  · exact ⟨Asked.refl s, l.rcd, l.producers, l.sched, l.bad, l.ssStart, l.pend, rfl⟩
  · split
    · exact ⟨asked_schedMet s _ _ _ _ _ _, l.rcd, l.producers, l.sched, l.bad, l.ssStart, l.pend, rfl⟩
    · exact ⟨asked_asksMet s _ _, _, _, _, _, _, _, rfl⟩

/-- An accepted submission puts a launch at the end of the queued ones (R47). -/
theorem submit_accepts (s : State) (q : Nat) (fn : Func) (whole : Bool) (rec ovArg ovDone : Nat) (h : s.discards q fn whole = false) :
    (∀ a, (s.submit q fn whole rec ovArg ovDone).1.byte a = s.byte a) ∧ (s.submit q fn whole rec ovArg ovDone).1.lqdrop = s.lqdrop ∧
    ∃ l : Launch, (s.submit q fn whole rec ovArg ovDone).1.launches = s.launches ++ [l] ∧ l.lid = BitVec.ofNat 32 (q % 64 * 2 ^ 26 + tget s.lqseq 0 q % 2 ^ 26) ∧
      l.queue = q ∧ l.phase = .queued ∧ l.fn = fn ∧ l.accepted = s.time.toNat := by
  unfold State.submit
  rw [if_neg (by simp [h])]
  extract_lets +onlyGivenNames seq lid l
  obtain ⟨A, rcd, producers, sched, bad, ssStart, pend, e⟩ := readLaunch_cases { s.tick with lqseq := tset s.lqseq q ((seq + 1) % 2 ^ 26) } l
  obtain ⟨west, east, serial, outbox, k⟩ := A.rest
  dsimp only at k e ⊢
  rw [k, e]
  exact ⟨fun _ => rfl, rfl, _, rfl, rfl, rfl, rfl, rfl, rfl⟩

/-! ## Release -/

/-- A master that is thawed is frozen no more. -/
theorem isFrozen_thaw (s : State) (m : BitVec 32) : (s.thaw m).isFrozen (masterDie m) m = false := by
  simp [State.thaw, State.isFrozen]

theorem thaw_eq (s : State) (m : BitVec 32) : ∃ west east, s.thaw m = { s with west := west, east := east } := by
  unfold State.thaw
  cases masterDie m <;> exact ⟨_, _, rfl⟩

/-- The cores of a launch that leaves them hold no context of it (R22). -/
theorem core_without (cs : List Nat) (s : State) (lid : BitVec 32) (c : Nat) (h : c ∈ cs) (q : Nat × Ctx)
    (hq : q ∈ ((cs.foldl (fun s c => s.modCore c fun k => k.without lid) s).core c).ctxs) : q.2.lid ≠ lid := by
  induction cs using List.reverseRecOn with
  | nil => simp at h
  | append_singleton r b ih =>
    rw [List.foldl_append, List.foldl_cons, List.foldl_nil] at hq
    by_cases hb : c = b
    · subst hb
      rw [State.core_modCore] at hq
      simpa using (List.mem_filter.1 hq).2
    · rw [State.core_modCore_ne _ _ _ _ hb] at hq
      exact ih (by simpa [hb] using h) hq

theorem launches_without (cs : List Nat) (s : State) (lid : BitVec 32) : (cs.foldl (fun s c => s.modCore c fun k => k.without lid) s).launches = s.launches := by
  induction cs generalizing s with
  | nil => rfl
  | cons c r ih => exact ih _

/-- A launch that ends with a status, without its tasks, transfers, rotations, waits and saves (R400). -/
def Launch.aborted (l : Launch) (status : Nat) : Launch :=
  { l with status := status, tasks := [], xfers := [], rots := [], rotating := [], cmpWait := [], divRows := [], saved := [], savedCopies := [], savedPoison := [] }

/-- A launch that is aborted has the status, no tasks, and no context on its cores (R400). -/
theorem abortLaunch_spec (s : State) (lid : BitVec 32) (status : Nat) (l : Launch) (h : s.launch lid = some l) :
    (∃ v, (s.abortLaunch lid status).launch lid = some v ∧ v.status = status ∧ v.tasks = []) ∧ ∀ c ∈ l.allCores, ∀ q ∈ ((s.abortLaunch lid status).core c).ctxs, q.2.lid ≠ lid := by
  have hlid : l.lid = lid := by simpa using List.find?_some h
  have core : ∀ c, (s.abortLaunch lid status).core c = (l.allCores.foldl (fun s c => s.modCore c fun k => k.without l.lid) s).core c := fun c => by
    simp only [State.abortLaunch, h]
    rfl
  refine ⟨?_, fun c hc q hq => ?_⟩
  · have hun : (s.unplace l).launch lid = (s.launch lid).map fun b => if b.blocking then { b with kept := (b.kept ++ l.allCores).eraseDups } else b := by
      change ((((l.allCores.foldl _ s).launches).map _).find? _) = _
      rw [launches_without, List.find?_map]
      refine congrArg _ (congrArg (List.find? · s.launches) (funext fun b => ?_))
      simp only [Function.comp_apply]
      split <;> rfl
    rw [h] at hun
    have hab := State.launch_modLaunch (s.unplace l) lid (fun l => l.aborted status) fun _ => rfl
    rw [hun] at hab
    have ht : (s.abortLaunch lid status).launch lid = ((s.unplace l).modLaunch lid fun l => l.aborted status).launch lid := by
      simp only [State.abortLaunch, h]
      rfl
    exact ⟨_, ht.trans hab, rfl, rfl⟩
  · rw [core] at hq
    exact hlid ▸ core_without l.allCores s l.lid c hc q hq

/-- A launch that Abort ends has status 3, no tasks and no context on its cores, and its master is frozen no more (R400). -/
theorem releaseAbort_spec (s : State) (d : Die) (m : BitVec 32) (x : Ctx) (z : Freeze) (l : Launch) (hf : s.isFrozen d m = true) (hm : mType m < 2)
    (hx : s.ctx (mCore m) (mSlot m) = some x) (hz : x.frozen = some z) (hl : s.launch x.lid = some l) :
    (s.releaseAbort d m).isFrozen (masterDie m) m = false ∧ (∃ v, (s.releaseAbort d m).launch x.lid = some v ∧ v.status = 3 ∧ v.tasks = []) ∧
      ∀ c ∈ l.allCores, ∀ q ∈ ((s.releaseAbort d m).core c).ctxs, q.2.lid ≠ x.lid := by
  have he : s.releaseAbort d m = ((s.toLaunch x.lid { z.rcd with retired := true }).abortLaunch x.lid 3).thaw m := by
    simp only [State.releaseAbort, hf, Nat.not_le.2 hm, decide_false, Bool.not_true, Bool.or_self, Bool.false_eq_true, if_false, hx, hz]
  have hs := (filed_toLaunch s x.lid { z.rcd with retired := true }).launch x.lid
  rw [hl] at hs
  obtain ⟨l', hl', hst⟩ : ∃ l', (s.toLaunch x.lid { z.rcd with retired := true }).launch x.lid = some l' ∧ l'.stand = l.stand := by simpa using hs
  obtain ⟨hv, hc⟩ := abortLaunch_spec _ x.lid 3 l' hl'
  have hall : l'.allCores = l.allCores := by
    simp only [Launch.stand, Prod.mk.injEq] at hst
    simp [Launch.allCores, hst]
  rw [he]
  obtain ⟨west, east, ht⟩ := thaw_eq ((s.toLaunch x.lid { z.rcd with retired := true }).abortLaunch x.lid 3) m
  refine ⟨isFrozen_thaw _ m, ?_, ?_⟩
  · rw [ht]; exact hv
  · rw [ht, ← hall]; exact hc

/-! ## The map of logical cores -/

/-- Changes that all wait for a launch to leave their core take no effect yet (R462). -/
theorem applyMaps_idle (s : State) (h : MapWaits s) : s.applyMaps = s := by
  have ht : (s.west.history ++ s.east.history).filter (fun v => mcPending v && !s.coreHeld (mcCore v)) = [] := by
    rw [List.filter_eq_nil_iff]
    intro v hv
    by_cases hp : mcPending v = true
    · simp [hp, h v hv hp]
    · simp [hp]
  simp only [State.applyMaps, ht, List.foldl_nil]

theorem mcCore_mapChange (r : Bool) (c site : Nat) (h : c < 512) : mcCore (mapChange true r c site) = c := by
  simp only [mcCore, mapChange, fld, pack, fwidth, b2n]
  cases r <;> simp <;> omega

theorem mapStatus_core (s : State) (r : Bool) (c site : Nat) (h : s.mapStatus r c site = 0) : c < 320 := by
  by_contra hc
  simp [State.mapStatus, Nat.not_lt.1 hc] at h

/-- A write of MAPCMD posts the status of its change, and a change that is right is noted; with its core and those of all other changes held, none takes effect yet (R462). -/
theorem mapcmd_waits (s : State) (d : Die) (r : Bool) (c site : Nat) (h : MapWaits s) (hc : s.mapStatus r c site = 0 → s.coreHeld c = true) :
    (∀ a, (s.mapcmd d r c site).byte a = s.byte a) ∧ ((s.mapcmd d r c site).die d).mapst = BitVec.ofNat 3 (s.mapStatus r c site) ∧
    ((s.mapcmd d r c site).die (dieOf c)).history =
      (s.die (dieOf c)).history ++ if s.mapStatus r c site = 0 then [mapChange true r c (if r then 0 else site)] else [] := by
  set note := if s.mapStatus r c site = 0 then [mapChange true r c (if r then 0 else site)] else [] with hn
  set u := s.modDie (dieOf c) fun x => { x with history := x.history ++ note } with hu
  have hreq : s.mapRequest r c site = u := by
    unfold State.mapRequest
    by_cases h0 : s.mapStatus r c site = 0
    · simp [h0, hu, hn]
    · rw [if_pos h0, hu, hn, if_neg h0]
      simp only [List.append_nil]
      cases dieOf c <;> rfl
  set v := u.modDie d fun x => { x with mapst := BitVec.ofNat 3 (s.mapStatus r c site) } with hv
  have held : ∀ k, v.coreHeld k = s.coreHeld k := fun k => by rw [hv, hu]; simp [State.coreHeld]
  have hist : ∀ w ∈ v.west.history ++ v.east.history, w ∈ s.west.history ++ s.east.history ∨ w ∈ note := by
    intro w hw
    rw [hv, hu] at hw
    cases hd : dieOf c <;> rw [hd] at hw <;> cases d <;> simp [State.modDie, State.setDie, State.die] at hw ⊢ <;> tauto
  have hidle : v.applyMaps = v := applyMaps_idle v fun w hw hp => by
    rw [held]
    rcases hist w hw with hw | hw
    · exact h w hw hp
    · rw [hn] at hw
      split at hw
      · next h0 =>
        rw [List.mem_singleton.1 hw, mcCore_mapChange r c _ (by have := mapStatus_core s r c site h0; omega)]
        exact hc h0
      · simp at hw
  have ht : s.mapcmd d r c site = v := by
    change ((s.mapRequest r c site).modDie d _).applyMaps = v
    rw [hreq]
    exact hidle
  rw [ht]
  refine ⟨fun a => by rw [hv, hu]; simp, by rw [hv, State.die_modDie], ?_⟩
  rw [hv, hu]
  cases dieOf c <;> cases d <;> rfl

/-! ## Requests for memory -/

section
variable {s : State} {a n : Nat}

theorem homeAddr_hbm (h : regionOf a = .hbm) : s.homeAddr a = a := by simp [State.homeAddr, h]
theorem behind_hbm (h : regionOf a = .hbm) : s.behind a = a := by simp [State.behind, homeAddr_hbm h, h]
theorem badAt_hbm (h : regionOf a = .hbm) (hp : s.poisoned a = false) : s.badAt a = [] := by simp [State.badAt, behind_hbm h, homeAddr_hbm h, h, hp]
theorem readByte_hbm (h : regionOf a = .hbm) : s.readByte a = .ok (s.byte a) := by simp [State.readByte, homeAddr_hbm h, h]

theorem mem_natsFrom {k : Nat} : k ∈ natsFrom a n ↔ ∃ i, i < n ∧ a + i = k := by simp [natsFrom]

theorem mapM_ok {α β ε : Type} (f : α → Except ε β) (g : α → β) (l : List α) (h : ∀ x ∈ l, f x = .ok (g x)) : l.mapM f = .ok (l.map g) := by
  induction l with
  | nil => rfl
  | cons x r ih =>
    rw [List.mapM_cons, h x (by simp), ih fun y hy => h y (by simp [hy])]
    rfl

variable (h : OpenHbm s a n)
include h

/-- Open bytes are reached once the bridge lets them. -/
theorem openHbm_way (far : Nat → Bool) (hf : ∀ i, i < n → far (a + i) = false) : ((natsFrom a n).any fun b => s.frameBusy b || far b) = false := by
  rw [List.any_eq_false]
  intro b hb
  obtain ⟨i, hi, rfl⟩ := mem_natsFrom.1 hb
  obtain ⟨-, -, -, hbusy, -⟩ := h.2 i hi
  simp [hbusy, hf i hi]

theorem openHbm_memory : (natsFrom a n).all isMmio = false := by
  rw [List.all_eq_false]
  have hr : regionOf a = .hbm := (h.2 0 h.1).1
  exact ⟨a, mem_natsFrom.2 ⟨0, h.1, rfl⟩, by simp [isMmio, hr]⟩

theorem openHbm_gates (acc : Nat) : s.gates acc (natsFrom a n) = .open' := by
  have hn : ((natsFrom a n).map (s.gate acc)).find? (fun g => g != .open') = none := by
    rw [List.find?_eq_none]
    intro g hg
    obtain ⟨b, hb, rfl⟩ := List.mem_map.1 hg
    obtain ⟨i, hi, rfl⟩ := mem_natsFrom.1 hb
    obtain ⟨hr, hm, ht, -⟩ := h.2 i hi
    simp [State.gate, hr, hm, ht]
  rw [State.gates, hn]
  rfl

/-- A read of open bytes is answered with them. -/
theorem openHbm_read (fn : Option Func) (tray : Nat) (m : BitVec 32) : s.serve fn tray m (.read a n) = s.reply fn true ((List.range n).map fun i => s.byte (a + i)) := by
  have hp : s.anyPoison (natsFrom a n) = false := by
    rw [State.anyPoison, List.any_eq_false]
    intro b hb
    obtain ⟨i, hi, rfl⟩ := mem_natsFrom.1 hb
    obtain ⟨hr, -, -, -, hp⟩ := h.2 i hi
    simp [badAt_hbm hr hp]
  have hb : s.readBytes (natsFrom a n) = .ok ((natsFrom a n).map s.byte) := mapM_ok _ _ _ fun b hb => by
    obtain ⟨i, hi, rfl⟩ := mem_natsFrom.1 hb
    exact readByte_hbm (h.2 i hi).1
  simp only [State.serve, hp, hb, Bool.false_eq_true, if_false]
  rw [natsFrom, List.map_map]
  rfl

end

/-- Bytes put from an address on are read back there, and nowhere else. -/
theorem tget_puts (l : List Byte) (a : Nat) (m : List Host.Cell) (hm : Memory.wf m = true) :
    (∀ i, i < l.length → tget (((natsFrom a l.length).zip l).foldl (fun t p => tput t memDefault p.1 p.2) m) memDefault (a + i) = l.getD i 0) ∧
    ∀ v, (v < a ∨ a + l.length ≤ v) → tget (((natsFrom a l.length).zip l).foldl (fun t p => tput t memDefault p.1 p.2) m) memDefault v = tget m memDefault v := by
  induction l generalizing a m with
  | nil => exact ⟨fun i hi => absurd hi (Nat.not_lt_zero i), fun v _ => rfl⟩
  | cons b r ih =>
    obtain ⟨hin, hout⟩ := ih (a + 1) (tput m memDefault a b) (memory_wf_put m a b hm)
    rw [List.length_cons, natsFrom_succ, List.zip_cons_cons, List.foldl_cons]
    dsimp only
    refine ⟨fun i hi => ?_, fun v hv => ?_⟩
    · cases i with
      | zero =>
        refine (hout a (by omega)).trans ?_
        rw [tget_tput memDefault m a a b hm, if_pos rfl]
        rfl
      | succ i =>
        rw [show a + (i + 1) = a + 1 + i by omega, hin i (by omega)]
        rfl
    · rw [hout v (by omega), tget_tput memDefault m a v b hm, if_neg (by omega)]

/-- A write of open bytes from outside puts them where they belong, and no others. -/
theorem openHbm_write (s : State) (a : Nat) (l : List Byte) (h : OpenHbm s a l.length) (hm : Memory.wf s.mem = true) (fn : Option Func) (tray : Nat) (m : BitVec 32) :
    (s.serve fn tray m (.write a l)).outbox = s.outbox ++ [.reply fn true []] ∧
    (∀ i, i < l.length → (s.serve fn tray m (.write a l)).byte (a + i) = l.getD i 0) ∧ ∀ v, (v < a ∨ a + l.length ≤ v) → (s.serve fn tray m (.write a l)).byte v = s.byte v := by
  have hhome : ((natsFrom a l.length).zip l).map (fun p => (s.homeAddr p.1, p.2)) = (natsFrom a l.length).zip l := by
    refine (List.map_congr_left fun p hp => ?_).trans (List.map_id _)
    obtain ⟨i, hi, he⟩ := mem_natsFrom.1 (List.of_mem_zip hp).1
    rw [← he, homeAddr_hbm (h.2 i hi).1, he]
    rfl
  have hbyte : ∀ v, (s.serve fn tray m (.write a l)).byte v = tget (((natsFrom a l.length).zip l).foldl (fun t p => tput t memDefault p.1 p.2) s.mem) memDefault v := fun v => by
    change tget (s.devWrite ((natsFrom a l.length).zip l)).mem memDefault v = _
    rw [devWrite_mem, hhome]
  obtain ⟨hin, hout⟩ := tget_puts l a s.mem hm
  refine ⟨?_, fun i hi => (hbyte _).trans (hin i hi), fun v hv => (hbyte v).trans (hout v hv)⟩
  obtain ⟨cores, launches, mem, poison, durRel, dstores, serial, hd, -⟩ := devWrite_cases s ((natsFrom a l.length).zip l)
  simp only [State.serve, State.reply, hd]

/-! ## Streams -/

/-- A stream with nothing at its far end to tell halts with its record in its context's empty slot (R411, R412). -/
theorem haltStream_spec (s : State) (c i cls cause addr : Nat) (isLocal : Bool) (det : List (Nat × Nat × Nat)) (st : Stream) (x : Ctx) (hst : s.stream c i = some st)
    (hk : dKind st.desc ≠ 4) (hf : st.forkOn = false) (ho : st.out = none) (hx : s.ctx c st.owner = some x) (hl : x.lid = st.lid) (ha : x.afs = none) (hg : x.gone = false)
    (hc : BitVec.ofNat 8 cls ≠ 12) : ∃ y r, (s.haltStream c i cls 1 cause (some addr) isLocal det).stream c i = some y ∧
      y.flt = true ∧ y.fclass = cls ∧ y.fcause = cause ∧ y.faddr = BitVec.ofNat 64 addr ∧ y.paused = none ∧
      r.cls = BitVec.ofNat 8 cls ∧ r.cause = BitVec.ofNat 16 cause ∧ r.lid = st.lid ∧
      (s.haltStream c i cls 1 cause (some addr) isLocal det).ctx c st.owner = some { x with afs := some (r, .ap) } ∧
      ∀ a, (s.haltStream c i cls 1 cause (some addr) isLocal det).byte a = s.byte a := by
  have hend : s.endRow c i = s := by simp only [State.endRow, hst, ho]
  have hfar : s.farMark c i 0xF1 = s := by
    simp only [State.farMark, hst, hk, ne_eq, not_false_eq_true, if_true, hf, Bool.false_and]
  set r : FaultRec := { s.mkRec cls 1 cause (coreMaster mtStream c st.owner i) (some addr) st.lid (s.rankAt st.lid c) det with isLocal := isLocal } with hr
  obtain ⟨y, dead, he, hy⟩ : ∃ (y : Stream) (dead : List Nat), s.haltStream c i cls 1 cause (some addr) isLocal det =
      ((s.modCore c fun k => { k with streams := tset k.streams i y }).modCore c fun k => { k with live := k.live.filter fun m => !dead.contains m.id }).report c st.owner st.lid .ap r ∧
      y.flt = true ∧ y.fclass = cls ∧ y.fcause = cause ∧ y.faddr = BitVec.ofNat 64 addr ∧ y.paused = none := by
    simp only [State.haltStream, hend, hst, hfar, State.modStream]
    exact ⟨_, _, rfl, rfl, rfl, rfl, rfl, rfl⟩
  set u := (s.modCore c fun k => { k with streams := tset k.streams i y }).modCore c fun k => { k with live := k.live.filter fun m => !dead.contains m.id } with hu
  have hux : u.ctx c st.owner = some x := by
    rw [← hx, hu]
    simp [State.ctx]
  have hmark : u.markRecorded x.lid r = u := if_neg fun hn => hc hn.1
  rw [he, ← hl, report_offer u c st.owner .ap r x hux hg ha, hmark]
  refine ⟨y, r, ?_, hy.1, hy.2.1, hy.2.2.1, hy.2.2.2.1, hy.2.2.2.2, rfl, rfl, hl.symm, by simp, fun a => rfl⟩
  simp [State.stream, State.setCtx, hu]

/-- A row of a line enters the tail of a stream without a fork (R161, R189). -/
theorem rowIn_spec (s : State) (c i : Nat) (r : Row) (st : Stream) (hst : s.stream c i = some st) (hf : st.forkOn = false) :
    (∀ a, (s.rowIn c i 0 r).byte a = s.byte a) ∧ ((s.rowIn c i 0 r).core c).row c (st.key st.tail) = r ∧ ((s.rowIn c i 0 r).core c).isFull (st.key st.tail) = true ∧
      ∃ y, (s.rowIn c i 0 r).stream c i = some y ∧ y.count = st.count + 1 ∧ y.pos = st.pos + 1 := by
  have hw : ∃ poisonLoc durRel, s.rowWhole c (st.key st.tail) = { s with poisonLoc := poisonLoc, durRel := durRel } := by
    unfold State.rowWhole State.rowFresh
    dsimp only
    split_ifs <;> exact ⟨_, _, rfl⟩
  obtain ⟨poisonLoc, durRel, hw⟩ := hw
  have hfill : (s.fillRow c i st 0 r).stream c i = some { st with tail := (st.tail + 1) % Nat.max 1 st.depth, count := st.count + 1, eosw := st.eosw || false } := by
    simp [State.stream, State.fillRow, Core.fill]
  obtain ⟨y, he, hc, hp⟩ : ∃ y : Stream, s.rowIn c i 0 r = (s.fillRow c i st 0 r).modCore c (fun k => { k with streams := tset k.streams i y }) ∧
      y.count = st.count + 1 ∧ y.pos = st.pos + 1 := by
    simp only [State.rowIn, hst, hf, Bool.false_and, State.modStream, hfill]
    exact ⟨_, rfl, rfl, rfl⟩
  rw [he]
  refine ⟨fun a => ?_, ?_, ?_, y, ?_, hc, hp⟩
  · rw [State.modCore_byte, State.fillRow, State.modCore_byte, hw]
    rfl
  · simp [State.fillRow, Core.fill, Core.row, Core.setFull, Core.setKind, Core.setRow]
  · simp [State.fillRow, Core.fill, Core.isFull, Core.setFull]
  · simp [State.stream]

/-! ## A register written whole -/

/-- The bytes of a word, each at its address. -/
theorem cellsAt_word (a x : Nat) : cellsAt a (leBytes 8 x) = (List.range 8).map fun i => (a + i, BitVec.ofNat 8 (x / 2 ^ (8 * i))) := by
  simp [cellsAt, natsFrom, leBytes, List.range_succ, Nat.div_div_eq_div_mul]

/-- AGEINT takes the word written to it (R57). -/
theorem mmioWrite_ageint (s : State) (v : Word) : s.mmioWrite (cellsAt 0x7F0000003000 (leBytes 8 v.toNat)) = { s with ageint := v } := by
  have hcell : ∀ i ∈ List.range 8, (0x7F0000003000 + i) / 8 = 0xFE000000600 ∧ (0x7F0000003000 + i) % 8 = i := by decide
  have hg : granulesOf (cellsAt 0x7F0000003000 (leBytes 8 v.toNat)) = [0xFE000000600] := by
    rw [granulesOf, cellsAt_word, List.map_map]
    refine (congrArg List.eraseDups (List.map_congr_left (g := fun _ => 0xFE000000600) fun i hi => (hcell i hi).1)).trans ?_
    decide
  have hc : (cellsAt 0x7F0000003000 (leBytes 8 v.toNat)).filter (fun p => p.1 / 8 == 0xFE000000600) = cellsAt 0x7F0000003000 (leBytes 8 v.toNat) := by
    rw [cellsAt_word, List.filter_eq_self]
    intro p hp
    obtain ⟨i, hi, rfl⟩ := List.mem_map.1 hp
    exact beq_iff_eq.2 (hcell i hi).1
  have hv : (cellsAt 0x7F0000003000 (leBytes 8 v.toNat)).foldl (fun u p => setFld u (8 * (p.1 % 8)) 8 p.2.toNat) s.ageint.toNat = v.toNat := by
    refine Eq.trans ?_ ((setFld_bytes v.toNat s.ageint.toNat 8 s.ageint.isLt).trans (Nat.mod_eq_of_lt v.isLt))
    rw [cellsAt_word, List.foldl_map]
    refine List.foldl_ext _ _ _ fun u i hi => ?_
    rw [(hcell i hi).2, BitVec.toNat_ofNat, setFld_mod]
  have hr : regOf (8 * 0xFE000000600) = some .ageint := by decide
  simp only [State.mmioWrite, hg, List.foldl_cons, List.foldl_nil, hc, hr, State.regRead, hv, State.regWrite, BitVec.ofNat_toNat, BitVec.setWidth_eq]

/-- A physical function may write AGEINT (R13). -/
theorem mmioBreach_ageint (s : State) (fn : Func) (h0 : fn.num = 0) : s.mmioBreach fn true (natsFrom 0x7F0000003000 8) = none := by
  have hr : ∀ a ∈ natsFrom 0x7F0000003000 8, regOf a = some .ageint := by decide
  rw [State.mmioBreach, List.findSome?_eq_none_iff]
  intro a ha
  simp [hr a ha, State.regWritable, h0]

/-! ## Release -/

/-- A context that is released with Trap holds its freeze record in its slot, and its master is frozen no more (R400). -/
theorem releaseTrap_spec (s : State) (d : Die) (m : BitVec 32) (x : Ctx) (z : Freeze) (hf : s.isFrozen d m = true) (hm : mType m < 2) (hx : s.ctx (mCore m) (mSlot m) = some x)
    (hz : x.frozen = some z) (hc : z.rcd.cls ≠ 12) (ha : x.afs = none) (hg : x.gone = false) : (∀ a, (s.releaseTrap d m).byte a = s.byte a) ∧
      (s.releaseTrap d m).isFrozen (masterDie z.rcd.master) z.rcd.master = false ∧ (s.releaseTrap d m).ctx (mCore m) (mSlot m) = some { x with frozen := none, afs := some (z.rcd, z.proc) } := by
  have ho : ({ x with frozen := none } : Ctx).offer z.proc z.rcd = some { x with frozen := none, afs := some (z.rcd, z.proc) } := if_neg (by
    rw [Bool.not_eq_true, Bool.or_eq_false_iff]
    exact ⟨hg, congrArg Option.isSome ha⟩)
  have he : s.releaseTrap d m = (s.thaw z.rcd.master).setCtx (mCore m) (mSlot m) { x with frozen := none, afs := some (z.rcd, z.proc) } := by
    simp only [State.releaseTrap, hf, Nat.not_le.2 hm, decide_false, Bool.not_true, Bool.or_self, Bool.false_eq_true, if_false, hx, Option.bind_some, hz, Option.map_some, hc,
      State.unfreeze, ho]
  obtain ⟨west, east, ht⟩ := thaw_eq s z.rcd.master
  have hi := isFrozen_thaw s z.rcd.master
  rw [he]
  refine ⟨fun a => ?_, ?_, State.ctx_setCtx _ _ _ _⟩
  · rw [State.setCtx_byte, ht]
    rfl
  · rw [← hi]
    cases masterDie z.rcd.master <;> rfl

/-- A function that is released with Clear is frozen no more (R400). -/
theorem releaseClear_spec (s : State) (d : Die) (m : BitVec 32) (hf : s.isFrozen d m = true) (hm : mType m = 7) : (∀ a, (s.releaseClear d m).byte a = s.byte a) ∧
    (s.releaseClear d m).isFrozen (masterDie m) m = false ∧ (s.releaseClear d m).fnFrozen = s.fnFrozen.filter (· != fnIdx ⟨masterDie m, mUnit m⟩) := by
  obtain ⟨west, east, ht⟩ := thaw_eq s m
  have hi := isFrozen_thaw s m
  have he : s.releaseClear d m = { s.thaw m with fnFrozen := (s.thaw m).fnFrozen.filter (· != fnIdx ⟨masterDie m, mUnit m⟩) } := by
    simp [State.releaseClear, hf, hm]
  rw [he]
  refine ⟨fun a => by rw [ht]; rfl, ?_, by rw [ht]⟩
  rw [← hi]
  cases masterDie m <;> rfl

/-! ## Ingest -/

/-- The stream that takes a channel's rows is not at its end. -/
theorem ingestOf_open (s : State) (ch c i : Nat) (st : Stream) (h : s.ingestOf ch = some (c, i, st)) : st.pos < st.finish.1 := by
  obtain ⟨q, -, hq⟩ := List.exists_of_findSome?_eq_some h
  obtain ⟨t, -, ht⟩ := List.exists_of_findSome?_eq_some hq
  split at ht
  · next hc =>
    simp only [Option.some.injEq, Prod.mk.injEq] at ht
    simp only [Bool.and_eq_true, decide_eq_true_eq] at hc
    exact ht.2.2 ▸ hc.2
  · simp at ht

/-- A line that is not time-stamped and fits a row is that row (R188). -/
theorem lineBytes_row (v : Nat) (block : Word) (num since : Nat) (l : List Byte) (ht : icTs v = false) (hl : l.length = icLine v) (h : icLine v ≤ 256) :
    lineBytes v block num since l = [bytesRow l] := by
  have h1 : ceilDiv (icLine v) 256 = 1 := by
    have : 1 ≤ icLine v := Nat.le_add_left 1 _
    unfold ceilDiv
    omega
  simp [lineBytes, ht, h1, natsFrom, List.take_of_length_le (hl.trans_le h)]

/-- A line of one row enters its channel's stream where it has room (R166, R189). -/
theorem lineNow_row (s : State) (ch c i : Nat) (r : Row) (st : Stream) (hi : s.ingestOf ch = some (c, i, st)) (hst : s.stream c i = some st) (hp : dPol st.desc ≠ 2)
    (hg : st.gap = 0) (hf : st.forkOn = false) (hr : st.count + st.held + 1 ≤ st.depth) : s.lineNow ch [r] = s.rowIn c i 0 r := by
  have hpos := ingestOf_open s ch c i st hi
  have htake : [r].take (st.finish.1 - st.pos) = [r] := List.take_of_length_le (by simp; omega)
  have hneed : [r].length + b2n ((0 : Nat) != 0) = 1 := rfl
  have hroom : s.partnerRoom c i st 1 = true := by simp [State.partnerRoom, hf]
  simp only [State.lineNow, hi, htake, hneed, hp, if_false, hst, hroom, Nat.not_lt.2 hr, decide_false, Bool.not_true, Bool.or_self, Bool.false_eq_true, hg, ne_eq, not_true_eq_false,
    List.foldl_cons, List.foldl_nil]

/-- A line that no stream takes is counted (R187, R189). -/
theorem dropLine_counts (s : State) (ch : Nat) (h : s.ingestOf ch = none) : s.dropLine ch = { s with idrop := tset s.idrop ch (counted (tget s.idrop 0 ch) true) } := by
  have hi : (s.countDrop ch 1 0).ingestOf ch = none := h
  have hm : Nat.min ((tget s.idrop 0 ch).toNat % 2 ^ 32 + 0) 0xFFFFFFFF = (tget s.idrop 0 ch).toNat % 2 ^ 32 := Nat.min_eq_left (by omega)
  simp only [State.dropLine, hi]
  simp only [State.countDrop, counted, hm, if_true]

end Sys2Proof.Machine

namespace Sys2Proof.Proofs
open Sys2Proof Sys2Proof.Machine Sys2Proof.Claims

section
variable {s : State} {fn : Func} (d : Die) (hf : fnIdx fn ∉ s.fnFrozen)
include hf

/-! ## Launch ports and registers -/

theorem port_accepts (q : Nat) (full : Bool) (data : BitVec 512) (hq : q < 64) (hl : lqForeign (s.lq q) fn = false) (h : s.discards q fn full = false) :
    Ends (.launchPortWrite fn q full data) s fun t => SameMem s t ∧ ∃ l : Launch, t.launches = s.launches ++ [l] ∧ l.lid = BitVec.ofNat 32 (q * 2 ^ 26 + tget s.lqseq 0 q % 2 ^ 26) ∧
      l.queue = q ∧ l.phase = .queued ∧ l.fn = fn ∧ l.accepted = s.time.toNat ∧ t.lqdrop = s.lqdrop := by
  obtain ⟨hmem, hdrop, l, hls, hlid, hrest⟩ := submit_accepts s q fn full (bytesAt data 0 8) (bytesAt data 8 8) (bytesAt data 16 8) h
  rw [Nat.mod_eq_of_lt hq] at hlid
  obtain ⟨hqu, hph, hfn, hac⟩ := hrest
  refine ⟨_, ?_, hmem, l, hls, hlid, hqu, hph, hfn, hac, hdrop⟩
  simp only [exec, execLaunchPortWrite, Nat.mod_eq_of_lt hq, contains_false hf, hl, Bool.false_eq_true, if_false]

theorem port_discards (q : Nat) (full : Bool) (data : BitVec 512) (hq : q < 64) (hl : lqForeign (s.lq q) fn = false) (h : s.discards q fn full = true) :
    Ends (.launchPortWrite fn q full data) s fun t => SameMem s t ∧ t.launches = s.launches ∧ t.lqdrop = tset s.lqdrop q (Nat.min (tget s.lqdrop 0 q + 1) 0xFFFF) := by
  refine ⟨s.discard q, ?_, fun _ => rfl, rfl, rfl⟩
  simp only [exec, execLaunchPortWrite, Nat.mod_eq_of_lt hq, contains_false hf, hl, Bool.false_eq_true, if_false, State.submit, h, if_true]

theorem virtual_freezes (hN : NoSwap s) (h0 : fn.num ≠ 0) (v : Word) :
    Ends (.fttgtWrite fn d v) s fun t => t.fnFrozen = s.fnFrozen ++ [fnIdx fn] ∧ (t.die d).fttgtEn = (s.die d).fttgtEn ∧ (t.die d).fttgtCore = (s.die d).fttgtCore :=
  ⟨s.freezeFn fn 2 (mmioAddr d 0x8750) 1, congrArg Host.Outcome.next (byFn_breaks s fn _ _ hf hN h0), freezeFn_fnFrozen s fn _ hf 2 1, freezeFn_fttgt s fn _ hf 2 1 d⟩

theorem swap_waits (hu : (s.die d).ctl.up = false) (hs : (s.die d).ctl.swap = true) (f : Nat) (v : Word) :
    exec (.ftagRetire fn d f) s = .next s ∧ exec (.fttgtWrite fn d v) s = .next s := by
  have waits : ∀ o, o < 0x1000000 → (∀ q, regAt d (o / 8 * 8) ≠ some (.port q)) → ∀ f, s.byFn fn (mmioAddr d o) f = s := fun o ho hr f =>
    byFn_waits s fn _ f hf (mmioWaits_swap s d o hu hs ho hr)
  exact ⟨congrArg Host.Outcome.next (waits 0x8028 (by decide) (fun q => by cases d <;> simp [regAt]) _), congrArg Host.Outcome.next (waits 0x8750 (by decide) (fun q => by cases d <;> simp [regAt]) _)⟩

end

section
variable {s : State} {fn : Func} (d : Die) (hf : fnIdx fn ∉ s.fnFrozen) (hN : NoSwap s) (h0 : fn.num = 0)
include hf hN h0

/-! ## What function 0 writes -/

/-- A register row of a physical function ends with its effect. -/
theorem row_ends {i : Instr} {addr : Nat} {f : State → State} {P : State → Prop} (he : exec i s = .next (s.byFn fn addr f)) (hp : P (f s)) : Ends i s P :=
  ⟨f s, he.trans (congrArg Host.Outcome.next (byFn_writes s fn addr f hf hN h0)), hp⟩

theorem ageint_written (v : Word) : Ends (.registerWrite fn 0x7F0000003000 8 v) s fun t => SameMem s t ∧ t.ageint = v ∧ t.holdlim = s.holdlim := by
  refine ⟨{ s with ageint := v }, ?_, fun _ => rfl, rfl, rfl⟩
  simp [exec, execRegisterWrite, hf, mmioWaits_noSwap s _ hN, mmioBreach_ageint s fn h0, mmioWrite_ageint]

theorem fttgt_off (v : Word) (hv : v.toNat / 2 ^ 63 = 0) : Ends (.fttgtWrite fn d v) s fun t => SameMem s t ∧ (t.die d).fttgtEn = false := by
  have hb : bitN v.toNat 63 = false := by rw [bitN, hv]; rfl
  refine row_ends hf hN h0 rfl ?_
  simp [State.fttgtPut, hb, SameMem]

theorem fttgt_on (v : Word) (hv : v.toNat / 2 ^ 63 = 1) (hc : v.toNat % 512 < 320) (hd : v.toNat % 512 / 160 = dieNat d) :
    Ends (.fttgtWrite fn d v) s fun t => SameMem s t ∧ (t.die d).fttgtEn = true ∧ (t.die d).fttgtCore = v.toNat % 512 := by
  have hb : bitN v.toNat 63 = true := by rw [bitN, hv]; rfl
  have hfl : fld v.toNat 0 9 = v.toNat % 512 := by simp [fld]
  have hdie : dieOf (v.toNat % 512) = d := by
    cases d with
    | west => exact if_pos (by simp only [dieNat] at hd; omega)
    | east => exact if_neg (by simp only [dieNat] at hd; omega)
  refine row_ends hf hN h0 rfl ?_
  simp [State.fttgtPut, hb, hfl, hdie, Nat.not_le.2 hc, SameMem]

theorem abort_releases (m : BitVec 32) (x : Ctx) (z : Freeze) (l : Launch) (hm : s.isFrozen d m = true) (ht : mType m < 2) (hx : s.ctx (mCore m) (mSlot m) = some x)
    (hz : x.frozen = some z) (hl : s.launch x.lid = some l) : Ends (.freezeReleaseAbort fn d m) s fun t => t.isFrozen (masterDie m) m = false ∧
      (∃ v, t.launch x.lid = some v ∧ v.status = 3 ∧ v.tasks = []) ∧ ∀ c ∈ l.allCores, ∀ q ∈ (t.core c).ctxs, q.2.lid ≠ x.lid :=
  row_ends hf hN h0 rfl (releaseAbort_spec s d m x z l hm ht hx hz hl)

theorem trap_releases (m : BitVec 32) (x : Ctx) (z : Freeze) (hm : s.isFrozen d m = true) (ht : mType m < 2) (hx : s.ctx (mCore m) (mSlot m) = some x)
    (hz : x.frozen = some z) (hc : z.rcd.cls ≠ 12) (ha : x.afs = none) (hg : x.gone = false) : Ends (.freezeReleaseTrap fn d m) s fun t =>
      SameMem s t ∧ t.isFrozen (masterDie z.rcd.master) z.rcd.master = false ∧ t.ctx (mCore m) (mSlot m) = some { x with frozen := none, afs := some (z.rcd, z.proc) } :=
  row_ends hf hN h0 rfl (releaseTrap_spec s d m x z hm ht hx hz hc ha hg)

theorem clear_releases (m : BitVec 32) (hm : s.isFrozen d m = true) (ht : mType m = 7) : Ends (.freezeReleaseClear fn d m) s fun t =>
    SameMem s t ∧ t.isFrozen (masterDie m) m = false ∧ t.fnFrozen = s.fnFrozen.filter (· != fnIdx ⟨masterDie m, mUnit m⟩) :=
  row_ends hf hN h0 rfl (releaseClear_spec s d m hm ht)

theorem stream_resumes (c n i : Nat) (st : Stream) (hp : s.pausedAt c n i = some st) (hst : s.stream c i = some st) :
    Ends (.streamResume fn c n i) s fun t => SameMem s t ∧ (t.core c).streams = tset (s.core c).streams i { st with paused := none } := by
  refine row_ends hf hN h0 rfl ?_
  simp [State.resumeStream, hp, State.modStream, hst, SameMem]

theorem stream_aborts (c n i : Nat) (st : Stream) (p : Nat × Word) (x : Ctx) (hpa : s.pausedAt c n i = some st) (hst : s.stream c i = some st) (ho : st.owner = n)
    (hp : st.paused = some p) (hk : dKind st.desc ≠ 4) (hfo : st.forkOn = false) (hout : st.out = none) (hx : s.ctx c n = some x) (hl : x.lid = st.lid)
    (ha : x.afs = none) (hg : x.gone = false) : Ends (.streamResumeAbort fn c n i) s fun t => SameMem s t ∧
      (∃ y, t.stream c i = some y ∧ y.flt = true ∧ y.fclass = 2 ∧ y.fcause = 13 ∧ y.faddr = p.2 ∧ y.paused = none) ∧
      ∃ r : FaultRec, r.cls = 2 ∧ r.cause = 13 ∧ r.lid = st.lid ∧ t.ctx c n = some { x with afs := some (r, .ap) } := by
  obtain ⟨y, r, hy, hflt, hcls, hcause, haddr, hpaused, hrc, hrq, hrl, hctx, hmem⟩ :=
    haltStream_spec s c i 2 13 p.2.toNat false (posDet (some st) 0x70) st x hst hk hfo hout (ho ▸ hx) hl ha hg (by decide)
  refine row_ends hf hN h0 (f := fun s => s.abortStream c n i) rfl ?_
  simp only [State.abortStream, hpa, hp, Option.map_some]
  exact ⟨hmem, ⟨y, hy, hflt, hcls, hcause, haddr.trans (by simp), hpaused⟩, r, hrc, hrq, hrl, ho ▸ hctx⟩

theorem ftag_starts (f : Nat) (hb : (s.die d).ftagBusy = none) : ∀ p ∈ [(Instr.ftagFree fn d f, 1), (Instr.ftagRetire fn d f, 2), (Instr.ftagRemap fn d f, 3)],
    Ends p.1 s fun t => SameMem s t ∧ (t.die d).ftagBusy = some { kind := p.2, arg := f } ∧ t.tags = s.tags := by
  have starts : ∀ k, k ≠ 0 → SameMem s (s.ftagStart d k f) ∧ ((s.ftagStart d k f).die d).ftagBusy = some { kind := k, arg := f } ∧ (s.ftagStart d k f).tags = s.tags := fun k hk => by
    simp [State.ftagStart, hb, hk, SameMem]
  simp only [List.forall_mem_cons]
  exact ⟨row_ends hf hN h0 rfl (starts 1 (by decide)), row_ends hf hN h0 rfl (starts 2 (by decide)), row_ends hf hN h0 rfl (starts 3 (by decide)), fun _ h => absurd h List.not_mem_nil⟩

theorem map_sets (c i : Nat) (hw : MapWaits s) (hc : s.mapStatus false c i = 0 → s.coreHeld c = true) : Ends (.mapcmdSet fn d c i) s fun t =>
    SameMem s t ∧ (t.die d).mapst = BitVec.ofNat 3 (s.mapStatus false c i) ∧
    (t.die (dieOf c)).history = (s.die (dieOf c)).history ++ if s.mapStatus false c i = 0 then [mapChange true false c i] else [] :=
  row_ends hf hN h0 rfl (mapcmd_waits s d false c i hw hc)

theorem map_retires (c : Nat) (hw : MapWaits s) (hc : s.mapStatus true c 0 = 0 → s.coreHeld c = true) : Ends (.mapcmdRetire fn d c) s fun t =>
    SameMem s t ∧ (t.die d).mapst = BitVec.ofNat 3 (s.mapStatus true c 0) ∧
    (t.die (dieOf c)).history = (s.die (dieOf c)).history ++ if s.mapStatus true c 0 = 0 then [mapChange true true c 0] else [] :=
  row_ends hf hN h0 rfl (mapcmd_waits s d true c 0 hw hc)

theorem firmware_stages (a : Nat) (hb : (s.die d).fwBusy = none) : Ends (.fwctlStage fn d a) s fun t =>
    SameMem s t ∧ t.die d = { s.die d with fwBusy := some { kind := 1, arg := a } } := by
  refine row_ends hf hN h0 rfl ?_
  simp [State.fwAct, hb, SameMem]

theorem firmware_swaps (hb : (s.die d).fwBusy = none) : Ends (.fwctlSwap fn d) s fun t => SameMem s t ∧ t.die d = if (if (s.die d).act then (s.die d).aVal else (s.die d).bVal) then
    { s.die d with fwBusy := some { kind := 2, arg := 0 }, ctl := { (s.die d).ctl with up := false, swap := true } } else { s.die d with fwLast := 4 } := by
  refine row_ends hf hN h0 (f := fun s => s.fwAct d 2 0) rfl ?_
  simp only [State.fwAct, hb, Option.isSome_none, Bool.false_eq_true, if_false]
  generalize (if (s.die d).act then (s.die d).aVal else (s.die d).bVal) = valid
  cases valid <;> simp [SameMem]

theorem link_retrains (k : Nat) (hk : k < 6) (hoff : k ∉ (s.die d).lnkOff) : Ends (.lnkctlRetrain fn d k) s fun t =>
    SameMem s t ∧ t.retrain = s.retrain.filter (fun r => r.link != .span d k) ++ [{ link := .span d k, lane := 0, asked := true }] := by
  refine row_ends hf hN h0 (f := fun s => s.lnkAct d k 1) rfl ?_
  simp only [State.lnkAct, hk, if_true, contains_false hoff, Bool.false_eq_true, if_false]
  exact ⟨fun _ => rfl, trivial⟩

theorem link_disables (k : Nat) (hk : k < 6) : Ends (.lnkctlDisable fn d k) s fun t =>
    SameMem s t ∧ (t.die d).boot.span = putBit (s.die d).boot.span k false ∧ (t.die d).lnkOff = k :: (s.die d).lnkOff := by
  refine row_ends hf hN h0 (f := fun s => s.lnkAct d k 2) rfl ?_
  simp only [State.lnkAct, hk, if_true, State.spanDown]
  cases d <;> exact ⟨fun _ => rfl, rfl, rfl⟩

theorem link_enables (k : Nat) (hk : k < 6) : Ends (.lnkctlEnable fn d k) s fun t => SameMem s t ∧ (t.die d).lnkOff = (s.die d).lnkOff.filter (· != k) ∧
    t.retrain = s.retrain.filter (fun r => r.link != .span d k) ++ [{ link := .span d k, lane := 0, asked := true }] := by
  refine row_ends hf hN h0 (f := fun s => s.lnkAct d k 3) rfl ?_
  simp only [State.lnkAct, hk, if_true]
  cases d <;> exact ⟨fun _ => rfl, rfl, trivial⟩

end

/-! ## Requests for memory -/

section
variable {s : State} {fn : Func} {a : Nat}

/-- A function's request for open memory is served (R424). -/
theorem function_served (hf : fnIdx fn ∉ s.fnFrozen) (req : Request) (n acc : Nat) (hreq : reqOf req = (a, n, acc)) (hacc : acc ≠ 2) (hup : s.pcieUp fn.link = true) (ho : OpenHbm s a n)
    (hfar : ∀ i, i < n → s.farHeld fn.link (edgeRow fn.link 1) (a + i) = false) : exec (.pcieRequest fn req) s = .next (s.serve (some fn) s.tray (dieMaster mtFunc fn.num fn.link) req) := by
  have hway := openHbm_way ho (fun b => (isStore (s.behind b) || isMmio b) && s.farHeld fn.link (edgeRow fn.link 1) b) fun i hi => by rw [hfar i hi, Bool.and_false]
  have hgate := openHbm_gates ho acc
  have hn : n ≠ 0 := Nat.pos_iff_ne_zero.1 ho.1
  simp only [exec, execPcieRequest, hreq, hup, hn, decide_false, Bool.not_true, Bool.or_self, Bool.false_eq_true, if_false, contains_false hf, hway, hacc, hgate]
  exact congrArg _ (if_neg (Bool.eq_false_iff.1 (openHbm_memory ho)))

theorem function_reads (hf : fnIdx fn ∉ s.fnFrozen) (n : Nat) (hup : s.pcieUp fn.link = true) (ho : OpenHbm s a n) (hfar : ∀ i, i < n → s.farHeld fn.link (edgeRow fn.link 1) (a + i) = false) :
    Ends (.pcieRequest fn (.read a n)) s fun t => SameMem s t ∧ t.outbox = s.outbox ++ [.reply (some fn) true ((List.range n).map fun i => s.byte (a + i))] :=
  ⟨_, (function_served hf _ n 0 rfl (by decide) hup ho hfar).trans (congrArg _ (openHbm_read ho _ _ _)), fun _ => rfl, rfl⟩

theorem function_writes (hf : fnIdx fn ∉ s.fnFrozen) (l : List Byte) (hup : s.pcieUp fn.link = true) (ho : OpenHbm s a l.length)
    (hfar : ∀ i, i < l.length → s.farHeld fn.link (edgeRow fn.link 1) (a + i) = false) (hm : Memory.wf s.mem = true) : Ends (.pcieRequest fn (.write a l)) s fun t =>
      t.outbox = s.outbox ++ [.reply (some fn) true []] ∧ (∀ i, i < l.length → t.byte (a + i) = l.getD i 0) ∧ ∀ v, (v < a ∨ a + l.length ≤ v) → t.byte v = s.byte v :=
  ⟨_, function_served hf _ l.length 1 rfl (by decide) hup ho hfar, openHbm_write s a l ho hm _ _ _⟩

variable {tray : Nat} (hs : s.west.boot.span.getLsbD (spanLink .west tray) = true) (hb : s.spanBusy .west (spanLink .west tray) = false)
  (hfar : ∀ b, s.farHeld .west (edgeRow .west (2 + spanLink .west tray)) b = false) (hp : tray ∉ s.peerFrozen)
include hs hb hfar hp

/-- A span peer's is too (R192). -/
theorem peer_served (req : Request) (n acc : Nat) (hreq : reqOf req = (a, n, acc)) (hacc : acc ≠ 2) (hhit : s.peerHit tray req = none) (ho : OpenHbm s a n) :
    exec (.peerRequest tray req) s = .next (s.serve none tray (dieMaster mtPeer (peerLink tray) .west) req) := by
  have hway := openHbm_way ho (fun b => isStore (s.behind b) && s.farHeld .west (edgeRow .west (2 + spanLink .west tray)) b) fun i _ => by rw [hfar, Bool.and_false]
  have hgate := openHbm_gates ho acc
  have hn : n ≠ 0 := Nat.pos_iff_ne_zero.1 ho.1
  simp only [exec, execPeerRequest, hreq, hs, hb, hn, decide_false, Bool.not_true, Bool.or_self, Bool.false_eq_true, if_false, contains_false hp, hway, hhit, hacc, false_and, hgate]

theorem peer_reads (n : Nat) (ho : OpenHbm s a n) :
    Ends (.peerRequest tray (.read a n)) s fun t => SameMem s t ∧ t.outbox = s.outbox ++ [.reply none true ((List.range n).map fun i => s.byte (a + i))] :=
  ⟨_, (peer_served hs hb hfar hp _ n 0 rfl (by decide) rfl ho).trans (congrArg _ (openHbm_read ho _ _ _)), fun _ => rfl, rfl⟩

theorem peer_writes (l : List Byte) (ho : OpenHbm s a l.length) (hm : Memory.wf s.mem = true) : Ends (.peerRequest tray (.write a l)) s fun t =>
    t.outbox = s.outbox ++ [.reply none true []] ∧ (∀ i, i < l.length → t.byte (a + i) = l.getD i 0) ∧ ∀ v, (v < a ∨ a + l.length ≤ v) → t.byte v = s.byte v :=
  ⟨_, peer_served hs hb hfar hp _ l.length 1 rfl (by decide) rfl ho, openHbm_write s a l ho hm _ _ _⟩

end

/-! ## Datagrams -/

section
variable {s : State} {p ch : Nat} {proto : BitVec 2} {udp : BitVec 16} {l : List Byte} (hb : s.west.boot.ingest.getLsbD p = true) (hch : s.ingestChannel p udp.toNat = some ch)
  (hp : p ∉ s.ingFrozen) (hpr : icProto (tget s.icfg 0 ch).toNat = proto.toNat) (h2 : 2 ≤ icProto (tget s.icfg 0 ch).toNat)
include hb hch hp hpr h2

/-- A channel's datagram is a whole line or none (R188). -/
theorem datagram_taken : exec (.ingestDatagram p proto udp (.udp l)) s =
    .next (if l.length = icLine (tget s.icfg 0 ch).toNat then s.lineIn ch 0 0 s.time.toNat l else s.dropLine ch) := by
  simp only [exec, execIngestDatagram, hb, hch, contains_false hp, Bool.not_true, Bool.false_eq_true, if_false, hpr, ne_eq, not_true_eq_false, Nat.not_lt.2 (hpr ▸ h2)]

theorem datagram_dropped (hl : l.length ≠ icLine (tget s.icfg 0 ch).toNat) (hi : s.ingestOf ch = none) : Ends (.ingestDatagram p proto udp (.udp l)) s fun t =>
    SameMem s t ∧ t.cores = s.cores ∧ t.idrop = tset s.idrop ch (counted (tget s.idrop 0 ch) true) := by
  refine ⟨_, (datagram_taken hb hch hp hpr h2).trans (congrArg _ ((if_neg hl).trans (dropLine_counts s ch hi))), fun _ => rfl, rfl, rfl⟩

theorem datagram_enters (c i : Nat) (st : Stream) (hl : l.length = icLine (tget s.icfg 0 ch).toNat) (h256 : icLine (tget s.icfg 0 ch).toNat ≤ 256)
    (ht : icTs (tget s.icfg 0 ch).toNat = false) (hi : s.ingestOf ch = some (c, i, st)) (hh : s.ingestHeld ch = false) (hst : s.stream c i = some st) (hpol : dPol st.desc ≠ 2)
    (hg : st.gap = 0) (hf : st.forkOn = false) (hr : st.count + st.held + 1 ≤ st.depth) : Ends (.ingestDatagram p proto udp (.udp l)) s fun t =>
      SameMem s t ∧ (t.core c).row c (st.key st.tail) = bytesRow l ∧ (t.core c).isFull (st.key st.tail) = true ∧
        ∃ y, t.stream c i = some y ∧ y.count = st.count + 1 ∧ y.pos = st.pos + 1 := by
  have he : s.lineIn ch 0 0 s.time.toNat l = s.rowIn c i 0 (bytesRow l) := by
    simp only [State.lineIn, lineBytes_row _ _ _ _ _ ht hl h256, hh, Bool.false_eq_true, if_false]
    exact lineNow_row s ch c i _ st hi hst hpol hg hf hr
  exact ⟨_, (datagram_taken hb hch hp hpr h2).trans (congrArg _ ((if_pos hl).trans he)), rowIn_spec s c i _ st hst hf⟩

end

/-- A stream of a context that is paused. -/
theorem pausedAt_some (s : State) (c n i : Nat) (st : Stream) (p : Nat × Word) (hst : s.stream c i = some st) (ho : st.owner = n) (hp : st.paused = some p) :
    s.pausedAt c n i = some st := by
  simp [State.pausedAt, hst, ho, hp]

/-- Settles O60, request by request. -/
theorem outsideRequests : Obligations.OutsideRequests := by
  unfold Obligations.OutsideRequests
  intro s fn d hf
  refine ⟨fun q full data hq hl => ⟨port_accepts hf q full data hq hl, port_discards hf q full data hq hl⟩, virtual_freezes d hf, swap_waits d hf, fun hN h0 => ?_,
    fun a n hup ho hfar => function_reads hf n hup ho hfar, fun a l hup ho hfar hm => function_writes hf l hup ho hfar hm,
    fun tray a hs hb hfar hp => ⟨fun n ho => peer_reads hs hb hfar hp n ho, fun l ho hm => peer_writes hs hb hfar hp l ho hm⟩,
    fun p ch proto udp l hb hch hp hpr h2 => ⟨datagram_dropped hb hch hp hpr h2, fun c i st => datagram_enters hb hch hp hpr h2 c i st⟩⟩
  refine ⟨ageint_written hf hN h0, fttgt_off d hf hN h0, fttgt_on d hf hN h0, fun m x z hm ht hx hz =>
      ⟨fun l hl => abort_releases d hf hN h0 m x z l hm ht hx hz hl, fun hc ha hg => trap_releases d hf hN h0 m x z hm ht hx hz hc ha hg⟩,
    clear_releases d hf hN h0, fun c n i st p hst ho hp => ?_, fun f hb => ftag_starts d hf hN h0 f hb, map_sets d hf hN h0, map_retires d hf hN h0,
    fun hb => ⟨fun a => firmware_stages d hf hN h0 a hb, firmware_swaps d hf hN h0 hb⟩,
    fun k hk => ⟨link_retrains d hf hN h0 k hk, link_disables d hf hN h0 k hk, link_enables d hf hN h0 k hk⟩⟩
  have hpa := pausedAt_some s c n i st p hst ho hp
  exact ⟨stream_resumes hf hN h0 c n i st hpa hst, fun x hk hfo hout hx hl ha hg => stream_aborts hf hN h0 c n i st p x hpa hst ho hp hk hfo hout hx hl ha hg⟩

end Sys2Proof.Proofs

/-! SUPPORT. What an instruction that issues comes to, on the AP and on the EP; and signature segments (R74, R319, R320, R439): the records of `SEGB` and `SEGE`, and the compare point of a launch that is not duplex. -/
namespace Sys2Proof.Claims
open Sys2Proof Sys2Proof.Machine

/-- What an AP instruction of one word that issues comes to: its own effect. -/
theorem Issues.run {s : State} {c n : Nat} {x : Ctx} {g : Guard} {l : List (BitVec 6)} (h : Issues s c n x g l) (body : Nat → Nat → Ctx → State → Res) :
    apSimple g l body s = finish c n .ap 1 x.ap.pc (body c n x s) :=
  apSimple_run g l body s c n x h.at'.cur h.at'.ctx h.guard h.ready

/-- The same of the EP. -/
theorem IssuesEp.run {s : State} {c n : Nat} {x : Ctx} {g : Guard} (h : IssuesEp s c n x g) (body : Nat → Nat → Ctx → State → Res) :
    epSimple g body s = finish c n .ep 1 x.ep.pc (body c n x s) :=
  epSimple_run g body s c n x h.at'.cur h.at'.ctx h.guard

end Sys2Proof.Claims

namespace Sys2Proof.Machine
open Sys2Proof Sys2Proof.Claims

/-! ## Segments -/

theorem sigOut_eq (x : Ctx) : x.sigOut = (x.segSig ^^^ 0xFFFFFFFF#32).toNat := by
  rw [BitVec.toNat_xor]
  rfl

/-- A write of an e register leaves a context as much here as it was (R395). -/
theorem gone_setE (x : Ctx) (d : BitVec 5) (v : Word) : (putE x d v).gone = x.gone := by
  unfold putE EpSt.setE
  split <;> rfl

/-- The record of a segment error, of CLASS 4 and SEV 1, enters the empty slot of the context (R395, R439). -/
theorem segRec_offer (s : State) (c n : Nat) (x y : Ctx) (cause opc sig ea : Nat) (hy : s.ctx c n = some y) (hl : y.lid = x.lid) (ha : y.afs = none) (hg : y.gone = false) :
    ∃ r : FaultRec, r.cls = 4 ∧ r.sev = 1 ∧ r.cause = BitVec.ofNat 16 cause ∧ r.lid = x.lid ∧
      s.segRec c n x cause opc sig ea = s.setCtx c n { y with afs := some (r, .ep) } := by
  have h12 : (4 : BitVec 8) ≠ 12 := by decide
  refine ⟨s.mkRec 4 1 cause (coreMaster mtMatrix c n 0) none x.lid x.rank [(40, 1, opc), (42, 1, x.window.getD 0), (44, 4, sig), (48, 4, ea)], rfl, rfl, rfl, rfl, ?_⟩
  rw [State.segRec, ← hl, report_offer s c n .ep _ y hy hg ha, State.markRecorded, if_neg fun h => h12 h.1]

/-- Outside a duplex launch no compare point holds a context back (R74). -/
theorem dupPoint_passes (s : State) (c n : Nat) (x : Ctx) (sig : BitVec 32) (h : ∀ l, s.launch x.lid = some l → l.flag 5 = false) :
    s.dupPoint c n x sig = .pass s := by
  unfold State.dupPoint State.launchOf
  cases hl : s.launch x.lid with
  | none => rfl
  | some l => simp [h l hl]

/-- No matrix record of the context that `SEGE` waits for is queued or started. -/
theorem matrixBusy_false (s : State) (c n : Nat) (x : Ctx)
    (h : ∀ m ∈ (s.core c).pendingCmds, m.slot = n → m.lid = x.lid → cmdMaster c m ≠ coreMaster mtMatrix c n 0 ∨ ∃ q, m.instr = .tstart q) :
    s.matrixBusy c n x = false := by
  rw [State.matrixBusy, List.any_eq_false]
  intro m hm hb
  simp only [Bool.and_eq_true, beq_iff_eq] at hb
  obtain ⟨⟨⟨hs, hl⟩, hc⟩, ht⟩ := hb
  rcases h m hm hs hl with hne | ⟨q, hq⟩
  · exact hne hc
  · rw [hq] at ht
    exact Bool.false_ne_true ht

end Sys2Proof.Machine

namespace Sys2Proof.Proofs
open Sys2Proof Sys2Proof.Machine Sys2Proof.Claims

/-! ## Segments -/

/-- z is y with the record of a segment error of x in its fault slot: CLASS 4, SEV 1, and a cause (R395, R439). -/
def Recorded (x y z : Ctx) (cause : Nat) : Prop :=
  ∃ r : FaultRec, r.cls = 4 ∧ r.sev = 1 ∧ r.cause = BitVec.ofNat 16 cause ∧ r.lid = x.lid ∧ z = { y with afs := some (r, .ep) }

section
variable {s : State} {c n : Nat} {x : Ctx}

/-- An EP instruction whose effect is y, with a record of a segment error, leaves both (R440). -/
theorem leaves_recorded {i : Instr} {u : State} {y : Ctx} {cause opc sig ea : Nat} (hu : u.ctx c n = some y) (hus : ∀ z, u.setCtx c n z = s.setCtx c n z)
    (hl : y.lid = x.lid) (ha : y.afs = none) (hg : y.gone = false)
    (hx : exec i s = .next (finish c n .ep 1 x.ep.pc (.done (u.segRec c n x cause opc sig ea)))) : ∃ z, Recorded x y z cause ∧ Leaves i s c n (z.pass .ep 1) := by
  obtain ⟨r, hc, hs, hr, hlid, he⟩ := segRec_offer u c n x y cause opc sig ea hu hl ha hg
  refine ⟨_, ⟨r, hc, hs, hr, hlid, rfl⟩, _, ?_, rfl, fun _ => rfl⟩
  rw [hx, he, finish_done_setCtx, hus]

theorem segb_opens {f : G0} (h : IssuesEp s c n x f.g) (ho : x.segOpen = false) :
    Leaves (.segb f) s c n (({ x with segOpen := true, segSig := 0xFFFFFFFF, segCnt := 0, segHwOff := false, segFrom := s.serial } : Ctx).pass .ep 1) := by
  refine ⟨_, ?_, rfl, fun _ => rfl⟩
  simp only [exec, execSegb, h.run, ho, Bool.false_eq_true, if_false, finish_done_setCtx]

theorem segb_misused {f : G0} (ha : x.afs = none) (hg : x.gone = false) (h : IssuesEp s c n x f.g) (ho : x.segOpen = true) :
    ∃ z, Recorded x x z 13 ∧ Leaves (.segb f) s c n (z.pass .ep 1) := by
  refine leaves_recorded h.at'.ctx (fun _ => rfl) rfl ha hg (opc := 0xD4) (sig := x.sigOut) (ea := 0) ?_
  simp only [exec, execSegb, h.run, ho, if_true]

/-- The context once `SEGE` has closed its segment and delivered the signature (R320). -/
def closed (x : Ctx) (d : BitVec 5) : Ctx :=
  { x with segOpen := false, segHwOff := false, ep := x.ep.setE d.toNat ((x.segSig ^^^ 0xFFFFFFFF#32).setWidth 64) }

variable {f : SegeF} (h : IssuesEp s c n x f.g)
  (hm : ∀ m ∈ (s.core c).pendingCmds, m.slot = n → m.lid = x.lid → cmdMaster c m ≠ coreMaster mtMatrix c n 0 ∨ ∃ q, m.instr = .tstart q)
include h hm

theorem sege_misused (ha : x.afs = none) (hg : x.gone = false) (ho : x.segOpen = false) : ∃ z, Recorded x (putE x f.d 0) z 13 ∧ Leaves (.sege f) s c n (z.pass .ep 1) := by
  refine leaves_recorded (State.ctx_setCtx s c n (putE x f.d 0)) (fun _ => State.setCtx_setCtx ..) rfl ha ((gone_setE x f.d 0).trans hg) (opc := 0xD5) (sig := 0) (ea := 0) ?_
  have hb : (!x.segOpen) = true := by simp [ho]
  simp only [exec, execSege, h.run, matrixBusy_false s c n x hm, hb, Bool.false_eq_true, if_false, if_true]
  rfl

variable (hd : ∀ l, s.launch x.lid = some l → l.flag 5 = false) (ho : x.segOpen = true)
include hd ho

/-- Outside a duplex launch `SEGE` closes the segment, with a record where eA differs from the signature. -/
theorem exec_sege : exec (.sege f) s = .next (finish c n .ep 1 x.ep.pc (.done
    (if f.a ≠ 0 ∧ (x.ep.e' f.a.toNat).setWidth 32 ≠ x.segSig ^^^ 0xFFFFFFFF#32
      then (s.setCtx c n (closed x f.d)).segRec c n x 12 0xD5 (x.segSig ^^^ 0xFFFFFFFF#32).toNat ((x.ep.e' f.a.toNat).toNat % 2 ^ 32)
      else s.setCtx c n (closed x f.d)))) := by
  have hne : ((x.ep.e' f.a.toNat).toNat % 2 ^ 32 ≠ (x.segSig ^^^ 0xFFFFFFFF#32).toNat) ↔ (x.ep.e' f.a.toNat).setWidth 32 ≠ x.segSig ^^^ 0xFFFFFFFF#32 := by
    rw [← BitVec.toNat_setWidth, ne_eq, BitVec.toNat_inj]
  simp only [exec, execSege, h.run, matrixBusy_false s c n x hm, ho, dupPoint_passes s c n x _ hd, sigOut_eq, BitVec.ofNat_toNat, hne, Bool.not_true, Bool.false_eq_true, if_false]
  split <;> rfl

theorem sege_agrees (hs : f.a = 0 ∨ (x.ep.e' f.a.toNat).setWidth 32 = x.segSig ^^^ 0xFFFFFFFF#32) : Leaves (.sege f) s c n ((closed x f.d).pass .ep 1) := by
  refine ⟨_, ?_, rfl, fun _ => rfl⟩
  rw [exec_sege h hm hd ho, if_neg fun hn => hs.elim hn.1 hn.2, finish_done_setCtx]

theorem sege_differs (ha : x.afs = none) (hg : x.gone = false) (hz : f.a ≠ 0) (hs : (x.ep.e' f.a.toNat).setWidth 32 ≠ x.segSig ^^^ 0xFFFFFFFF#32) :
    ∃ z, Recorded x (closed x f.d) z 12 ∧ Leaves (.sege f) s c n (z.pass .ep 1) := by
  have hx := exec_sege h hm hd ho
  rw [if_pos ⟨hz, hs⟩] at hx
  exact leaves_recorded (State.ctx_setCtx s c n (closed x f.d)) (fun _ => State.setCtx_setCtx ..) rfl ha ((gone_setE x f.d _).trans hg) hx

end

/-- Settles O49: `SEGB` and `SEGE`, each in its place and out of it. -/
theorem segments : Obligations.Segments := by
  unfold Obligations.Segments
  intro s c n x ha hg
  exact ⟨fun f h => ⟨segb_opens h, segb_misused ha hg h⟩,
    fun f h hm hd => ⟨sege_agrees h hm hd, fun ho hz hs => sege_differs h hm hd ho ha hg hz hs, sege_misused h hm ha hg⟩⟩

end Sys2Proof.Proofs

/-! SUPPORT. A step (R60, R218, R396; log 1): what passes before a move, and the instruction that the plan of a processor runs. -/
namespace Sys2Proof.Machine
open Sys2Proof Sys2Proof.Claims

/-! ## What passes before a move -/

/-- From s to t nothing has happened but bring-up: the dies and the map of logical cores (R14). -/
def Boots (s t : State) : Prop := ∃ west east cmap, t = { s with west := west, east := east, cmap := cmap }

namespace Boots

theorem refl (s : State) : Boots s s := ⟨_, _, _, rfl⟩

theorem trans {s t u : State} : Boots s t → Boots t u → Boots s u := by
  rintro ⟨_, _, _, rfl⟩ ⟨_, _, _, rfl⟩
  exact ⟨_, _, _, rfl⟩

theorem foldl {α : Type} (f : State → α → State) (hf : ∀ s a, Boots s (f s a)) (l : List α) (s : State) : Boots s (l.foldl f s) := by
  induction l generalizing s with
  | nil => exact refl s
  | cons a r ih => exact (hf s a).trans (ih (f s a))

end Boots

theorem boots_modDie (s : State) (d : Die) (f : DieSt → DieSt) : Boots s (s.modDie d f) := by cases d <;> exact ⟨_, _, _, rfl⟩

theorem boots_cmap (s : State) (m : Tbl (BitVec 16)) : Boots s { s with cmap := m } := ⟨_, _, _, rfl⟩

theorem boots_applyMap (s : State) (c site : Nat) (retire : Bool) : Boots s (s.applyMap c site retire) := by
  unfold State.applyMap
  exact (boots_cmap s _).trans (boots_modDie _ (dieOf c) _)

theorem boots_loadMap (s : State) (d : Die) : Boots s (s.loadMap d) :=
  ((boots_cmap s _).trans (boots_modDie _ d _)).trans (Boots.foldl _ (fun t v => boots_applyMap t (mcCore v) (mcSite v) (mcRetire v)) _ _)

theorem boots_passStep (s : State) (d : Die) : Boots s (s.passStep d) := by
  unfold State.passStep
  split
  · exact boots_modDie s d _
  · exact (boots_loadMap s d).trans (boots_modDie _ d _)
  · exact Boots.refl s

theorem boots_bootOn (s : State) (ns : Nat) : Boots s (s.bootOn ns) := by
  have published : ∀ (b : Bool) (t : State) (d : Die), Boots t (if b then t.publish d else t) := fun b t d => by
    split
    · unfold State.publish State.modBoot
      exact boots_modDie t d _
    · exact Boots.refl t
  unfold State.bootOn
  split
  · exact Boots.refl s
  · exact ((boots_passStep s .west).trans (boots_passStep _ .east)).trans ((published _ _ .west).trans (published _ _ .east))

/-- Dies that are in neither of the last steps stay as they are (R14). -/
theorem bootOn_idle (s : State) (ns : Nat) (hw : s.west.boot.step ∉ [6, 7]) (he : s.east.boot.step ∉ [6, 7]) : s.bootOn ns = s := by
  have h : ∀ b : Boot, b.step ∉ [6, 7] → b.passing = false := fun b hb => by simpa [Boot.passing] using hb
  simp [State.bootOn, h _ hw, h _ he]

/-- Cells put outside the module leave its own bytes. -/
theorem tget_puts_above (m l : List Host.Cell) (a : Nat) (hm : Memory.wf m = true) (h : ∀ p ∈ l, p.1 ≠ a) :
    tget (l.foldl (fun t p => tput t memDefault p.1 p.2) m) memDefault a = tget m memDefault a := by
  have hn : l.reverse.find? (fun q => q.1 == a) = none := by simpa using h
  rw [tget_foldl_tput m l a hm, hn]
  rfl

/-- The module's own addresses lie in no window of the host or a peer (R105). -/
theorem regionOf_inside (a : Nat) (h : a < 0x080000000000) : regionOf a = .hbm ∨ regionOf a = .dur ∨ regionOf a = .lens ∨ regionOf a = .none := by
  unfold regionOf
  split_ifs <;> simp <;> omega

/-- What passes before a move changes bytes outside the module alone. -/
theorem advance_byte (s : State) (t : Turn) (a : Nat) (hm : Memory.wf s.mem = true) (ha : a < 0x080000000000) : (s.advance t).byte a = s.byte a := by
  unfold State.advance State.byte
  rw [putCells_mem]
  refine tget_puts_above s.mem _ a hm fun p hp he => ?_
  obtain ⟨-, hf⟩ := List.mem_filter.1 hp
  rw [he] at hf
  rcases regionOf_inside a ha with h | h | h | h <;> simp [h] at hf

/-- It is time, and bytes of memory. -/
theorem advance_cases (s : State) (t : Turn) : ∃ mem, s.advance t = { s.runTime t.ns with mem := mem, cycles := s.cycles + Nat.max 1 t.cycles } :=
  (putCells_cases _ _).imp fun _ h => h

/-- Of an error that is slewed away, no more than one ns in each 10,000 passes (R11). -/
theorem runTime_slew (s : State) (ns : Nat) : ∃ lag gain, (s.runTime ns).time = s.time + BitVec.ofNat 64 (ns - lag + gain) ∧ (s.runTime ns).slewDebt = s.slewDebt - lag ∧
    (s.runTime ns).slewGain = s.slewGain - gain ∧ lag ≤ s.slewDebt ∧ gain ≤ s.slewGain ∧ 10000 * lag ≤ s.slewAcc + ns ∧ 10000 * gain ≤ s.slewAcc + ns := by
  have hl : Nat.min s.slewDebt ((s.slewAcc + ns) / 10000) ≤ (s.slewAcc + ns) / 10000 := Nat.min_le_right _ _
  have hg : Nat.min s.slewGain ((s.slewAcc + ns) / 10000) ≤ (s.slewAcc + ns) / 10000 := Nat.min_le_right _ _
  exact ⟨_, _, rfl, rfl, rfl, Nat.min_le_left _ _, Nat.min_le_left _ _, by omega, by omega⟩

/-- The time and the bytes that a move names pass, and bring-up with them (log 1). -/
theorem passes_advance (s : State) (cy ns : Nat) (far : List Host.Cell) (act : Act) (r : List Turn) :
    Passes s cy ns far r ((State.advance { s with agenda := r } ⟨cy, ns, far, act⟩).bootOn ns) := by
  obtain ⟨mem, ha⟩ := advance_cases { s with agenda := r } ⟨cy, ns, far, act⟩
  obtain ⟨west, east, cmap, hb⟩ := boots_bootOn (State.advance { s with agenda := r } ⟨cy, ns, far, act⟩) ns
  have hbyte : ∀ a, ((State.advance { s with agenda := r } ⟨cy, ns, far, act⟩).bootOn ns).byte a = (State.advance { s with agenda := r } ⟨cy, ns, far, act⟩).byte a := by
    rw [hb]
    exact fun _ => rfl
  refine ⟨?_, ?_, fun hw he => ?_, fun hm a h => (hbyte a).trans (advance_byte _ _ a hm h), fun hf => ?_⟩
  · rw [hb, ha]
    rfl
  · rw [hb, ha]
    exact runTime_slew s ns
  · rw [bootOn_idle _ ns (by rw [ha]; exact hw) (by rw [ha]; exact he), ha]
    exact ⟨rfl, rfl, rfl⟩
  · rw [hb, hf]
    rfl

/-! ## The next issue -/

/-- A processor in a block with a context that has nothing before its next instruction runs it. -/
theorem plan_runs (s : State) (c n : Nat) (p : Proc) (x : Ctx) (i : Instr) (hc : s.current c p = some n) (hx : s.ctx c n = some x) (ha : x.asyncDue p = false)
    (hw : p = .ep ∨ x.waitSet = none) (hd : decodeFor p ((s.core c).fetch p x.lid (x.pcOf p)) = .ok i) (hp : x.parity p i = none)
    (hb : s.badCode c p x.lid (x.pcOf p) (encode i).length = none) : s.plan c p = .run i := by
  simp only [State.plan, hc, hx]
  split
  · next h =>
    rw [hw.resolve_left nofun] at h
    exact nomatch h
  · simp only [hd, hb, hp, ha, Bool.false_eq_true, if_false]

end Sys2Proof.Machine

namespace Sys2Proof.Proofs
open Sys2Proof Sys2Proof.Machine Sys2Proof.Claims

/-- Settles O24: what passes before the move is no business of the processor's plan, which runs the instruction. -/
theorem stepRunsTheDecodedInstruction : Obligations.StepRunsTheDecodedInstruction := by
  unfold Obligations.StepRunsTheDecodedInstruction
  intro s cy ns far r c n p x i hpow hag hc hx ha hw hd hp hb
  have P := passes_advance s cy ns far (.issue c p) r
  set t := (State.advance { s with agenda := r } ⟨cy, ns, far, .issue c p⟩).bootOn ns with ht
  refine ⟨t, P, ?_⟩
  have hstep : step s = t.issue c p := by
    simp only [step, State.nextTurn, hag, State.move, hpow, ht]
    rfl
  have hcur : t.current c p = some n := by
    rw [P.rest]
    exact hc
  have haim : t.aim c p = { t with cur := ⟨c, n, p⟩ } := by
    rw [State.aim, hcur]
    rfl
  have hcur' : State.current { t with cur := ⟨c, n, p⟩ } c p = some n := hcur
  have hplan : State.plan { t with cur := ⟨c, n, p⟩ } c p = .run i := by
    rw [P.rest]
    exact plan_runs _ c n p x i hc hx ha hw hd hp hb
  rw [hstep, State.issue]
  simp only [haim, hcur', hplan, Option.isNone_some, Bool.false_eq_true, if_false]

end Sys2Proof.Proofs

/-! SUPPORT. Accesses to plain bytes of HBM, and the issue of `AMO` in each of its forms (R69, R72, R251, R252, R431). -/
namespace Sys2Proof.Machine
open Sys2Proof Sys2Proof.Claims

/-! ## Plain bytes of HBM -/

theorem regionOf_hbm {a : Nat} (h : a < 0x010000000000) : regionOf a = .hbm := if_pos h

section
variable {s : State} {pas : List Nat} (h : Plain s pas)
include h

theorem plain_region : ∀ a ∈ pas, regionOf a = .hbm := fun a ha => regionOf_hbm (h a ha).1

theorem plain_homeAddr : ∀ a ∈ pas, s.homeAddr a = a := fun a ha => homeAddr_hbm (plain_region h a ha)

theorem plain_map_homeAddr : pas.map s.homeAddr = pas := by
  conv_rhs => rw [← List.map_id pas]
  exact List.map_congr_left fun a ha => plain_homeAddr h a ha

/-- The address of the first of them, and 0 where there is none, is its own home. -/
theorem plain_homeAddr_head : s.homeAddr (pas.headD 0) = pas.headD 0 := by
  cases pas with
  | nil => rfl
  | cons a r => exact plain_homeAddr h a (List.mem_cons_self ..)

/-- They are neither registers nor durable. -/
theorem plain_any {q : Nat → Bool} (hq : ∀ a, regionOf a = .hbm → q a = false) : pas.any (fun a => q (s.homeAddr a)) = false := by
  rw [List.any_eq_false]
  intro a ha
  rw [plain_homeAddr h a ha, hq a (plain_region h a ha)]
  exact Bool.false_ne_true

end

/-! ## The issue of an access -/

/-- An access on plain bytes is neither durable nor one to registers, and its bytes are at home. -/
theorem accessNew_plain {s : State} {pas : List Nat} (h : Plain s pas) (x : Ctx) (kind : AKind) (cls : BitVec 4) (va : Word) (size : Nat) (data : Word) (dreg : Nat) (sgn : Bool) :
    (Access.new s x kind cls va size false pas data dreg sgn).mmio = false ∧ (Access.new s x kind cls va size false pas data dreg sgn).durable = false ∧
    (Access.new s x kind cls va size false pas data dreg sgn).addrs = pas ∧
    (Access.new s x kind cls va size false pas data dreg sgn).left = if pas.headD 0 % size = 0 then [] else List.range size := by
  refine ⟨?_, ?_, plain_map_homeAddr h, ?_⟩
  · exact plain_any h (q := isMmio) fun a ha => by simp [isMmio, ha]
  · exact plain_any h (q := isDur) fun a ha => by simp [isDur, ha]
  · have hm : pas.any (fun a => isMmio (s.homeAddr a)) = false := plain_any h fun a ha => by simp [isMmio, ha]
    simp [Access.new, hm]

/-- An access that issues joins those of its context. -/
theorem launchAcc_eq (s : State) (c n : Nat) (a : Access) (x : Ctx) (hx : s.ctx c n = some x) : s.launchAcc c n a = (s.setCtx c n (withAcc x a)).tick := by
  have hc : ∃ l, x.carry a = { x with ap := { x.ap with carried := l } } := by
    unfold Ctx.carry
    extract_lets on ids
    split <;> exact ⟨_, rfl⟩
  obtain ⟨l, hl⟩ := hc
  simp only [State.launchAcc, State.modCtx_some _ _ _ _ x hx, withAcc, hl, Bool.or_eq_true, beq_iff_eq]

@[simp] theorem modCtx_setCtx_tick (s : State) (c n : Nat) (x : Ctx) (f : Ctx → Ctx) : (s.setCtx c n x).tick.modCtx c n f = (s.setCtx c n (f x)).tick := by
  refine (State.modCtx_some (s.setCtx c n x).tick c n f x (State.ctx_setCtx s c n x)).trans ?_
  exact congrArg State.tick (State.setCtx_setCtx s c n x (f x))

/-- Noting the step of an `AMO.SC` (R72) changes no context. -/
theorem modCtx_lastSc (s : State) (c n : Nat) (x : Ctx) (f : Ctx → Ctx) (v : Option Nat) :
    ((s.setCtx c n x).tick.modCore c fun k => { k with lastSc := v }).modCtx c n f = (s.setCtx c n (f x)).tick.modCore c fun k => { k with lastSc := v } := by
  have hx : ((s.setCtx c n x).tick.modCore c fun k => { k with lastSc := v }).ctx c n = some x := by
    simp [State.ctx, State.setCtx]
  rw [State.modCtx_some _ c n f x hx]
  simp [State.setCtx, State.modCore, State.setCore, State.tick, State.core]

/-! ## Atomics -/

theorem amoAccess_eq {s : State} {pas : List Nat} (h : Plain s pas) (x : Ctx) (f : AmoF) (sc hold rt : Bool) :
    { Access.new s x .amo f.cls (x.ap.s' f.a.toNat) (if f.w32 then 4 else 8) false pas (x.ap.s' f.b.toNat) (sPhys x.ap.rrb f.d.toNat) false with
      cmp := x.ap.s' f.c.toNat, op := f.op, ord := f.ord, scope := f.scope, sc := sc, hold := hold, retry := rt, tag := if rt then x.ap.retryTag else x.ap.amoTag + 1 } =
    Claims.amoNew s x f pas sc hold rt := by
  obtain ⟨hm, hd, ha, hl⟩ := accessNew_plain h x .amo f.cls (x.ap.s' f.a.toNat) (if f.w32 then 4 else 8) (x.ap.s' f.b.toNat) (sPhys x.ap.rrb f.d.toNat) false
  simp only [hm, hd, ha, hl]
  rfl

/-- A retry counts from the issue of the `AMO` it repeats (R431). -/
theorem original_amoNew (s : State) (x : Ctx) (f : AmoF) (pas : List Nat) (sc hold : Bool) :
    x.ap.original (Claims.amoNew s x f pas sc hold true) = amoAcc s x f pas sc hold true := by
  simp only [ApSt.original, amoAcc, if_true]
  cases x.ap.unknown.find? fun b => b.tag == (Claims.amoNew s x f pas sc hold true).tag && (Claims.amoNew s x f pas sc hold true).same b <;> rfl

theorem holdAfter_eq (l : List Nat) (h : Bool) (g : Nat) :
    holdAfter l h g = if h ∧ l.length < 4 then (if g ∈ l then l else l ++ [g]) else l.filter (· != g) := by
  simp [holdAfter]

/-- The hold set and AMOTAG after the issue of an `AMO` (R69, R252). -/
theorem afterAmo_eq (x : Ctx) (a : Access) (g : Nat) (hold rt : Bool) :
    ({ withAcc x a with hold := holdAfter (withAcc x a).hold hold g,
                        ap := if rt then (withAcc x a).ap else { (withAcc x a).ap with amoTag := if rt then x.ap.retryTag else x.ap.amoTag + 1 } } : Ctx).pass .ap 1 =
      afterAmo x a g hold rt := by
  rw [holdAfter_eq]
  cases rt <;> rfl

/-- The state after an `AMO` with one of its accesses has issued (R251, R252). -/
def afterIssue (f : AmoF) (s : State) (c n : Nat) (x : Ctx) (pas : List Nat) (sc hold rt : Bool) : State :=
  { s.setCtx c n (afterAmo x (amoAcc s x f pas sc hold rt) (pas.headD 0 / 8) hold rt) with serial := s.serial + 1 }

section
variable {f : AmoF} {s : State} {c n : Nat} {x : Ctx} {pas : List Nat}
  (hi : Issues s c n x f.g ([f.d, f.a, f.b] ++ (if f.op = .cas then [f.c] else [])))
include hi

theorem amoIssue_misaligned (hold rt : Bool) (hm : (x.ap.s' f.a.toNat).toNat % (if f.w32 then 4 else 8) ≠ 0) :
    amoIssue f false hold rt s = s.takeTrap c n .ap 0x07 9 (x.ap.s' f.a.toNat) x.ap.pc := by
  simp only [amoIssue, hi.run, Bool.false_and, Bool.false_eq_true, if_false, hm, ne_eq, not_false_eq_true, if_true]
  rfl

theorem amoIssue_eq (sc hold rt : Bool) (ha : (x.ap.s' f.a.toNat).toNat % (if f.w32 then 4 else 8) = 0)
    (hs : s.scored c x false true (x.ap.s' f.a.toNat).toNat (if f.w32 then 4 else 8) = false) (hf : (s.core c).inFlight false < 32)
    (hx : s.apXlate c x .atomic (x.ap.s' f.a.toNat) (if f.w32 then 4 else 8) = (s, .ok pas)) (hp : Plain s pas) (hw : s.windowOf (pas.headD 0) = none)
    (hsc : sc = true → (∃ l, s.launch x.lid = some l ∧ l.at 42 1 ≠ 0) ∧ s.scSlot c x.lid = true) :
    amoIssue f sc hold rt s = (if sc then (afterIssue f s c n x pas sc hold rt).modCore c (fun k => { k with lastSc := some (s.cycles / 4) }) else afterIssue f s c n x pas sc hold rt) := by
  have horig : (if rt then x.ap.original (Claims.amoNew s x f pas sc hold rt) else Claims.amoNew s x f pas sc hold rt) = amoAcc s x f pas sc hold rt := by
    cases rt
    · rfl
    · exact original_amoNew s x f pas sc hold
  have hfl : decide (flightLimit ≤ (s.core c).inFlight false) = false := decide_eq_false (Nat.not_le.2 hf)
  cases sc with
  | false =>
    simp only [amoIssue, hi.run, Bool.false_and, Bool.or_self, Bool.false_eq_true, if_false, ha, hs, hfl, hx, hw, Option.isSome_none, ne_eq, not_true_eq_false,
      amoAccess_eq hp, horig, launchAcc_eq s c n _ x hi.at'.ctx, modCtx_setCtx_tick, plain_homeAddr_head hp, finish, afterAmo_eq]
    rfl
  | true =>
    obtain ⟨⟨l, hl, hwheel⟩, hslot⟩ := hsc rfl
    have hz : (l.at 42 1 == 0) = false := by simpa using hwheel
    simp only [amoIssue, hi.run, State.launchOf, hl, hz, hslot, Bool.true_and, Bool.not_true, Bool.or_self, Bool.false_and, Bool.false_eq_true, if_false, if_true, ha, hs, hfl, hx, hw,
      Option.isSome_none, ne_eq, not_true_eq_false, amoAccess_eq hp, horig, launchAcc_eq s c n _ x hi.at'.ctx, modCtx_setCtx_tick, modCtx_lastSc, plain_homeAddr_head hp, finish, afterAmo_eq]
    rfl

end

end Sys2Proof.Machine

namespace Sys2Proof.Proofs
open Sys2Proof Sys2Proof.Machine Sys2Proof.Claims

/-- Settles O36: each form is the one issue with its flags. -/
theorem atomicsIssue : Obligations.AtomicsIssue := by
  unfold Obligations.AtomicsIssue
  intro f s c n x pas hi
  refine ⟨fun hm => ⟨congrArg _ (amoIssue_misaligned hi false false hm), congrArg _ (amoIssue_misaligned hi true false hm),
    fun h => congrArg _ (amoIssue_misaligned hi h true hm)⟩, fun ha hs hf hx hp hw => ?_⟩
  have plain := fun hold rt => amoIssue_eq hi false hold rt ha hs hf hx hp hw nofun
  refine ⟨⟨congrArg _ (plain false false), fun _ => rfl⟩, ⟨congrArg _ (plain true false), fun _ => rfl⟩, fun h => ⟨congrArg _ (plain h true), fun _ => rfl⟩, ?_⟩
  rintro ⟨l, m, hl, h42, hm, hwheel, hlast⟩ h
  have hslot : s.scSlot c x.lid = true := by simp [State.scSlot, State.wheelStep, hm, hwheel, hlast]
  have sc := fun rt => amoIssue_eq hi true h rt ha hs hf hx hp hw fun _ => ⟨⟨l, hl, h42⟩, hslot⟩
  exact ⟨⟨congrArg _ (sc false), fun _ => rfl⟩, ⟨congrArg _ (sc true), fun _ => rfl⟩⟩

end Sys2Proof.Proofs

/-! SUPPORT. Waits on addresses (R71, R255, R256): the monitors a write of memory or `WAKE` releases, and those armed. -/
namespace Sys2Proof.Machine
open Sys2Proof Sys2Proof.Claims

/-! ## Moving past an instruction -/

/-- The pass ends of a loop move the pc, the loop stack, RRB and the stage predicates alone (R245). -/
theorem passEnd_cases (l : List LoopEntry) (x : ApSt) (next : Word) : ∃ pc loops rrb p, x.passEnd next l = { x with pc := pc, loops := loops, rrb := rrb, p := p } := by
  induction l generalizing x with
  | nil => exact ⟨_, _, _, _, rfl⟩
  | cons e r ih =>
    have hrot : ∀ b : Bool, ∃ rrb p, (if e.rot then x.rotate b else x) = { x with rrb := rrb, p := p } := fun b => by
      cases e.rot <;> exact ⟨_, _, rfl⟩
    obtain ⟨rrb, p, hx⟩ := hrot (decide (e.done + 1 < e.n))
    simp only [ApSt.passEnd, hx]
    split
    · split
      · exact ⟨_, _, _, _, rfl⟩
      · exact ih _
    · exact ⟨_, _, _, _, rfl⟩

theorem pass_ap_cases (x : Ctx) (len : Nat) : ∃ pc loops rrb p, x.pass .ap len = { x with ap := { x.ap with pc := pc, loops := loops, rrb := rrb, p := p } } := by
  obtain ⟨pc, loops, rrb, p, h⟩ := passEnd_cases x.ap.loops x.ap (x.ap.pc + BitVec.ofNat 64 (8 * len))
  exact ⟨pc, loops, rrb, p, congrArg (fun a => { x with ap := a }) h⟩

theorem ctx_modCtx (s : State) (c n d m : Nat) (f : Ctx → Ctx) : (s.modCtx d m f).ctx c n = if c = d ∧ n = m then (s.ctx c n).map f else s.ctx c n := by
  by_cases h : c = d ∧ n = m
  · obtain ⟨rfl, rfl⟩ := h
    rw [if_pos ⟨rfl, rfl⟩]
    cases hx : s.ctx c n with
    | none => simp [State.modCtx, hx]
    | some x => rw [State.modCtx_some _ _ _ _ x hx, State.ctx_setCtx, Option.map_some]
  · rw [if_neg h]
    unfold State.modCtx
    split
    · exact State.ctx_setCtx_ne s d m c n _ (by omega)
    · rfl

/-! ## Monitors -/

/-- x with its monitor released, if it is armed on one of the granules (R71). -/
def Ctx.woken (gs : List Nat) (x : Ctx) : Ctx :=
  { x with ap := { x.ap with armed := x.ap.armed.map fun a => if a.st.isNone && gs.contains (a.granule / 8) then { a with st := some 0 } else a } }

theorem woken_idle {x : Ctx} {gs : List Nat} (h : x.ap.armed = none) : x.woken gs = x := by
  rw [Ctx.woken, h, Option.map_none, ← h]

/-- k with the monitors of all its contexts released that are armed on one of the granules. -/
def Core.woken (gs : List Nat) (k : Core) : Core := { k with ctxs := k.ctxs.map fun q => (q.1, q.2.woken gs) }

theorem tfind_mapVal {α β : Type} (f : α → β) (t : Tbl α) (k : Nat) : tfind (t.map fun p => (p.1, f p.2)) k = (tfind t k).map f := by
  induction t with
  | nil => rfl
  | cons p r ih =>
    simp only [List.map_cons, tfind, ih]
    split_ifs <;> rfl

/-- A write of granules releases the monitors armed on them, of every context. -/
theorem wakeMonitors_cores (s : State) (gs : List Nat) : (s.wakeMonitors gs).cores = s.cores.map fun p => (p.1, p.2.woken gs) := by
  unfold State.wakeMonitors
  refine List.map_congr_left fun p _ => congrArg (fun l => (p.1, { p.2 with ctxs := l })) (List.map_congr_left fun q _ => congrArg (Prod.mk q.1) ?_)
  cases h : q.2.ap.armed with
  | none => simp only [woken_idle h]
  | some a =>
    simp only [Ctx.woken, h, Option.map_some]
    split
    · rfl
    · rw [← h]

@[simp] theorem wakeMonitors_ctx (s : State) (gs : List Nat) (c n : Nat) : (s.wakeMonitors gs).ctx c n = (s.ctx c n).map (Ctx.woken gs) := by
  rw [State.ctx, State.core, tget, wakeMonitors_cores, tfind_mapVal, State.ctx, State.core, tget]
  cases tfind s.cores c with
  | none => rfl
  | some k => exact tfind_mapVal (Ctx.woken gs) k.ctxs n

@[simp] theorem wakeTasks_ctx (s : State) (gs : List Nat) (c n : Nat) : (s.wakeTasks gs).ctx c n = s.ctx c n := rfl

/-- An armed monitor on one of the granules is released with status 0. -/
theorem woken_armed {x : Ctx} {m : Armed} {gs : List Nat} (ha : x.ap.armed = some m) (hs : m.st = none) (hg : m.granule / 8 ∈ gs) :
    (x.woken gs).ap.armed = some { m with st := some 0 } := by
  simp [Ctx.woken, ha, hs, hg]

/-- A write of memory changes a context in its monitor alone. -/
theorem writeMem_ctx (s : State) (l : List Host.Cell) (c n : Nat) : (s.writeMem l).ctx c n = (s.ctx c n).map (Ctx.woken (granulesOf l)) := by
  obtain ⟨mem, hm⟩ := putCells_cases s l
  obtain ⟨poison, hp⟩ := unpoison_cases { s with mem := mem } l
  unfold State.writeMem
  rw [hm, hp]
  exact wakeMonitors_ctx _ _ c n

theorem mem_granulesOf {l : List Host.Cell} {g : Nat} : g ∈ granulesOf l ↔ ∃ p ∈ l, p.1 / 8 = g := by simp [granulesOf]

/-! ## Accesses that have been performed -/

theorem unperformed_eq_false {x : Ctx} (h : ∀ a ∈ x.ap.accs, a.performed = true) : x.unperformed = false := by
  rw [Ctx.unperformed, List.any_eq_false]
  intro a ha
  simp [h a ha]

theorem unperformed_eq_true {x : Ctx} (h : ∃ a ∈ x.ap.accs, a.performed = false) : x.unperformed = true := by
  obtain ⟨a, ha, hp⟩ := h
  exact List.any_eq_true.2 ⟨a, ha, by simp [hp]⟩

/-! ## Stores -/

/-- An access in flight is the one its number names. -/
theorem accOf_inFlight {s : State} {c n : Nat} {x : Ctx} {a : Access} (h : InFlight s c n x a) : s.accOf c n a.id = some (x, a) := by
  obtain ⟨hx, hm, honly⟩ := h
  have hf : (x.ap.accs.find? fun b => b.id == a.id) = some a := by
    cases hb : x.ap.accs.find? fun b => b.id == a.id with
    | none => exact absurd (beq_self_eq_true a.id) (by simpa using List.find?_eq_none.1 hb a hm)
    | some b => rw [honly b (List.mem_of_find?_eq_some hb) (by simpa using List.find?_some hb)]
  simp only [State.accOf, hx, Option.bind_some, hf, Option.map_some]

/-- The oldest access may be performed (R124). -/
theorem mayPerform_oldest {x : Ctx} {a : Access} (h : Oldest x a) : x.ap.mayPerform a = true := by
  rw [ApSt.mayPerform, Bool.not_eq_true', List.any_eq_false]
  intro b hb hw
  simp only [Bool.and_eq_true, decide_eq_true_eq, Bool.not_eq_true'] at hw
  exact absurd (h b hb hw.1.1) (by simp [hw.1.2])

@[simp] theorem length_leBytes (n x : Nat) : (leBytes n x).length = n := by
  induction n generalizing x with
  | zero => rfl
  | succ n ih => rw [leBytes, List.length_cons, ih]

/-- Plain cells are at home, and none of them is durable. -/
theorem plain_cells {s : State} {pas : List Nat} (hp : Plain s pas) (l : List Byte) :
    (pas.zip l).map (fun p => (s.homeAddr p.1, p.2)) = pas.zip l ∧ (pas.zip l).filter (fun p => isDur p.1) = [] := by
  constructor
  · refine (List.map_congr_left fun p h => ?_).trans (List.map_id _)
    rw [plain_homeAddr hp p.1 (List.of_mem_zip h).1]
    rfl
  · rw [List.filter_eq_nil_iff]
    intro p h
    simp [isDur, plain_region hp p.1 (List.of_mem_zip h).1]

theorem hold_cases (s : State) (pas : List Nat) (l : List RelRec) : ∃ durRel, s.hold pas l = { s with durRel := durRel } := by
  unfold State.hold
  split <;> exact ⟨_, rfl⟩

/-- A store of whole plain bytes is performed by a write of them, at home and volatile. -/
theorem performStore_plain {s : State} {c n : Nat} {x : Ctx} {a : Access} (hp : Plain s a.addrs) (hl : a.isLocal = false) (hm : a.mmio = false) :
    ∃ durRel, s.performStore c n x a = State.retire { s.writeMem (a.addrs.zip (leBytes a.size a.data.toNat)) with durRel := durRel } c n a := by
  obtain ⟨hhome, hdur⟩ := plain_cells hp (leBytes a.size a.data.toNat)
  have hs : s.storeNow c n x a = (s.writeMem (a.addrs.zip (leBytes a.size a.data.toNat))).hold ((a.addrs.zip (leBytes a.size a.data.toNat)).map Prod.fst) (s.releases c n x a) := by
    simp only [State.storeNow, hl, hm, Bool.false_eq_true, if_false, State.storeCells, hhome, hdur, List.isEmpty_nil, if_true]
  obtain ⟨durRel, hh⟩ := hold_cases (s.writeMem (a.addrs.zip (leBytes a.size a.data.toNat))) ((a.addrs.zip (leBytes a.size a.data.toNat)).map Prod.fst) (s.releases c n x a)
  exact ⟨durRel, by rw [State.performStore, hs, hh]⟩

/-- A change of a context that leaves its monitor alone. -/
theorem modCtx_armed (s : State) (c n d m : Nat) (f : Ctx → Ctx) (hf : ∀ x, (f x).ap.armed = x.ap.armed) :
    ((s.modCtx d m f).ctx c n).map (fun x => x.ap.armed) = (s.ctx c n).map fun x => x.ap.armed := by
  rw [ctx_modCtx]
  split
  · rw [Option.map_map]
    exact congrFun (congrArg Option.map (funext hf)) _
  · rfl

theorem retire_armed (s : State) (c n d m : Nat) (a : Access) : ((s.retire d m a).ctx c n).map (fun x => x.ap.armed) = (s.ctx c n).map fun x => x.ap.armed :=
  modCtx_armed s c n d m _ fun _ => rfl

@[simp] theorem setS_armed (x : ApSt) (d : Nat) (v : Word) : (x.setS d v).armed = x.armed := by
  unfold ApSt.setS ApSt.setPhys
  split <;> rfl

theorem setS_s (x : ApSt) (d : Nat) (v : Word) : (x.setS d v).s = if sPhys x.rrb d = 0 then x.s else tset x.s (sPhys x.rrb d) v := by
  unfold ApSt.setS ApSt.setPhys
  split <;> rfl

@[simp] theorem pass_ap_armed (x : Ctx) (len : Nat) : (x.pass .ap len).ap.armed = x.ap.armed := by
  obtain ⟨pc, loops, rrb, p, h⟩ := pass_ap_cases x len
  rw [h]

@[simp] theorem pass_ap_s (x : Ctx) (len : Nat) : (x.pass .ap len).ap.s = x.ap.s := by
  obtain ⟨pc, loops, rrb, p, h⟩ := pass_ap_cases x len
  rw [h]

theorem natsFrom_head (g n : Nat) : (natsFrom g (n + 1)).headD 0 = g := by rw [natsFrom_succ]; rfl

end Sys2Proof.Machine

namespace Sys2Proof.Proofs
open Sys2Proof Sys2Proof.Machine Sys2Proof.Claims

/-! ## WAITA and WAKE -/

section
variable {s : State} {c n : Nat} {x : Ctx} {g : Nat} (hg : g + 8 ≤ 0x010000000000)

section
variable {f : WaitAF} (hi : Issues s c n x f.g [f.d, f.a, f.b, f.c])
include hi

theorem waita_released {m : Armed} {v : Nat} (ha : x.ap.armed = some m) (hs : m.st = some v) :
    Leaves (.waita f) s c n ({ x with ap := { x.ap.setS f.d.toNat (BitVec.ofNat 64 v) with armed := none } }.pass .ap 1) := by
  refine ⟨_, ?_, rfl, fun _ => rfl⟩
  simp only [exec, execWaita, hi.run, ha, hs, State.modCtx_some s c n _ x hi.at'.ctx, finish_done_setCtx]

theorem waita_stalls {m : Armed} (ha : x.ap.armed = some m) (hs : m.st = none) : exec (.waita f) s = .next (s.modCore c fun k => k.endBlock .ap) := by
  simp only [exec, execWaita, hi.run, ha, hs, finish_stall]

variable (ha : x.ap.armed = none) (hx : s.apXlate c x .read (x.ap.s' f.a.toNat &&& ~~~7#64) 8 = (s, .ok (natsFrom g 8))) (hp : ∀ b ∈ x.ap.accs, b.performed = true)
include ha hx hp hg

/-- A `WAITA` on a granule of HBM with no earlier access on its way compares, and arms its monitor where its die's table has room. -/
theorem exec_waita : exec (.waita f) s = .next (finish c n .ap 1 x.ap.pc
    (if s.num g 8 ≠ (x.ap.s' f.b.toNat).toNat then .done (s.setCtx c n { x with ap := { x.ap.setS f.d.toNat 0 with armed := none } })
     else if 4096 ≤ s.armedIn (homeDie g) then .done (s.setCtx c n { x with ap := { x.ap.setS f.d.toNat 1 with armed := none } })
     else .stall (s.setCtx c n { x with ap := { x.ap with armed := some ⟨s.serial, g, s.time.toNat, (x.ap.s' f.c.toNat).toNat, none⟩ } }).tick)) := by
  have hr : regionOf g = .hbm := regionOf_hbm (by omega)
  have hst : isStore g = true := by simp [isStore, hr]
  have hopen : ∀ q : Access → Bool, (x.ap.accs.any fun b => !b.performed && !b.isLocal && q b) = false := fun q => by
    rw [List.any_eq_false]
    intro b hb
    simp [hp b hb]
  simp only [exec, execWaita, hi.run, ha, hx, natsFrom_head, homeAddr_hbm hr, hst, hopen, State.modCtx_some s c n _ x hi.at'.ctx, monitorDepth, Bool.not_true, Bool.false_eq_true, if_false]
  rfl

theorem waita_differs (hd : s.num g 8 ≠ (x.ap.s' f.b.toNat).toNat) :
    Leaves (.waita f) s c n ({ x with ap := { x.ap.setS f.d.toNat 0 with armed := none } }.pass .ap 1) :=
  ⟨_, by rw [exec_waita hg hi ha hx hp, if_pos hd, finish_done_setCtx], rfl, fun _ => rfl⟩

theorem waita_full (hd : s.num g 8 = (x.ap.s' f.b.toNat).toNat) (hn : 4096 ≤ s.armedIn (homeDie g)) :
    Leaves (.waita f) s c n ({ x with ap := { x.ap.setS f.d.toNat 1 with armed := none } }.pass .ap 1) :=
  ⟨_, by rw [exec_waita hg hi ha hx hp, if_neg (not_not_intro hd), if_pos hn, finish_done_setCtx], rfl, fun _ => rfl⟩

theorem waita_arms (hd : s.num g 8 = (x.ap.s' f.b.toNat).toNat) (hn : s.armedIn (homeDie g) < 4096) : Ends (.waita f) s fun t => SameMem s t ∧
    t = { (s.setCtx c n { x with ap := { x.ap with armed := some ⟨s.serial, g, s.time.toNat, (x.ap.s' f.c.toNat).toNat, none⟩ } }).modCore c (fun k => k.endBlock .ap) with serial := s.serial + 1 } := by
  refine ⟨_, ?_, fun _ => ?_, rfl⟩
  · rw [exec_waita hg hi ha hx hp, if_neg (not_not_intro hd), if_neg (Nat.not_le.2 hn), finish_stall]
    rfl
  · rfl

end

theorem store_releases {m : Armed} {d k : Nat} {y : Ctx} {a : Access} (hx : s.ctx c n = some x) (ha : x.ap.armed = some m) (hs : m.st = none) (hm : m.granule = g)
    (hf : InFlight s d k y a) (hk : a.kind = .st) (hl : a.isLocal = false) (hmm : a.mmio = false) (ho : Oldest y a) (hleft : a.left = []) (hp : Plain s a.addrs)
    (hw : s.accWay d y a = .clear) (hlen : a.addrs.length = a.size) (hg : ∃ p ∈ a.addrs, p / 8 = g / 8) :
    Ends (.storePerformed d k a.id) s fun t => ∃ z, t.ctx c n = some z ∧ z.ap.armed = some { m with st := some 0 } := by
  obtain ⟨durRel, hst⟩ := performStore_plain (c := d) (n := k) (x := y) hp hl hmm
  set cells := a.addrs.zip (leBytes a.size a.data.toNat) with hcells
  have hgran : m.granule / 8 ∈ granulesOf cells := by
    obtain ⟨p, hpa, hpg⟩ := hg
    have hkeys : cells.map Prod.fst = a.addrs := List.map_fst_zip (by rw [length_leBytes, hlen])
    rw [← hkeys] at hpa
    obtain ⟨q, hq, rfl⟩ := List.mem_map.1 hpa
    exact mem_granulesOf.2 ⟨q, hq, by rw [hpg, hm]⟩
  have hwr : State.ctx { s.writeMem cells with durRel := durRel } c n = some (x.woken (granulesOf cells)) := by
    change (s.writeMem cells).ctx c n = _
    rw [writeMem_ctx, hx, Option.map_some]
  have hz := retire_armed { s.writeMem cells with durRel := durRel } c n d k a
  rw [hwr, Option.map_some, woken_armed ha hs hgran] at hz
  obtain ⟨z, hz, hza⟩ := Option.map_eq_some_iff.1 hz
  refine ⟨_, ?_, z, hz, hza⟩
  simp only [exec, execStorePerformed, accOf_inFlight hf, hk, mayPerform_oldest ho, hw, hleft, hst, bne_self_eq_false, Bool.not_true, Bool.or_self, Bool.false_eq_true,
    if_false, List.isEmpty_nil, if_true]

theorem waita_timesOut {m : Armed} (hx : s.ctx c n = some x) (ha : x.ap.armed = some m) (hs : m.st = none) (ht : m.timeout ≠ 0) (hn : m.start + m.timeout ≤ s.time.toNat) :
    Leaves (.waitaTimeout c n) s c n { x with ap := { x.ap with armed := some { m with st := some 2 } } } := by
  refine ⟨_, ?_, rfl, fun _ => rfl⟩
  simp only [exec, execWaitaTimeout, State.modCtx_some s c n _ x hx, ha, hs]
  simp [ht, hn]

theorem waita_waits {m : Armed} (hx : s.ctx c n = some x) (ha : x.ap.armed = some m) (ht : m.timeout = 0) : Leaves (.waitaTimeout c n) s c n x := by
  refine ⟨_, ?_, rfl, fun _ => rfl⟩
  simp only [exec, execWaitaTimeout, State.modCtx_some s c n _ x hx, ha]
  simp [ht]

theorem wake_releases (hg : g + 8 ≤ 0x010000000000) {f : R2} (hi : Issues s c n x f.g [f.d, f.a]) (hp : ∀ a ∈ x.ap.accs, a.performed = true)
    (hx : s.apXlate c x .read (x.ap.s' f.a.toNat &&& ~~~7#64) 8 = (s, .ok (natsFrom g 8))) :
    Ends (.wake f) s fun t => SameMem s t ∧ (∀ d m y, s.ctx d m = some y → ∀ k, y.ap.armed = some k → k.st = none → k.granule = g → ∃ z, t.ctx d m = some z ∧ z.ap.armed = some { k with st := some 0 }) ∧
      (∃ y, t.ctx c n = some y ∧ y.ap.s = (x.ap.setS f.d.toNat (BitVec.ofNat 64 (s.armedOn (g / 8)))).s) := by
  set u := (s.wakeMonitors [g / 8]).wakeTasks [g / 8] with hu
  have huc : ∀ d m, u.ctx d m = (s.ctx d m).map (Ctx.woken [g / 8]) := fun d m => wakeMonitors_ctx s [g / 8] d m
  have hcn : u.ctx c n = some (x.woken [g / 8]) := by rw [huc, hi.at'.ctx, Option.map_some]
  set y := { x.woken [g / 8] with ap := (x.woken [g / 8]).ap.setS f.d.toNat (BitVec.ofNat 64 (s.armedOn (g / 8))) } with hy
  have hexec : exec (.wake f) s = .next (u.setCtx c n (y.pass .ap 1)) := by
    simp only [exec, execWake, hi.run, unperformed_eq_false hp, hx, natsFrom_head, homeAddr_hbm (regionOf_hbm (show g < 0x010000000000 by omega)), Bool.false_eq_true, if_false]
    rw [← hu, State.modCtx_some u c n _ _ hcn, finish_done_setCtx]
  refine ⟨_, hexec, fun a => ?_, fun d m z hz k hk hs hgr => ?_, y.pass .ap 1, State.ctx_setCtx .., ?_⟩
  · exact byte_congr _ _ (by simp [hu]) a
  · have hw := woken_armed (gs := [g / 8]) hk hs (by simp [hgr])
    by_cases hdm : d = c ∧ m = n
    · obtain ⟨rfl, rfl⟩ := hdm
      obtain rfl : x = z := Option.some.inj (hi.at'.ctx.symm.trans hz)
      exact ⟨_, State.ctx_setCtx .., by rw [pass_ap_armed, hy, setS_armed, hw]⟩
    · exact ⟨_, by rw [State.ctx_setCtx_ne _ _ _ _ _ _ (by omega), huc, hz, Option.map_some], hw⟩
  · rw [pass_ap_s, hy, setS_s, setS_s]
    rfl

end

/-- Settles O39, clause by clause. -/
theorem waitsOnAddresses : Obligations.WaitsOnAddresses := by
  unfold Obligations.WaitsOnAddresses
  intro s c n x g _ hg
  refine ⟨fun f hi => ⟨fun m v => waita_released hi, fun m => waita_stalls hi, fun ha hx hp => ⟨waita_differs hg hi ha hx hp, waita_arms hg hi ha hx hp, waita_full hg hi ha hx hp⟩⟩,
    fun m d k y a hx ha hs hm hf hk hl hmm ho hleft hp hw hlen _ => store_releases hx ha hs hm hf hk hl hmm ho hleft hp hw hlen,
    fun m hx ha hs => ⟨waita_timesOut hx ha hs, waita_waits hx ha⟩, fun f hi hp hx => wake_releases hg hi hp hx⟩

end Sys2Proof.Proofs

/-! SUPPORT. Barriers, triggers and launches (R62, R68, R283 to R285): arrivals, and what a submission reads of its record. -/
namespace Sys2Proof.Machine
open Sys2Proof Sys2Proof.Claims

/-! ## Waits for an answer -/

/-- A write of a physical register waits for no register. -/
theorem setPhys_pend (x : ApSt) (p : Nat) (v : Word) : (x.setPhys p v).pend = x.pend := by
  unfold ApSt.setPhys
  split <;> rfl

theorem ctx_answered (x : Ctx) (p : Nat) (v : Word) : x.answered p v = Claims.answered x p v := by
  rw [Ctx.answered, Claims.answered, setPhys_pend]

/-! ## Barriers and triggers -/

theorem b2n_inj {u v : Bool} (h : b2n u = b2n v) : u = v := by
  cases u <;> cases v <;> simp [b2n] at h ⊢

/-- Each member of a duplex launch has 16 barriers of its own (R74). -/
theorem barKey_inj {u v : Bool} {i k : Nat} (hi : i < 16) (hk : k < 16) (h : barKey u i = barKey v k) : u = v ∧ i = k := by
  unfold barKey at h
  have hb : b2n u = b2n v ∧ i = k := by omega
  exact ⟨b2n_inj hb.1, hb.2⟩

theorem bar_arrive (l : Launch) (member : Bool) (b : Nat) (ids : List Nat) :
    (l.arrive member b ids).bar member b = if (l.bar member b).2 + 1 = l.gang then (((l.bar member b).1 + 1) % 2 ^ 32, 0) else ((l.bar member b).1, (l.bar member b).2 + 1) := by
  rw [Launch.bar, Launch.arrive, tget_tset_self]
  simp only [decide_eq_true_eq]

theorem bar_arrive_ne (l : Launch) {member u : Bool} {b k : Nat} (ids : List Nat) (hb : b < 16) (hk : k < 16) (h : ¬(u = member ∧ k = b)) :
    (l.arrive member b ids).bar u k = l.bar u k :=
  tget_tset_ne _ _ _ _ _ fun e => h (barKey_inj hk hb e)

/-- `TRIG` marks its rank; the launch is triggered once every rank is marked (R62). -/
theorem mem_trigger (l : Launch) (member : Bool) (rank : Nat) (ids : List Nat) (k : Nat) :
    k ∈ (l.trigger member rank ids).trig ↔ k ∈ l.trig ∨ k = rank + 65536 * b2n member := by
  unfold Launch.trigger
  dsimp only
  split
  · rename_i hc
    exact ⟨Or.inl, fun h => h.elim id fun e => e ▸ List.contains_iff_mem.1 hc⟩
  · rw [List.mem_cons, or_comm]

theorem triggered_trigger (l : Launch) (member : Bool) (rank : Nat) (ids : List Nat) :
    (l.trigger member rank ids).triggered = true ↔ l.triggered = true ∨ (l.trigger member rank ids).trig.length = l.allCores.length := by
  simp only [Launch.trigger, Bool.or_eq_true, decide_eq_true_eq]

/-! ## Bytes of a number -/

theorem leNat_div (l : List Byte) (b : Nat) : leNat l / 256 ^ b = leNat (l.drop b) := by
  induction b generalizing l with
  | zero => simp
  | succ b ih =>
    cases l with
    | nil => simp [leNat]
    | cons x r =>
      have hx := x.isLt
      rw [List.drop_succ_cons, ← ih, Nat.pow_succ', ← Nat.div_div_eq_div_mul, leNat]
      congr 1
      omega

theorem leNat_mod (l : List Byte) (n : Nat) : leNat l % 256 ^ n = leNat (l.take n) := by
  induction n generalizing l with
  | zero => simp [leNat, Nat.mod_one]
  | succ n ih =>
    cases l with
    | nil => simp [leNat]
    | cons x r =>
      have hx := x.isLt
      rw [List.take_succ_cons, leNat, leNat, ← ih, Nat.pow_succ', Nat.mod_mul]
      congr 1
      · omega
      · congr 2
        omega

/-- A field of a record laid byte by byte is the number of its bytes. -/
theorem bytesAt_leNat {w : Nat} (l : List Byte) {b n : Nat} (h : 8 * (b + n) ≤ w) : bytesAt (BitVec.ofNat w (leNat l)) b n = leAt l b n := by
  have hw : 2 ^ w = 256 ^ b * (256 ^ n * 2 ^ (w - 8 * (b + n))) := by
    rw [← Nat.mul_assoc, ← Nat.pow_add, show 256 = 2 ^ 8 from rfl, ← Nat.pow_mul, ← Nat.pow_add]
    congr 1
    omega
  rw [bytesAt, fld, BitVec.toNat_ofNat, Nat.pow_mul, Nat.pow_mul, show 2 ^ 8 = 256 from rfl, hw, Nat.mod_mul_right_div_self, Nat.mod_mul_right_mod, leNat_div, leNat_mod, leAt]

theorem leAt_one {l : List Byte} {i : Nat} {v : Byte} (h : l[i]? = some v) : leAt l i 1 = v.toNat := by
  rw [leAt, List.take_one, List.head?_drop, h]
  simp [leNat]

/-! ## Records of launches -/

theorem length_mapM_ok {α β ε : Type} (f : α → Except ε β) (l : List α) {r : List β} (h : l.mapM f = .ok r) : r.length = l.length := by
  induction l generalizing r with
  | nil =>
    cases h
    rfl
  | cons x t ih =>
    rw [List.mapM_cons] at h
    cases hx : f x with
    | error e =>
      rw [hx] at h
      cases h
    | ok y =>
      cases ht : t.mapM f with
      | error e =>
        rw [hx, ht] at h
        cases h
      | ok u =>
        rw [hx, ht] at h
        cases h
        rw [List.length_cons, List.length_cons, ih ht]

theorem readBytes_plain {s : State} {pas : List Nat} (h : Plain s pas) : s.readBytes pas = .ok (pas.map s.byte) :=
  mapM_ok _ s.byte pas fun a ha => readByte_hbm (plain_region h a ha)

theorem schedRead_plain {s : State} {d : Die} {pasid va n : Nat} {mask : BitVec 16} {pas : List Nat} (hx : s.xlateNowAll d pasid mask .read va n = .ok pas) (hp : Plain s pas) :
    s.schedRead d pasid mask va n = .ok (pas.map s.byte) := by
  simp only [State.schedRead, hx, readBytes_plain hp]

/-- The bytes of a record with its level lowered to a bound (R51). -/
def loweredTo (m : Nat) (b : List Byte) : List Byte :=
  b.take 36 ++ leBytes 1 (leAt b 36 1 / 16 * 16 + Nat.min (leAt b 36 1 % 16) m) ++ b.drop 37

/-- Of a record whose bytes can be read, every reading holds those bytes, with the level lowered. -/
theorem readRecord_rcd {s : State} {q rec : Nat} {b : List Byte} (ha : rec % 128 = 0) (hb : s.schedRead (queueDie q) (lqPasid (s.lq q)) 0xFFFF rec 128 = .ok b)
    {r : BitVec 1024} {producers : List (BitVec 32)} {sched : List Byte} {bad : Option Bad} (h : s.readRecord q rec 0 0 = .ok (r, producers, sched, bad)) :
    r = BitVec.ofNat 1024 (leNat (loweredTo (lqMaxPri (s.lq q)) b)) := by
  unfold State.readRecord at h
  simp only [ha, hb, ne_eq, not_true_eq_false, if_false, if_true] at h
  repeat' split at h
  all_goals cases h
  all_goals rfl

theorem leAt_lowered_ne {m i : Nat} {b : List Byte} {v : Byte} (hl : 36 < b.length) (hi : i ≠ 36) (h : b[i]? = some v) : leAt (loweredTo m b) i 1 = v.toNat := by
  refine leAt_one ?_
  rw [← h, loweredTo, List.append_assoc]
  have := List.set_eq_take_append_cons_drop (l := b) (i := 36) (a := BitVec.ofNat 8 (leAt b 36 1 / 16 * 16 + Nat.min (leAt b 36 1 % 16) m))
  rw [if_pos hl] at this
  exact (congrArg (·[i]?) this).symm.trans (List.getElem?_set_ne hi.symm)

theorem leAt_lowered {m : Nat} {b : List Byte} {v : Byte} (h : b[36]? = some v) :
    leAt (loweredTo m b) 36 1 / 16 = v.toNat / 16 ∧ leAt (loweredTo m b) 36 1 % 16 = Nat.min (v.toNat % 16) m := by
  have hl : 36 < b.length := (List.getElem?_eq_some_iff.1 h).1
  have hv := v.isLt
  have hm : Nat.min (v.toNat % 16) m ≤ v.toNat % 16 := Nat.min_le_left ..
  have hb : leAt (loweredTo m b) 36 1 = v.toNat / 16 * 16 + Nat.min (v.toNat % 16) m := by
    rw [leAt_one (v := BitVec.ofNat 8 (v.toNat / 16 * 16 + Nat.min (v.toNat % 16) m)), BitVec.toNat_ofNat, Nat.mod_eq_of_lt (by omega)]
    rw [loweredTo, leAt_one h]
    simp [leBytes, hl.le]
  omega

/-! ## Translation and the counters -/

/-- s with its next number and its queues' next sequence numbers changed: no translation reads either. The proofs `(rfl)` keep `simp` from unfolding both sides. -/
def State.counted (s : State) (serial : Nat) (lqseq : Tbl Nat) : State := { s with serial := serial, lqseq := lqseq }

section
variable (s : State) (k : Nat) (q : Tbl Nat)

theorem headFrame_counted (n f : Nat) : (s.counted k q).headFrame n f = s.headFrame n f := by
  induction n generalizing f with
  | zero => rfl
  | succ n ih =>
    simp only [State.headFrame, ih]
    rfl

theorem frameBusy_counted (a : Nat) : (s.counted k q).frameBusy a = s.frameBusy a := by
  have h : (s.counted k q).headFrame = s.headFrame := funext fun n => funext fun f => headFrame_counted s k q n f
  unfold State.frameBusy
  rw [h]
  rfl

theorem walkFrom_counted (va l t : Nat) : (s.counted k q).walkFrom va l t = s.walkFrom va l t := by
  induction l generalizing t with
  | zero => rfl
  | succ l ih =>
    simp only [State.walkFrom, ih]
    rfl

theorem walk_counted (en : Bool) (pasid va : Nat) : (s.counted k q).walk en pasid va = s.walk en pasid va := by
  simp only [State.walk, walkFrom_counted]
  rfl

theorem homeAddr_counted (a : Nat) : (s.counted k q).homeAddr a = s.homeAddr a := (rfl)

theorem retired_counted : (s.counted k q).retired = s.retired := (rfl)

theorem trained_counted (a : Nat) : (s.counted k q).trained a = s.trained a := (rfl)

theorem tag_counted (f : Nat) : (s.counted k q).tag f = s.tag f := (rfl)

theorem mapped_counted (a : Nat) : (s.counted k q).mapped a = s.mapped a := by
  simp only [State.mapped, homeAddr_counted, retired_counted, trained_counted]

theorem attrOk_counted (land : Bool) (pa e : Nat) : (s.counted k q).attrOk land pa e = s.attrOk land pa e := (rfl)

theorem checkLeaf_counted (mask : BitVec 16) (a : Acc) (land : Bool) (t : TlbE) (lvl ent va : Nat) :
    (s.counted k q).checkLeaf mask a land t lvl ent va = s.checkLeaf mask a land t lvl ent va := by
  simp only [State.checkLeaf, homeAddr_counted, mapped_counted, attrOk_counted, tag_counted]

theorem xlateRaw_counted (d : Die) (pasid : Nat) (mask : BitVec 16) (a : Acc) (va : Nat) : (s.counted k q).xlateRaw d pasid mask a va = s.xlateRaw d pasid mask a va := by
  simp only [State.xlateRaw, walk_counted, checkLeaf_counted]
  rfl

theorem xlateNow_counted (d : Die) (pasid : Nat) (mask : BitVec 16) (a : Acc) (va : Nat) : (s.counted k q).xlateNow d pasid mask a va = s.xlateNow d pasid mask a va := by
  simp only [State.xlateNow, xlateRaw_counted, frameBusy_counted]
  rfl

theorem xlateNowAll_counted (d : Die) (pasid : Nat) (mask : BitVec 16) (a : Acc) (va n : Nat) :
    (s.counted k q).xlateNowAll d pasid mask a va n = s.xlateNowAll d pasid mask a va n := by
  simp only [State.xlateNowAll, xlateNow_counted]

end

/-! ## Submissions -/

/-- The record of an accepted launch, at a of its space: not read yet, or read, with the level lowered to its queue's bound (R42, R51, R118). -/
structure RecordOf (s : State) (a : Nat) (m : Launch) : Prop where
  pend : m.pend = none ∨ m.pend = some (a, 0, 0)
  rcd : ∀ pas, a % 128 = 0 → s.xlateNowAll (queueDie m.queue) m.pasid 0xFFFF .read a 128 = .ok pas → Plain s pas → m.pend = none →
    m.rcd = BitVec.ofNat 1024 (leNat (loweredTo (lqMaxPri (s.lq m.queue)) (pas.map s.byte)))

/-- What the reading of a launch's record comes to. -/
theorem readLaunch_record {s : State} {l : Launch} {a : Nat} (hp : l.pend = some (a, 0, 0)) (hl : l.pasid = lqPasid (s.lq l.queue)) :
    RecordOf s a (s.readLaunch l).2 := by
  unfold State.readLaunch
  simp only [hp]
  split
  · exact ⟨.inr hp, fun _ _ _ _ h => by simp [hp] at h⟩
  · rename_i hr
    refine ⟨.inl rfl, fun pas ha hx hpl _ => readRecord_rcd ha (schedRead_plain ?_ hpl) hr⟩
    rw [← hl]
    exact hx

theorem plain_counted {s : State} {k : Nat} {q : Tbl Nat} {pas : List Nat} (h : Plain s pas) : Plain (s.counted k q) pas := fun a ha => by
  obtain ⟨hr, hp, hb⟩ := h a ha
  exact ⟨hr, hp, (frameBusy_counted s k q a).trans hb⟩

theorem recordOf_counted {s : State} {k : Nat} {q : Tbl Nat} {a : Nat} {m : Launch} (h : RecordOf (s.counted k q) a m) : RecordOf s a m where
  pend := h.pend
  rcd pas ha hx hp hn := h.rcd pas ha ((xlateNowAll_counted s k q _ _ _ _ _ _).trans hx) (plain_counted hp) hn

/-- An accepted submission of a whole record changes the sequence number of its queue, the launches, and what the scheduler asks for. -/
theorem submit_record (s : State) (q : Nat) (fn : Func) (a : Nat) (h : s.discards q fn true = false) (hq : q < 64) :
    ∃ west east serial outbox m,
      s.submit q fn true a 0 0 =
        ({ s with
            west := west, east := east, serial := serial, outbox := outbox
            lqseq := tset s.lqseq q ((tget s.lqseq 0 q + 1) % 2 ^ 26), launches := s.launches ++ [m] },
          some (BitVec.ofNat 32 (q * 2 ^ 26 + tget s.lqseq 0 q % 2 ^ 26))) ∧
      m.lid = BitVec.ofNat 32 (q * 2 ^ 26 + tget s.lqseq 0 q % 2 ^ 26) ∧ m.queue = q ∧ m.fn = fn ∧ m.phase = .queued ∧ m.accepted = s.time.toNat ∧ m.pasid = s.lq q % 2 ^ 20 ∧ RecordOf s a m := by
  unfold State.submit
  rw [if_neg (by simp [h])]
  extract_lets +onlyGivenNames seq lid l
  have hr := readLaunch_record (s := { s.tick with lqseq := tset s.lqseq q ((seq + 1) % 2 ^ 26) }) (l := l) (a := a) rfl rfl
  obtain ⟨A, rcd, producers, sched, bad, ssStart, pend, e⟩ := readLaunch_cases { s.tick with lqseq := tset s.lqseq q ((seq + 1) % 2 ^ 26) } l
  obtain ⟨west, east, serial, outbox, k⟩ := A.rest
  have hlid : lid = BitVec.ofNat 32 (q * 2 ^ 26 + seq % 2 ^ 26) := congrArg (fun k => BitVec.ofNat 32 (k * 2 ^ 26 + seq % 2 ^ 26)) (Nat.mod_eq_of_lt hq)
  dsimp only at k e hr ⊢
  rw [e] at hr
  rw [k, e]
  refine ⟨west, east, serial, outbox, _, congrArg₂ Prod.mk ?_ (congrArg some hlid), hlid, rfl, rfl, rfl, rfl, ?_, recordOf_counted hr⟩
  · rfl
  · simp [l, lqPasid, fld]

/-! ## Freezing -/

theorem addFrozen_ctx (s : State) (r : BitVec 32) (c n : Nat) : (s.addFrozen r).ctx c n = s.ctx c n := by
  unfold State.addFrozen
  split
  · rfl
  · cases masterDie r <;> rfl

/-- A context that is not frozen is frozen by a record (R399). -/
theorem freezeWith_ctx {s : State} {c n : Nat} {x : Ctx} (hx : s.ctx c n = some x) (hf : x.frozen = none) (p : Proc) (byCmd : Bool) (r : FaultRec) :
    (s.freezeWith c n p byCmd r).ctx c n = some { x with frozen := some { rcd := r, byCmd := byCmd, proc := p } } := by
  simp only [State.freezeWith, hx, hf, Option.isSome_none, Bool.false_eq_true, if_false]
  rw [addFrozen_ctx, State.ctx, State.core_modCore]
  exact State.ctx_setCtx s c n _

end Sys2Proof.Machine

namespace Sys2Proof.Proofs
open Sys2Proof Sys2Proof.Machine Sys2Proof.Claims

section
variable {s : State} {c n : Nat} {x : Ctx} {l : Launch} (hl : s.launch x.lid = some l)

/-! ## BARA and TRIG -/

section
variable {f : BaraF} (hi : Issues s c n x f.g [f.d])
include hl hi

theorem bara_waits (hu : ∃ a ∈ x.ap.accs, a.performed = false) : Stalls (.bara f) s c := by
  simp only [Stalls, exec, execBara, hi.run, State.launchOf, hl, unperformed_eq_true hu, Bool.true_or, if_true, finish_stall]

theorem bara_arrives (hu : ∀ a ∈ x.ap.accs, a.performed = true) (hw : x.ap.wait = none) :
    Ends (.bara f) s fun t => SameMem s t ∧
      t.ctx c n = some ((waiting x (sPhys x.ap.rrb f.d.toNat) (.barrier (sPhys x.ap.rrb f.d.toNat) (BitVec.ofNat 64 (l.bar x.member f.bar.toNat).1))).pass .ap 1) ∧
      t.launch x.lid = some (l.arrive x.member f.bar.toNat (s.relAll x)) := by
  set u := s.modLaunch x.lid fun l => l.arrive x.member f.bar.toNat (s.relAll x) with hu'
  refine ⟨u.setCtx c n _, ?_, fun _ => rfl, State.ctx_setCtx .., ?_⟩
  · simp only [exec, execBara, hi.run, State.launchOf, hl, unperformed_eq_false hu, hw, Option.isSome_none, Bool.or_self, Bool.false_eq_true, if_false]
    exact congrArg Host.Outcome.next (finish_done_setCtx c n .ap 1 _ u _)
  · rw [State.launch_setCtx, hu', State.launch_modLaunch, hl, Option.map_some]
    exact fun _ => rfl

end

theorem barrier_answers {p : Nat} {v : Word} (hx : s.ctx c n = some x) (hw : x.ap.wait = some (.barrier p v)) : Leaves (.barrierAnswer c n) s c n (answered x p v) := by
  refine ⟨_, ?_, rfl, fun _ => rfl⟩
  simp only [exec, execBarrierAnswer, State.modCtx_some s c n _ x hx, hw, ctx_answered]

section
variable {f : G0} (hi : Issues s c n x f.g [])
include hi

theorem trig_waits (hu : ∃ a ∈ x.ap.accs, a.performed = false) : Stalls (.trig f) s c := by
  simp only [Stalls, exec, execTrig, hi.run, unperformed_eq_true hu, if_true, finish_stall]

theorem trig_marks (hl : s.launch x.lid = some l) (hu : ∀ a ∈ x.ap.accs, a.performed = true) :
    Ends (.trig f) s fun t => SameMem s t ∧ t.ctx c n = some (x.pass .ap 1) ∧ t.launch x.lid = some (l.trigger x.member x.rank (s.relAll x)) := by
  set u := s.modLaunch x.lid fun l => l.trigger x.member x.rank (s.relAll x) with hu'
  refine ⟨u.setCtx c n (x.pass .ap 1), ?_, fun _ => rfl, State.ctx_setCtx .., ?_⟩
  · simp only [exec, execTrig, hi.run, unperformed_eq_false hu, Bool.false_eq_true, if_false]
    exact congrArg Host.Outcome.next (finish_done c n .ap 1 _ u x hi.at'.ctx)
  · rw [State.launch_setCtx, hu', State.launch_modLaunch, hl, Option.map_some]
    exact fun _ => rfl

end

/-! ## LAUNCH -/

section
variable {f : LaunchF} (hi : Issues s c n x f.g [f.d, f.a]) (hu : ∀ a ∈ x.ap.accs, a.performed = true) (hw : x.ap.wait = none)
include hl hi hu hw

theorem launch_accepted (hf : lqForeign (s.lq f.queue.toNat) l.fn = false) (hd : s.discards f.queue.toNat l.fn true = false) :
    let id : BitVec 32 := BitVec.ofNat 32 (f.queue.toNat * 2 ^ 26 + tget s.lqseq 0 f.queue.toNat % 2 ^ 26)
    Ends (.launch f) s fun t => SameMem s t ∧
      t.ctx c n = some ((waiting x (sPhys x.ap.rrb f.d.toNat) (.launch (sPhys x.ap.rrb f.d.toNat) (id.setWidth 64))).pass .ap 1) ∧
      tget t.lqseq 0 f.queue.toNat = (tget s.lqseq 0 f.queue.toNat + 1) % 2 ^ 26 ∧
      ∃ m, t.launches = s.launches ++ [m] ∧ m.lid = id ∧ m.queue = f.queue.toNat ∧ m.fn = l.fn ∧ m.phase = .queued ∧ m.accepted = s.time.toNat ∧
        m.pasid = (s.lq f.queue.toNat) % 2 ^ 20 ∧ RecordOf s (x.ap.s' f.a.toNat).toNat m := by
  intro id
  obtain ⟨west, east, serial, outbox, m, hs, hm⟩ := submit_record s f.queue.toNat l.fn (x.ap.s' f.a.toNat).toNat hd f.queue.isLt
  have hx : (s.submit f.queue.toNat l.fn true (x.ap.s' f.a.toNat).toNat 0 0).1.ctx c n = some x := by
    rw [hs]
    exact hi.at'.ctx
  refine ⟨(s.submit f.queue.toNat l.fn true (x.ap.s' f.a.toNat).toNat 0 0).1.setCtx c n _, ?_, ?_, State.ctx_setCtx .., ?_, m, ?_, hm⟩
  · simp only [exec, execLaunch, hi.run, State.launchOf, hl, unperformed_eq_false hu, hw, hf, Option.isSome_none, Bool.or_self, Bool.false_eq_true, if_false]
    rw [State.modCtx_some _ c n _ x hx, finish_done_setCtx, hs]
    rfl
  · rw [hs]
    exact fun _ => rfl
  · rw [hs]
    exact tget_tset_self ..
  · rw [hs]
    rfl

theorem launch_discarded (hf : lqForeign (s.lq f.queue.toNat) l.fn = false) (hd : s.discards f.queue.toNat l.fn true = true) :
    Ends (.launch f) s fun t => SameMem s t ∧
      t.ctx c n = some ((waiting x (sPhys x.ap.rrb f.d.toNat) (.launch (sPhys x.ap.rrb f.d.toNat) (BitVec.allOnes 64))).pass .ap 1) ∧
      t.launches = s.launches ∧ tget t.lqdrop 0 f.queue.toNat = Nat.min (tget s.lqdrop 0 f.queue.toNat + 1) 65535 := by
  refine ⟨(s.discard f.queue.toNat).setCtx c n _, ?_, fun _ => rfl, State.ctx_setCtx .., rfl, tget_tset_self ..⟩
  simp only [exec, execLaunch, hi.run, State.launchOf, hl, unperformed_eq_false hu, hw, hf, State.submit, hd, Option.isSome_none, Bool.or_self, Bool.false_eq_true, if_false, if_true]
  rw [State.modCtx_some (s.discard f.queue.toNat) c n _ x hi.at'.ctx, finish_done_setCtx]
  rfl

theorem launch_foreign (hf : lqForeign (s.lq f.queue.toNat) l.fn = true) (hz : x.frozen = none) :
    ∃ (t : State) (r : FaultRec), r.cls = 8 ∧ r.cause = 4 ∧ r.lid = x.lid ∧ r.addr = x.ap.s' f.a.toNat ∧
      (∃ y, t.ctx c n = some y ∧ y.frozen = some ⟨r, false, .ap⟩) ∧ exec (.launch f) s = .next ((t.toDevice r).modCtx c n fun y => y.pass .ap 1) := by
  set r := s.ctxRec c n x 8 2 4 mtAP 0 (some (x.ap.s' f.a.toNat).toNat) [(52, 1, 0)] with hr
  refine ⟨s.freezeWith c n .ap false r, r, rfl, rfl, rfl, BitVec.ofNat_toNat .., ⟨_, freezeWith_ctx hi.at'.ctx hz .ap false r, rfl⟩, ?_⟩
  simp only [exec, execLaunch, hi.run, State.launchOf, hl, unperformed_eq_false hu, hw, hf, State.freezeCtx, hi.at'.ctx, hz, Option.isSome_none, Bool.or_self, Bool.false_eq_true, if_false,
    if_true]
  rfl

end

theorem launch_answers {p : Nat} {v : Word} (hx : s.ctx c n = some x) (hw : x.ap.wait = some (.launch p v)) : Leaves (.launchAnswer c n) s c n (answered x p v) := by
  refine ⟨_, ?_, rfl, fun _ => rfl⟩
  simp only [exec, execLaunchAnswer, State.modCtx_some s c n _ x hx, hw, ctx_answered]

end

/-- The bytes of the record of an accepted launch. -/
theorem recordOf_bytes {s : State} {a : Nat} {m : Launch} (h : RecordOf s a m) {pas : List Nat} (ha : a % 128 = 0)
    (hx : s.xlateNowAll (queueDie m.queue) m.pasid 0xFFFF .read a 128 = .ok pas) (hp : Plain s pas) (hn : m.pend = none) {i v : Nat} (hv : pas[i]? = some v) :
    (i ≠ 36 → bytesAt m.rcd i 1 = (s.byte v).toNat) ∧
      (i = 36 → bytesAt m.rcd 36 1 / 16 = (s.byte v).toNat / 16 ∧ bytesAt m.rcd 36 1 % 16 = Nat.min ((s.byte v).toNat % 16) (lqMaxPri (s.lq m.queue))) := by
  have hlen : pas.length = 128 := (length_mapM_ok _ _ hx).trans (by simp [natsFrom])
  have hi : i < 128 := hlen ▸ (List.getElem?_eq_some_iff.1 hv).1
  have hb : (pas.map s.byte)[i]? = some (s.byte v) := by rw [List.getElem?_map, hv, Option.map_some]
  rw [h.rcd pas ha hx hp hn, bytesAt_leNat _ (by omega), bytesAt_leNat _ (by omega)]
  refine ⟨fun hne => leAt_lowered_ne (by rw [List.length_map]; omega) hne hb, fun he => ?_⟩
  subst he
  exact leAt_lowered hb

/-- Settles O40, clause by clause. -/
theorem barriersTriggersAndLaunches : Obligations.BarriersTriggersAndLaunches := by
  unfold Obligations.BarriersTriggersAndLaunches
  refine ⟨fun s c n x l hl => ⟨fun f hi => ⟨bara_waits hl hi, fun hu hw => ?_⟩, fun p v => barrier_answers, fun f hi => ⟨trig_waits hi, fun hu => ?_⟩⟩,
    fun s c n x l hl => ⟨fun f hi hu hw => ⟨fun hf hd => ?_, launch_discarded hl hi hu hw, launch_foreign hl hi hu hw⟩, fun p v => launch_answers⟩⟩
  · obtain ⟨t, ht, hm, hc, hlt⟩ := bara_arrives hl hi hu hw
    exact ⟨t, ht, hm, hc, _, hlt, rfl, bar_arrive .., fun u k hk hne => bar_arrive_ne l _ f.bar.isLt hk hne⟩
  · obtain ⟨t, ht, hm, hc, hlt⟩ := trig_marks hi hl hu
    have hb : 65536 * b2n x.member = if x.member then 65536 else 0 := by cases x.member <;> rfl
    exact ⟨t, ht, hm, hc, _, hlt, fun k => hb ▸ mem_trigger l x.member x.rank _ k, triggered_trigger .., rfl⟩
  · obtain ⟨t, ht, hm, hc, hs, m, hls, hlid, hq, hfn, hph, hac, hpas, hrec⟩ := launch_accepted hl hi hu hw hf hd
    refine ⟨t, ht, hm, hc, hs, m, hls, hlid, hq, hfn, hph, hac, hpas, hrec.pend, fun pas ha hx hp hn i v hv => ?_⟩
    rw [← hq] at hx ⊢
    exact recordOf_bytes hrec ha hx hp hn hv

end Sys2Proof.Proofs

/-! SUPPORT. What a write does to each control and status register (R84, R113, R261, R262, R322). -/
namespace Sys2Proof.Machine
open Sys2Proof Sys2Proof.Claims

/-- A write to a gap counter clears it (R322). -/
theorem epCsrPut_gap (x : Ctx) (v : Word) {k : Nat} (hk : k < 8) : x.epCsrPut (0x070 + k) v = { x with gapc := tdel x.gapc k } := by
  interval_cases k <;> rfl

/-- The words of the async fault slot are read-only on both processors (R262, R322). -/
theorem csrPut_afs (x : Ctx) (v : Word) {k : Nat} (hk : k < 8) : x.apCsrPut (0x040 + k) v = x ∧ x.epCsrPut (0x040 + k) v = x := by
  interval_cases k <;> exact ⟨rfl, rfl⟩

/-- RMODE takes the modes 0 to 4, and no reserved value (R84). -/
theorem csrPut_rmode (x : Ctx) (v : Word) :
    ((v.setWidth 3 : BitVec 3).toNat < 5 → x.csrPut 0x021 v = { x with rmode := v.setWidth 3 }) ∧ (5 ≤ (v.setWidth 3 : BitVec 3).toNat → x.csrPut 0x021 v = x) :=
  ⟨fun h => if_pos h, fun h => if_neg (Nat.not_lt.2 h)⟩

end Sys2Proof.Machine

namespace Sys2Proof.Proofs
open Sys2Proof Sys2Proof.Machine Sys2Proof.Claims

/-- Settles O13: the registers of the AP alone and of the EP alone, then those of `Ctx.csrPut`, which both maps share. -/
theorem csrWriteEffects : Obligations.CsrWriteEffects := by
  unfold Obligations.CsrWriteEffects
  refine fun x v => ⟨⟨rfl, rfl, rfl, rfl, rfl, rfl, fun k hk => ⟨_, epCsrPut_gap x v hk, rfl⟩⟩, ?_, ?_⟩
  · simp only [List.forall_mem_cons, List.not_mem_nil, false_imp_iff, implies_true, and_true]
    exact ⟨⟨rfl, rfl, rfl, (csrPut_rmode x v).1, (csrPut_rmode x v).2, ⟨rfl, rfl, rfl, rfl, rfl, rfl, rfl, rfl, rfl, rfl, rfl, rfl, rfl, rfl, rfl⟩, fun k hk => (csrPut_afs x v hk).1⟩,
      rfl, rfl, rfl, (csrPut_rmode x v).1, (csrPut_rmode x v).2, ⟨rfl, rfl, rfl, rfl, rfl, rfl, rfl, rfl, rfl, rfl, rfl, rfl, rfl, rfl, rfl⟩, fun k hk => (csrPut_afs x v hk).2⟩
  · simp only [List.forall_mem_cons, List.not_mem_nil, false_imp_iff, implies_true, and_true]
    exact ⟨rfl, rfl, rfl, rfl⟩

end Sys2Proof.Proofs

/-! SUPPORT. Rows, masks and flags of the vector unit (R85, R199, R296, R437): a row's lanes read back, the lanes of a broadcast, the bits of a mask, and the flags of an issue with the lane that its trap names. -/
namespace Sys2Proof.Machine
open Sys2Proof Sys2Proof.Claims

/-! ## Numbers laid side by side -/

/-- Numbers of w bits side by side, the first lowest. -/
def digits (w : Nat) (l : List Nat) : Nat := l.foldr (fun v acc => v % 2 ^ w + acc * 2 ^ w) 0

theorem natsFrom_zero (n : Nat) : natsFrom 0 n = List.range n := by simp [natsFrom]

theorem digits_cons (w v : Nat) (l : List Nat) : digits w (v :: l) = v % 2 ^ w + digits w l * 2 ^ w := rfl

theorem digits_append (w a : Nat) (l : List Nat) : digits w (l ++ [a]) = digits w l + a % 2 ^ w * 2 ^ (w * l.length) := by
  induction l with
  | nil => simp [digits]
  | cons v l ih =>
    rw [List.cons_append, digits_cons, digits_cons, ih, List.length_cons, Nat.mul_succ, Nat.pow_add]
    ring

theorem digits_lt (w : Nat) (l : List Nat) : digits w l < 2 ^ (w * l.length) := by
  induction l with
  | nil => simp [digits]
  | cons v l ih =>
    have hv := Nat.mod_lt v (Nat.two_pow_pos w)
    calc digits w (v :: l) < 2 ^ w + digits w l * 2 ^ w := Nat.add_lt_add_right hv _
      _ = (digits w l + 1) * 2 ^ w := by ring
      _ ≤ 2 ^ (w * l.length) * 2 ^ w := Nat.mul_le_mul_right _ ih
      _ = 2 ^ (w * (v :: l).length) := by rw [← Nat.pow_add, List.length_cons, Nat.mul_succ]

/-- The i-th of the numbers reads back. -/
theorem fld_digits (w : Nat) {l : List Nat} {i a : Nat} (h : l[i]? = some a) : fld (digits w l) (w * i) w = a % 2 ^ w := by
  induction l generalizing i with
  | nil => simp at h
  | cons v l ih =>
    have hv := Nat.mod_lt v (Nat.two_pow_pos w)
    cases i with
    | zero =>
      obtain rfl : v = a := by simpa using h
      simp [fld, digits_cons, Nat.add_mul_mod_self_right]
    | succ i =>
      have hd : digits w (v :: l) / 2 ^ w = digits w l := by
        rw [digits_cons, Nat.add_mul_div_right _ _ (Nat.two_pow_pos w), Nat.div_eq_of_lt hv, Nat.zero_add]
      rw [← ih (by simpa using h), fld, fld, Nat.mul_succ, Nat.add_comm, Nat.pow_add, ← Nat.div_div_eq_div_mul, hd]

/-- A sum of numbers of w bits, each at its place, lays them side by side. -/
theorem foldl_places (w : Nat) (fn : Nat → Nat) (n : Nat) :
    (List.range n).foldl (fun acc i => acc + fn i % 2 ^ w * 2 ^ (w * i)) 0 = digits w ((List.range n).map fn) := by
  induction n with
  | zero => rfl
  | succ n ih => rw [List.range_succ, List.foldl_append, ih, List.map_append, List.map_singleton, digits_append]; simp

/-! ## Lanes of rows -/

theorem laneOf_lt (r : Row) (w i : Nat) : laneOf r w i < 2 ^ w := Nat.mod_lt _ (Nat.two_pow_pos w)

theorem toNat_rowLanes {w : Nat} {l : List Nat} (h : w * l.length ≤ 2048) : (rowLanes w l).toNat = digits w l := by
  have hp := Nat.pow_le_pow_right Nat.two_pos h
  exact (BitVec.toNat_ofNat ..).trans (Nat.mod_eq_of_lt ((digits_lt w l).trans_le hp))

/-- Lane i of a row laid out from lanes. -/
theorem laneOf_rowLanes {w n i : Nat} {fn : Nat → Nat} (h : w * n ≤ 2048) (hi : i < n) : laneOf (rowLanes w ((List.range n).map fn)) w i = fn i % 2 ^ w := by
  rw [laneOf, toNat_rowLanes (by simpa using h)]
  exact fld_digits w (by simp [hi])

/-- A row laid out from n lanes is zero above them. -/
theorem rowLanes_lt {w n : Nat} {fn : Nat → Nat} (h : w * n ≤ 2048) : (rowLanes w ((List.range n).map fn)).toNat < 2 ^ (n * w) := by
  rw [toNat_rowLanes (by simpa using h), Nat.mul_comm n w]
  simpa using digits_lt w ((List.range n).map fn)

theorem bcast_eq {w : Nat} (hw : 0 < w) (v : Nat) : bcast w v = rowLanes w ((List.range (2048 / w)).map fun _ => v) := by
  rw [bcast, natsFrom_zero, show Nat.max 1 w = w from Nat.max_eq_right hw, foldl_places w fun _ => v]
  rfl

/-- Every lane of a broadcast holds its value. -/
theorem laneOf_bcast {w i : Nat} (hw : 0 < w) (v : Nat) (hi : i < 2048 / w) : laneOf (bcast w v) w i = v % 2 ^ w := by
  have hn := Nat.mul_div_le 2048 w
  rw [bcast_eq hw, laneOf_rowLanes hn hi]

theorem laneOf_zero (w i : Nat) : laneOf 0 w i = 0 := by
  show fld (0#2048).toNat _ _ = 0
  rw [BitVec.toNat_zero, fld, Nat.zero_div, Nat.zero_mod]

/-- A bit of a row is that of the lane it lies in. -/
theorem getLsbD_laneOf (r : Row) {w : Nat} (hw : 0 < w) (i : Nat) : r.getLsbD i = (laneOf r w (i / w)).testBit (i % w) := by
  rw [laneOf, fld, Nat.testBit_mod_two_pow, Nat.testBit_div_two_pow, decide_eq_true (Nat.mod_lt i hw), Bool.true_and, Nat.add_comm, Nat.div_add_mod]
  rfl

/-! ## Bits of masks -/

/-- A bit of bits laid side by side. -/
theorem testBit_digits {n j : Nat} (p : Nat → Bool) : (digits 1 ((List.range n).map fun i => b2n (p i))).testBit j = (decide (j < n) && p j) := by
  have hl := digits_lt 1 ((List.range n).map fun i => b2n (p i))
  rw [List.length_map, List.length_range, Nat.one_mul] at hl
  by_cases hj : j < n
  · have h := fld_digits 1 (l := (List.range n).map fun i => b2n (p i)) (i := j) (a := b2n (p j)) (by simp [hj])
    rw [fld, Nat.one_mul] at h
    rw [Nat.testBit_eq_decide_div_mod_eq, show _ % 2 = _ from h]
    cases p j <;> simp [hj, b2n]
  · rw [Nat.testBit_lt_two_pow (Nat.lt_of_lt_of_le hl (Nat.pow_le_pow_right Nat.two_pos (Nat.not_lt.1 hj)))]
    simp [hj]

/-- Active lanes take the bit given, the others keep theirs, and the bits from the lane count up are 0 (R303). -/
theorem getLsbD_maskBits (v : VIn) (d : Nat) (fn : Nat → Bool) {j : Nat} (hj : j < 256) :
    (v.maskBits d fn).getLsbD j = if v.n ≤ j then false else if v.act j then fn j else (v.x.mr d).getLsbD j := by
  have hb : ∀ b : Bool, b2n b = b2n b % 2 ^ 1 := by decide
  have h := foldl_places 1 (fun i => b2n (if v.act i then fn i else (v.x.mr d).getLsbD i)) v.n
  simp only [← hb, Nat.one_mul] at h
  rw [VIn.maskBits, natsFrom_zero, h, BitVec.getLsbD_ofNat, testBit_digits, decide_eq_true hj, Bool.true_and]
  by_cases hn : v.n ≤ j
  · simp [hn]
  · simp [hn, Nat.not_le.1 hn]

/-! ## Flags -/

/-- All the flags of an issue. -/
def allFlags (l : List (Nat × Flags)) : Flags := l.foldl (fun f p => f ||| p.2) 0
/-- The lowest lane that sets an enabled flag, as ETVAL names it (R437). -/
def firstLane (en : Flags) (l : List (Nat × Flags)) : Word := BitVec.ofNat 64 (match l.find? fun p => p.2 &&& en != 0 with | some p => p.1 | none => 0)
/-- The flags that the active lanes below n set, by lane. -/
def laneFlags (n : Nat) (act : Nat → Bool) (g : Nat → Flags) : List (Nat × Flags) :=
  (List.range n).filterMap fun i => if act i && g i != 0 then some (i, g i) else none

theorem mem_allFlags (l : List (Nat × Flags)) (b : Nat) : (allFlags l).getLsbD b = true ↔ ∃ p ∈ l, p.2.getLsbD b = true := by
  suffices h : ∀ f : Flags, (l.foldl (fun f p => f ||| p.2) f).getLsbD b = true ↔ f.getLsbD b = true ∨ ∃ p ∈ l, p.2.getLsbD b = true by
    simpa [allFlags] using h 0
  induction l with
  | nil => simp
  | cons p l ih => intro f; simp [ih, or_assoc]

/-- The trap of an issue, from all its flags. -/
theorem arithTrap_eq (en : Flags) (l : List (Nat × Flags)) :
    arithTrap en l = if allFlags l &&& en = 0 then none else some (0x20 + (allFlags l &&& en).toNat.log2, (allFlags l).toNat, firstLane en l) := by
  have h : (allFlags l &&& en).toNat = 0 ↔ allFlags l &&& en = 0 := by rw [← BitVec.toNat_inj]; rfl
  show (if (allFlags l &&& en).toNat = 0 then none else some (0x20 + bitLen (allFlags l &&& en).toNat - 1, (allFlags l).toNat, firstLane en l)) = _
  by_cases hz : (allFlags l &&& en).toNat = 0
  · rw [if_pos hz, if_pos (h.1 hz)]
  · rw [if_neg hz, if_neg (mt h.2 hz), bitLen, if_neg hz, ← Nat.add_assoc, Nat.add_sub_cancel]

theorem mem_laneFlags {n : Nat} {act : Nat → Bool} {g : Nat → Flags} {p : Nat × Flags} : p ∈ laneFlags n act g ↔ p.1 < n ∧ act p.1 = true ∧ g p.1 ≠ 0 ∧ p.2 = g p.1 := by
  simp only [laneFlags, List.mem_filterMap, List.mem_range, Option.ite_none_right_eq_some, Option.some.injEq, Bool.and_eq_true, bne_iff_ne]
  constructor
  · rintro ⟨i, hi, ⟨ha, hg⟩, rfl⟩
    exact ⟨hi, ha, hg, rfl⟩
  · rintro ⟨hi, ha, hg, he⟩
    exact ⟨p.1, hi, ⟨ha, hg⟩, Prod.ext rfl he.symm⟩

/-- The flags of the active lanes and the lane its trap names, as R85 and R437 have them. -/
theorem laneFlags_spec (n : Nat) (act : Nat → Bool) (en : Flags) (g : Nat → Flags) :
    LaneFlags n act en g (allFlags (laneFlags n act g)) (firstLane en (laneFlags n act g)) := by
  constructor
  · intro b _
    rw [mem_allFlags]
    constructor
    · rintro ⟨p, hp, hb⟩
      obtain ⟨hi, ha, -, he⟩ := mem_laneFlags.1 hp
      exact ⟨p.1, hi, ha, he ▸ hb⟩
    · rintro ⟨j, hj, ha, hb⟩
      exact ⟨(j, g j), mem_laneFlags.2 ⟨hj, ha, fun h => by simp [h] at hb, rfl⟩, hb⟩
  · intro j hj ha hg hlow
    have h0 : g j ≠ 0#6 := fun h => hg (by rw [h]; exact BitVec.zero_and)
    have hr : (List.range n).find? (fun i => Option.any (fun p => p.2 &&& en != 0) (if act i && g i != 0 then some (i, g i) else none)) = some j := by
      refine List.find?_range_eq_some.2 ⟨?_, List.mem_range.2 hj, fun i hi => ?_⟩
      · simpa [ha, h0] using hg
      · cases hai : act i
        · rfl
        · have := hlow i hi hai
          by_cases h0 : g i = 0 <;> simp_all
    have h : (laneFlags n act g).find? (fun p => p.2 &&& en != 0) = some (j, g j) := by
      rw [laneFlags, List.find?_filterMap, hr]
      simp [ha, h0]
    rw [firstLane, h]

end Sys2Proof.Machine

/-! SUPPORT. One issue of the vector unit on vector registers, broadcasts and zeros, while no matrix record writes the rows it names (R29, R295, R296, R405, R437): the rows it reads, the state it leaves, and the trap behind its effect. -/
namespace Sys2Proof.Machine
open Sys2Proof Sys2Proof.Claims

/-! ## Rows that no matrix record writes -/

theorem settleRow_idle {k : Core} (h : k.clob = []) (key : Nat) : k.settleRow key = k := by
  cases k
  subst h
  rfl

section
variable {s : State} {c : Nat} (hq : Quiet s c)
include hq

theorem vecRow_quiet (key : Nat) : s.vecRow c key = (s, (s.core c).accRow c key) := by
  simp [State.vecRow, Core.undef, hq.clob, hq.results]

theorem vecPut_quiet (key : Nat) (r : Row) : s.vecPut c key r = s.modCore c fun k => k.setAcc key r := by
  have hk : ((s.core c).setAcc key r).settleRow key = (s.core c).setAcc key r := settleRow_idle (k := (s.core c).setAcc key r) hq.clob key
  unfold State.vecPut State.modCore
  simp only [hq.writer key, hk]
  rw [State.clean, State.setCore_poisonLoc, hq.poison]
  rfl

theorem quiet_setAcc (key : Nat) (r : Row) : Quiet (s.modCore c fun k => k.setAcc key r) c := by
  constructor
  · rw [State.core_modCore]; exact hq.clob
  · rw [State.core_modCore]; exact hq.results
  · intro t
    rw [State.core_modCore]
    exact hq.writer t
  · exact hq.poison

end

/-! ## Operands -/

/-- The row that an operand field names, ports aside: a vector register, a broadcast of w bits or zeros (R211). -/
def State.readRow (s : State) (c : Nat) (x : Ctx) (w v : Nat) : Row :=
  if v < 1536 then (match (s.core c).vKey x.lid v with | some key => (s.core c).accRow c key | none => 0)
  else if 1552 ≤ v ∧ v < 1584 then bcast w (x.ep.e' (v - 1552)).toNat
  else 0

theorem opdRow_quiet {s : State} {c : Nat} (hq : Quiet s c) (x : Ctx) (w : Nat) {v : Nat} (hv : v < 1536 ∨ 1552 ≤ v) (pops : List (Nat × Row)) :
    s.opdRow c x w v pops = (s, s.readRow c x w v) := by
  unfold State.opdRow State.readRow
  by_cases h1 : v < 1536
  · rw [if_pos h1, if_pos h1]
    cases (s.core c).vKey x.lid v with
    | some key => exact vecRow_quiet hq key
    | none => rfl
  · rw [if_neg h1, if_neg h1, if_neg (by omega)]
    split <;> rfl

theorem readRow_reg {s : State} {c : Nat} {x : Ctx} {v key : Nat} (w : Nat) (hv : v < 1536) (hk : (s.core c).vKey x.lid v = some key) :
    s.readRow c x w v = (s.core c).accRow c key := by
  rw [State.readRow, if_pos hv, hk]

/-- A lane of an operand is the one that the statements name. -/
theorem laneOf_readRow (s : State) (c : Nat) (x : Ctx) {w : Nat} (hw : 0 < w) (v : BitVec 11) {i : Nat} (hi : i < 2048 / w) :
    laneOf (s.readRow c x w v.toNat) w i = opnd s c x w v i := by
  unfold State.readRow opnd
  by_cases h1 : v.toNat < 1536
  · rw [if_pos h1, if_pos h1]
    cases (s.core c).vKey x.lid v.toNat with
    | some key => rfl
    | none => exact laneOf_zero w i
  · rw [if_neg h1, if_neg h1]
    split
    · exact laneOf_bcast hw _ hi
    · exact laneOf_zero w i

theorem opnd_lt (s : State) (c : Nat) (x : Ctx) (w : Nat) (v : BitVec 11) (i : Nat) : opnd s c x w v i < 2 ^ w := by
  unfold opnd
  split
  · split
    · exact laneOf_lt ..
    · exact Nat.two_pow_pos w
  · split
    · exact Nat.mod_lt _ (Nat.two_pow_pos w)
    · exact Nat.two_pow_pos w

/-! ## The issue -/

/-- What an issue could see of its operands: all the rows that its fields name, VB's elements of wb bits. -/
def State.vin (s : State) (c : Nat) (x : Ctx) (f : EV) (wb : Nat) : VIn :=
  { bits := 2048, f := f, rm := rmOf x f, a := s.readRow c x (tyWidth f.t.toNat) f.va.toNat, b := s.readRow c x wb f.vb.toNat,
    d := if f.vd.toNat < 1536 then s.readRow c x 8 f.vd.toNat else 0, r := s.readRow c x 8 f.vb.toNat,
    be := if 1552 ≤ f.vb.toNat ∧ f.vb.toNat < 1584 then some (x.ep.e' (f.vb.toNat - 1552)) else none, x := x.ep }
/-- What the operation sees of them: the rows of the fields that are its operands. -/
def VIn.seen (v : VIn) (op : VOp) : VIn :=
  { v with a := if op.a then v.a else 0, b := if op.b then v.b else 0, d := if op.d then v.d else 0, r := if op.v2 then v.r else 0 }
/-- The result of an operation on vector registers, broadcasts and zeros. -/
def State.vres (s : State) (c : Nat) (x : Ctx) (f : EV) (op : VOp) : VRes := op.run ((s.vin c x f op.wb).seen op)
/-- The masks, the e register and the flags of a result, written. -/
def VRes.upd (res : VRes) (x : Ctx) : Ctx :=
  let e1 := res.m.foldl (fun (e : EpSt) p => e.setM p.1 p.2) x.ep
  { x with ep := match res.e with | some p => e1.setE p.1 p.2 | none => e1, fflags := x.fflags ||| allFlags res.fl }
/-- A row of a result, written to the register of a field. -/
def State.putRow (s : State) (c : Nat) (x : Ctx) (v : Nat) : Option Row → State
  | none => s
  | some r => match (s.core c).vKey x.lid v with | some key => s.vecPut c key r | none => s
/-- The rows of a result, the second behind the first. -/
def State.putRows (s : State) (c : Nat) (x : Ctx) (f : EV) (res : VRes) : State := (s.putRow c x f.vd.toNat res.d).putRow c x f.vb.toNat res.r
/-- How the statements have an issue end that leaves context x in state s: with the trap of an enabled flag behind its effect (R437). -/
def State.ended (s : State) (c n : Nat) (x : Ctx) (en fl : BitVec 6) (tv : Word) : State :=
  let y := x.pass .ep 1
  let u := s.setCtx c n y
  if fl &&& en = 0 then u else u.takeTrap c n .ep (0x20 + (fl &&& en).toNat.log2) fl.toNat tv y.ep.pc

/-- The fields of an operation name registers of the allotment, broadcasts and zeros, and no port (R211, R295). -/
structure NoPorts (s : State) (c : Nat) (x : Ctx) (f : EV) (op : VOp) : Prop where
  regs : ∀ v ∈ vRegs f op, ((s.core c).vKey x.lid v).isSome
  src : ∀ v ∈ [f.va, f.vb], v.toNat < 1536 ∨ 1552 ≤ v.toNat
  out : vOutPort f op = none

/-- Operands that are registers of the allotment, broadcasts and zeros, and a VD that is such a register where it is one of them. -/
theorem noPorts_of {s : State} {c : Nat} {x : Ctx} {f : EV} {op : VOp} (src : ∀ v ∈ [f.va, f.vb], v.toNat < 1536 ∨ 1552 ≤ v.toNat)
    (held : ∀ v ∈ [f.va, f.vb], v.toNat < 1536 → ((s.core c).vKey x.lid v.toNat).isSome)
    (hd : op.d = true → f.vd.toNat < 1536 ∧ ((s.core c).vKey x.lid f.vd.toNat).isSome) : NoPorts s c x f op where
  regs v hv := by
    obtain ⟨hv, hlt⟩ := List.mem_filter.1 hv
    have hlt := of_decide_eq_true hlt
    rcases List.mem_append.1 hv with hv | hv
    · rcases List.mem_append.1 hv with hv | hv
      · split at hv
        · next h => rw [List.mem_singleton.1 hv]; exact (hd h).2
        · cases hv
      · split at hv
        · rw [List.mem_singleton.1 hv] at hlt ⊢; exact held f.va (by simp) hlt
        · cases hv
    · split at hv
      · rw [List.mem_singleton.1 hv] at hlt ⊢; exact held f.vb (by simp) hlt
      · cases hv
  src := src
  out := by
    unfold vOutPort
    cases h : op.d
    · rfl
    · have := (hd h).1
      rw [decide_eq_false (by omega), Bool.and_false]
      rfl

theorem NoPorts.ins {s : State} {c : Nat} {x : Ctx} {f : EV} {op : VOp} (h : NoPorts s c x f op) : vInPorts f op = [] := by
  have ha := h.src f.va (by simp)
  have hb := h.src f.vb (by simp)
  have hn : ((if op.a then [f.va.toNat] else []) ++ (if op.b then [f.vb.toNat] else [])).filter (fun v => decide (1536 ≤ v ∧ v < 1544)) = [] := by
    rw [List.filter_eq_nil_iff]
    intro v hv
    have : v = f.va.toNat ∨ v = f.vb.toNat := by
      rcases List.mem_append.1 hv with hv | hv <;> split at hv <;> simp_all
    rw [decide_eq_true_eq]
    omega
  rw [vInPorts, hn]
  rfl

/-- The issue computes the result of its operands, writes it, and traps for its flags. -/
theorem vIssue_quiet {s : State} {c : Nat} (n : Nat) {x : Ctx} {f : EV} {op : VOp} (hq : Quiet s c) (hp : NoPorts s c x f op) :
    s.vIssue c n x f op = .done ((s.putRows c x f (s.vres c x f op)).modCtx c n (s.vres c x f op).upd) (arithTrap x.ftrapen (s.vres c x f op).fl) := by
  have hreg : (vRegs f op).find? (fun v => ((s.core c).vKey x.lid v).isNone) = none := by
    rw [List.find?_eq_none]
    intro v hv
    simpa [Option.isSome_iff_ne_none] using hp.regs v hv
  have ha := hp.src f.va (by simp)
  have hb := hp.src f.vb (by simp)
  unfold State.vIssue
  rw [hreg, hp.ins, hp.out]
  simp only [List.map_nil, Option.toList_none, List.append_nil, List.foldl_nil, show portsRes [] = .go from rfl]
  have h1 : (if op.a = true then s.opdRow c x (tyWidth f.t.toNat) f.va.toNat [] else (s, 0)) = (s, ((s.vin c x f op.wb).seen op).a) := by
    show _ = (s, if op.a = true then s.readRow c x (tyWidth f.t.toNat) f.va.toNat else 0)
    split
    · exact opdRow_quiet hq x _ ha []
    · rfl
  have h2 : (if op.b = true then s.opdRow c x op.wb f.vb.toNat [] else (s, 0)) = (s, ((s.vin c x f op.wb).seen op).b) := by
    show _ = (s, if op.b = true then s.readRow c x op.wb f.vb.toNat else 0)
    split
    · exact opdRow_quiet hq x _ hb []
    · rfl
  have h3 : (if (op.d && decide (f.vd.toNat < 1536)) = true then s.opdRow c x 8 f.vd.toNat [] else (s, 0)) = (s, ((s.vin c x f op.wb).seen op).d) := by
    show _ = (s, if op.d = true then (if f.vd.toNat < 1536 then s.readRow c x 8 f.vd.toNat else 0) else 0)
    cases op.d
    · rfl
    · by_cases hd : f.vd.toNat < 1536
      · simpa [hd] using opdRow_quiet hq x 8 (Or.inl hd) []
      · simp [hd]
  have h4 : (if op.v2 = true then s.opdRow c x 8 f.vb.toNat [] else (s, 0)) = (s, ((s.vin c x f op.wb).seen op).r) := by
    show _ = (s, if op.v2 = true then s.readRow c x 8 f.vb.toNat else 0)
    split
    · exact opdRow_quiet hq x _ hb []
    · rfl
  simp only [h1, h2, h3, h4]
  have hrun : op.run
      { bits := 2048, f := f, rm := if f.rm = 5 then x.rmode.toNat else f.rm.toNat, a := ((s.vin c x f op.wb).seen op).a,
        b := ((s.vin c x f op.wb).seen op).b, d := ((s.vin c x f op.wb).seen op).d, r := ((s.vin c x f op.wb).seen op).r,
        be := if 1552 ≤ f.vb.toNat ∧ f.vb.toNat < 1584 then some (x.ep.e' (f.vb.toNat - 1552)) else none, x := x.ep } = s.vres c x f op := rfl
  rw [hrun]
  rcases hd : (s.vres c x f op).d with _ | r <;> rcases hr : (s.vres c x f op).r with _ | q <;>
    simp only [State.putRows, State.putRow, hd, hr] <;> rfl

/-- An EV instruction on registers, broadcasts and zeros: its whole effect, and then the trap of an enabled flag. -/
theorem evExec_quiet {s : State} {c n : Nat} {x : Ctx} {f : EV} {op : EV → VOp} (hat : At s c n .ep x) (hq : Quiet s c) (hp : NoPorts s c x f (op f))
    {s1 : State} (hs : s.putRows c x f (s.vres c x f (op f)) = s1) (hx : s1.ctx c n = some x) :
    evExec op f s = .next (s1.ended c n ((s.vres c x f (op f)).upd x) x.ftrapen (allFlags (s.vres c x f (op f)).fl) (firstLane x.ftrapen (s.vres c x f (op f)).fl)) := by
  unfold evExec
  rw [epSimple_run _ _ s c n x hat.cur hat.ctx rfl, vIssue_quiet n hq hp, hs, arithTrap_eq, State.modCtx_some _ _ _ _ _ hx]
  unfold State.ended
  by_cases h : allFlags (s.vres c x f (op f)).fl &&& x.ftrapen = 0
  · simp only [if_pos h, finish_done_setCtx]
  · simp only [if_neg h, State.modCtx_setCtx, State.ctx_setCtx, finish_left]

end Sys2Proof.Machine

/-! SUPPORT. The lane instructions of the vector unit (R296 to R302, R437): what each gives a lane, as a function of its operands, and an issue of one from what its lanes take. -/
namespace Sys2Proof.Claims
open Sys2Proof Sys2Proof.Machine

/-- An instruction whose VD is a register of the allotment names no port. -/
theorem Rows.noPorts {s : State} {c key : Nat} {x : Ctx} {f : EV} (h : Rows s c x f key) (op : VOp) : NoPorts s c x f op :=
  noPorts_of h.src h.held fun _ => ⟨h.dreg, by rw [h.d]; rfl⟩

end Sys2Proof.Claims

namespace Sys2Proof.Machine
open Sys2Proof Sys2Proof.Claims

/-! ## Issues -/

section
variable {s : State} {c n key : Nat} {x : Ctx} {f : EV} {i : Instr} {op : EV → VOp}

/-- An operation that gives one row ends as the statements have it. -/
theorem rowIssue_of (hat : At s c n .ep x) (hq : Quiet s c) (hp : NoPorts s c x f (op f)) (hi : exec i s = evExec op f s)
    (hd : (s.core c).vKey x.lid f.vd.toNat = some key) {r : Row} {fl : List (Nat × Flags)} (hr : s.vres c x f (op f) = VRes.row r fl)
    {P : Row → BitVec 6 → Word → Prop} (h : P r (allFlags fl) (firstLane x.ftrapen fl)) : RowIssue i s c n key x (fun y => y.pass .ep 1) P := by
  have hput : s.putRows c x f (s.vres c x f (op f)) = s.modCore c fun k => k.setAcc key r := by
    rw [hr]
    show s.putRow c x f.vd.toNat (some r) = _
    rw [State.putRow, hd]
    exact vecPut_quiet hq key r
  have hx : (s.modCore c fun k => k.setAcc key r).ctx c n = some x := by
    rw [State.ctx, State.core_modCore]
    exact hat.ctx
  refine ⟨r, allFlags fl, firstLane x.ftrapen fl, h, fun _ => rfl, ?_⟩
  rw [hi, evExec_quiet hat hq hp hput hx, hr]
  rfl

/-- An operation that writes masks or an e register alone, with its flags. -/
theorem maskIssue_of (hat : At s c n .ep x) (hq : Quiet s c) (hp : NoPorts s c x f (op f)) (hi : exec i s = evExec op f s)
    (hd : (s.vres c x f (op f)).d = none) (hr : (s.vres c x f (op f)).r = none) :
    exec i s = .next (s.ended c n ((s.vres c x f (op f)).upd x) x.ftrapen (allFlags (s.vres c x f (op f)).fl) (firstLane x.ftrapen (s.vres c x f (op f)).fl)) := by
  rw [hi, evExec_quiet hat hq hp (by rw [State.putRows, hd, hr]; rfl) hat.ctx]

/-- One that sets no flag leaves its context alone changed. -/
theorem leaves_of (hat : At s c n .ep x) (hq : Quiet s c) (hp : NoPorts s c x f (op f)) (hi : exec i s = evExec op f s)
    (hd : (s.vres c x f (op f)).d = none) (hr : (s.vres c x f (op f)).r = none) (hf : (s.vres c x f (op f)).fl = []) :
    Leaves i s c n (((s.vres c x f (op f)).upd x).pass .ep 1) := by
  refine ⟨_, maskIssue_of hat hq hp hi hd hr, ?_, fun _ => ?_⟩ <;> rw [hf, State.ended, if_pos (show allFlags [] &&& _ = 0 from BitVec.zero_and)]
  rfl

end

/-! ## Lanes of a result -/

theorem lanes_eq (v : VIn) (fn : Nat → Nat × Flags) : v.lanes fn =
    VRes.row (rowLanes v.w ((List.range v.n).map fun i => if v.act i then (fn i).1 else laneOf v.d v.w i)) (laneFlags v.n v.act fun i => (fn i).2) := by
  simp only [VIn.lanes, natsFrom_zero, ← List.map_prod_left_eq_zip, List.map_map, List.filterMap_map, laneFlags]
  congr 2
  · congr 1; funext i; simp only [Function.comp_apply]; split <;> rfl
  · funext i; cases h : v.act i <;> simp [h]

theorem packed_eq (v : VIn) (n wd : Nat) (fn : Nat → Nat × Flags) : v.packed n wd fn =
    (rowLanes wd ((List.range n).map fun i => if v.act i then (fn i).1 else laneOf v.d wd i), laneFlags n v.act fun i => (fn i).2) := by
  simp only [VIn.packed, natsFrom_zero, ← List.map_prod_left_eq_zip, List.map_map, List.filterMap_map, laneFlags]
  congr 2
  · congr 1; funext i; simp only [Function.comp_apply]; split <;> rfl
  · funext i; cases h : v.act i <;> simp [h]

/-- The instruction i computes fn of its operands lane by lane. -/
structure LaneOp (f : EV) (i : Instr) (op : EV → VOp) (fn : VIn → Nat → Nat × Flags) : Prop where
  issue : ∀ s, exec i s = evExec op f s
  run : ∀ v : VIn, (op f).run (v.seen (op f)) = v.lanes (fn v)
  dest : (op f).d = true
  width : (op f).wb = tyWidth f.t.toNat

/-- What the lane instructions give a lane, in the order of `laneInstr`. -/
def laneFns : List (VIn → Nat → Nat × Flags) :=
  let bit := fun (op : Nat → Nat → Nat) (v : VIn) (i : Nat) =>
    op (if v.f.na then 2 ^ v.w - 1 - laneOf v.a v.w i else laneOf v.a v.w i) (if v.f.nb then 2 ^ v.w - 1 - laneOf v.b v.w i else laneOf v.b v.w i)
  [fun v i => addCode v.t v.rm v.f.sat (v.la i) (v.lb i), fun v i => subCode v.t v.rm v.f.sat (v.la i) (v.lb i),
   fun v i => mulCode v.t v.rm v.f.sat (v.la i) (v.lb i),
   fun v i => fmaCode v.t v.rm v.f.sat (v.la i) (v.lb i) (if v.f.f.getLsbD 0 then negCode v.t (laneOf v.d v.w i) else laneOf v.d v.w i),
   fun v i => (minCode v.t (v.la i) (v.lb i), 0), fun v i => (maxCode v.t (v.la i) (v.lb i), 0), fun v i => absCode v.t v.f.sat (v.la i),
   fun v i => (minCode v.t (maxCode v.t (v.la i) (v.lb i)) (laneOf v.d v.w i), 0),
   fun v i => (bit (· &&& ·) v i, 0), fun v i => (bit (· ||| ·) v i, 0), fun v i => (bit (· ^^^ ·) v i, 0),
   fun v i => intRes v.t v.f.sat (intVal v.t (v.la i) * 2 ^ (v.lb i % v.w)), fun v i => (wrapN (intVal v.t (v.la i) / 2 ^ (v.lb i % v.w)) v.w, 0),
   fun v i => (if (v.x.mr (v.f.f.toNat % 16)).getLsbD i then laneOf v.a v.w i else laneOf v.b v.w i, 0), fun v i => (v.la i, 0),
   fun v i => (laneOf v.a v.w (laneOf v.b v.w i % v.n), 0), fun v _ => (laneOf v.a v.w v.f.f.toNat, 0),
   fun v i => (smallCode v.t (if v.f.f.getLsbD 0 then ((natsFrom 0 i).filter v.act).length else i), 0),
   fun v i => sfCode v.f.f.toNat v.t v.rm v.f.sat (v.la i)]

/-- Each lane instruction computes its function. -/
theorem laneOp_get {f : EV} {k : Nat} {i : Instr} (h : (laneInstr f)[k]? = some i) : ∃ op fn, laneFns[k]? = some fn ∧ LaneOp f i op fn := by
  match k, h with
  | 0, rfl => exact ⟨vopAdd, _, rfl, fun _ => rfl, fun _ => rfl, rfl, rfl⟩
  | 1, rfl => exact ⟨vopSub, _, rfl, fun _ => rfl, fun _ => rfl, rfl, rfl⟩
  | 2, rfl => exact ⟨vopMul, _, rfl, fun _ => rfl, fun _ => rfl, rfl, rfl⟩
  | 3, rfl => exact ⟨vopFma, _, rfl, fun _ => rfl, fun _ => rfl, rfl, rfl⟩
  | 4, rfl => exact ⟨vopMin, _, rfl, fun _ => rfl, fun _ => rfl, rfl, rfl⟩
  | 5, rfl => exact ⟨vopMax, _, rfl, fun _ => rfl, fun _ => rfl, rfl, rfl⟩
  | 6, rfl => exact ⟨vopAbs, _, rfl, fun _ => rfl, fun _ => rfl, rfl, rfl⟩
  | 7, rfl => exact ⟨vopClamp, _, rfl, fun _ => rfl, fun _ => rfl, rfl, rfl⟩
  | 8, rfl => exact ⟨vopBit (· &&& ·), _, rfl, fun _ => rfl, fun _ => rfl, rfl, rfl⟩
  | 9, rfl => exact ⟨vopBit (· ||| ·), _, rfl, fun _ => rfl, fun _ => rfl, rfl, rfl⟩
  | 10, rfl => exact ⟨vopBit (· ^^^ ·), _, rfl, fun _ => rfl, fun _ => rfl, rfl, rfl⟩
  | 11, rfl => exact ⟨vopShl, _, rfl, fun _ => rfl, fun _ => rfl, rfl, rfl⟩
  | 12, rfl => exact ⟨vopShr, _, rfl, fun _ => rfl, fun _ => rfl, rfl, rfl⟩
  | 13, rfl => exact ⟨vopSel, _, rfl, fun _ => rfl, fun _ => rfl, rfl, rfl⟩
  | 14, rfl => exact ⟨vopMov, _, rfl, fun _ => rfl, fun _ => rfl, rfl, rfl⟩
  | 15, rfl => exact ⟨vopPerm, _, rfl, fun _ => rfl, fun _ => rfl, rfl, rfl⟩
  | 16, rfl => exact ⟨vopBcast, _, rfl, fun _ => rfl, fun _ => rfl, rfl, rfl⟩
  | 17, rfl => exact ⟨vopIota, _, rfl, fun _ => rfl, fun _ => rfl, rfl, rfl⟩
  | 18, rfl => exact ⟨vopSf, _, rfl, fun _ => rfl, fun _ => rfl, rfl, rfl⟩

/-! ## Types -/

theorem tyArith_tyLane {t : Nat} (h : tyArith t = true) : tyLane t = true := by simp [tyLane, h]

/-- The lane types are 8, 16 or 32 bits wide (R297). -/
theorem tyWidth_lane {t : Nat} (h : tyLane t = true) : tyWidth t = 8 ∨ tyWidth t = 16 ∨ tyWidth t = 32 := by
  have ht : t < 15 := by
    simp only [tyLane, tyArith, tyF, tyI, tyN, Bool.or_eq_true, Bool.and_eq_true, decide_eq_true_eq, beq_iff_eq] at h
    omega
  revert h
  revert t
  decide

/-- The types that an accepted lane instruction has: the instructions that copy bits take every lane type, the others the arithmetic ones (R297). -/
theorem type_of_wf {f : EV} {i : Instr} {k : Nat} (hi : (laneInstr f)[k]? = some i) (h : i.wf = true) :
    tyArith f.t.toNat = true ∨ (8 ≤ k ∧ k < 17) ∧ tyLane f.t.toNat = true := by
  have l : ∀ {p q : Bool}, (p && q) = true → p = true := fun h => (Bool.and_eq_true_iff.1 h).1
  have hInt : (tyI f.t.toNat || tyN f.t.toNat) = true → tyArith f.t.toNat = true := fun h => by rw [tyArith, Bool.or_assoc, h, Bool.or_true]
  have hF : tyF f.t.toNat = true → tyArith f.t.toNat = true := fun h => by rw [tyArith, h]; rfl
  match k, hi with
  | 0, rfl => exact .inl (l (l (l (show okArith f = true from h))))
  | 1, rfl => exact .inl (l (l (l (show okArith f = true from h))))
  | 2, rfl => exact .inl (l (l (l (show okArith f = true from h))))
  | 3, rfl => exact .inl (l (l (l (l (show okFma f = true from h)))))
  | 4, rfl => exact .inl (l (l (l (show okMinMax f = true from h))))
  | 5, rfl => exact .inl (l (l (l (show okMinMax f = true from h))))
  | 6, rfl => exact .inl (l (l (l (l (l (l (show okAbs f = true from h)))))))
  | 7, rfl => exact .inl (l (l (l (l (show okClamp f = true from h)))))
  | 8, rfl => exact .inr ⟨by decide, l (l (l (show okBit f = true from h)))⟩
  | 9, rfl => exact .inr ⟨by decide, l (l (l (show okBit f = true from h)))⟩
  | 10, rfl => exact .inr ⟨by decide, l (l (l (show okBit f = true from h)))⟩
  | 11, rfl => exact .inl (hInt (l (l (l (l (show okShl f = true from h))))))
  | 12, rfl => exact .inl (hInt (l (l (l (l (l (show okShr f = true from h)))))))
  | 13, rfl => exact .inr ⟨by decide, l (l (l (l (show okSel f = true from h))))⟩
  | 14, rfl => exact .inr ⟨by decide, l (l (l (l (l (l (show okMov f = true from h))))))⟩
  | 15, rfl => exact .inr ⟨by decide, l (l (l (l (show okPerm f = true from h))))⟩
  | 16, rfl => exact .inr ⟨by decide, l (l (l (l (l (show okBcast 2048 f = true from h)))))⟩
  | 17, rfl => exact .inl (l (l (l (l (l (l (show okIota f = true from h)))))))
  | 18, rfl => exact .inl (hF (l (l (l (l (l (show okSf f = true from h)))))))

theorem tyLane_of_wf {f : EV} {i : Instr} {k : Nat} (hi : (laneInstr f)[k]? = some i) (h : i.wf = true) : tyLane f.t.toNat = true :=
  (type_of_wf hi h).elim tyArith_tyLane And.right

/-! ## An issue of a lane instruction -/

section
variable {s : State} {c n key : Nat} {x : Ctx} {f : EV} {i : Instr} {op : EV → VOp} {fn : VIn → Nat → Nat × Flags}

/-- The operands of a lane instruction. -/
def State.lin (s : State) (c : Nat) (x : Ctx) (f : EV) : VIn := s.vin c x f (tyWidth f.t.toNat)

/-- A lane instruction writes its lanes and their flags, and leaves the inactive lanes. -/
theorem LaneOp.rowIssue (h : LaneOp f i op fn) (hat : At s c n .ep x) (hq : Quiet s c) (hr : Rows s c x f key) (hw : 0 < tyWidth f.t.toNat)
    {P : Row → BitVec 6 → Word → Prop}
    (hP : ∀ r fl tv, LaneFlags (2048 / tyWidth f.t.toNat) (x.ep.active f.g) x.ftrapen (fun j => (fn (s.lin c x f) j).2) fl tv →
      (∀ j, j < 2048 / tyWidth f.t.toNat → laneOf r (tyWidth f.t.toNat) j =
        if x.ep.active f.g j then (fn (s.lin c x f) j).1 % 2 ^ tyWidth f.t.toNat else laneOf ((s.core c).accRow c key) (tyWidth f.t.toNat) j) → P r fl tv) :
    RowIssue i s c n key x (fun y => y.pass .ep 1) P := by
  have hn : (s.lin c x f).n = 2048 / tyWidth f.t.toNat := if_neg hw.ne'
  have hd : (s.lin c x f).d = (s.core c).accRow c key := (if_pos hr.dreg).trans (readRow_reg 8 hr.dreg hr.d)
  have hres : s.vres c x f (op f) = (s.lin c x f).lanes (fn (s.lin c x f)) := by rw [State.vres, h.width, h.run]; rfl
  rw [lanes_eq, hn, hd] at hres
  refine rowIssue_of hat hq (hr.noPorts (op f)) (h.issue s) hr.d hres (hP _ _ _ (laneFlags_spec ..) fun j hj => ?_)
  refine (laneOf_rowLanes (Nat.mul_div_le 2048 (tyWidth f.t.toNat)) hj).trans ?_
  show (if x.ep.active f.g j then (fn (s.lin c x f) j).1 else laneOf ((s.core c).accRow c key) (tyWidth f.t.toNat) j) % _ = _
  split
  · rfl
  · exact Nat.mod_eq_of_lt (laneOf_lt ..)

/-- A VD beyond the allotment traps with no effect (R405). -/
theorem LaneOp.traps (h : LaneOp f i op fn) (hat : At s c n .ep x) (hd : f.vd.toNat < 1536) (hk : (s.core c).vKey x.lid f.vd.toNat = none) :
    exec i s = .next (s.takeTrap c n .ep 0x08 0 (BitVec.ofNat 64 (2 * 2 ^ 56 + f.vd.toNat)) x.ep.pc) := by
  have hv : (vRegs f (op f)).find? (fun v => ((s.core c).vKey x.lid v).isNone) = some f.vd.toNat := by
    simp [vRegs, h.dest, hd, hk]
  have hi : s.vIssue c n x f (op f) = .trap 0x08 (allotVal 2 f.vd.toNat) := by
    unfold State.vIssue
    rw [hv]
  rw [h.issue, evExec, epSimple_run _ _ s c n x hat.cur hat.ctx rfl, hi]
  simp only [finish_trap, allotVal]
  rw [Nat.mod_eq_of_lt (by omega : f.vd.toNat < 2 ^ 56)]

end

end Sys2Proof.Machine

/-! SUPPORT. The integer types of the vector unit (R83, R95, R298, R299): values of codes, results wrapped or clamped, and what each lane instruction gives a lane of such a type. -/
namespace Sys2Proof.Machine
open Sys2Proof Sys2Proof.Claims

/-! ## Values and codes -/

/-- The integer types: I32, I16, I8, N32, N16, N8. -/
def IntTy (t : Nat) : Prop := 8 ≤ t ∧ t ≤ 13

theorem IntTy.width_ge {t : Nat} (h : IntTy t) : 8 ≤ tyWidth t := by
  obtain ⟨h1, h2⟩ := h
  interval_cases t <;> decide

theorem IntTy.width {t : Nat} (h : IntTy t) : 0 < tyWidth t := Nat.lt_of_lt_of_le (by decide) h.width_ge

theorem IntTy.cases {t : Nat} (h : IntTy t) : tyF t = false ∧ (tyI t || tyN t) = true := by
  obtain ⟨h1, h2⟩ := h
  interval_cases t <;> decide

theorem sgnTy_eq (t : BitVec 4) : sgnTy t = tyI t.toNat := by revert t; decide

theorem wrapN_eq (v : Int) (w : Nat) : wrapN v w = (BitVec.ofInt w v).toNat := by
  rw [BitVec.toNat_ofInt]
  simp [wrapN]

theorem wrapN_lt (v : Int) (w : Nat) : wrapN v w < 2 ^ w := by rw [wrapN_eq]; exact BitVec.isLt _

theorem wrapN_natCast (c w : Nat) : wrapN (c : Int) w = c % 2 ^ w := by
  rw [wrapN_eq, BitVec.ofInt_natCast, BitVec.toNat_ofNat]

/-- The value of a code, wrapped, is the code. -/
theorem wrapN_iv (t : BitVec 4) (w c : Nat) : wrapN (iv t w c) w = c % 2 ^ w := by
  unfold iv
  split
  · rw [wrapN_eq, BitVec.ofInt_toInt, BitVec.toNat_ofNat]
  · rw [wrapN_natCast, Nat.mod_mod]

theorem intVal_eq (t : BitVec 4) {c : Nat} (hc : c < 2 ^ tyWidth t.toNat) : intVal t.toNat c = iv t (tyWidth t.toNat) c := by
  unfold intVal iv
  rw [sgnTy_eq, sval_eq, Nat.mod_eq_of_lt hc]

theorem negCode_int {t : Nat} (h : tyF t = false) {c : Nat} (hc : c < 2 ^ tyWidth t) : negCode t c = ngd true (tyWidth t) c := by
  simp [negCode, h, ngd, Nat.mod_eq_of_lt hc]

theorem ngd_lt {na : Bool} {w c : Nat} (hc : c < 2 ^ w) : ngd na w c < 2 ^ w := by
  unfold ngd
  split
  · exact Nat.mod_lt _ (Nat.two_pow_pos w)
  · exact hc

/-! ## Results wrapped or clamped -/

theorem tyMin_eq (t : BitVec 4) : tyMin t.toNat = if sgnTy t then -(2 ^ (tyWidth t.toNat - 1) : Int) else 0 := by
  rw [sgnTy_eq, tyMin]; push_cast; rfl
theorem tyMax_eq (t : BitVec 4) : tyMax t.toNat = if sgnTy t then (2 ^ (tyWidth t.toNat - 1) : Int) - 1 else (2 ^ tyWidth t.toNat : Int) - 1 := by
  rw [sgnTy_eq, tyMax]; push_cast; rfl

/-- A value leaves its type when it lies beyond the type's least or largest value. -/
theorem leaves_iff (t : BitVec 4) (hw : 0 < tyWidth t.toNat) (v : Int) : leaves t (tyWidth t.toNat) v ↔ v < tyMin t.toNat ∨ tyMax t.toNat < v := by
  have h1 := two_pow_succ_pred _ hw
  rw [leaves, iv, tyMin_eq, tyMax_eq, ofNat_wrapN, Nat.mod_eq_of_lt (wrapN_lt ..), BitVec.toInt_ofInt]
  generalize tyWidth t.toNat = w at *
  have h2 : (2 : Int) ^ w = ((2 ^ w : Nat) : Int) := by push_cast; rfl
  have h3 : (2 : Int) ^ (w - 1) = ((2 ^ (w - 1) : Nat) : Int) := by push_cast; rfl
  have h4 := Nat.two_pow_pos (w - 1)
  rw [wrapN, h2, h3]
  generalize 2 ^ w = m at *
  generalize 2 ^ (w - 1) = q at *
  rw [not_iff_comm, not_or, Int.not_lt, Int.not_lt]
  split
  · constructor
    · intro h
      exact Int.bmod_eq_of_le (by omega) (by omega)
    · intro h
      have hl := Int.le_bmod (x := v) (m := m) (by omega)
      have hu := Int.bmod_lt (x := v) (m := m) (by omega)
      rw [h] at hl hu
      omega
  · have hn := Int.emod_nonneg v (by omega : (m : Int) ≠ 0)
    have hl := Int.emod_lt_of_pos v (by omega : (0 : Int) < m)
    rw [Int.toNat_of_nonneg hn]
    constructor
    · intro h
      exact Int.emod_eq_of_lt (by omega) (by omega)
    · intro h
      rw [h] at hn hl
      omega

/-- An exact result, clamped with SV under SAT and wrapped without (R83, R95). -/
theorem intRes_spec (t : BitVec 4) (hw : 0 < tyWidth t.toNat) (sat : Bool) (v : Int) :
    (intRes t.toNat sat v).1 = narrow t (tyWidth t.toNat) sat v ∧ (sat = true ∧ leaves t (tyWidth t.toNat) v → (intRes t.toNat sat v).2 = 32) ∧
      (¬(sat = true ∧ leaves t (tyWidth t.toNat) v) → (intRes t.toNat sat v).2 = 0) := by
  rw [leaves_iff t hw]
  unfold intRes narrow
  simp only [← tyMin_eq, ← tyMax_eq, Bool.and_eq_true, decide_eq_true_eq]
  split
  · next h => exact ⟨rfl, fun _ => rfl, fun hn => absurd ⟨h.1, Or.inl h.2⟩ hn⟩
  · split
    · next h => exact ⟨rfl, fun _ => rfl, fun hn => absurd ⟨h.1, Or.inr h.2⟩ hn⟩
    · next h h' => exact ⟨rfl, fun hs => absurd hs (by tauto), fun _ => rfl⟩

theorem intRes_wraps (t : Nat) (v : Int) : intRes t false v = (wrapN v (tyWidth t), 0) := rfl

theorem intRes_lt (t : Nat) (sat : Bool) (v : Int) : (intRes t sat v).1 < 2 ^ tyWidth t := by
  unfold intRes
  split
  · exact wrapN_lt ..
  · split <;> exact wrapN_lt ..

/-! ## Lanes -/

theorem negIf_int {t : Nat} (h : tyF t = false) {na : Bool} {c : Nat} (hc : c < 2 ^ tyWidth t) : (if na = true then negCode t c else c) = ngd na (tyWidth t) c := by
  split
  · next h' => rw [negCode_int h hc, h']
  · next h' => rw [ngd, if_neg h']

/-- No rounding mode and no saturation. -/
theorem plain_sat {f : EV} (h : plain f = true) : f.sat = false := by simp [plain] at h; exact h.2
theorem noNeg_spec {f : EV} (h : noNeg f = true) : f.na = false ∧ f.nb = false := by simpa [noNeg] using h

/-- The instructions that choose or copy codes take no SAT: all but the k of arithmetic, magnitudes, shifts and `VSF`. -/
theorem sat_of_wf {f : EV} {i : Instr} {k : Nat} (hi : (laneInstr f)[k]? = some i) (h : i.wf = true) : k ∈ [0, 1, 2, 3, 6, 11, 12, 18] ∨ f.sat = false := by
  have l : ∀ {p q : Bool}, (p && q) = true → p = true := fun h => (Bool.and_eq_true_iff.1 h).1
  have r : ∀ {p : Bool}, (p && plain f) = true → f.sat = false := fun h => plain_sat (Bool.and_eq_true_iff.1 h).2
  match k, hi with
  | 0, _ => exact .inl (by decide)
  | 1, _ => exact .inl (by decide)
  | 2, _ => exact .inl (by decide)
  | 3, _ => exact .inl (by decide)
  | 4, rfl => exact .inr (r (l (l (show okMinMax f = true from h))))
  | 5, rfl => exact .inr (r (l (l (show okMinMax f = true from h))))
  | 6, _ => exact .inl (by decide)
  | 7, rfl => exact .inr (r (l (l (l (show okClamp f = true from h)))))
  | 8, rfl => exact .inr (r (l (l (show okBit f = true from h))))
  | 9, rfl => exact .inr (r (l (l (show okBit f = true from h))))
  | 10, rfl => exact .inr (r (l (l (show okBit f = true from h))))
  | 11, _ => exact .inl (by decide)
  | 12, _ => exact .inl (by decide)
  | 13, rfl => exact .inr (r (l (l (l (show okSel f = true from h)))))
  | 14, rfl => exact .inr (r (l (l (l (l (l (show okMov f = true from h)))))))
  | 15, rfl => exact .inr (r (l (l (l (show okPerm f = true from h)))))
  | 16, rfl => exact .inr (r (l (l (l (l (show okBcast 2048 f = true from h))))))
  | 17, rfl => exact .inr (r (l (l (l (l (l (show okIota f = true from h)))))))
  | 18, _ => exact .inl (by decide)

section
variable {s : State} {c key : Nat} {x : Ctx} {f : EV} {j : Nat}

theorem lin_a (hw : 0 < tyWidth f.t.toNat) (hj : j < 2048 / tyWidth f.t.toNat) : laneOf (s.lin c x f).a (s.lin c x f).w j = opnd s c x (tyWidth f.t.toNat) f.va j :=
  laneOf_readRow s c x hw f.va hj
theorem lin_b (hw : 0 < tyWidth f.t.toNat) (hj : j < 2048 / tyWidth f.t.toNat) : laneOf (s.lin c x f).b (s.lin c x f).w j = opnd s c x (tyWidth f.t.toNat) f.vb j :=
  laneOf_readRow s c x hw f.vb hj
theorem lin_d (hr : Rows s c x f key) : laneOf (s.lin c x f).d (s.lin c x f).w j = opnd s c x (tyWidth f.t.toNat) f.vd j := by
  rw [opnd, if_pos hr.dreg, hr.d, show (s.lin c x f).d = s.readRow c x 8 f.vd.toNat from if_pos hr.dreg, readRow_reg 8 hr.dreg hr.d]
  rfl
theorem lin_n (hw : 0 < tyWidth f.t.toNat) : (s.lin c x f).n = 2048 / tyWidth f.t.toNat := if_neg hw.ne'

variable (ht : IntTy f.t.toNat) (hj : j < 2048 / tyWidth f.t.toNat)
include ht hj

theorem lin_la_int : (s.lin c x f).la j = ngd f.na (tyWidth f.t.toNat) (opnd s c x (tyWidth f.t.toNat) f.va j) := by
  unfold VIn.la
  rw [lin_a ht.width hj]
  exact negIf_int ht.cases.1 (opnd_lt ..)
theorem lin_lb_int : (s.lin c x f).lb j = ngd f.nb (tyWidth f.t.toNat) (opnd s c x (tyWidth f.t.toNat) f.vb j) := by
  unfold VIn.lb
  rw [lin_b ht.width hj]
  exact negIf_int ht.cases.1 (opnd_lt ..)

end

theorem minCode_int {t : BitVec 4} (h : tyF t.toNat = false) {a b : Nat} (ha : a < 2 ^ tyWidth t.toNat) (hb : b < 2 ^ tyWidth t.toNat) :
    minCode t.toNat a b < 2 ^ tyWidth t.toNat ∧ iv t (tyWidth t.toNat) (minCode t.toNat a b) =
      if iv t (tyWidth t.toNat) b < iv t (tyWidth t.toNat) a then iv t (tyWidth t.toNat) b else iv t (tyWidth t.toNat) a := by
  rw [minCode, h, intVal_eq t ha, intVal_eq t hb]
  simp only [Bool.false_eq_true, if_false]
  split <;> exact ⟨by assumption, rfl⟩

theorem maxCode_int {t : BitVec 4} (h : tyF t.toNat = false) {a b : Nat} (ha : a < 2 ^ tyWidth t.toNat) (hb : b < 2 ^ tyWidth t.toNat) :
    maxCode t.toNat a b < 2 ^ tyWidth t.toNat ∧ iv t (tyWidth t.toNat) (maxCode t.toNat a b) =
      if iv t (tyWidth t.toNat) a < iv t (tyWidth t.toNat) b then iv t (tyWidth t.toNat) b else iv t (tyWidth t.toNat) a := by
  rw [maxCode, h, intVal_eq t ha, intVal_eq t hb]
  simp only [Bool.false_eq_true, if_false]
  split <;> exact ⟨by assumption, rfl⟩

/-- A code that no saturation concerns, as the result of its value. -/
theorem code_intRes {t : BitVec 4} {sat : Bool} (hs : sat = false) {c : Nat} (hc : c < 2 ^ tyWidth t.toNat) {z : Int} (hz : iv t (tyWidth t.toNat) c = z) :
    (c, (0 : Flags)) = intRes t.toNat sat z := by
  rw [hs, intRes_wraps, ← hz, wrapN_iv, Nat.mod_eq_of_lt hc]

theorem cpl_lt {na : Bool} {w c : Nat} (hc : c < 2 ^ w) : cpl na w c < 2 ^ w := by
  unfold cpl
  split <;> omega

/-- The magnitude of a value, of the integer types (R298). -/
theorem absCode_int {t : BitVec 4} (ht : IntTy t.toNat) {sat : Bool} (hs : sat = false ∨ tyI t.toNat = true) {a : Nat} (ha : a < 2 ^ tyWidth t.toNat) :
    absCode t.toNat sat a = intRes t.toNat sat (iv t (tyWidth t.toNat) a).natAbs := by
  rw [absCode, ht.cases.1, intVal_eq t ha]
  simp only [Bool.false_eq_true, if_false]
  cases hI : tyI t.toNat
  · have h := hs.resolve_right (by simp [hI])
    have hz : iv t (tyWidth t.toNat) a = a := by rw [iv, sgnTy_eq, hI, Nat.mod_eq_of_lt ha]; rfl
    exact code_intRes h ha (by rw [hz]; rfl)
  · rfl

section
variable {s : State} {c key : Nat} {x : Ctx} {f : EV} {i : Instr} {k j : Nat} {fn : VIn → Nat → Nat × Flags} {z : Int}

/-- The exact result of each lane instruction on a lane of an integer type, wrapped or clamped (R298 to R302). -/
theorem laneFns_int (ht : IntTy f.t.toNat) (hr : Rows s c x f key) (hj : j < 2048 / tyWidth f.t.toNat) (hi : (laneInstr f)[k]? = some i) (hwf : i.wf = true)
    (hfn : laneFns[k]? = some fn) (hz : (laneVals s c x f (tyWidth f.t.toNat) j)[k]? = some z) : fn (s.lin c x f) j = intRes f.t.toNat f.sat z := by
  have hF := ht.cases.1
  have hw := ht.width
  have hA := opnd_lt s c x (tyWidth f.t.toNat) f.va j
  have hB := opnd_lt s c x (tyWidth f.t.toNat) f.vb j
  have hD := opnd_lt s c x (tyWidth f.t.toNat) f.vd j
  have ha := ngd_lt (na := f.na) hA
  have hb := ngd_lt (na := f.nb) hB
  have la := lin_la_int (s := s) (c := c) (x := x) ht hj
  have lb := lin_lb_int (s := s) (c := c) (x := x) ht hj
  have ld := lin_d (j := j) hr
  have ra := lin_a (s := s) (c := c) (x := x) hw hj
  have rb := lin_b (s := s) (c := c) (x := x) hw hj
  have va := intVal_eq f.t ha
  have vb := intVal_eq f.t hb
  match k, hi, hfn, hz with
  | 0, rfl, rfl, rfl =>
    show addCode f.t.toNat _ f.sat _ _ = _
    rw [la, lb, addCode, hF, va, vb]
    rfl
  | 1, rfl, rfl, rfl =>
    show subCode f.t.toNat _ f.sat _ _ = _
    rw [la, lb, subCode, hF, va, vb]
    rfl
  | 2, rfl, rfl, rfl =>
    show mulCode f.t.toNat _ f.sat _ _ = _
    rw [la, lb, mulCode, hF, va, vb]
    rfl
  | 3, rfl, rfl, rfl =>
    show fmaCode f.t.toNat _ f.sat _ _ (if f.f.getLsbD 0 = true then negCode f.t.toNat _ else _) = _
    rw [la, lb, ld, negIf_int hF hD, fmaCode, hF, va, vb, intVal_eq f.t (ngd_lt hD)]
    rfl
  | 4, rfl, rfl, rfl =>
    have hs := (sat_of_wf (k := 4) rfl hwf).resolve_left (by decide)
    show (minCode f.t.toNat _ _, 0) = _
    rw [la, lb]
    exact code_intRes hs (minCode_int hF ha hb).1 (minCode_int hF ha hb).2
  | 5, rfl, rfl, rfl =>
    have hs := (sat_of_wf (k := 5) rfl hwf).resolve_left (by decide)
    show (maxCode f.t.toNat _ _, 0) = _
    rw [la, lb]
    exact code_intRes hs (maxCode_int hF ha hb).1 (maxCode_int hF ha hb).2
  | 6, rfl, rfl, rfl =>
    have hs : f.sat = false ∨ tyI f.t.toNat = true := by
      change okAbs f = true at hwf
      simp only [okAbs, Bool.and_eq_true, Bool.or_eq_true, Bool.not_eq_true'] at hwf
      obtain ⟨⟨⟨⟨-, hs⟩, -⟩, -⟩, -⟩ := hwf
      exact hs
    show absCode f.t.toNat f.sat _ = _
    rw [la]
    exact absCode_int ht hs ha
  | 7, rfl, rfl, rfl =>
    have hs := (sat_of_wf (k := 7) rfl hwf).resolve_left (by decide)
    have hm := maxCode_int (t := f.t) hF ha hb
    show (minCode f.t.toNat (maxCode f.t.toNat _ _) _, 0) = _
    rw [la, lb, ld]
    refine code_intRes hs (minCode_int hF hm.1 hD).1 ?_
    rw [(minCode_int hF hm.1 hD).2, hm.2]
  | 8, rfl, rfl, rfl =>
    have hs := (sat_of_wf (k := 8) rfl hwf).resolve_left (by decide)
    show ((if f.na = true then _ - laneOf _ _ j else laneOf _ _ j) &&& (if f.nb = true then _ - laneOf _ _ j else laneOf _ _ j), (0 : Flags)) = _
    rw [ra, rb]
    exact code_intRes hs (Nat.and_lt_two_pow _ (cpl_lt hB)) rfl
  | 9, rfl, rfl, rfl =>
    have hs := (sat_of_wf (k := 9) rfl hwf).resolve_left (by decide)
    show ((if f.na = true then _ - laneOf _ _ j else laneOf _ _ j) ||| (if f.nb = true then _ - laneOf _ _ j else laneOf _ _ j), (0 : Flags)) = _
    rw [ra, rb]
    exact code_intRes hs (Nat.or_lt_two_pow (cpl_lt hA) (cpl_lt hB)) rfl
  | 10, rfl, rfl, rfl =>
    have hs := (sat_of_wf (k := 10) rfl hwf).resolve_left (by decide)
    show ((if f.na = true then _ - laneOf _ _ j else laneOf _ _ j) ^^^ (if f.nb = true then _ - laneOf _ _ j else laneOf _ _ j), (0 : Flags)) = _
    rw [ra, rb]
    exact code_intRes hs (Nat.xor_lt_two_pow (cpl_lt hA) (cpl_lt hB)) rfl
  | 11, rfl, rfl, rfl =>
    have hn : f.nb = false := by
      change okShl f = true at hwf
      simp only [okShl, Bool.and_eq_true] at hwf
      obtain ⟨⟨⟨⟨-, hn⟩, -⟩, -⟩, -⟩ := hwf
      exact (noNeg_spec hn).2
    show intRes f.t.toNat f.sat (intVal f.t.toNat _ * 2 ^ (_ % tyWidth f.t.toNat)) = _
    rw [la, lb, va, hn]
    rfl
  | 12, rfl, rfl, rfl =>
    have hn : f.nb = false ∧ f.sat = false := by
      change okShr f = true at hwf
      simp only [okShr, okShl, Bool.and_eq_true, Bool.not_eq_true'] at hwf
      obtain ⟨⟨⟨⟨⟨-, hn⟩, -⟩, -⟩, -⟩, hs⟩ := hwf
      exact ⟨(noNeg_spec hn).2, hs⟩
    show (wrapN (intVal f.t.toNat _ / 2 ^ (_ % tyWidth f.t.toNat)) (tyWidth f.t.toNat), (0 : Flags)) = _
    rw [la, lb, va, hn.1, hn.2]
    rfl
  | 13, rfl, rfl, rfl =>
    have hs := (sat_of_wf (k := 13) rfl hwf).resolve_left (by decide)
    show (if (x.ep.mr (f.f.toNat % 16)).getLsbD j = true then laneOf _ _ j else laneOf _ _ j, (0 : Flags)) = _
    rw [ra, rb]
    exact code_intRes hs (by split <;> assumption) rfl
  | 14, rfl, rfl, rfl =>
    have hs := (sat_of_wf (k := 14) rfl hwf).resolve_left (by decide)
    show ((s.lin c x f).la j, (0 : Flags)) = _
    rw [la]
    exact code_intRes hs ha rfl
  | 15, rfl, rfl, rfl =>
    have hs := (sat_of_wf (k := 15) rfl hwf).resolve_left (by decide)
    show (laneOf _ _ (laneOf _ _ j % (s.lin c x f).n), (0 : Flags)) = _
    rw [rb, lin_n hw, lin_a hw (Nat.mod_lt _ (Nat.zero_lt_of_lt hj))]
    exact code_intRes hs (opnd_lt ..) rfl
  | 16, rfl, rfl, rfl =>
    have hs := (sat_of_wf (k := 16) rfl hwf).resolve_left (by decide)
    have hl : f.f.toNat < 2048 / tyWidth f.t.toNat := by
      change okBcast 2048 f = true at hwf
      simp only [okBcast, Bool.and_eq_true, decide_eq_true_eq, tyLanes, if_neg hw.ne'] at hwf
      obtain ⟨⟨⟨-, hl⟩, -⟩, -⟩ := hwf
      exact hl
    show (laneOf _ _ f.f.toNat, (0 : Flags)) = _
    rw [lin_a hw hl]
    exact code_intRes hs (opnd_lt ..) rfl
  | 17, rfl, rfl, rfl =>
    have hs := (sat_of_wf (k := 17) rfl hwf).resolve_left (by decide)
    show (smallCode f.t.toNat (if f.f.getLsbD 0 = true then ((natsFrom 0 j).filter (s.lin c x f).act).length else j), (0 : Flags)) = _
    rw [smallCode, hF, hs, intRes_wraps, wrapN_iv, natsFrom_zero]
    rfl

end

end Sys2Proof.Machine

/-! SUPPORT. Exact numbers (R77 to R96): the model's mantissas and exponents as the rationals of the statements, through sums, products and comparisons, and the value of a code of each element type. -/
namespace Sys2Proof
open Sys2Proof.Claims

/-! ## Values -/

/-- The value of an exact number as the statements have it. -/
def Num.val : Num → XV
  | .nan => .nan
  | .inf neg => .inf neg
  | .fin neg m e => .fin neg (m * 2 ^ e)

theorem two_zpow_pos (e : Int) : (0 : ℚ) < 2 ^ e := zpow_pos (by norm_num) e

theorem two_zpow_split {g e : Int} (h : g ≤ e) : (2 : ℚ) ^ e = ((2 ^ (e - g).toNat : Nat) : ℚ) * 2 ^ g := by
  rw [Nat.cast_pow, Nat.cast_ofNat, ← zpow_natCast, Int.toNat_of_nonneg (by omega), ← zpow_add₀ (by norm_num), Int.sub_add_cancel]

/-- A mantissa brought to a lower exponent has the same value. -/
theorem Num.at_val (neg : Bool) (m : Nat) {e g : Int} (h : g ≤ e) : (Num.at neg m e g : ℚ) * 2 ^ g = sg neg (m * 2 ^ e) := by
  unfold Num.at sg
  cases neg <;> simp [two_zpow_split h, mul_assoc]

theorem Num.val_ofInt (v e : Int) (z : Bool) : (Num.ofInt v e z).val = if v = 0 then .fin z 0 else .fin (decide (v < 0)) (|(v : ℚ)| * 2 ^ e) := by
  unfold Num.ofInt
  split
  · simp [Num.val]
  · simp [Num.val, Nat.cast_natAbs]

theorem Num.val_xint (v : Int) : (Num.ofInt v 0 false).val = xint v := by
  rw [Num.val_ofInt, xint]
  split
  · next h => subst h; simp
  · simp [Nat.cast_natAbs]

theorem Num.val_add (rdn : Bool) (a b : Num) :
    (Num.add rdn a b).1.val = (xadd rdn a.val b.val).1 ∧ (Num.add rdn a b).2 = if (xadd rdn a.val b.val).2 then 16 else 0 := by
  match a, b with
  | .nan, b => cases b <;> exact ⟨rfl, rfl⟩
  | .inf _, .nan => exact ⟨rfl, rfl⟩
  | .fin .., .nan => exact ⟨rfl, rfl⟩
  | .inf a, .inf b => cases a <;> cases b <;> exact ⟨rfl, rfl⟩
  | .inf _, .fin .. => exact ⟨rfl, rfl⟩
  | .fin .., .inf _ => exact ⟨rfl, rfl⟩
  | .fin a m e, .fin b k f =>
    refine ⟨?_, rfl⟩
    have hp := two_zpow_pos (min e f)
    have hs : sg a (m * 2 ^ e) + sg b (k * 2 ^ f) = ((Num.at a m e (min e f) + Num.at b k f (min e f) : Int) : ℚ) * 2 ^ min e f := by
      rw [← Num.at_val a m (min_le_left e f), ← Num.at_val b k (min_le_right e f)]
      push_cast; ring
    show (Num.ofInt _ _ _).val = if sg a (m * 2 ^ e) + sg b (k * 2 ^ f) = 0 then XV.fin (if a = b then a else rdn) 0 else .fin (decide (sg a (m * 2 ^ e) + sg b (k * 2 ^ f) < 0)) |sg a (m * 2 ^ e) + sg b (k * 2 ^ f)|
    rw [hs, Num.val_ofInt]
    generalize Num.at a m e (min e f) + Num.at b k f (min e f) = S
    have h0 : (S : ℚ) * 2 ^ min e f = 0 ↔ S = 0 := by simp [hp.ne']
    have h1 : (S : ℚ) * 2 ^ min e f < 0 ↔ S < 0 := by rw [mul_neg_iff, Int.cast_lt_zero]; simp [hp, hp.not_gt]
    simp only [h0, h1, abs_mul, abs_of_pos hp]

theorem Num.val_mul (a b : Num) : (Num.mul a b).1.val = (xmul a.val b.val).1 ∧ (Num.mul a b).2 = if (xmul a.val b.val).2 then 16 else 0 := by
  have h0 : ∀ (m : Nat) (e : Int), (m : ℚ) * 2 ^ e = 0 ↔ m = 0 := fun m e => by simp [(two_zpow_pos e).ne']
  match a, b with
  | .nan, b => cases b <;> exact ⟨rfl, rfl⟩
  | .inf _, .nan => exact ⟨rfl, rfl⟩
  | .fin .., .nan => exact ⟨rfl, rfl⟩
  | .inf _, .inf _ => exact ⟨rfl, rfl⟩
  | .inf a, .fin b m e =>
    by_cases hm : m = 0 <;> simp [Num.mul, Num.val, xmul, h0, hm, fNV]
  | .fin a m e, .inf b =>
    by_cases hm : m = 0 <;> simp [Num.mul, Num.val, xmul, h0, hm, fNV]
  | .fin a m e, .fin b k f =>
    refine ⟨?_, rfl⟩
    simp only [Num.mul, Num.val, xmul, XV.fin.injEq, true_and]
    rw [zpow_add₀ (by norm_num)]
    push_cast; ring

theorem Num.val_neg (a : Num) : a.neg.val = xneg a.val := by cases a <;> rfl

theorem Num.val_isNan (a : Num) : a.isNan = xnan a.val := by cases a <;> rfl

theorem Num.val_lt (a b : Num) : a.lt b = xlt a.val b.val := by
  match a, b with
  | .nan, b => cases b <;> rfl
  | .inf _, .nan => rfl
  | .fin .., .nan => rfl
  | .inf _, .inf _ => rfl
  | .inf _, .fin .. => rfl
  | .fin .., .inf _ => rfl
  | .fin a m e, .fin b k f =>
    simp only [Num.lt, Num.val, xlt]
    rw [← Num.at_val a m (min_le_left e f), ← Num.at_val b k (min_le_right e f)]
    simp only [mul_lt_mul_iff_left₀ (two_zpow_pos (min e f)), Int.cast_lt]

/-- The order of `VMIN` and `VMAX`, in which -0 is below +0 (R81). -/
def xbelow (x y : XV) : Bool := xlt x y || (match x, y with | .fin true v, .fin false w => v == 0 && w == 0 | _, _ => false)

theorem Num.val_below (a b : Num) : a.below b = xbelow a.val b.val := by
  have h0 : ∀ (m : Nat) (e : Int), ((m : ℚ) * 2 ^ e == 0) = (m == 0) := fun m e => by
    rw [Bool.eq_iff_iff, beq_iff_eq, beq_iff_eq]; simp [(two_zpow_pos e).ne']
  have hz : ∀ neg m e, (Num.fin neg m e).isZero = (m == 0) := fun neg m e => by cases m <;> rfl
  unfold Num.below xbelow
  rw [Num.val_lt]
  refine congrArg (xlt a.val b.val || ·) ?_
  match a, b with
  | .nan, b => cases b <;> rfl
  | .inf _, .nan => rfl
  | .fin a m e, .nan => cases a <;> simp [Num.isZero, Num.val]
  | .inf _, .inf _ => rfl
  | .inf _, .fin .. => rfl
  | .fin a m e, .inf _ => cases a <;> simp [Num.isZero, Num.val]
  | .fin a m e, .fin b k f => cases a <;> cases b <;> simp [Num.val, Num.sign, hz, h0]

/-! ## Codes of floating types -/

theorem fw_eq (t : Nat) : fw t = ((fmtF t).eb, (fmtF t).fb, (fmtF t).maxc) := by
  match t with
  | 0 => rfl
  | 1 => rfl
  | 2 => rfl
  | 3 => rfl
  | n + 4 => rfl

/-- The magnitude of a code of a floating type: subnormals, then one binade of 2^fb codes after the other. -/
theorem magOf_eq (t k : Nat) : magOf t k =
    if k < 2 ^ (fmtF t).fb then (k : ℚ) * 2 ^ (fmtF t).lmin else ((2 ^ (fmtF t).fb + k % 2 ^ (fmtF t).fb : Nat) : ℚ) * 2 ^ ((fmtF t).lmin + (k / 2 ^ (fmtF t).fb : Nat) - 1) := by
  have h : (2 : Int) - 2 ^ ((fmtF t).eb - 1) - ((fmtF t).fb : Int) = (fmtF t).lmin := by
    match t with
    | 0 => rfl
    | 1 => rfl
    | 2 => rfl
    | 3 => rfl
    | n + 4 => rfl
  simp only [magOf, fw_eq, h]

theorem testBit_bitN (c i : Nat) : c.testBit i = bitN c i := by
  rw [Nat.testBit_eq_decide_div_mod_eq, bitN, Bool.eq_iff_iff, decide_eq_true_eq, beq_iff_eq]

/-- Codes count on through the binades: the magnitude of q units of the j-th, q up to the whole binade and its end. -/
theorem magOf_code (t : Nat) {j q : Nat} (h : j = 0 ∨ 2 ^ (fmtF t).fb ≤ q) (hq : q ≤ 2 * 2 ^ (fmtF t).fb) :
    magOf t (j * 2 ^ (fmtF t).fb + q) = q * 2 ^ ((fmtF t).lmin + j) := by
  have hB := Nat.two_pow_pos (fmtF t).fb
  rw [magOf_eq]
  generalize 2 ^ (fmtF t).fb = B at *
  generalize (fmtF t).lmin = l
  rcases Nat.lt_trichotomy q B with hlt | rfl | hgt
  · obtain rfl := h.resolve_right (by omega)
    simp [hlt]
  · rw [if_neg (by nlinarith), ← Nat.succ_mul, Nat.mul_mod_left, Nat.mul_div_cancel _ hB]
    push_cast; ring_nf
  · obtain ⟨r, rfl⟩ := Nat.exists_eq_add_of_le hgt.le
    rw [if_neg (by nlinarith), ← Nat.add_assoc, ← Nat.succ_mul, Nat.mul_add_mod_self_right, Nat.mul_comm, Nat.mul_add_div hB]
    rcases Nat.lt_or_ge r B with hr | hr
    · rw [Nat.mod_eq_of_lt hr, Nat.div_eq_of_lt hr]
      push_cast; ring_nf
    · obtain rfl : r = B := by omega
      rw [Nat.mod_self, Nat.div_self hB, show l + ((j.succ + 1 : Nat) : Int) - 1 = l + j + 1 by push_cast; ring, zpow_add_one₀ (by norm_num)]
      push_cast; ring

/-- The limits of the floating types: E4M3 alone has no infinities, and one NaN of each sign. -/
theorem fmtF_spec {t : Nat} (ht : t < 5) : tyWidth t = (fmtF t).eb + (fmtF t).fb + 1 ∧ 1 < 2 ^ (fmtF t).eb ∧ 1 < 2 ^ (fmtF t).fb ∧
    if t = 3 then (fmtF t).infs = false ∧ (fmtF t).maxc + 2 = 2 ^ (fmtF t).eb * 2 ^ (fmtF t).fb else (fmtF t).infs = true ∧ (fmtF t).maxc + 1 = (2 ^ (fmtF t).eb - 1) * 2 ^ (fmtF t).fb := by
  interval_cases t <;> decide

/-- The fields of a floating code below its sign. -/
theorem code_fields (c eb fb : Nat) : c % 2 ^ (eb + fb) = fld c fb eb * 2 ^ fb + fld c 0 fb := by
  have h := Nat.mod_mul (x := c) (a := 2 ^ fb) (b := 2 ^ eb)
  rw [← Nat.pow_add, Nat.add_comm fb eb] at h
  rw [h, fld, fld, Nat.pow_zero, Nat.div_one]
  ring

/-- The value of a finite floating code. -/
theorem fin_val (t : Nat) (neg : Bool) (ex : Nat) {fr : Nat} (hf : fr < 2 ^ (fmtF t).fb) :
    (if ex = 0 then Num.fin neg fr (fmtF t).lmin else .fin neg (2 ^ (fmtF t).fb + fr) ((fmtF t).lmin + (ex - 1 : Nat))).val =
      .fin neg (magOf t (ex * 2 ^ (fmtF t).fb + fr)) := by
  split
  · next h => subst h; rw [magOf_code t (.inl rfl) (by omega)]; simp [Num.val]
  · next h =>
    obtain ⟨j, rfl⟩ := Nat.exists_eq_succ_of_ne_zero h
    rw [Nat.succ_mul, Nat.add_assoc, magOf_code t (.inr (Nat.le_add_right ..)) (by omega)]
    rfl

/-- The value of a floating code (R79, R86). -/
theorem num_val {t : Nat} (ht : t < 5) (z c : Nat) : ((fmtF t).num c).val = xval t z c := by
  obtain ⟨hw, hE, hB, hm⟩ := fmtF_spec ht
  have hk := code_fields c (fmtF t).eb (fmtF t).fb
  have hx : fld c (fmtF t).fb (fmtF t).eb < 2 ^ (fmtF t).eb := Nat.mod_lt _ (Nat.two_pow_pos _)
  have hf : fld c 0 (fmtF t).fb < 2 ^ (fmtF t).fb := Nat.mod_lt _ (Nat.two_pow_pos _)
  have hv := fin_val t (bitN c ((fmtF t).eb + (fmtF t).fb)) (fld c (fmtF t).fb (fmtF t).eb) hf
  rw [← hk] at hv
  simp only [xval, if_pos ht, fw_eq, hw, Nat.add_sub_cancel, testBit_bitN]
  rw [FmtF.num]
  simp only [hk] at hv ⊢
  generalize fld c (fmtF t).fb (fmtF t).eb = ex at *
  generalize fld c 0 (fmtF t).fb = fr at *
  generalize 2 ^ (fmtF t).eb = E at *
  generalize hBv : 2 ^ (fmtF t).fb = B at *
  obtain ⟨E, rfl⟩ := Nat.exists_eq_add_of_lt hE
  have hle : ex < 1 + E → ex * B + B ≤ (1 + E) * B := fun h => by
    rw [← Nat.succ_mul]; exact Nat.mul_le_mul_right B h
  rw [show 1 + E + 1 - 1 = 1 + E from rfl] at *
  split at hm
  · next h3 =>
    obtain ⟨hi, hm⟩ := hm
    rw [Nat.succ_mul] at hm
    by_cases hn : ex = 1 + E ∧ fr = B - 1
    · obtain ⟨rfl, rfl⟩ := hn
      simp only [hi, Bool.false_eq_true, and_false, if_false, and_self, if_true]
      rw [if_neg (by omega), if_neg fun h => h.2 h3]
      rfl
    · have hc : ex * B + fr ≤ (fmtF t).maxc := by
        rcases Nat.lt_or_ge ex (1 + E) with h | h
        · have := hle h; omega
        · obtain rfl : ex = 1 + E := by omega
          omega
      simp only [hi, Bool.false_eq_true, and_false, if_false, if_neg hn, if_pos hc]
      exact hv
  · next h3 =>
    obtain ⟨hi, hm⟩ := hm
    rcases Nat.lt_or_ge ex (1 + E) with h | h
    · have hc : ex * B + fr ≤ (fmtF t).maxc := by have := hle h; omega
      rw [if_neg fun h' => h.ne h'.1, if_neg fun h' => h.ne h'.1, if_pos hc]
      exact hv
    · obtain rfl : ex = 1 + E := by omega
      have hc : ¬(1 + E) * B + fr ≤ (fmtF t).maxc := by omega
      simp only [hi, and_self, if_true, if_neg hc]
      by_cases hz : fr = 0
      · rw [if_pos hz, if_pos ⟨by omega, h3⟩]; rfl
      · rw [if_neg hz, if_neg (by omega)]; rfl

/-! ## Codes of every type -/

/-- The magnitude of an L6 code, in units of 2^-19. -/
theorem l6Of_eq (l : Nat) : l6Of l = (l6Mag l : ℚ) * 2 ^ (-19 : Int) := by
  have hT : ((l6T (l % 4) : Nat) : ℚ) = match l % 4 with | 0 => 32768 | 1 => 38968 | 2 => 46341 | _ => 55109 := by
    rcases l % 4 with _ | _ | _ | _ <;> simp [l6T]
  unfold l6Of l6Mag
  split
  · simp
  · rw [Nat.cast_mul, hT, mul_assoc, Nat.cast_pow, Nat.cast_ofNat, ← zpow_natCast, ← zpow_add₀ (by norm_num)]
    rfl

theorem Num.val_nat (c : Nat) : (Num.fin false c 0).val = xint c := by
  simp [Num.val, xint]

/-- The exact value of a code (R77 to R94). -/
theorem numOf_val {t : Nat} (ht : t < 15) (z : Nat) {c : Nat} (hc : c < 2 ^ tyWidth t) : (numOf t c z).val = xval t z c := by
  by_cases h5 : t < 5
  · rw [numOf, show tyFloat t = true from decide_eq_true h5]
    exact num_val h5 z c
  have hI : ∀ t : BitVec 4, tyI t.toNat = true → ∀ c, (Num.ofInt (sval c (tyWidth t.toNat)) 0 false).val = xint (iv t (tyWidth t.toNat) c) := by
    intro t h c
    rw [Num.val_xint, iv, Machine.sgnTy_eq, h, sval_eq]
    rfl
  have hN : ∀ t : BitVec 4, tyI t.toNat = false → ∀ c, c < 2 ^ tyWidth t.toNat → (Num.fin false c 0).val = xint (iv t (tyWidth t.toNat) c) := by
    intro t h c hc
    rw [Num.val_nat, iv, Machine.sgnTy_eq, h, Nat.mod_eq_of_lt hc]
    rfl
  obtain rfl | rfl | rfl | h | h | rfl : t = 5 ∨ t = 6 ∨ t = 7 ∨ (8 ≤ t ∧ t ≤ 10) ∨ (11 ≤ t ∧ t ≤ 13) ∨ t = 14 := by omega
  · show (l6Num c).val = if c % 32 = 0 then XV.fin false 0 else .fin (c.testBit 5) (l6Of (c % 32))
    rw [l6Num, testBit_bitN, l6Of_eq]
    split
    · simp [Num.val]
    · rfl
  · exact Num.val_xint _
  · exact Num.val_xint _
  · obtain ⟨h1, h2⟩ := h
    interval_cases t
    · exact hI 8 rfl c
    · exact hI 9 rfl c
    · exact hI 10 rfl c
  · obtain ⟨h1, h2⟩ := h
    interval_cases t
    · exact hN 11 rfl c hc
    · exact hN 12 rfl c hc
    · exact hN 13 rfl c hc
  · show (if c = 255 then Num.nan else .fin false 1 ((c : Int) - 127)).val = if c = 255 then XV.nan else .fin false (2 ^ ((c : Int) - 127))
    split
    · rfl
    · simp [Num.val]

end Sys2Proof

/-! SUPPORT. Rounding (R80, R82 to R85, R87): a magnitude cut at a bit, what the floating types deliver of an exact value, and rounding to an integer, as the statements have them over rationals. -/
namespace Sys2Proof
open Sys2Proof.Claims

/-! ## A magnitude cut at a bit -/

/-- Whether a magnitude strictly between its neighbours lo and hi moves up (R82), as the statements have it: lt and eq tell which rationals lie below it and which it equals. -/
def upQ (lt eq : ℚ → Prop) (rm : Nat) (neg : Bool) (odd : Prop) (lo hi : ℚ) : Prop :=
  match rm with
  | 0 => lt ((lo + hi) / 2) ∨ eq ((lo + hi) / 2) ∧ odd
  | 1 => False
  | 2 => neg = false
  | 3 => neg = true
  | _ => lt ((lo + hi) / 2) ∨ eq ((lo + hi) / 2)

/-- The magnitude v cut to a multiple of 2^l: q is the multiple at or below it, r the rounded one with its inexactness. -/
structure Cut (v : ℚ) (rm : Nat) (neg : Bool) (l : Int) (q : Nat) (r : Nat × Bool) : Prop where
  lo : (q : ℚ) * 2 ^ l ≤ v
  hi : v < ((q + 1 : Nat) : ℚ) * 2 ^ l
  inexact : r.2 = true ↔ (q : ℚ) * 2 ^ l ≠ v
  exact : (q : ℚ) * 2 ^ l = v → r.1 = q
  up : (q : ℚ) * 2 ^ l ≠ v → upQ (· < v) (· = v) rm neg (q % 2 = 1) (q * 2 ^ l) ((q + 1 : Nat) * 2 ^ l) → r.1 = q + 1
  down : (q : ℚ) * 2 ^ l ≠ v → ¬upQ (· < v) (· = v) rm neg (q % 2 = 1) (q * 2 ^ l) ((q + 1 : Nat) * 2 ^ l) → r.1 = q

theorem roundsUp_iff (rm : Nat) (neg : Bool) {q r k : Nat} (hr : r ≠ 0) (e : Int) :
    roundsUp rm neg q r k = true ↔ upQ (· < ((2 ^ k * q + r : Nat) : ℚ) * 2 ^ e) (· = ((2 ^ k * q + r : Nat) : ℚ) * 2 ^ e) rm neg (q % 2 = 1) (q * 2 ^ (e + k)) ((q + 1 : Nat) * 2 ^ (e + k)) := by
  have hp := two_zpow_pos e
  have hm : ((q : ℚ) * 2 ^ (e + k) + ((q + 1 : Nat) : ℚ) * 2 ^ (e + k)) / 2 = ((2 ^ k * q : Nat) + (2 ^ k : Nat) / 2) * 2 ^ e := by
    rw [zpow_add₀ (by norm_num), zpow_natCast]; push_cast; ring
  have hlt : ((q : ℚ) * 2 ^ (e + k) + ((q + 1 : Nat) : ℚ) * 2 ^ (e + k)) / 2 < ((2 ^ k * q + r : Nat) : ℚ) * 2 ^ e ↔ 2 ^ k < 2 * r := by
    rw [hm, mul_lt_mul_iff_left₀ hp, Nat.cast_add, add_lt_add_iff_left, div_lt_iff₀ (by norm_num)]
    norm_cast; rw [Nat.mul_comm]
  have heq : ((q : ℚ) * 2 ^ (e + k) + ((q + 1 : Nat) : ℚ) * 2 ^ (e + k)) / 2 = ((2 ^ k * q + r : Nat) : ℚ) * 2 ^ e ↔ 2 * r = 2 ^ k := by
    rw [hm, mul_left_inj' hp.ne', Nat.cast_add, add_right_inj, div_eq_iff (by norm_num)]
    norm_cast; rw [Nat.mul_comm, eq_comm]
  match rm with
  | 0 => simp only [roundsUp, upQ, hlt, heq, Bool.or_eq_true, Bool.and_eq_true, decide_eq_true_eq, beq_iff_eq]
  | 1 => simp [roundsUp, upQ]
  | 2 => simp [roundsUp, upQ, hr]
  | 3 => simp [roundsUp, upQ, hr]
  | n + 4 =>
    simp only [roundsUp, upQ, hlt, heq, Bool.and_eq_true, decide_eq_true_eq, bne_iff_ne]
    omega

/-- What `cutAt` leaves of m x 2^e. -/
theorem cutAt_spec (rm : Nat) (neg : Bool) (m : Nat) (e l : Int) : ∃ q, Cut (m * 2 ^ e) rm neg l q (cutAt rm neg m e l) := by
  have hp := two_zpow_pos l
  by_cases hl : l ≤ e
  · have hv : ((m * 2 ^ (e - l).toNat : Nat) : ℚ) * 2 ^ l = m * 2 ^ e := by rw [two_zpow_split hl, Nat.cast_mul, mul_assoc]
    have hc : cutAt rm neg m e l = (m * 2 ^ (e - l).toNat, false) := if_pos hl
    rw [hc, ← hv]
    generalize m * 2 ^ (e - l).toNat = q
    refine ⟨q, le_refl _, ?_, by simp, fun _ => rfl, fun h => absurd rfl h, fun h => absurd rfl h⟩
    rw [mul_lt_mul_iff_left₀ hp]
    exact_mod_cast Nat.lt_succ_self q
  · obtain ⟨k, rfl⟩ : ∃ k : Nat, l = e + k := ⟨(l - e).toNat, by omega⟩
    have hk := Nat.two_pow_pos k
    have hr := Nat.mod_lt m hk
    have hc : cutAt rm neg m e (e + k) = (if roundsUp rm neg (m / 2 ^ k) (m % 2 ^ k) k then m / 2 ^ k + 1 else m / 2 ^ k, m % 2 ^ k != 0) := by
      rw [cutAt, if_neg hl, show (e + k - e).toNat = k by omega]
    have hm := Nat.div_add_mod m (2 ^ k)
    rw [hc]
    generalize m / 2 ^ k = q at *
    generalize m % 2 ^ k = r at *
    subst hm
    have hz : ∀ a : Nat, (a : ℚ) * 2 ^ (e + k) = ((2 ^ k * a : Nat) : ℚ) * 2 ^ e := fun a => by
      rw [zpow_add₀ (by norm_num), zpow_natCast]; push_cast; ring
    have hne : (q : ℚ) * 2 ^ (e + k) ≠ ((2 ^ k * q + r : Nat) : ℚ) * 2 ^ e ↔ r ≠ 0 := by
      rw [hz, Ne, mul_left_inj' (two_zpow_pos e).ne', Nat.cast_inj]; omega
    refine ⟨q, ?_, ?_, ?_, fun h => ?_, fun h hu => ?_, fun h hu => ?_⟩
    · rw [hz, mul_le_mul_iff_left₀ (two_zpow_pos e)]
      exact_mod_cast Nat.le_add_right _ _
    · rw [hz, mul_lt_mul_iff_left₀ (two_zpow_pos e), Nat.mul_succ]
      exact_mod_cast Nat.add_lt_add_left hr _
    · rw [hne]; simp
    · obtain rfl : r = 0 := not_not.1 (mt hne.2 (not_not.2 h))
      have : roundsUp rm neg q 0 k = false := by
        match rm with
        | 0 =>
          simp only [roundsUp, Nat.mul_zero, Nat.not_lt_zero, decide_false, Bool.false_or, Bool.and_eq_false_iff, decide_eq_false_iff_not]
          exact .inl hk.ne
        | 1 => rfl
        | 2 => rfl
        | 3 => rfl
        | n + 4 => rfl
      simp [this]
    · simp [(roundsUp_iff rm neg (hne.1 h) e).2 hu]
    · simp [mt (roundsUp_iff rm neg (hne.1 h) e).1 hu]

theorem Cut.range {v : ℚ} {rm : Nat} {neg : Bool} {l : Int} {q : Nat} {r : Nat × Bool} (h : Cut v rm neg l q r) : r.1 = q ∨ r.1 = q + 1 := by
  by_cases he : (q : ℚ) * 2 ^ l = v
  · exact .inl (h.exact he)
  · by_cases hu : upQ (· < v) (· = v) rm neg (q % 2 = 1) (q * 2 ^ l) ((q + 1 : Nat) * 2 ^ l)
    · exact .inr (h.up he hu)
    · exact .inl (h.down he hu)

/-! ## Leading bits -/

theorem bitLen_spec {m : Nat} (h : m ≠ 0) : 0 < bitLen m ∧ 2 ^ (bitLen m - 1) ≤ m ∧ m < 2 ^ bitLen m := by
  rw [bitLen, if_neg h]
  exact ⟨Nat.succ_pos _, Nat.log2_self_le h, Nat.lt_log2_self⟩

theorem bitLen_eq {m n : Nat} (h1 : 2 ^ n ≤ m) (h2 : m < 2 ^ (n + 1)) : bitLen m = n + 1 := by
  have h0 : m ≠ 0 := (Nat.two_pow_pos n).trans_le h1 |>.ne'
  rw [bitLen, if_neg h0, (Nat.log2_eq_iff h0).2 ⟨h1, h2⟩]

/-- A magnitude lies in the binade of its leading bit. -/
theorem top_spec {m : Nat} (h : m ≠ 0) (e : Int) : (2 : ℚ) ^ (e + (bitLen m : Int) - 1) ≤ m * 2 ^ e ∧ (m : ℚ) * 2 ^ e < 2 ^ (e + (bitLen m : Int) - 1 + 1) := by
  obtain ⟨h0, h1, h2⟩ := bitLen_spec h
  have hp := two_zpow_pos e
  constructor
  · rw [show e + (bitLen m : Int) - 1 = ((bitLen m - 1 : Nat) : Int) + e by omega, zpow_add₀ (by norm_num), zpow_natCast, mul_le_mul_iff_left₀ hp]
    exact_mod_cast h1
  · rw [show e + (bitLen m : Int) - 1 + 1 = (bitLen m : Int) + e by omega, zpow_add₀ (by norm_num), zpow_natCast, mul_lt_mul_iff_left₀ hp]
    exact_mod_cast h2

/-! ## Floating types -/

theorem magOf_binade (t : Nat) : magOf t (2 ^ (fmtF t).fb) = 2 ^ ((fmtF t).lmin + (fmtF t).fb) := by
  have h := magOf_code t (j := 0) (.inr (le_refl (2 ^ (fmtF t).fb))) (by omega)
  rw [Nat.zero_mul, Nat.zero_add] at h
  rw [h, Nat.cast_pow, Nat.cast_ofNat, ← zpow_natCast, ← zpow_add₀ (by norm_num), Nat.cast_zero, add_zero, add_comm]

/-- A magnitude is tiny as the statements have it: rounded with exponents unbounded below it stays under the smallest normal one (R85). -/
def tinyQ (t rm : Nat) (neg : Bool) (lt eq : ℚ → Prop) : Prop :=
  let norm := magOf t (2 ^ (fw t).2.1)
  let under := norm * (1 - 1 / 2 ^ ((fw t).2.1 + 1))
  ¬ lt norm ∧ ¬ eq norm ∧ ¬ (lt under ∧ upQ lt eq rm neg True under norm)

/-- So it is when the cut below its leading bit says so. -/
theorem tiny_iff {t : Nat} {rm : Nat} {neg : Bool} {v : ℚ} {top : Int} {q : Nat} {r : Nat × Bool} (hlo : (2 : ℚ) ^ top ≤ v) (hhi : v < 2 ^ (top + 1))
    (hc : Cut v rm neg (top - (fmtF t).fb) q r) :
    top - (fmtF t).fb + (bitLen r.1 : Int) - 1 < (fmtF t).lmin + (fmtF t).fb ↔ tinyQ t rm neg (· < v) (· = v) := by
  have hp := two_zpow_pos (top - (fmtF t).fb)
  have hB := Nat.two_pow_pos (fmtF t).fb
  have hs : ∀ n : Nat, (2 : ℚ) ^ (top - (fmtF t).fb + n) = ((2 ^ n : Nat) : ℚ) * 2 ^ (top - (fmtF t).fb) := fun n => by
    rw [zpow_add₀ (by norm_num), zpow_natCast, mul_comm, Nat.cast_pow, Nat.cast_ofNat]
  have hq1 : 2 ^ (fmtF t).fb ≤ q := by
    have h := hlo.trans_lt hc.hi
    rw [show top = top - (fmtF t).fb + ((fmtF t).fb : Nat) by omega, hs, show top - (fmtF t).fb + ((fmtF t).fb : Nat) - (fmtF t).fb = top - (fmtF t).fb by omega,
      mul_lt_mul_iff_left₀ hp, Nat.cast_lt] at h
    omega
  have hq2 : q < 2 * 2 ^ (fmtF t).fb := by
    have h := hc.lo.trans_lt hhi
    rw [show top + 1 = top - (fmtF t).fb + ((fmtF t).fb + 1 : Nat) by omega, hs, mul_lt_mul_iff_left₀ hp, Nat.cast_lt, Nat.pow_succ] at h
    omega
  have hlen : bitLen r.1 = if r.1 = 2 * 2 ^ (fmtF t).fb then (fmtF t).fb + 2 else (fmtF t).fb + 1 := by
    have := hc.range
    split
    · next h => exact bitLen_eq (by rw [Nat.pow_succ]; omega) (by rw [Nat.pow_succ, Nat.pow_succ]; omega)
    · next h => exact bitLen_eq (by omega) (by rw [Nat.pow_succ]; omega)
  unfold tinyQ
  simp only [fw_eq, magOf_binade]
  rcases lt_trichotomy (top + 1) ((fmtF t).lmin + (fmtF t).fb) with hC | hC | hC
  · have hn : v < 2 ^ ((fmtF t).lmin + (fmtF t).fb) * (1 - 1 / 2 ^ ((fmtF t).fb + 1)) := by
      have hh : (1 : ℚ) / 2 ^ ((fmtF t).fb + 1) ≤ 1 / 2 := by
        rw [pow_succ]
        exact one_div_le_one_div_of_le (by norm_num) (by nlinarith [one_le_pow₀ (M₀ := ℚ) (a := 2) (n := (fmtF t).fb) (by norm_num)])
      calc v < 2 ^ (top + 1) := hhi
        _ ≤ 2 ^ ((fmtF t).lmin + (fmtF t).fb - 1) := zpow_le_zpow_right₀ (by norm_num) (by omega)
        _ = 2 ^ ((fmtF t).lmin + (fmtF t).fb) * (1 / 2) := by rw [zpow_sub_one₀ (by norm_num)]; ring
        _ ≤ _ := mul_le_mul_of_nonneg_left (by linarith) (two_zpow_pos _).le
    have hn' : v < 2 ^ ((fmtF t).lmin + (fmtF t).fb) := hn.trans_le (mul_le_of_le_one_right (two_zpow_pos _).le (by simp))
    refine iff_of_true ?_ ⟨hn'.not_gt, hn'.ne', fun h => hn.not_gt h.1⟩
    rw [hlen]
    split <;> omega
  · have hnorm : (2 : ℚ) ^ ((fmtF t).lmin + (fmtF t).fb) = ((2 * 2 ^ (fmtF t).fb : Nat) : ℚ) * 2 ^ (top - (fmtF t).fb) := by
      rw [← hC, show top + 1 = top - (fmtF t).fb + ((fmtF t).fb + 1 : Nat) by omega, hs, Nat.pow_succ, Nat.mul_comm]
    have hunder : (2 : ℚ) ^ ((fmtF t).lmin + (fmtF t).fb) * (1 - 1 / 2 ^ ((fmtF t).fb + 1)) = ((2 * 2 ^ (fmtF t).fb - 1 : Nat) : ℚ) * 2 ^ (top - (fmtF t).fb) := by
      rw [hnorm, Nat.cast_sub (by omega)]
      push_cast
      rw [pow_succ]
      field_simp
    have hm : top - (fmtF t).fb + (bitLen r.1 : Int) - 1 < (fmtF t).lmin + (fmtF t).fb ↔ r.1 ≠ 2 * 2 ^ (fmtF t).fb := by
      rw [hlen]
      split <;> omega
    rw [hC, hnorm] at hhi
    rw [hm, hunder, hnorm]
    simp only [hhi.not_gt, hhi.ne', not_false_eq_true, true_and]
    rcases Nat.lt_or_ge (q + 1) (2 * 2 ^ (fmtF t).fb) with hq | hq
    · have hv : v < ((2 * 2 ^ (fmtF t).fb - 1 : Nat) : ℚ) * 2 ^ (top - (fmtF t).fb) :=
        hc.hi.trans_le (mul_le_mul_of_nonneg_right (Nat.cast_le.2 (by omega)) hp.le)
      have := hc.range
      exact iff_of_true (by omega) fun h => hv.not_gt h.1
    · obtain ⟨rfl, h2⟩ : q = 2 * 2 ^ (fmtF t).fb - 1 ∧ 2 * 2 ^ (fmtF t).fb - 1 + 1 = 2 * 2 ^ (fmtF t).fb := by omega
      have hodd : ((2 * 2 ^ (fmtF t).fb - 1) % 2 = 1) = True := eq_true (by omega)
      by_cases he : ((2 * 2 ^ (fmtF t).fb - 1 : Nat) : ℚ) * 2 ^ (top - (fmtF t).fb) = v
      · exact iff_of_true (by rw [hc.exact he]; omega) fun h => h.1.ne he
      · have hup := hc.up he
        have hdown := hc.down he
        rw [hodd, h2] at hup hdown
        by_cases hu : upQ (· < v) (· = v) rm neg True (((2 * 2 ^ (fmtF t).fb - 1 : Nat) : ℚ) * 2 ^ (top - (fmtF t).fb)) (((2 * 2 ^ (fmtF t).fb : Nat) : ℚ) * 2 ^ (top - (fmtF t).fb))
        · exact iff_of_false (not_not.2 (hup hu)) (not_not.2 ⟨hc.lo.lt_of_ne he, hu⟩)
        · exact iff_of_true (by rw [hdown hu]; omega) fun h => hu h.2
  · have hn : (2 : ℚ) ^ ((fmtF t).lmin + (fmtF t).fb) ≤ v := (zpow_le_zpow_right₀ (by norm_num) (by omega)).trans hlo
    refine iff_of_false ?_ fun h => hn.lt_or_eq.elim h.1 h.2.1
    rw [hlen]
    split <;> omega

/-- The signed code of a floating type. -/
theorem signBit_eq {t : Nat} (ht : t < 5) : (fmtF t).signBit = 2 ^ (tyWidth t - 1) := by
  rw [FmtF.signBit, (fmtF_spec ht).1, Nat.add_sub_cancel]
theorem nanc_eq {t : Nat} (ht : t < 5) : (fmtF t).nanc = nanOf t := by rw [FmtF.nanc, signBit_eq ht, nanOf]
theorem big_eq {t : Nat} (ht : t < 5) (neg : Bool) : (fmtF t).big neg = bigOf t neg := by rw [FmtF.big, signBit_eq ht, bigOf, fw_eq]
theorem infc_eq {t : Nat} (ht : t < 5) (h3 : t ≠ 3) (neg : Bool) : (fmtF t).infc neg = infOf t neg := by
  have h := (fmtF_spec ht).2.2.2
  rw [if_neg h3] at h
  simp only [FmtF.infc, signBit_eq ht, infOf, fw_eq, h.2]
theorem infs_eq {t : Nat} (ht : t < 5) : (fmtF t).infs = decide (t ≠ 3) := by interval_cases t <;> rfl

/-- What an overflow delivers. -/
theorem over_spec {t : Nat} (ht : t < 5) (rm : Nat) (neg : Bool) : (fmtF t).over rm true neg = (bigOf t neg, 33) ∧
    (fmtF t).over rm false neg = (if rm = 1 ∨ (rm = 2 ∧ neg = true) ∨ (rm = 3 ∧ neg = false) then bigOf t neg else if t = 3 then nanOf t else infOf t neg, 5) := by
  have hi : (if (fmtF t).infs then (fmtF t).infc neg else (fmtF t).nanc) = if t = 3 then nanOf t else infOf t neg := by
    rw [infs_eq ht]
    by_cases h3 : t = 3
    · simp [h3, nanc_eq (t := 3) (by omega)]
    · simp [h3, infc_eq ht h3]
  refine ⟨by rw [← big_eq ht]; rfl, ?_⟩
  simp only [FmtF.over, Bool.false_eq_true, if_false, hi, big_eq ht]
  match rm with
  | 0 => rfl
  | 1 => rfl
  | 2 => cases neg <;> rfl
  | 3 => cases neg <;> rfl
  | n + 4 => simp; rfl

/-- The code that a finite rounding reaches, and what it delivers: the cut is taken at the leading bit of the precision, or at the smallest subnormal. -/
theorem round_fin {t : Nat} (rm : Nat) (sat neg : Bool) {m : Nat} (h : m ≠ 0) (e : Int) {top l : Int} (htop : top = e + (bitLen m : Int) - 1) (hl : l = max (top - (fmtF t).fb) (fmtF t).lmin)
    {j : Nat} (hj : l = (fmtF t).lmin + j) (hq : j = 0 ∨ 2 ^ (fmtF t).fb ≤ (cutAt rm neg m e l).1) (hq' : (cutAt rm neg m e l).1 ≤ 2 * 2 ^ (fmtF t).fb) :
    (fmtF t).round rm sat (.fin neg m e) = if (fmtF t).maxc < j * 2 ^ (fmtF t).fb + (cutAt rm neg m e l).1 then (fmtF t).over rm sat neg else
      (j * 2 ^ (fmtF t).fb + (cutAt rm neg m e l).1 + (if neg then (fmtF t).signBit else 0), fIf (cutAt rm neg m e l).2 fNX |||
        fIf ((cutAt rm neg m e l).2 && decide (top - (fmtF t).fb + (bitLen (cutAt rm neg m e (top - (fmtF t).fb)).1 : Int) - 1 < (fmtF t).lmin + (fmtF t).fb)) fUF) := by
  have hB := Nat.two_pow_pos (fmtF t).fb
  have hcode : ∀ q : Nat, (j = 0 ∨ 2 ^ (fmtF t).fb ≤ q) → q ≤ 2 * 2 ^ (fmtF t).fb →
      (if (if q = 2 ^ ((fmtF t).fb + 1) then q / 2 else q) < 2 ^ (fmtF t).fb then (if q = 2 ^ ((fmtF t).fb + 1) then q / 2 else q)
        else (((if q = 2 ^ ((fmtF t).fb + 1) then l + 1 else l) - (fmtF t).lmin).toNat + 1) * 2 ^ (fmtF t).fb + ((if q = 2 ^ ((fmtF t).fb + 1) then q / 2 else q) - 2 ^ (fmtF t).fb)) =
      j * 2 ^ (fmtF t).fb + q := by
    intro q h1 h2
    rw [Nat.pow_succ, Nat.mul_comm _ 2]
    generalize 2 ^ (fmtF t).fb = B at *
    by_cases hB2 : q = 2 * B
    · subst hB2
      rw [if_pos rfl, if_pos rfl, Nat.mul_div_cancel_left _ (by omega), if_neg (by omega), show (l + 1 - (fmtF t).lmin).toNat = j + 1 by omega]
      ring_nf; omega
    · rw [if_neg hB2, if_neg hB2, show (l - (fmtF t).lmin).toNat = j by omega]
      split
      · next hlt => rw [h1.resolve_right (by omega)]; simp
      · rw [Nat.succ_mul]; omega
  simp only [FmtF.round, if_neg h, ← htop, ← hl]
  rw [hcode _ hq hq']

/-- A finite value other than zero rounds as the statements have it (R82, R83, R85). -/
theorem rounds_round {t : Nat} (ht : t < 5) (rm : Nat) (sat neg : Bool) {m : Nat} (h : m ≠ 0) (e : Int) :
    Rounds t rm sat neg (· < (m : ℚ) * 2 ^ e) (· = (m : ℚ) * 2 ^ e) ((fmtF t).round rm sat (.fin neg m e)).1 ((fmtF t).round rm sat (.fin neg m e)).2 := by
  obtain ⟨hlo, hhi⟩ := top_spec h e
  generalize htop : e + (bitLen m : Int) - 1 = top at hlo hhi
  obtain ⟨j, hj⟩ : ∃ j : Nat, max (top - (fmtF t).fb) (fmtF t).lmin = (fmtF t).lmin + j := ⟨(max (top - (fmtF t).fb) (fmtF t).lmin - (fmtF t).lmin).toNat, by omega⟩
  generalize hl : max (top - (fmtF t).fb) (fmtF t).lmin = l at hj
  obtain ⟨q, hc⟩ := cutAt_spec rm neg m e l
  obtain ⟨q1, hc1⟩ := cutAt_spec rm neg m e (top - (fmtF t).fb)
  have hp := two_zpow_pos l
  have hs : ∀ n : Nat, (2 : ℚ) ^ (l + n) = ((2 ^ n : Nat) : ℚ) * 2 ^ l := fun n => by
    rw [zpow_add₀ (by norm_num), zpow_natCast, mul_comm, Nat.cast_pow, Nat.cast_ofNat]
  have hq1 : j = 0 ∨ 2 ^ (fmtF t).fb ≤ q := by
    refine or_iff_not_imp_left.2 fun hj0 => ?_
    have h := hlo.trans_lt hc.hi
    rw [show top = l + ((fmtF t).fb : Nat) by omega, hs, mul_lt_mul_iff_left₀ hp, Nat.cast_lt] at h
    omega
  have hq2 : q < 2 * 2 ^ (fmtF t).fb := by
    have h := (hc.lo.trans_lt hhi).trans_le (zpow_le_zpow_right₀ (by norm_num) (by omega : top + 1 ≤ l + ((fmtF t).fb + 1 : Nat)))
    rw [hs, mul_lt_mul_iff_left₀ hp, Nat.cast_lt, Nat.pow_succ] at h
    omega
  have hr := hc.range
  have hB := (fmtF_spec ht).2.2.1
  have hk : magOf t (j * 2 ^ (fmtF t).fb + q) = q * 2 ^ l := by rw [magOf_code t hq1 hq2.le, hj]
  have hk' : magOf t (j * 2 ^ (fmtF t).fb + q + 1) = (q + 1 : Nat) * 2 ^ l := by
    rw [Nat.add_assoc, magOf_code t (by omega) (by omega), hj]
  have hodd : ((j * 2 ^ (fmtF t).fb + q) % 2 = 1) = (q % 2 = 1) := by
    obtain ⟨b, hb⟩ : ∃ b, (fmtF t).fb = b + 1 := Nat.exists_eq_succ_of_ne_zero fun h0 => by simp [h0] at hB
    rw [hb, Nat.pow_succ, ← Nat.mul_assoc, Nat.mul_add_mod_self_right]
  rw [round_fin rm sat neg h e htop.symm hl.symm hj (by omega) (by omega)]
  refine ⟨j * 2 ^ (fmtF t).fb + q, j * 2 ^ (fmtF t).fb + (cutAt rm neg m e l).1, ?_, ?_, ?_, ?_, ?_, ?_, ?_⟩
  · rw [hk]; exact hc.lo.lt_or_eq
  · rw [hk']; exact hc.hi.not_gt
  · rw [hk']; exact hc.hi.ne'
  · rw [hk]; intro he; rw [hc.exact he]
  · rw [hk, hk', hodd]
    intro he
    exact ⟨fun hu => by rw [hc.up he hu]; rfl, fun hu => by rw [hc.down he hu]⟩
  · intro hK
    rw [hk]
    have ht' := tiny_iff hlo hhi hc1
    have hx := hc.inexact
    rw [fw_eq] at hK
    rw [if_neg (Nat.not_lt.2 hK), signBit_eq ht]
    refine ⟨rfl, fun he => ?_, fun he => ?_⟩
    · have h2 : (cutAt rm neg m e l).2 = false := by rw [Bool.eq_false_iff]; exact mt hx.1 (not_not.2 he)
      simp only [h2, Bool.false_and]; rfl
    · simp only [hx.2 he, Bool.true_and]
      exact ⟨fun ht2 => by rw [decide_eq_true (ht'.2 ht2)]; rfl, fun ht2 => by rw [decide_eq_false (mt ht'.1 ht2)]; rfl⟩
  · intro hK
    rw [fw_eq] at hK
    rw [if_pos hK]
    obtain ⟨h1, h2⟩ := over_spec ht rm neg
    refine ⟨fun hs => ?_, fun hs => ?_⟩
    · rw [hs, h1]; exact ⟨rfl, rfl⟩
    · rw [hs, h2]; exact ⟨rfl, rfl⟩

/-- What a floating type delivers of an exact value (R80, R82, R83, R85, R87). -/
theorem delivers_round {t : Nat} (ht : t < 5) (rm : Nat) (sat : Bool) (x : Num) :
    Delivers t rm sat x.val ((fmtF t).round rm sat x).1 ((fmtF t).round rm sat x).2 := by
  match x with
  | .nan => exact ⟨nanc_eq ht, rfl⟩
  | .inf neg =>
    show if sat then _ else _
    simp only [FmtF.round, infs_eq ht]
    cases sat
    · by_cases h3 : t = 3
      · subst h3; exact ⟨rfl, rfl⟩
      · simp [h3, infc_eq ht h3]
    · exact ⟨big_eq ht neg, rfl⟩
  | .fin neg m e =>
    have h0 : (m : ℚ) * 2 ^ e = 0 ↔ m = 0 := by simp [(two_zpow_pos e).ne']
    refine ⟨fun h => ?_, fun h => rounds_round ht rm sat neg (mt h0.2 h) e⟩
    rw [FmtF.round, if_pos (h0.1 h), signBit_eq ht]
    exact ⟨rfl, rfl⟩

/-- The same of a result with its NV. -/
theorem deliversNv_round {t : Nat} (ht : t < 5) (rm : Nat) (sat : Bool) {r : Num × Flags} {x : XV × Bool} (h : r.1.val = x.1 ∧ r.2 = if x.2 then 16 else 0) :
    DeliversNv t rm sat x ((fmtF t).round rm sat r.1).1 (r.2 ||| ((fmtF t).round rm sat r.1).2) := by
  refine ⟨((fmtF t).round rm sat r.1).2, h.1 ▸ delivers_round ht rm sat r.1, ?_⟩
  rw [h.2, BitVec.or_comm]

/-- A delivered code lies in its type. -/
theorem delivers_lt {t : Nat} (ht : t < 5) {rm : Nat} {sat : Bool} {x : XV} {c : Nat} {fl : BitVec 6} (h : Delivers t rm sat x c fl) : c < 2 ^ tyWidth t := by
  have hm : (fw t).2.2 < 2 ^ (tyWidth t - 1) ∧ (t ≠ 3 → (fw t).2.2 + 1 < 2 ^ (tyWidth t - 1)) ∧ 2 ^ tyWidth t = 2 * 2 ^ (tyWidth t - 1) := by
    interval_cases t <;> decide
  obtain ⟨hm, hi, hw⟩ := hm
  have hn : nanOf t < 2 ^ tyWidth t := by rw [nanOf]; omega
  have hb : ∀ neg, bigOf t neg < 2 ^ tyWidth t := fun neg => by rw [bigOf]; split <;> omega
  have hf : t ≠ 3 → ∀ neg, infOf t neg < 2 ^ tyWidth t := fun h3 neg => by have := hi h3; rw [infOf]; split <;> omega
  match x, h with
  | .nan, h => exact h.1 ▸ hn
  | .inf neg, h =>
    simp only [Delivers] at h
    split at h
    · exact h.1 ▸ hb neg
    · split at h
      · exact h.1 ▸ hn
      · next h3 => exact h.1 ▸ hf h3 neg
  | .fin neg v, h =>
    obtain ⟨hz, hnz⟩ := h
    by_cases hv : v = 0
    · rw [(hz hv).1]
      split <;> omega
    · obtain ⟨k, K, -, -, -, -, -, hin, hout⟩ := hnz hv
      rcases Nat.lt_or_ge (fw t).2.2 K with hK | hK
      · cases sat
        · rw [((hout hK).2 rfl).2]
          split
          · exact hb neg
          · split
            · exact hn
            · next h3 => exact hf h3 neg
        · exact ((hout hK).1 rfl).1 ▸ hb neg
      · rw [(hin hK).1]
        split <;> omega

theorem round_lt {t : Nat} (ht : t < 5) (rm : Nat) (sat : Bool) (x : Num) : ((fmtF t).round rm sat x).1 < 2 ^ tyWidth t :=
  delivers_lt ht (delivers_round ht rm sat x)

/-! ## Integers -/

/-- Whether the integer k below q, which is none itself, moves up (R82). -/
def intUp (rm : Nat) (q : ℚ) (k : Int) : Bool :=
  match rm with
  | 0 => decide (2 * (k : ℚ) + 1 < 2 * q) || (decide (2 * q = 2 * k + 1) && k % 2 != 0)
  | 1 => decide (q < 0)
  | 2 => true
  | 3 => false
  | _ => decide (2 * (k : ℚ) + 1 < 2 * q) || (decide (2 * q = 2 * k + 1) && decide (0 < q))

theorem intUp_pos (rm : Nat) {q : Nat} {v : ℚ} (h : (q : ℚ) < v) : intUp rm v q = true ↔ upQ (· < v) (· = v) rm false (q % 2 = 1) q (q + 1 : Nat) := by
  have hv : 0 < v := (Nat.cast_nonneg q).trans_lt h
  have h1 : (2 * ((q : Int) : ℚ) + 1 < 2 * v) = (((q : ℚ) + (q + 1 : Nat)) / 2 < v) := by
    rw [eq_iff_iff, div_lt_iff₀ (by norm_num)]; push_cast; constructor <;> intro h <;> linarith
  have h2 : (2 * v = 2 * ((q : Int) : ℚ) + 1) = (((q : ℚ) + (q + 1 : Nat)) / 2 = v) := by
    rw [eq_iff_iff, div_eq_iff (by norm_num)]; push_cast; constructor <;> intro h <;> linarith
  match rm with
  | 0 =>
    simp only [intUp, upQ, h1, h2, Bool.or_eq_true, Bool.and_eq_true, decide_eq_true_eq, bne_iff_ne]
    rw [show ((q : Int) % 2 ≠ 0) = (q % 2 = 1) by rw [eq_iff_iff]; omega]
  | 1 => simp [intUp, upQ, hv.le]
  | 2 => simp [intUp, upQ]
  | 3 => simp [intUp, upQ]
  | n + 4 => simp only [intUp, upQ, h1, h2, hv, decide_true, Bool.and_true, Bool.or_eq_true, decide_eq_true_eq]

theorem intUp_neg (rm : Nat) {q : Nat} {v : ℚ} (h : (q : ℚ) < v) : intUp rm (-v) (-(q + 1 : Nat)) = true ↔ ¬upQ (· < v) (· = v) rm true (q % 2 = 1) q (q + 1 : Nat) := by
  have hv : 0 < v := (Nat.cast_nonneg q).trans_lt h
  have h1 : (2 * ((-(q + 1 : Nat) : Int) : ℚ) + 1 < 2 * -v) = (v < ((q : ℚ) + (q + 1 : Nat)) / 2) := by
    rw [eq_iff_iff, lt_div_iff₀ (by norm_num)]; push_cast; constructor <;> intro h <;> linarith
  have h2 : (2 * -v = 2 * ((-(q + 1 : Nat) : Int) : ℚ) + 1) = (v = ((q : ℚ) + (q + 1 : Nat)) / 2) := by
    rw [eq_iff_iff, eq_div_iff (by norm_num)]; push_cast; constructor <;> intro h <;> linarith
  match rm with
  | 0 =>
    simp only [intUp, upQ, h1, h2, Bool.or_eq_true, Bool.and_eq_true, decide_eq_true_eq, bne_iff_ne]
    rw [show ((-(q + 1 : Nat) : Int) % 2 ≠ 0) = ¬(q % 2 = 1) by rw [eq_iff_iff]; omega]
    generalize ((q : ℚ) + (q + 1 : Nat)) / 2 = mid
    rcases lt_trichotomy v mid with hm | rfl | hm
    · simp [hm, hm.not_gt, hm.ne']
    · simp
    · simp [hm, hm.not_gt, hm.ne']
  | 1 => simp [intUp, upQ, hv]
  | 2 => simp [intUp, upQ]
  | 3 => simp [intUp, upQ]
  | n + 4 =>
    simp only [intUp, upQ, h1, h2, Bool.or_eq_true, Bool.and_eq_true, decide_eq_true_eq]
    generalize ((q : ℚ) + (q + 1 : Nat)) / 2 = mid
    rcases lt_trichotomy v mid with hm | rfl | hm
    · simp [hm, hm.not_gt, hm.ne']
    · simp [hv.le]
    · simp [hm, hm.not_gt, hm.ne']

/-- Rounding a magnitude to a whole number rounds the signed value to an integer (R82). -/
theorem roundInt_spec (rm : Nat) (neg : Bool) (m : Nat) (e : Int) :
    RoundInt rm (sg neg (m * 2 ^ e)) (roundInt rm neg m e).1 ∧ ((roundInt rm neg m e).2 = true ↔ ((roundInt rm neg m e).1 : ℚ) ≠ sg neg (m * 2 ^ e)) := by
  obtain ⟨q, hc⟩ := cutAt_spec rm neg m e 0
  have hr : roundInt rm neg m e = (if neg then -((cutAt rm neg m e 0).1 : Int) else (cutAt rm neg m e 0).1, (cutAt rm neg m e 0).2) := rfl
  obtain ⟨hlo, hhi, hx, hex, hup, hdown⟩ := hc
  rw [hr, hx]
  simp only [zpow_zero, mul_one] at *
  generalize (m : ℚ) * 2 ^ e = v at *
  generalize (cutAt rm neg m e 0).1 = c at *
  by_cases he : (q : ℚ) = v
  · obtain rfl := hex he
    subst he
    cases neg
    · exact ⟨⟨c, le_refl _, by simp [sg], by simp [sg]⟩, by simp [sg]⟩
    · exact ⟨⟨-c, by simp [sg], by simp [sg], by simp [sg]⟩, by simp [sg]⟩
  · have hlt := hlo.lt_of_ne he
    push_cast at hhi
    have hint : ∀ i : Int, (q : ℚ) < i → (i : ℚ) < q + 1 → False := fun i h1 h2 => by
      have h1' : (q : Int) < i := by exact_mod_cast h1
      have h2' : i < (q : Int) + 1 := by exact_mod_cast h2
      omega
    cases neg
    · have hb := intUp_pos rm hlt
      have hi : c = if intUp rm v q then q + 1 else q := by
        split
        · next hu => exact hup he (hb.1 hu)
        · next hu => exact hdown he (mt hb.2 hu)
      refine ⟨⟨q, hlo, hhi, ?_⟩, iff_of_true he fun h => ?_⟩
      · show (c : Int) = if v = q then _ else if intUp rm v q = true then _ else _
        rw [if_neg (Ne.symm he), hi]
        split <;> rfl
      · exact hint c (h ▸ hlt) (h ▸ hhi)
    · have hb := intUp_neg rm hlt
      have hi : c = if intUp rm (-v) (-(q + 1 : Nat)) then q else q + 1 := by
        split
        · next hu => exact hdown he (hb.1 hu)
        · next hu => exact hup he (not_not.1 (mt hb.2 hu))
      refine ⟨⟨-(q + 1 : Nat), ?_, ?_, ?_⟩, iff_of_true he fun h => ?_⟩
      · push_cast; show _ ≤ -v; linarith
      · push_cast; show -v < _; linarith
      · show -(c : Int) = if -v = ((-(q + 1 : Nat) : Int) : ℚ) then _ else if intUp rm (-v) (-(q + 1 : Nat)) = true then _ else _
        rw [if_neg (by push_cast; intro h; linarith), hi]
        split <;> push_cast <;> ring
      · have h' : (c : ℚ) = v := by simpa [sg] using h
        exact hint c (by rw [Int.cast_natCast, h']; exact hlt) (by rw [Int.cast_natCast, h']; exact hhi)

end Sys2Proof

/-! SUPPORT. Conversions (R87 to R96): what each target type gives for an exact value, as the statements have it. -/
namespace Sys2Proof
open Sys2Proof.Claims Sys2Proof.Machine

/-! ## L6 -/

theorem l6Mag_strictMono : StrictMono l6Mag := by
  refine strictMono_nat_of_lt_succ fun n => ?_
  obtain ⟨a, b, hb, rfl⟩ : ∃ a b, b < 4 ∧ n = 4 * a + b := ⟨n / 4, n % 4, Nat.mod_lt _ (by decide), (Nat.div_add_mod n 4).symm⟩
  have hp := Nat.two_pow_pos a
  have hm : ∀ a b, b < 4 → 4 * a + b ≠ 0 → l6Mag (4 * a + b) = l6T b * 2 ^ a := fun a b hb h0 => by
    rw [l6Mag, if_neg h0, show (4 * a + b) % 4 = b by omega, show (4 * a + b) / 4 = a by omega]
  by_cases h0 : 4 * a + b = 0
  · obtain ⟨rfl, rfl⟩ : a = 0 ∧ b = 0 := by omega
    decide
  · rw [hm a b hb h0]
    rcases Nat.lt_or_ge b 3 with h3 | h3
    · rw [Nat.add_assoc, hm a (b + 1) (by omega) (by omega)]
      refine Nat.mul_lt_mul_of_pos_right ?_ hp
      interval_cases b <;> decide
    · obtain rfl : b = 3 := by omega
      rw [show 4 * a + 3 + 1 = 4 * (a + 1) + 0 by omega, hm (a + 1) 0 (by decide) (by omega), Nat.pow_succ]
      simp only [l6T]
      omega

/-- The field that `l6Near` takes lies nearest, and is the even one of two that do (R89). -/
theorem l6Near_spec (x k : Nat) (n : Nat) : l6Near x k n ≤ n ∧ ∀ i, i ≤ n → dist (l6Mag (l6Near x k n) * 2 ^ k) x < dist (l6Mag i * 2 ^ k) x ∨
    dist (l6Mag (l6Near x k n) * 2 ^ k) x = dist (l6Mag i * 2 ^ k) x ∧ (i = l6Near x k n ∨ l6Near x k n % 2 = 0) := by
  induction n with
  | zero => exact ⟨le_refl _, fun i hi => .inr ⟨by rw [Nat.le_zero.1 hi]; rfl, .inr rfl⟩⟩
  | succ n ih =>
    obtain ⟨hb, ih⟩ := ih
    rw [l6Near]
    generalize l6Near x k n = b at *
    have hle : ∀ i, i ≤ n → dist (l6Mag b * 2 ^ k) x ≤ dist (l6Mag i * 2 ^ k) x := fun i hi => (ih i hi).elim le_of_lt fun h => h.1.le
    simp only [Bool.or_eq_true, Bool.and_eq_true, decide_eq_true_eq, beq_iff_eq]
    split
    · next h =>
      refine ⟨le_refl _, fun i hi => ?_⟩
      rcases Nat.lt_or_ge n i with hn | hn
      · exact .inr ⟨by rw [show i = n + 1 by omega], .inl (by omega)⟩
      · have := hle i hn
        omega
    · next h =>
      refine ⟨by omega, fun i hi => ?_⟩
      rcases Nat.lt_or_ge n i with hn | hn
      · obtain rfl : i = n + 1 := by omega
        by_cases heq : dist (l6Mag b * 2 ^ k) x = dist (l6Mag (n + 1) * 2 ^ k) x
        · refine .inr ⟨heq, .inr ?_⟩
          have hbn : b = n := by
            by_contra hne
            have h1 := Nat.mul_lt_mul_of_pos_right (l6Mag_strictMono (show b < n by omega)) (Nat.two_pow_pos k)
            have h2 := Nat.mul_lt_mul_of_pos_right (l6Mag_strictMono (show n < n + 1 by omega)) (Nat.two_pow_pos k)
            have h3 := hle n (le_refl n)
            unfold dist at heq h3
            split at heq <;> split at heq <;> split at h3 <;> split at h3 <;> omega
          omega
        · exact .inl (by omega)
      · exact ih i hn

theorem cast_dist (a b : Nat) : ((dist a b : Nat) : ℚ) = |(a : ℚ) - b| := by
  unfold dist
  split
  · next h => rw [Nat.cast_sub h, abs_of_nonpos (by simpa using h)]; ring
  · next h => rw [Nat.cast_sub (by omega), abs_of_nonneg (by simpa using Nat.le_of_not_le h)]

/-- A conversion to L6 (R89). -/
theorem toL6_spec (t rm : Nat) (sat : Bool) (z : Nat) (x : Num) : ConvTo t 5 rm sat z x.val (toL6 x).1 (toL6 x).2 := by
  match x with
  | .nan => exact ⟨rfl, rfl⟩
  | .inf neg => exact ⟨rfl, rfl⟩
  | .fin neg m e =>
    show if l6Of 31 < (m : ℚ) * 2 ^ e then _ else _
    obtain ⟨x, k, hx, hk, hv⟩ : ∃ x k : Nat, x = m * 2 ^ (e + 19).toNat ∧ k = (-19 - e).toNat ∧ (m : ℚ) * 2 ^ e = x * 2 ^ (-19 - k : Int) := by
      refine ⟨_, _, rfl, rfl, ?_⟩
      rcases Int.le_total (-19) e with h | h
      · rw [show (-19 - e).toNat = 0 by omega, two_zpow_split h, show e - -19 = e + 19 by ring, Nat.cast_zero, sub_zero]; push_cast; ring
      · rw [show (e + 19).toNat = 0 by omega, show (-19 - ((-19 - e).toNat : Int)) = e by omega, pow_zero, Nat.mul_one]
    have hp := two_zpow_pos (-19 - k)
    have h19 : (2 : ℚ) ^ (-19 : Int) = 2 ^ k * 2 ^ (-19 - k : Int) := by rw [← zpow_natCast, ← zpow_add₀ (by norm_num), add_sub_cancel]
    have hl : ∀ l, l6Of l = ((l6Mag l * 2 ^ k : Nat) : ℚ) * 2 ^ (-19 - k : Int) := fun l => by
      rw [l6Of_eq, h19, ← mul_assoc, Nat.cast_mul, Nat.cast_pow, Nat.cast_ofNat]
    have hd : ∀ l, |l6Of l - (m : ℚ) * 2 ^ e| = (dist (l6Mag l * 2 ^ k) x : ℚ) * 2 ^ (-19 - k : Int) := fun l => by
      rw [hl, hv, ← sub_mul, abs_mul, abs_of_pos hp, cast_dist]
    have hgt : l6Of 31 < (m : ℚ) * 2 ^ e ↔ l6Mag 31 * 2 ^ k < x := by rw [hl, hv, mul_lt_mul_iff_left₀ hp, Nat.cast_lt]
    have heq : ∀ l, l6Of l = (m : ℚ) * 2 ^ e ↔ l6Mag l * 2 ^ k = x := fun l => by rw [hl, hv, mul_left_inj' hp.ne', Nat.cast_inj]
    simp only [hgt, heq, hd, mul_lt_mul_iff_left₀ hp, mul_left_inj' hp.ne', Nat.cast_lt, Nat.cast_inj]
    by_cases h0 : m = 0
    · subst h0
      obtain rfl : x = 0 := by rw [hx, Nat.zero_mul]
      rw [if_neg (Nat.not_lt_zero _)]
      refine ⟨0, by decide, fun i _ => ?_, rfl, by simp [toL6, l6Mag]⟩
      have : dist (l6Mag 0 * 2 ^ k) 0 = 0 := by simp [l6Mag, dist]
      omega
    · have hr : toL6 (.fin neg m e) = if l6Mag 31 * 2 ^ k < x then (31 + (if neg then 32 else 0), fOF ||| fNX) else
          if l6Near x k 31 = 0 then (0, fUF ||| fIf (l6Mag (l6Near x k 31) * 2 ^ k != x) fNX) else (l6Near x k 31 + (if neg then 32 else 0), fIf (l6Mag (l6Near x k 31) * 2 ^ k != x) fNX) := by
        rw [hx, hk]; simp only [toL6, if_neg h0]
      rw [hr]
      split
      · exact ⟨rfl, rfl⟩
      · obtain ⟨hb, hn⟩ := l6Near_spec x k 31
        refine ⟨l6Near x k 31, hb, hn, ?_⟩
        have hfl : fIf (l6Mag (l6Near x k 31) * 2 ^ k != x) fNX = if l6Mag (l6Near x k 31) * 2 ^ k = x then 0 else 1 := by
          unfold fIf
          by_cases h : l6Mag (l6Near x k 31) * 2 ^ k = x <;> simp [h, fNX]
        have hm : (if l6Near x k 31 = 0 ∧ (m : ℚ) * 2 ^ e ≠ 0 then (2 : BitVec 6) else 0) = if l6Near x k 31 = 0 then 2 else 0 := by
          simp [h0, (two_zpow_pos e).ne']
        rw [hfl, hm]
        by_cases hz : l6Near x k 31 = 0
        · simp [hz, fUF]
        · simp [hz]

/-! ## E8 -/

/-- A conversion to E8 (R94). -/
theorem toE8_spec (t rm : Nat) (sat : Bool) (z : Nat) (x : Num) : ConvTo t 14 rm sat z x.val (toE8 x).1 (toE8 x).2 := by
  match x with
  | .nan => exact ⟨rfl, rfl⟩
  | .inf neg => exact ⟨rfl, rfl⟩
  | .fin neg m e =>
    have hz : (m : ℚ) * 2 ^ e = 0 ↔ m = 0 := by simp [(two_zpow_pos e).ne']
    refine ⟨fun h => ?_, fun h => ⟨e + (bitLen m : Int) - 1, ?_⟩⟩
    · rw [toE8, if_pos (hz.1 h)]
      exact ⟨rfl, rfl⟩
    · have h0 := mt hz.2 h
      obtain ⟨hlo, hhi⟩ := top_spec h0 e
      have hpow : (m : ℚ) * 2 ^ e = 2 ^ (e + (bitLen m : Int) - 1) ↔ m = 2 ^ (bitLen m - 1) := by
        have := (bitLen_spec h0).1
        rw [show e + (bitLen m : Int) - 1 = ((bitLen m - 1 : Nat) : Int) + e by omega, zpow_add₀ (by norm_num), zpow_natCast,
          mul_left_inj' (two_zpow_pos e).ne', ← Nat.cast_ofNat, ← Nat.cast_pow, Nat.cast_inj]
      generalize htop : e + (bitLen m : Int) - 1 = top at *
      have hc : ∀ c : Int, (2 : ℚ) ^ c = m * 2 ^ e ↔ c = top ∧ m = 2 ^ (bitLen m - 1) := fun c => by
        constructor
        · intro hc
          have h1 : top ≤ c := by rw [← hc] at hlo; exact (zpow_le_zpow_iff_right₀ (by norm_num)).1 hlo
          have h2 : c < top + 1 := by rw [← hc] at hhi; exact (zpow_lt_zpow_iff_right₀ (by norm_num)).1 hhi
          obtain rfl : c = top := by omega
          exact ⟨rfl, hpow.1 hc.symm⟩
        · rintro ⟨rfl, hm⟩
          exact (hpow.2 hm).symm
      have hr : toE8 (.fin neg m e) = (if top + 127 < 0 then 0 else if 254 < top + 127 then 254 else (top + 127).toNat,
          fIf (decide (top + 127 < 0 ∨ 254 < top + 127)) fSV ||| fIf (m != 2 ^ (bitLen m - 1) || decide (((if top + 127 < 0 then 0 else if 254 < top + 127 then 254 else (top + 127).toNat : Nat) : Int) ≠ top + 127)) fNX) := by
        simp only [toE8, if_neg h0, htop]
      have hcl : (((if top + 127 < 0 then 0 else if 254 < top + 127 then 254 else (top + 127).toNat : Nat) : Int)) = clamp 0 254 (top + 127) := by
        unfold clamp
        split
        · rfl
        · split <;> omega
      rw [hr]
      refine ⟨hlo, hhi, hcl, ?_⟩
      simp only [hcl, hc]
      have hne : clamp 0 254 (top + 127) = top + 127 ↔ ¬(top + 127 < 0 ∨ 254 < top + 127) := by
        unfold clamp
        split
        · omega
        · split <;> omega
      by_cases h1 : top + 127 < 0 ∨ 254 < top + 127
      · have h2 : ¬clamp 0 254 (top + 127) = top + 127 := fun h => hne.1 h h1
        have h3 : ¬clamp 0 254 (top + 127) - 127 = top := fun h => h2 (by omega)
        simp [h1, h2, h3, fIf, fSV, fNX]
      · have h2 : clamp 0 254 (top + 127) = top + 127 := hne.2 h1
        rw [h2]
        generalize 2 ^ (bitLen m - 1) = b
        by_cases h3 : m = b <;> simp [h1, h3, fIf, fNX]

/-! ## Integers -/

theorem ilo_eq {t : Nat} (h : t < 16) : ilo t = tyMin t := by
  have := Machine.tyMin_eq (BitVec.ofNat 4 t)
  rw [BitVec.toNat_ofNat, Nat.mod_eq_of_lt h] at this
  rw [this, ilo]
theorem ihi_eq {t : Nat} (h : t < 16) : ihi t = tyMax t := by
  have := Machine.tyMax_eq (BitVec.ofNat 4 t)
  rw [BitVec.toNat_ofNat, Nat.mod_eq_of_lt h] at this
  rw [this, ihi]

/-- A result clamped, or wrapped. -/
theorem intRes_clamp {t : Nat} (h : t < 16) (sat : Bool) (i : Int) :
    intRes t sat i = (wrapN (if sat then clamp (ilo t) (ihi t) i else i) (tyWidth t), if sat = true ∧ clamp (ilo t) (ihi t) i ≠ i then 32 else 0) := by
  rw [ilo_eq h, ihi_eq h]
  unfold intRes clamp
  cases sat
  · rfl
  · simp only [Bool.true_and, decide_eq_true_eq, if_true, true_and]
    split
    · next h1 => rw [if_pos h1.ne']; rfl
    · split
      · next h1 => rw [if_pos h1.ne]; rfl
      · simp

/-- The flag of a rounding that is inexact. -/
theorem nx_flag (rm : Nat) (neg : Bool) (m : Nat) (e : Int) :
    fIf (roundInt rm neg m e).2 fNX = if ((roundInt rm neg m e).1 : ℚ) = sg neg (m * 2 ^ e) then 0 else 1 := by
  have h := (roundInt_spec rm neg m e).2
  by_cases hx : ((roundInt rm neg m e).1 : ℚ) = sg neg (m * 2 ^ e)
  · rw [if_pos hx, show (roundInt rm neg m e).2 = false by rw [Bool.eq_false_iff]; exact mt h.1 (not_not.2 hx)]; rfl
  · rw [if_neg hx, h.2 hx]; rfl

/-- A conversion to an offset binary type (R93). -/
theorem toOB_spec (t rm : Nat) (sat : Bool) (z : Nat) {tt : Nat} (h : tt = 6 ∨ tt = 7) (x : Num) : ConvTo t tt rm sat z x.val (toOB tt rm z x).1 (toOB tt rm z x).2 := by
  have h5 : ¬tt < 5 ∧ tt ≠ 5 := by omega
  unfold ConvTo
  rw [if_neg h5.1, if_neg h5.2, if_pos h]
  match x with
  | .nan => exact ⟨rfl, rfl⟩
  | .inf neg => exact ⟨rfl, rfl⟩
  | .fin neg m e =>
    refine ⟨_, (roundInt_spec rm neg m e).1, ?_⟩
    rw [← nx_flag]
    have hr : toOB tt rm z (.fin neg m e) = if (roundInt rm neg m e).1 + z < 0 then (0, fIf (roundInt rm neg m e).2 fNX ||| fSV) else
        if ((2 ^ tyWidth tt : Nat) : Int) ≤ (roundInt rm neg m e).1 + z then (2 ^ tyWidth tt - 1, fIf (roundInt rm neg m e).2 fNX ||| fSV)
        else (((roundInt rm neg m e).1 + z).toNat, fIf (roundInt rm neg m e).2 fNX) := rfl
    rw [hr]
    generalize fIf (roundInt rm neg m e).2 fNX = g
    generalize (roundInt rm neg m e).1 + (z : Int) = i
    have hp := Nat.two_pow_pos (tyWidth tt)
    have hw : (2 : Int) ^ tyWidth tt = ((2 ^ tyWidth tt : Nat) : Int) := by push_cast; rfl
    unfold clamp
    rw [hw]
    generalize 2 ^ tyWidth tt = w at *
    split
    · next h1 => exact ⟨rfl, (BitVec.or_comm ..).trans (congrArg (· ||| g) (if_neg h1.ne').symm)⟩
    · split
      · next h1 h2 =>
        rw [if_pos (by omega), if_neg (by omega), BitVec.or_comm]
        exact ⟨by omega, rfl⟩
      · next h1 h2 =>
        rw [if_neg (by omega), if_pos (by omega)]
        exact ⟨by omega, BitVec.zero_or.symm⟩

/-- A conversion of a float to an integer type (R96). -/
theorem floatToInt_spec {t : Nat} (ht : ¬((8 ≤ t ∧ t ≤ 13) ∨ t = 6 ∨ t = 7)) (rm : Nat) (sat : Bool) (z : Nat) {tt : Nat} (h : IntTy tt) (x : Num) :
    ConvTo t tt rm sat z x.val (floatToInt tt rm x).1 (floatToInt tt rm x).2 := by
  obtain ⟨h8, h13⟩ := h
  unfold ConvTo
  rw [if_neg (by omega), if_neg (by omega), if_neg (by omega), if_neg (by omega)]
  match x with
  | .nan => exact ⟨rfl, rfl⟩
  | .inf neg => rw [ilo_eq (by omega), ihi_eq (by omega)]; exact ⟨rfl, rfl⟩
  | .fin neg m e =>
    show if _ then _ else _
    rw [if_neg ht]
    refine ⟨_, (roundInt_spec rm neg m e).1, ?_⟩
    rw [← nx_flag]
    have hr : floatToInt tt rm (.fin neg m e) = ((intRes tt true (roundInt rm neg m e).1).1, (intRes tt true (roundInt rm neg m e).1).2 ||| fIf (roundInt rm neg m e).2 fNX) := rfl
    rw [hr, intRes_clamp (by omega)]
    refine ⟨rfl, ?_⟩
    by_cases hc : clamp (ilo tt) (ihi tt) (roundInt rm neg m e).1 = (roundInt rm neg m e).1 <;> simp [hc]

/-- A conversion of an integer to an integer type (R95). -/
theorem intToInt_spec {t : Nat} (ht : (8 ≤ t ∧ t ≤ 13) ∨ t = 6 ∨ t = 7) (rm : Nat) (sat : Bool) (z : Nat) {tt : Nat} (h : IntTy tt) (neg : Bool) (m : Nat) :
    ConvTo t tt rm sat z (Num.fin neg m 0).val (intRes tt sat (Num.at neg m 0 0)).1 (intRes tt sat (Num.at neg m 0 0)).2 := by
  obtain ⟨h8, h13⟩ := h
  unfold ConvTo
  rw [if_neg (by omega), if_neg (by omega), if_neg (by omega), if_neg (by omega)]
  show if _ then _ else _
  rw [if_pos ht, intRes_clamp (by omega)]
  refine ⟨Num.at neg m 0 0, ?_, rfl, rfl⟩
  have := Num.at_val neg m (le_refl 0)
  rwa [zpow_zero, mul_one] at this

/-- A number that a code of an integer or offset binary type stands for is whole. -/
theorem numOf_int {t : Nat} (ht : (8 ≤ t ∧ t ≤ 13) ∨ t = 6 ∨ t = 7) (c z : Nat) : ∃ neg m, numOf t c z = .fin neg m 0 := by
  have hI : ∀ v, ∃ neg m, Num.ofInt v 0 false = .fin neg m 0 := fun v => by unfold Num.ofInt; split <;> exact ⟨_, _, rfl⟩
  obtain ⟨h1, h2⟩ | rfl | rfl := ht
  · interval_cases t
    · exact hI _
    · exact hI _
    · exact hI _
    · exact ⟨false, c, rfl⟩
    · exact ⟨false, c, rfl⟩
    · exact ⟨false, c, rfl⟩
  · exact hI _
  · exact hI _

/-- A conversion of a code from type t to type tt (R87 to R96). -/
theorem convert_spec {t tt : Nat} (ht : t < 15) (htt : tt < 15) (rm : Nat) (sat : Bool) (zs zt : Nat) {c : Nat} (hc : c < 2 ^ tyWidth t) :
    ConvTo t tt rm sat zt (xval t zs c) (convertCode t tt rm sat zs zt c).1 (convertCode t tt rm sat zs zt c).2 := by
  rw [convertCode, ← numOf_val ht zs hc]
  by_cases h5 : tt < 5
  · unfold convertNum ConvTo
    rw [show tyFloat tt = true from decide_eq_true h5, if_pos h5]
    exact delivers_round h5 rm sat _
  have hf : tyFloat tt = false := decide_eq_false h5
  obtain rfl | h67 | rfl | h813 : tt = 5 ∨ (tt = 6 ∨ tt = 7) ∨ tt = 14 ∨ (8 ≤ tt ∧ tt ≤ 13) := by omega
  · exact toL6_spec t rm sat zt _
  · have ho : tyOB tt = true := by rcases h67 with rfl | rfl <;> rfl
    unfold convertNum
    rw [hf, if_neg (by decide), if_neg (by omega), ho]
    exact toOB_spec t rm sat zt h67 _
  · exact toE8_spec t rm sat zt _
  · have ho : tyOB tt = false := by simp [tyOB]; omega
    by_cases hs : (8 ≤ t ∧ t ≤ 13) ∨ t = 6 ∨ t = 7
    · have hi : (tyI t || tyN t || tyOB t) = true := by simp [tyI, tyN, tyOB]; omega
      obtain ⟨neg, m, hn⟩ := numOf_int hs c zs
      unfold convertNum
      rw [hf, if_neg (by decide), if_neg (by omega), ho, if_neg (by decide), if_neg (by omega), hi, if_pos rfl, hn]
      exact intToInt_spec hs rm sat zt h813 neg m
    · have hi : (tyI t || tyN t || tyOB t) = false := by simp [tyI, tyN, tyOB]; omega
      unfold convertNum
      rw [hf, if_neg (by decide), if_neg (by omega), ho, if_neg (by decide), if_neg (by omega), hi, if_neg (by decide)]
      exact floatToInt_spec hs rm sat zt h813 _

end Sys2Proof

/-! SUPPORT. The special functions (R98, R307): rounding sees of a magnitude only where it lies among the dyadic numbers of few bits, so a quotient or root cut off with a sticky bit rounds as the exact one does. -/
namespace Sys2Proof
open Sys2Proof.Claims

/-! ## The points that rounding looks at -/

/-- A number of at most 26 bits, in units of a power of two not below 2^-151. -/
def Point (x : ℚ) : Prop := ∃ (a : Nat) (b : Int), a < 2 ^ 26 ∧ -151 ≤ b ∧ x = a * 2 ^ b

theorem fmtF_point {t : Nat} (ht : t < 5) : 4 * 2 ^ (fmtF t).fb < 2 ^ 26 ∧ -149 ≤ (fmtF t).lmin := by interval_cases t <;> decide

/-- A code with its place in its binade. -/
theorem magOf_place (t k : Nat) : ∃ j q : Nat, q < 2 * 2 ^ (fmtF t).fb ∧ magOf t k = q * 2 ^ ((fmtF t).lmin + j) ∧ magOf t (k + 1) = (q + 1 : Nat) * 2 ^ ((fmtF t).lmin + j) := by
  have hB := Nat.two_pow_pos (fmtF t).fb
  obtain ⟨j, q, hk, hj, hq⟩ : ∃ j q, k = j * 2 ^ (fmtF t).fb + q ∧ (j = 0 ∨ 2 ^ (fmtF t).fb ≤ q) ∧ q < 2 * 2 ^ (fmtF t).fb := by
    by_cases h : k < 2 ^ (fmtF t).fb
    · exact ⟨0, k, by omega, .inl rfl, by omega⟩
    · have hm := Nat.mod_lt k hB
      have hd := Nat.div_add_mod k (2 ^ (fmtF t).fb)
      obtain ⟨d, hd'⟩ := Nat.exists_eq_add_of_lt (Nat.div_pos (Nat.not_lt.1 h) hB)
      refine ⟨d, 2 ^ (fmtF t).fb + k % 2 ^ (fmtF t).fb, ?_, .inr (Nat.le_add_right ..), by omega⟩
      rw [hd'] at hd
      nlinarith
  refine ⟨j, q, hq, ?_, ?_⟩
  · rw [hk, magOf_code t hj hq.le]
  · rw [hk, Nat.add_assoc, magOf_code t (by omega) (by omega)]

theorem magOf_mono (t : Nat) : Monotone (magOf t) := by
  refine monotone_nat_of_le_succ fun k => ?_
  obtain ⟨j, q, -, h1, h2⟩ := magOf_place t k
  rw [h1, h2]
  exact mul_le_mul_of_nonneg_right (Nat.cast_le.2 (Nat.le_succ q)) (two_zpow_pos _).le

theorem point_magOf {t : Nat} (ht : t < 5) (k : Nat) : Point (magOf t k) := by
  obtain ⟨hB, hl⟩ := fmtF_point ht
  obtain ⟨j, q, hq, h1, -⟩ := magOf_place t k
  exact ⟨q, _, by omega, by omega, h1⟩

theorem point_mid {t : Nat} (ht : t < 5) (k : Nat) : Point ((magOf t k + magOf t (k + 1)) / 2) := by
  obtain ⟨hB, hl⟩ := fmtF_point ht
  obtain ⟨j, q, hq, h1, h2⟩ := magOf_place t k
  refine ⟨2 * q + 1, (fmtF t).lmin + j - 1, by omega, by omega, ?_⟩
  rw [h1, h2, zpow_sub_one₀ (by norm_num)]
  push_cast; ring

/-- The largest number of the precision below the smallest normal one, and the middle of the two. -/
theorem point_under {t : Nat} (ht : t < 5) : Point (magOf t (2 ^ (fmtF t).fb) * (1 - 1 / 2 ^ ((fmtF t).fb + 1))) ∧
    Point ((magOf t (2 ^ (fmtF t).fb) * (1 - 1 / 2 ^ ((fmtF t).fb + 1)) + magOf t (2 ^ (fmtF t).fb)) / 2) := by
  obtain ⟨hB, hl⟩ := fmtF_point ht
  have hp := Nat.two_pow_pos (fmtF t).fb
  have hn : magOf t (2 ^ (fmtF t).fb) = (2 : ℚ) ^ (fmtF t).fb * 2 ^ (fmtF t).lmin := by
    rw [magOf_binade, zpow_add₀ (by norm_num), zpow_natCast, mul_comm]
  rw [hn]
  refine ⟨⟨2 * 2 ^ (fmtF t).fb - 1, (fmtF t).lmin - 1, by omega, by omega, ?_⟩, ⟨4 * 2 ^ (fmtF t).fb - 1, (fmtF t).lmin - 2, by omega, by omega, ?_⟩⟩
  · rw [Nat.cast_sub (by omega), zpow_sub_one₀ (by norm_num), pow_succ]
    push_cast
    field_simp
  · rw [Nat.cast_sub (by omega), zpow_sub₀ (by norm_num), pow_succ]
    push_cast
    field_simp
    ring

theorem upQ_congr {lt lt' eq eq' : ℚ → Prop} (rm : Nat) (neg : Bool) (odd : Prop) {lo hi : ℚ} (h1 : lt ((lo + hi) / 2) = lt' ((lo + hi) / 2)) (h2 : eq ((lo + hi) / 2) = eq' ((lo + hi) / 2)) :
    upQ lt eq rm neg odd lo hi = upQ lt' eq' rm neg odd lo hi := by
  unfold upQ
  rw [h1, h2]

/-- Magnitudes that lie alike among the points round alike. -/
theorem rounds_congr {t : Nat} (ht : t < 5) {rm : Nat} {sat neg : Bool} {lt lt' eq eq' : ℚ → Prop} (h : ∀ x, Point x → lt x = lt' x ∧ eq x = eq' x) {c : Nat} {fl : BitVec 6}
    (hr : Rounds t rm sat neg lt eq c fl) : Rounds t rm sat neg lt' eq' c fl := by
  obtain ⟨k, K, h1, h2, h3, h4, h5, h6, h7⟩ := hr
  have hk := h _ (point_magOf ht k)
  have hk1 := h _ (point_magOf ht (k + 1))
  have hup := upQ_congr rm neg (k % 2 = 1) (h _ (point_mid ht k)).1 (h _ (point_mid ht k)).2
  have htiny : tinyQ t rm neg lt eq = tinyQ t rm neg lt' eq' := by
    obtain ⟨hu, hm⟩ := point_under ht
    have hn := h _ (point_magOf ht (2 ^ (fmtF t).fb))
    unfold tinyQ
    simp only [fw_eq]
    rw [hn.1, hn.2, (h _ hu).1, upQ_congr rm neg True (h _ hm).1 (h _ hm).2]
  rw [hk.1, hk.2] at h1
  rw [hk1.1] at h2
  rw [hk1.2] at h3
  rw [hk.2] at h4 h5 h6
  refine ⟨k, K, h1, h2, h3, h4, ?_, ?_, h7⟩
  · intro he
    have h5 := h5 he
    change (upQ _ _ rm neg _ _ _ → _) ∧ (¬upQ _ _ rm neg _ _ _ → _) at h5 ⊢
    rwa [hup] at h5
  · intro hK
    obtain ⟨hc, hx, ht⟩ := h6 hK
    refine ⟨hc, hx, fun he => ?_⟩
    have ht := ht he
    change (tinyQ _ _ _ _ _ → _) ∧ (¬tinyQ _ _ _ _ _ → _) at ht ⊢
    rwa [htiny] at ht

/-! ## Sticky bits -/

/-- A magnitude given by what lies below it lies at 2q units of 2^s, or strictly between there and the next even number of them when st is 1. -/
structure Sticky (lt eq : ℚ → Prop) (q st : Nat) (s : Int) : Prop where
  below : ∀ x : ℚ, 0 ≤ x → x < q * 2 ^ (s + 1) → lt x ∧ ¬eq x
  even : st = 0 → ¬lt (q * 2 ^ (s + 1)) ∧ eq (q * 2 ^ (s + 1))
  odd : st ≠ 0 → st = 1 ∧ lt (q * 2 ^ (s + 1)) ∧ ¬eq (q * 2 ^ (s + 1))
  above : ∀ x : ℚ, (q + 1 : Nat) * 2 ^ (s + 1) ≤ x → ¬lt x ∧ ¬eq x

/-- It rounds as 2q + st units do, once q has more bits than the points. -/
theorem Sticky.rounds {t : Nat} (ht : t < 5) (rm : Nat) (sat neg : Bool) {lt eq : ℚ → Prop} {q st : Nat} {s : Int} (h : Sticky lt eq q st s) (hq : 2 ^ 26 ≤ q) :
    Rounds t rm sat neg lt eq ((fmtF t).round rm sat (.fin neg (2 * q + st) s)).1 ((fmtF t).round rm sat (.fin neg (2 * q + st) s)).2 := by
  refine rounds_congr ht ?_ (rounds_round ht rm sat neg (by omega) s)
  rintro x ⟨a, b, ha, -, rfl⟩
  have hp := two_zpow_pos s
  have hp1 := two_zpow_pos (s + 1)
  have hs : (2 : ℚ) ^ (s + 1) = 2 * 2 ^ s := by rw [zpow_add_one₀ (by norm_num), mul_comm]
  have hv : ((2 * q + st : Nat) : ℚ) * 2 ^ s = q * 2 ^ (s + 1) + st * 2 ^ s := by rw [hs]; push_cast; ring
  have hst : st = 0 ∨ st = 1 := by
    by_cases h0 : st = 0
    · exact .inl h0
    · exact .inr (h.odd h0).1
  have hst1 : (st : ℚ) * 2 ^ s < 2 ^ (s + 1) := by rw [hs]; rcases hst with rfl | rfl <;> push_cast <;> linarith
  have hst0 : (0 : ℚ) ≤ st * 2 ^ s := by positivity
  have hnext : ((q + 1 : Nat) : ℚ) * 2 ^ (s + 1) = q * 2 ^ (s + 1) + 2 ^ (s + 1) := by push_cast; ring
  obtain hlt | heq | hgt : (a : ℚ) * 2 ^ b < q * 2 ^ (s + 1) ∨ (a : ℚ) * 2 ^ b = q * 2 ^ (s + 1) ∨ ((q + 1 : Nat) : ℚ) * 2 ^ (s + 1) ≤ (a : ℚ) * 2 ^ b := by
    rcases Int.le_total (s + 1) b with hb | hb
    · rw [two_zpow_split hb, ← mul_assoc, ← Nat.cast_mul, mul_lt_mul_iff_left₀ hp1, mul_left_inj' hp1.ne', mul_le_mul_iff_left₀ hp1, Nat.cast_lt, Nat.cast_inj, Nat.cast_le]
      omega
    · refine .inl ?_
      calc (a : ℚ) * 2 ^ b ≤ a * 2 ^ (s + 1) := mul_le_mul_of_nonneg_left (zpow_le_zpow_right₀ (by norm_num) hb) (Nat.cast_nonneg a)
        _ < q * 2 ^ (s + 1) := mul_lt_mul_of_pos_right (Nat.cast_lt.2 (by omega)) hp1
  · obtain ⟨h1, h2⟩ := h.below _ (mul_nonneg (Nat.cast_nonneg a) (two_zpow_pos b).le) hlt
    simp only [hv, h1, h2, eq_iff_iff, iff_true, iff_false]
    constructor <;> linarith
  · rw [heq, hv]
    by_cases h0 : st = 0
    · obtain ⟨h1, h2⟩ := h.even h0
      subst h0
      simp [h1, h2]
    · obtain ⟨h3, h1, h2⟩ := h.odd h0
      simp [h1, h2, h3, hp, hp.ne']
  · obtain ⟨h1, h2⟩ := h.above _ hgt
    rw [hnext] at hgt
    simp only [hv, h1, h2, eq_iff_iff, iff_false]
    constructor <;> linarith

/-! ## Reciprocals and roots -/

/-- The quotient and remainder bit of a reciprocal. -/
theorem sticky_rcp {m : Nat} (h : m ≠ 0) (e : Int) (k : Nat) :
    Sticky (· < 1 / ((m : ℚ) * 2 ^ e)) (· = 1 / ((m : ℚ) * 2 ^ e)) (2 ^ k / m) (if 2 ^ k % m = 0 then 0 else 1) (-e - k - 1) := by
  have hm : (0 : ℚ) < m := by exact_mod_cast Nat.pos_of_ne_zero h
  have hp := two_zpow_pos (-e - k)
  have hv : 1 / ((m : ℚ) * 2 ^ e) = (2 ^ k : Nat) / m * 2 ^ (-e - k : Int) := by
    rw [zpow_sub₀ (by norm_num), zpow_neg, zpow_natCast]; push_cast; field_simp
  have hs : -e - (k : Int) - 1 + 1 = -e - k := by ring
  have hd := Nat.div_add_mod (2 ^ k) m
  have hr := Nat.mod_lt (2 ^ k) (Nat.pos_of_ne_zero h)
  generalize 2 ^ k / m = q at *
  generalize 2 ^ k % m = r at *
  have hdiv : ((2 ^ k : Nat) : ℚ) / m = q + r / m := by rw [← hd]; push_cast; field_simp
  have hr1 : (r : ℚ) / m < 1 := by rw [div_lt_one hm]; exact_mod_cast hr
  have hr0 : (0 : ℚ) ≤ r / m := by positivity
  have hz : (r : ℚ) / m = 0 ↔ r = 0 := by simp [hm.ne']
  rw [hv, hdiv]
  constructor
  · intro x _ hx
    rw [hs] at hx
    have : x < ((q : ℚ) + r / m) * 2 ^ (-e - k : Int) := hx.trans_le (mul_le_mul_of_nonneg_right (by linarith) hp.le)
    exact ⟨this, this.ne⟩
  · intro h0
    rw [ite_eq_left_iff] at h0
    have hr : r = 0 := by by_contra hne; exact absurd (h0 hne) (by decide)
    rw [hs, hz.2 hr, add_zero]
    exact ⟨lt_irrefl _, rfl⟩
  · intro h0
    have hr : r ≠ 0 := fun hr => h0 (if_pos hr)
    have hpos : (0 : ℚ) < r / m := hr0.lt_of_ne' (mt hz.1 hr)
    have : (q : ℚ) * 2 ^ (-e - k : Int) < ((q : ℚ) + r / m) * 2 ^ (-e - k : Int) := mul_lt_mul_of_pos_right (by linarith) hp
    rw [hs, if_neg hr]
    exact ⟨rfl, this, this.ne⟩
  · intro x hx
    rw [hs] at hx
    have : ((q : ℚ) + r / m) * 2 ^ (-e - k : Int) < x := (mul_lt_mul_of_pos_right (by push_cast; linarith) hp).trans_le hx
    exact ⟨this.not_gt, this.ne'⟩

theorem isqrtGo_spec (b : Nat) {x r : Nat} (h1 : r * r ≤ x) (h2 : x < (r + 2 ^ b) * (r + 2 ^ b)) : isqrtGo b x r * isqrtGo b x r ≤ x ∧ x < (isqrtGo b x r + 1) * (isqrtGo b x r + 1) := by
  induction b generalizing r with
  | zero => exact ⟨h1, h2⟩
  | succ b ih =>
    rw [Nat.pow_succ] at h2
    rw [isqrtGo]
    split
    · next h => exact ih h (by rwa [Nat.add_assoc, ← Nat.mul_two])
    · next h => exact ih h1 (Nat.not_le.1 h)

/-- The floor of a square root. -/
theorem isqrt_spec (x : Nat) : isqrt x * isqrt x ≤ x ∧ x < (isqrt x + 1) * (isqrt x + 1) := by
  refine isqrtGo_spec _ (Nat.zero_le _) ?_
  have hx : x < 2 ^ bitLen x := by
    by_cases h : x = 0
    · subst h; decide
    · exact (bitLen_spec h).2.2
  rw [Nat.zero_add, ← Nat.pow_add]
  exact hx.trans_le (Nat.pow_le_pow_right (by decide) (by omega))

/-- A root by its floor r: of the numbers of r units and of r + 1, squared and weighed by w, one is at most 1 and the other above. -/
theorem sticky_root {w : ℚ} (hw : 0 < w) {r : Nat} {s : Int} (h1 : (r : ℚ) * 2 ^ (s + 1) * (r * 2 ^ (s + 1)) * w ≤ 1) (h2 : 1 < ((r + 1 : Nat) : ℚ) * 2 ^ (s + 1) * ((r + 1 : Nat) * 2 ^ (s + 1)) * w)
    {st : Nat} (hst : st = if (r : ℚ) * 2 ^ (s + 1) * (r * 2 ^ (s + 1)) * w = 1 then 0 else 1) : Sticky (fun x => x * x * w < 1) (fun x => x * x * w = 1) r st s := by
  have hp := two_zpow_pos (s + 1)
  constructor
  · intro x h0 hx
    have : x * x * w < (r : ℚ) * 2 ^ (s + 1) * (r * 2 ^ (s + 1)) * w := mul_lt_mul_of_pos_right (mul_self_lt_mul_self h0 hx) hw
    exact ⟨this.trans_le h1, (this.trans_le h1).ne⟩
  · intro h0
    have he : (r : ℚ) * 2 ^ (s + 1) * (r * 2 ^ (s + 1)) * w = 1 := by
      by_contra hne
      rw [if_neg hne] at hst
      omega
    exact ⟨he.not_lt, he⟩
  · intro h0
    have hne : (r : ℚ) * 2 ^ (s + 1) * (r * 2 ^ (s + 1)) * w ≠ 1 := fun he => h0 (by rw [hst, if_pos he])
    exact ⟨by rw [hst, if_neg hne], h1.lt_of_ne hne, hne⟩
  · intro x hx
    have h0 : (0 : ℚ) ≤ ((r + 1 : Nat) : ℚ) * 2 ^ (s + 1) := by positivity
    have : 1 < x * x * w := h2.trans_le (mul_le_mul_of_nonneg_right (mul_self_le_mul_self h0 hx) hw.le)
    exact ⟨this.not_gt, this.ne'⟩

/-- A floor of a square root has half the bits. -/
theorem isqrt_ge {x n : Nat} (h : 2 ^ (2 * n) ≤ x) : 2 ^ n ≤ isqrt x := by
  have h2 := (isqrt_spec x).2
  have h3 : 2 ^ n * 2 ^ n < (isqrt x + 1) * (isqrt x + 1) := by
    rw [← Nat.pow_add, ← Nat.two_mul]
    exact h.trans_lt h2
  exact Nat.lt_succ_iff.1 (Nat.mul_self_lt_mul_self_iff.1 h3)

/-- The even exponent of a root's source, and its mantissa there. -/
theorem even_val (m : Nat) (e : Int) : ∃ (m' : Nat) (h : Int), m' = (if e % 2 ≠ 0 then 2 * m else m) ∧ (if e % 2 ≠ 0 then e - 1 else e) = 2 * h ∧ (m : ℚ) * 2 ^ e = m' * 2 ^ (2 * h) := by
  by_cases he : e % 2 ≠ 0
  · refine ⟨_, e / 2, rfl, by rw [if_pos he]; omega, ?_⟩
    rw [if_pos he, show 2 * (e / 2) = e - 1 by omega, zpow_sub_one₀ (by norm_num)]
    push_cast; ring
  · refine ⟨_, e / 2, rfl, by rw [if_neg he]; omega, ?_⟩
    rw [if_neg he, show 2 * (e / 2) = e by omega]

theorem sticky_rsqrt {m : Nat} (hm : m ≠ 0) (h : Int) (k : Nat) :
    Sticky (fun x => x * x * ((m : ℚ) * 2 ^ (2 * h)) < 1) (fun x => x * x * ((m : ℚ) * 2 ^ (2 * h)) = 1) (isqrt (2 ^ (2 * k) / m))
      (if isqrt (2 ^ (2 * k) / m) * isqrt (2 ^ (2 * k) / m) * m = 2 ^ (2 * k) then 0 else 1) (-h - k - 1) := by
  have hm0 : 0 < m := Nat.pos_of_ne_zero hm
  obtain ⟨h1, h2⟩ := isqrt_spec (2 ^ (2 * k) / m)
  generalize isqrt (2 ^ (2 * k) / m) = r at *
  have h1' : r * r * m ≤ 2 ^ (2 * k) := (Nat.mul_le_mul_right m h1).trans (Nat.div_mul_le_self _ _)
  have h2' : 2 ^ (2 * k) < (r + 1) * (r + 1) * m := (Nat.div_lt_iff_lt_mul hm0).1 h2
  have hsq : ∀ a : Nat, (a : ℚ) * 2 ^ (-h - k - 1 + 1 : Int) * (a * 2 ^ (-h - k - 1 + 1 : Int)) * ((m : ℚ) * 2 ^ (2 * h)) = ((a * a * m : Nat) : ℚ) / (2 ^ (2 * k) : Nat) := fun a => by
    have : (2 : ℚ) ^ (-h - k - 1 + 1 : Int) * 2 ^ (-h - k - 1 + 1 : Int) * 2 ^ (2 * h) = 1 / (2 ^ (2 * k) : Nat) := by
      rw [← zpow_add₀ (by norm_num), ← zpow_add₀ (by norm_num), show -h - (k : Int) - 1 + 1 + (-h - k - 1 + 1) + 2 * h = -((2 * k : Nat) : Int) by push_cast; ring, zpow_neg, zpow_natCast]
      push_cast; rw [one_div]
    calc _ = (a : ℚ) * a * m * ((2 : ℚ) ^ (-h - k - 1 + 1 : Int) * 2 ^ (-h - k - 1 + 1 : Int) * 2 ^ (2 * h)) := by ring
      _ = _ := by rw [this]; push_cast; ring
  have hd : (0 : ℚ) < (2 ^ (2 * k) : Nat) := Nat.cast_pos.2 (Nat.two_pow_pos _)
  refine sticky_root (mul_pos (Nat.cast_pos.2 hm0) (two_zpow_pos _)) ?_ ?_ ?_
  · rw [hsq, div_le_one hd, Nat.cast_le]; exact h1'
  · rw [hsq, one_lt_div hd, Nat.cast_lt]; exact h2'
  · simp only [hsq, div_eq_one_iff_eq hd.ne', Nat.cast_inj]

theorem sticky_sqrt {m : Nat} (hm : m ≠ 0) (h : Int) :
    Sticky (fun x => x * x < (m : ℚ) * 2 ^ (2 * h)) (fun x => x * x = (m : ℚ) * 2 ^ (2 * h)) (isqrt m) (if isqrt m * isqrt m = m then 0 else 1) (h - 1) := by
  have hm0 : (0 : ℚ) < m := Nat.cast_pos.2 (Nat.pos_of_ne_zero hm)
  obtain ⟨h1, h2⟩ := isqrt_spec m
  generalize isqrt m = r at *
  have hv : 0 < (m : ℚ) * 2 ^ (2 * h) := mul_pos hm0 (two_zpow_pos _)
  have hlt : (fun x : ℚ => x * x < (m : ℚ) * 2 ^ (2 * h)) = fun x => x * x * ((m : ℚ) * 2 ^ (2 * h))⁻¹ < 1 := by
    funext x; rw [← div_eq_mul_inv, div_lt_one hv]
  have heq : (fun x : ℚ => x * x = (m : ℚ) * 2 ^ (2 * h)) = fun x => x * x * ((m : ℚ) * 2 ^ (2 * h))⁻¹ = 1 := by
    funext x; rw [← div_eq_mul_inv, div_eq_one_iff_eq hv.ne']
  have hsq : ∀ a : Nat, (a : ℚ) * 2 ^ (h - 1 + 1) * (a * 2 ^ (h - 1 + 1)) * ((m : ℚ) * 2 ^ (2 * h))⁻¹ = ((a * a : Nat) : ℚ) / m := fun a => by
    have := (two_zpow_pos h).ne'
    rw [Int.sub_add_cancel, two_mul, zpow_add₀ (by norm_num)]
    push_cast
    field_simp
  rw [hlt, heq]
  refine sticky_root (inv_pos.2 hv) ?_ ?_ ?_
  · rw [hsq, div_le_one hm0, Nat.cast_le]; exact h1
  · rw [hsq, one_lt_div hm0, Nat.cast_lt]; exact h2
  · simp only [hsq, div_eq_one_iff_eq hm0.ne', Nat.cast_inj]

section
variable {t : Nat} (ht : t < 5) (rm : Nat) (sat : Bool) {m : Nat} (hm : m ≠ 0) (e : Int) (c : Nat)
include ht hm

theorem sf_rcp (neg : Bool) : Rounds t rm sat neg (· < 1 / ((m : ℚ) * 2 ^ e)) (· = 1 / ((m : ℚ) * 2 ^ e)) (sfFinite 2 t rm sat neg m e c).1 (sfFinite 2 t rm sat neg m e c).2 := by
  have hr : sfFinite 2 t rm sat neg m e c = (fmtF t).round rm sat (.fin neg (2 * (2 ^ (bitLen m + 80) / m) + (if 2 ^ (bitLen m + 80) % m = 0 then 0 else 1)) (-e - (bitLen m + 80 : Nat) - 1)) := by
    simp only [sfFinite]
  rw [hr]
  refine Sticky.rounds ht rm sat neg (sticky_rcp hm e (bitLen m + 80)) ?_
  rw [Nat.le_div_iff_mul_le (Nat.pos_of_ne_zero hm), Nat.mul_comm, Nat.pow_add]
  exact Nat.mul_le_mul (bitLen_spec hm).2.2.le (by decide)

theorem sf_rsqrt : Rounds t rm sat false (fun x => x * x * ((m : ℚ) * 2 ^ e) < 1) (fun x => x * x * ((m : ℚ) * 2 ^ e) = 1) (sfFinite 3 t rm sat false m e c).1 (sfFinite 3 t rm sat false m e c).2 := by
  obtain ⟨m', h, hm', he', hv⟩ := even_val m e
  have hne : m' ≠ 0 := by rw [hm']; split <;> omega
  have hr : sfFinite 3 t rm sat false m e c = (fmtF t).round rm sat (.fin false (2 * isqrt (2 ^ (2 * (bitLen m' + 80)) / m') +
      (if isqrt (2 ^ (2 * (bitLen m' + 80)) / m') * isqrt (2 ^ (2 * (bitLen m' + 80)) / m') * m' = 2 ^ (2 * (bitLen m' + 80)) then 0 else 1)) (-h - (bitLen m' + 80 : Nat) - 1)) := by
    simp only [sfFinite, Bool.false_eq_true, if_false, ← hm', he', show 2 * h / 2 = h by omega]
  rw [hv, hr]
  refine Sticky.rounds ht rm sat false (sticky_rsqrt hne h (bitLen m' + 80)) (isqrt_ge ?_)
  rw [Nat.le_div_iff_mul_le (Nat.pos_of_ne_zero hne), Nat.mul_comm, show 2 * (bitLen m' + 80) = bitLen m' + (bitLen m' + 160) by omega, Nat.pow_add]
  exact Nat.mul_le_mul (bitLen_spec hne).2.2.le (Nat.pow_le_pow_right (by decide) (by omega))

theorem sf_sqrt : Rounds t rm sat false (fun x => x * x < (m : ℚ) * 2 ^ e) (fun x => x * x = (m : ℚ) * 2 ^ e) (sfFinite 4 t rm sat false m e c).1 (sfFinite 4 t rm sat false m e c).2 := by
  obtain ⟨m', h, hm', he', hv⟩ := even_val m e
  have hne : m' ≠ 0 := by rw [hm']; split <;> omega
  have hr : sfFinite 4 t rm sat false m e c = (fmtF t).round rm sat (.fin false (2 * isqrt (m' * 2 ^ 80) + (if isqrt (m' * 2 ^ 80) * isqrt (m' * 2 ^ 80) = m' * 2 ^ 80 then 0 else 1)) (h - 40 - 1)) := by
    simp only [sfFinite, Bool.false_eq_true, if_false, ← hm', he', show (2 * h - 80) / 2 - 1 = h - 40 - 1 by omega]
  have hv' : (m' : ℚ) * 2 ^ (2 * h) = ((m' * 2 ^ 80 : Nat) : ℚ) * 2 ^ (2 * (h - 40)) := by
    rw [show 2 * (h - 40) = 2 * h - (80 : Nat) by push_cast; ring, zpow_sub₀ (by norm_num), zpow_natCast, Nat.cast_mul, Nat.cast_pow, Nat.cast_ofNat]
    field_simp
  rw [hv, hr, hv']
  refine Sticky.rounds ht rm sat false (sticky_sqrt (Nat.mul_ne_zero hne (by decide)) (h - 40)) (isqrt_ge ?_)
  exact (show 2 ^ (2 * 26) ≤ 1 * 2 ^ 80 by decide).trans (Nat.mul_le_mul_right _ (Nat.pos_of_ne_zero hne))

/-! ## Powers and logarithms -/

omit ht in
/-- A power of two is its leading bit. -/
theorem pow2_val (i : Int) : (m : ℚ) * 2 ^ e = 2 ^ i ↔ m = 2 ^ (bitLen m - 1) ∧ e + (bitLen m : Int) - 1 = i := by
  obtain ⟨hlo, hhi⟩ := top_spec hm e
  have h0 := (bitLen_spec hm).1
  have hb : (2 : ℚ) ^ (e + (bitLen m : Int) - 1) = ((2 ^ (bitLen m - 1) : Nat) : ℚ) * 2 ^ e := by
    rw [show e + (bitLen m : Int) - 1 = ((bitLen m - 1 : Nat) : Int) + e by omega, zpow_add₀ (by norm_num), zpow_natCast, Nat.cast_pow, Nat.cast_ofNat]
  constructor
  · intro h
    rw [h] at hlo hhi
    have h1 : e + (bitLen m : Int) - 1 ≤ i := (zpow_le_zpow_iff_right₀ (by norm_num)).1 hlo
    have h2 : i < e + (bitLen m : Int) - 1 + 1 := (zpow_lt_zpow_iff_right₀ (by norm_num)).1 hhi
    have hi : e + (bitLen m : Int) - 1 = i := by omega
    refine ⟨?_, hi⟩
    rw [← hi, hb, mul_left_inj' (two_zpow_pos e).ne', Nat.cast_inj] at h
    exact h
  · rintro ⟨h1, rfl⟩
    rw [hb, ← h1]

theorem sf_log2 (i : Int) (h : (m : ℚ) * 2 ^ e = 2 ^ i) : Delivers t rm sat (xint i) (sfFinite 1 t rm sat false m e c).1 (sfFinite 1 t rm sat false m e c).2 := by
  obtain ⟨h1, h2⟩ := (pow2_val hm e i).1 h
  have hr : sfFinite 1 t rm sat false m e c = (fmtF t).round rm sat (Num.ofInt i 0 false) := by
    simp only [sfFinite, Bool.false_eq_true, if_false, if_pos h1, h2]
  rw [hr, ← Num.val_xint]
  exact delivers_round ht rm sat _

omit hm in
/-- Beyond the largest finite value every magnitude delivers the same. -/
theorem rounds_large {neg : Bool} {v : ℚ} {c : Nat} {fl : BitVec 6} (hr : Rounds t rm sat neg (· < v) (· = v) c fl) (hv : magOf t ((fw t).2.2 + 1) ≤ v) : (c, fl) = (fmtF t).over rm sat neg := by
  obtain ⟨k, K, -, h2, h3, h4, h5, -, h7⟩ := hr
  have hk : (fw t).2.2 + 1 ≤ k := by
    by_contra hlt
    exact (((magOf_mono t (show k + 1 ≤ (fw t).2.2 + 1 by omega)).trans hv).lt_or_eq).elim h2 h3
  have hK : (fw t).2.2 < K := by
    by_cases he : magOf t k = v
    · rw [h4 he]; omega
    · by_cases hu : upQ (· < v) (· = v) rm neg (k % 2 = 1) (magOf t k) (magOf t (k + 1))
      · rw [(h5 he).1 hu]; omega
      · rw [(h5 he).2 hu]; omega
  obtain ⟨h1, h2⟩ := over_spec ht rm neg
  cases sat
  · obtain ⟨hf, hc⟩ := (h7 hK).2 rfl
    rw [h2, hc, hf]
  · obtain ⟨hc, hf⟩ := (h7 hK).1 rfl
    rw [h1, hc, hf]

end

/-- The largest finite values lie far below 2^1024. -/
theorem magOf_large {t : Nat} (ht : t < 3) : magOf t ((fw t).2.2 + 1) ≤ 2 ^ (1024 : Int) := by
  have h : ∃ j : Nat, j ≤ 254 ∧ (fw t).2.2 + 1 = j * 2 ^ (fmtF t).fb + 2 ^ (fmtF t).fb ∧ (fmtF t).fb ≤ 23 ∧ (fmtF t).lmin ≤ 0 := by
    interval_cases t
    · exact ⟨254, by decide⟩
    · exact ⟨30, by decide⟩
    · exact ⟨254, by decide⟩
  obtain ⟨j, hj, hk, hfb, hl⟩ := h
  rw [hk, magOf_code t (.inr (le_refl _)) (by omega), Nat.cast_pow, Nat.cast_ofNat, ← zpow_natCast, ← zpow_add₀ (by norm_num)]
  exact zpow_le_zpow_right₀ (by norm_num) (by omega)

/-- A power of two beyond every type delivers what 3 x 2^2000 does. -/
theorem exp2_large {t : Nat} (ht : t < 3) (rm : Nat) (sat : Bool) {i : Int} (hi : 1024 ≤ i) :
    Rounds t rm sat false (· < 2 ^ i) (· = 2 ^ i) ((fmtF t).round rm sat (.fin false 3 2000)).1 ((fmtF t).round rm sat (.fin false 3 2000)).2 := by
  have h5 : t < 5 := by omega
  have hp := (magOf_large ht).trans (zpow_le_zpow_right₀ (by norm_num) hi : (2 : ℚ) ^ (1024 : Int) ≤ 2 ^ i)
  have h1 := rounds_round h5 rm sat false (by decide : 1 ≠ 0) i
  rw [Nat.cast_one, one_mul] at h1
  have h3 : (2 : ℚ) ^ (1024 : Int) ≤ (3 : Nat) * 2 ^ (2000 : Int) := by
    refine (zpow_le_zpow_right₀ (by norm_num) (by norm_num : (1024 : Int) ≤ 2000)).trans ?_
    exact le_mul_of_one_le_left (two_zpow_pos _).le (by norm_num)
  have he := (rounds_large h5 rm sat (rounds_round h5 rm sat false (by decide : 3 ≠ 0) 2000) ((magOf_large ht).trans h3)).trans (rounds_large h5 rm sat h1 hp).symm
  obtain ⟨hc, hf⟩ := Prod.mk.inj he
  rw [hc, hf]
  exact h1

/-- One below every type delivers what 3 x 2^-2000 does. -/
theorem exp2_small {t : Nat} (ht : t < 5) (rm : Nat) (sat : Bool) {i : Int} (hi : i ≤ -1024) :
    Rounds t rm sat false (· < 2 ^ i) (· = 2 ^ i) ((fmtF t).round rm sat (.fin false 3 (-2000))).1 ((fmtF t).round rm sat (.fin false 3 (-2000))).2 := by
  refine rounds_congr ht ?_ (rounds_round ht rm sat false (by decide) (-2000))
  rintro x ⟨a, b, -, hb, rfl⟩
  have hi' : (2 : ℚ) ^ i < 2 ^ b := zpow_lt_zpow_right₀ (by norm_num) (by omega)
  have h3 : ((3 : Nat) : ℚ) * 2 ^ (-2000 : Int) < 2 ^ b := by
    calc ((3 : Nat) : ℚ) * 2 ^ (-2000 : Int) < 2 ^ (2 : Int) * 2 ^ (-2000 : Int) := mul_lt_mul_of_pos_right (by norm_num) (two_zpow_pos _)
      _ = 2 ^ (2 + -2000 : Int) := (zpow_add₀ (by norm_num) _ _).symm
      _ ≤ 2 ^ b := zpow_le_zpow_right₀ (by norm_num) (by omega)
  rcases Nat.eq_zero_or_pos a with rfl | ha
  · have h1 := two_zpow_pos i
    have h2 := two_zpow_pos (-2000)
    simp only [Nat.cast_zero, zero_mul, h1, h1.ne, mul_pos three_pos h2, (mul_pos three_pos h2).ne, Nat.cast_ofNat, and_self]
  · have hx : (2 : ℚ) ^ b ≤ a * 2 ^ b := le_mul_of_one_le_left (two_zpow_pos b).le (by exact_mod_cast ha)
    have h1 := hi'.trans_le hx
    have h2 := h3.trans_le hx
    simp only [h1.not_gt, h1.ne', h2.not_gt, h2.ne', and_self]

theorem sf_exp2 {t : Nat} (ht : t < 3) (rm : Nat) (sat : Bool) {m : Nat} (hm : m ≠ 0) {e : Int} (c : Nat) (he : -320 ≤ e) {neg : Bool} {i : Int} (hi : (i : ℚ) = sg neg (m * 2 ^ e)) :
    Delivers t rm sat (.fin false (2 ^ i)) (sfFinite 0 t rm sat neg m e c).1 (sfFinite 0 t rm sat neg m e c).2 := by
  have h5 : t < 5 := by omega
  refine ⟨fun h => absurd h (two_zpow_pos i).ne', fun _ => ?_⟩
  obtain ⟨hlo, hhi⟩ := top_spec hm e
  have habs : ((i.natAbs : Nat) : ℚ) = m * 2 ^ e := by
    rw [Nat.cast_natAbs, Int.cast_abs, hi, sg]
    have : (0 : ℚ) ≤ m * 2 ^ e := by positivity
    cases neg <;> simp [abs_of_nonneg this]
  have hsgn : neg = decide (i < 0) := by
    have : (0 : ℚ) < m * 2 ^ e := mul_pos (Nat.cast_pos.2 (Nat.pos_of_ne_zero hm)) (two_zpow_pos e)
    have hlt : i < 0 ↔ sg neg ((m : ℚ) * 2 ^ e) < 0 := by rw [← hi, Int.cast_lt_zero]
    cases neg
    · symm; simpa [sg, this.le, this.not_gt] using hlt
    · symm; simpa [sg, this] using hlt
  rw [← habs] at hlo hhi
  have htop : ¬e + (bitLen m : Int) - 1 < -64 := fun h => by
    have h1 : ((i.natAbs : Nat) : ℚ) < 1 := hhi.trans_le (zpow_le_one_of_nonpos₀ (by norm_num) (by omega))
    have h2 : i.natAbs = 0 := by
      have : i.natAbs < 1 := by exact_mod_cast h1
      omega
    rw [h2] at habs
    have : (0 : ℚ) < m * 2 ^ e := mul_pos (Nat.cast_pos.2 (Nat.pos_of_ne_zero hm)) (two_zpow_pos e)
    simp [← habs] at this
  by_cases hbig : 10 ≤ e + (bitLen m : Int) - 1
  · have hr : sfFinite 0 t rm sat neg m e c = (fmtF t).round rm sat (.fin false 3 (if neg then -2000 else 2000)) := by
      simp only [sfFinite, hbig, decide_true, if_true]
    have h1024 : 1024 ≤ i.natAbs := by
      have h1 : (2 : ℚ) ^ (10 : Int) ≤ (i.natAbs : Nat) := (zpow_le_zpow_right₀ (by norm_num) hbig).trans hlo
      have h2 : ((1024 : Nat) : ℚ) ≤ (i.natAbs : Nat) := by rw [show ((1024 : Nat) : ℚ) = 2 ^ (10 : Int) by norm_num]; exact h1
      exact_mod_cast h2
    rw [hr, hsgn]
    by_cases hneg : i < 0
    · simp only [hneg, decide_true, if_true]
      exact exp2_small h5 rm sat (by omega)
    · simp only [hneg, decide_false, Bool.false_eq_true, if_false]
      exact exp2_large ht rm sat (by omega)
  · have hat : Num.at neg m e (-320) = i * 2 ^ 320 := by
      have h := Num.at_val neg m he
      rw [← hi] at h
      have h2 : ((Num.at neg m e (-320) : Int) : ℚ) = ((i * 2 ^ 320 : Int) : ℚ) := by
        rw [Int.cast_mul, Int.cast_pow, ← h, mul_assoc, Int.cast_ofNat, ← zpow_natCast, ← zpow_add₀ (by norm_num)]
        norm_num
      exact_mod_cast h2
    have hr : sfFinite 0 t rm sat neg m e c = (fmtF t).round rm sat (.fin false 1 i) := by
      have h0 : (2 : Int) ^ sfP ≠ 0 := pow_ne_zero _ two_ne_zero
      have hat' : Num.at neg m e (-sfP) = i * 2 ^ sfP := hat
      simp only [sfFinite, hbig, decide_false, Bool.false_eq_true, if_false, htop, hat', Int.mul_ediv_cancel _ h0, sub_self, Int.toNat_zero, if_true]
    have h1 := rounds_round h5 rm sat false (by decide : 1 ≠ 0) i
    rw [Nat.cast_one, one_mul] at h1
    rw [hr]
    exact h1

/-! ## All sources -/

/-- The exponents of the finite codes. -/
theorem num_exp {t : Nat} (ht : t < 5) {c : Nat} {neg : Bool} {m : Nat} {e : Int} (h : (fmtF t).num c = .fin neg m e) : -149 ≤ e := by
  have hl := (fmtF_point ht).2
  rw [FmtF.num] at h
  split at h
  · split at h <;> cases h
  · split at h
    · cases h
    · split at h
      · obtain ⟨-, -, rfl⟩ := Num.fin.inj h; exact hl
      · obtain ⟨-, -, rfl⟩ := Num.fin.inj h; omega

section
variable {t : Nat} (ht : t < 5) (rm : Nat) (sat : Bool)
include ht

theorem delivers_one (neg : Bool) : Delivers t rm sat (.fin neg 1) ((fmtF t).round rm sat (.fin neg 1 0)).1 ((fmtF t).round rm sat (.fin neg 1 0)).2 := by
  simpa [Num.val] using delivers_round ht rm sat (.fin neg 1 0)

theorem delivers_half : Delivers t rm sat (.fin false (1 / 2)) ((fmtF t).round rm sat (.fin false 1 (-1))).1 ((fmtF t).round rm sat (.fin false 1 (-1))).2 := by
  simpa [Num.val] using delivers_round ht rm sat (.fin false 1 (-1))

theorem delivers_zero (neg : Bool) : Delivers t rm sat (.fin neg 0) ((fmtF t).round rm sat (.fin neg 0 0)).1 ((fmtF t).round rm sat (.fin neg 0 0)).2 := by
  simpa [Num.val] using delivers_round ht rm sat (.fin neg 0 0)

/-- An exact division by zero. -/
theorem dzRes_spec (neg : Bool) : ∃ g, Delivers t rm sat (.inf neg) (dzRes t rm sat neg).1 g ∧ (dzRes t rm sat neg).2 = g ||| 8 :=
  ⟨_, delivers_round ht rm sat (.inf neg), rfl⟩

/-- The special functions at an infinity. -/
theorem sf_inf {fn : Nat} (hfn : fn < 8) (neg : Bool) {a : Nat} (ha : (fmtF t).num a = .inf neg) : SfLane fn t rm sat a (sfCode fn t rm sat a).1 (sfCode fn t rm sat a).2 := by
  have hnv : (fmtF t).nanc = nanOf t ∧ fNV = 16 := ⟨nanc_eq ht, rfl⟩
  have hx : xval t 0 a = .inf neg := by rw [← num_val ht, ha]; rfl
  have hinf := delivers_round ht rm sat (.inf false)
  have hone := delivers_one ht rm sat
  have hzero := delivers_zero ht rm sat
  unfold SfLane sfCode
  dsimp only
  rw [ha, hx]
  match fn, hfn with
  | 0, _ => cases neg; exacts [hinf, ⟨rfl, rfl⟩]
  | 1, _ => cases neg; exacts [hinf, hnv]
  | 2, _ => cases neg; exacts [hzero false, hzero true]
  | 3, _ => cases neg; exacts [⟨rfl, rfl⟩, hnv]
  | 4, _ => cases neg; exacts [hinf, hnv]
  | 5, _ => cases neg; exacts [hone false, hone true]
  | 6, _ => cases neg; exacts [hone false, ⟨fun _ => ⟨rfl, rfl⟩, fun h => absurd rfl h⟩]
  | 7, _ => cases neg; exacts [hone false, hone true]

/-- The special functions at a zero. -/
theorem sf_zero {fn : Nat} (hfn : fn < 8) {neg : Bool} {e : Int} {a : Nat} (ha : (fmtF t).num a = .fin neg 0 e) : SfLane fn t rm sat a (sfCode fn t rm sat a).1 (sfCode fn t rm sat a).2 := by
  have hx : xval t 0 a = .fin neg 0 := by rw [← num_val ht, ha]; simp [Num.val]
  have hdz := dzRes_spec ht rm sat
  unfold SfLane sfCode
  dsimp only
  rw [ha, hx]
  match fn, hfn with
  | 0, _ => exact ⟨fun _ => delivers_one ht rm sat false, fun _ h => absurd rfl h⟩
  | 1, _ => exact ⟨fun _ => hdz true, fun h => absurd rfl h, fun _ h => absurd rfl h⟩
  | 2, _ => exact ⟨fun _ => hdz neg, fun h => absurd rfl h⟩
  | 3, _ => exact ⟨fun _ => hdz neg, fun h => absurd rfl h, fun h => absurd rfl h⟩
  | 4, _ => exact ⟨fun _ => ⟨rfl, rfl⟩, fun h => absurd rfl h, fun h => absurd rfl h⟩
  | 5, _ => exact fun _ => ⟨rfl, rfl⟩
  | 6, _ => exact fun _ => delivers_half ht rm sat
  | 7, _ => exact fun _ => ⟨rfl, rfl⟩

/-- The logarithm and the roots of a negative number. -/
theorem sf_neg {fn : Nat} (hfn : fn = 1 ∨ fn = 3 ∨ fn = 4) (m : Nat) (e : Int) (a : Nat) : (sfFinite fn t rm sat true m e a).1 = nanOf t ∧ (sfFinite fn t rm sat true m e a).2 = 16 := by
  rw [← nanc_eq ht]
  rcases hfn with rfl | rfl | rfl
  · exact ⟨rfl, rfl⟩
  · exact ⟨rfl, rfl⟩
  · exact ⟨rfl, rfl⟩

end

/-- The special functions at the other numbers. -/
theorem sf_nonzero {t : Nat} (ht : t < 3) (rm : Nat) (sat : Bool) {fn : Nat} (hfn : fn < 8) {neg : Bool} {m : Nat} (hm : m ≠ 0) {e : Int} {a : Nat} (ha : (fmtF t).num a = .fin neg m e) :
    SfLane fn t rm sat a (sfCode fn t rm sat a).1 (sfCode fn t rm sat a).2 := by
  have h5 : t < 5 := by omega
  have hx : xval t 0 a = .fin neg (m * 2 ^ e) := by rw [← num_val h5, ha]; rfl
  have he := num_exp h5 ha
  have hpos : (0 : ℚ) < m * 2 ^ e := mul_pos (Nat.cast_pos.2 (Nat.pos_of_ne_zero hm)) (two_zpow_pos e)
  have hv : (m : ℚ) * 2 ^ e ≠ 0 := hpos.ne'
  unfold SfLane sfCode
  dsimp only
  rw [ha, hx]
  simp only [if_pos hm]
  match fn, hfn with
  | 0, _ => exact ⟨fun h => absurd h hv, fun i _ hi => sf_exp2 ht rm sat hm a (by omega) hi⟩
  | 1, _ =>
    refine ⟨fun h => absurd h hv, fun _ hn => ?_, fun i _ hn hi => ?_⟩
    · subst hn; exact sf_neg h5 rm sat (.inl rfl) m e a
    · subst hn; exact sf_log2 h5 rm sat hm e a i hi
  | 2, _ => exact ⟨fun h => absurd h hv, fun _ => ⟨fun h => absurd h (one_div_ne_zero hv), fun _ => sf_rcp h5 rm sat hm e a neg⟩⟩
  | 3, _ =>
    refine ⟨fun h => absurd h hv, fun _ hn => ?_, fun _ hn => ?_⟩
    · subst hn; exact sf_neg h5 rm sat (.inr (.inl rfl)) m e a
    · subst hn; exact sf_rsqrt h5 rm sat hm e a
  | 4, _ =>
    refine ⟨fun h => absurd h hv, fun _ hn => ?_, fun _ hn => ?_⟩
    · subst hn; exact sf_neg h5 rm sat (.inr (.inr rfl)) m e a
    · subst hn; exact sf_sqrt h5 rm sat hm e a
  | 5, _ => exact fun h => absurd h hv
  | 6, _ => exact fun h => absurd h hv
  | 7, _ => exact fun h => absurd h hv

/-- The special functions on the codes of F32, F16 and BF16 (R98, R307). -/
theorem sf_spec {t : Nat} (ht : t < 3) (rm : Nat) (sat : Bool) {fn : Nat} (hfn : fn < 8) (a : Nat) : SfLane fn t rm sat a (sfCode fn t rm sat a).1 (sfCode fn t rm sat a).2 := by
  have h5 : t < 5 := by omega
  cases h : (fmtF t).num a with
  | nan =>
    have hx : xval t 0 a = .nan := by rw [← num_val h5, h]; rfl
    unfold SfLane sfCode
    dsimp only
    rw [h, hx]
    exact ⟨nanc_eq h5, rfl⟩
  | inf neg => exact sf_inf h5 rm sat hfn neg h
  | fin neg m e =>
    by_cases hm : m = 0
    · subst hm; exact sf_zero h5 rm sat hfn h
    · exact sf_nonzero ht rm sat hfn hm h

theorem fst_ite_lt {p : Prop} [Decidable p] {a b : Nat × Flags} {n : Nat} (ha : a.1 < n) (hb : b.1 < n) : (if p then a else b).1 < n := by
  split
  · exact ha
  · exact hb

section
variable {t : Nat} (ht : t < 5) (rm : Nat) (sat : Bool)
include ht

theorem bracket_lt (fn : Nat) (neg : Bool) (c m err : Nat) (e : Int) : (bracket fn t rm sat neg c m err e).1 < 2 ^ tyWidth t :=
  fst_ite_lt (round_lt ht rm sat _) (Nat.mod_lt _ (Nat.two_pow_pos _))

theorem sfFinite_lt (fn : Nat) (neg : Bool) (m : Nat) (e : Int) (c : Nat) : (sfFinite fn t rm sat neg m e c).1 < 2 ^ tyWidth t := by
  have hn : (fmtF t).nanc < 2 ^ tyWidth t := round_lt ht rm sat .nan
  have hr := round_lt ht rm sat
  have hb := bracket_lt ht rm sat
  match fn with
  | 0 => simp only [sfFinite]; exact fst_ite_lt (hr _) (fst_ite_lt (hr _) (fst_ite_lt (hr _) (hb ..)))
  | 1 => simp only [sfFinite]; exact fst_ite_lt hn (fst_ite_lt (hr _) (hb ..))
  | 2 => simp only [sfFinite]; exact hr _
  | 3 => simp only [sfFinite]; exact fst_ite_lt hn (hr _)
  | 4 => simp only [sfFinite]; exact fst_ite_lt hn (hr _)
  | 5 => simp only [sfFinite]; exact fst_ite_lt (hr _) (fst_ite_lt (hr _) (hb ..))
  | 6 => simp only [sfFinite]; exact fst_ite_lt (hr _) (fst_ite_lt (hr _) (fst_ite_lt (hr _) (fst_ite_lt (hb ..) (hb ..))))
  | _ + 7 => simp only [sfFinite]; exact fst_ite_lt (hr _) (fst_ite_lt (hb ..) (hb ..))

/-- A special function gives a code of its type. -/
theorem sfCode_lt (fn : Nat) {c : Nat} (hc : c < 2 ^ tyWidth t) : (sfCode fn t rm sat c).1 < 2 ^ tyWidth t := by
  have hn : (fmtF t).nanc < 2 ^ tyWidth t := round_lt ht rm sat .nan
  have h0 : ((0, 0) : Nat × Flags).1 < 2 ^ tyWidth t := Nat.two_pow_pos _
  have hr := round_lt ht rm sat
  unfold sfCode
  dsimp only
  cases (fmtF t).num c with
  | nan => exact hn
  | inf neg =>
    match fn with
    | 0 => exact fst_ite_lt h0 (hr _)
    | 1 => exact fst_ite_lt hn (hr _)
    | 2 => exact hr _
    | 3 => exact fst_ite_lt hn h0
    | 4 => exact fst_ite_lt hn (hr _)
    | 5 => exact hr _
    | 6 => exact fst_ite_lt h0 (hr _)
    | _ + 7 => exact hr _
  | fin neg m e =>
    refine fst_ite_lt (sfFinite_lt ht rm sat fn neg m e c) ?_
    match fn with
    | 0 => exact hr _
    | 1 => exact hr (.inf true)
    | 2 => exact hr (.inf neg)
    | 3 => exact hr (.inf neg)
    | 4 => exact hc
    | 5 => exact hc
    | 6 => exact hr _
    | _ + 7 => exact hc

end

end Sys2Proof

/-! SUPPORT. The floating types and the types of bare codes in the vector unit (R81 to R83, R95, R98, R298 to R302): what each lane instruction gives a lane of such a type. -/
namespace Sys2Proof.Machine
open Sys2Proof Sys2Proof.Claims

/-! ## Codes of the F types -/

theorem tyF_iff (t : Nat) : tyF t = true ↔ t < 3 := decide_eq_true_iff

theorem tyF_width {t : Nat} (ht : t < 3) : 16 ≤ tyWidth t := by interval_cases t <;> decide

/-- The top bit of a code, inverted. -/
theorem xor_top {c k : Nat} (hc : c < 2 ^ (k + 1)) : c ^^^ 2 ^ k = if c.testBit k = true then c - 2 ^ k else c + 2 ^ k := by
  have hk := Nat.two_pow_pos k
  have h1 := Nat.div_add_mod (c ^^^ 2 ^ k) (2 ^ k)
  rw [Nat.xor_div_two_pow, Nat.xor_mod_two_pow, Nat.div_self hk, Nat.mod_self, Nat.xor_zero] at h1
  have h2 := Nat.div_add_mod c (2 ^ k)
  have h3 : c / 2 ^ k < 2 := by rw [Nat.div_lt_iff_lt_mul hk]; omega
  rw [← h1]
  simp only [Nat.testBit_eq_decide_div_mod_eq, decide_eq_true_eq]
  generalize c / 2 ^ k = q at *
  interval_cases q
  · rw [if_neg (by decide), show (0 ^^^ 1 : Nat) = 1 from rfl]; omega
  · rw [if_pos (by decide), show (1 ^^^ 1 : Nat) = 0 from rfl]; omega

theorem negIf_F {t : Nat} (ht : t < 3) (na : Bool) {c : Nat} (hc : c < 2 ^ tyWidth t) : (if na = true then negCode t c else c) = fneg na t c := by
  have hw := tyF_width ht
  obtain ⟨k, hk⟩ := Nat.exists_eq_succ_of_ne_zero (show tyWidth t ≠ 0 by omega)
  rw [hk] at hc
  cases na
  · rfl
  · simp only [if_true, negCode, (tyF_iff t).2 ht, fneg, hk, Nat.succ_sub_one, ← testBit_bitN]
    exact (xor_top hc).symm

theorem fneg_lt {t : Nat} (ht : t < 3) (na : Bool) {c : Nat} (hc : c < 2 ^ tyWidth t) : fneg na t c < 2 ^ tyWidth t := by
  have hw := tyF_width ht
  unfold fneg
  split
  · exact Nat.xor_lt_two_pow hc (Nat.pow_lt_pow_right (by decide) (by omega))
  · exact hc

/-- A code with its sign inverted has the negated value (R95). -/
theorem xval_negCode {t : Nat} (ht : t < 3) {c : Nat} (hc : c < 2 ^ tyWidth t) : xval t 0 (negCode t c) = xneg (xval t 0 c) := by
  have h := negIf_F ht true hc
  rw [if_pos rfl] at h
  have hm : (c ^^^ 2 ^ (tyWidth t - 1)) % 2 ^ (tyWidth t - 1) = c % 2 ^ (tyWidth t - 1) := by
    rw [Nat.xor_mod_two_pow, Nat.mod_self, Nat.xor_zero]
  have hs : (c ^^^ 2 ^ (tyWidth t - 1)).testBit (tyWidth t - 1) = !c.testBit (tyWidth t - 1) := by
    rw [Nat.testBit_xor, Nat.testBit_two_pow_self, Bool.xor_true]
  rw [h, fneg, if_pos rfl]
  simp only [xval, if_pos (show t < 5 by omega), hm, hs]
  split
  · rfl
  · split <;> rfl

theorem negCode_lt {t : Nat} (ht : t < 3) {c : Nat} (hc : c < 2 ^ tyWidth t) : negCode t c < 2 ^ tyWidth t := by
  have h := negIf_F ht true hc
  rw [if_pos rfl] at h
  rw [h]
  exact fneg_lt ht true hc

theorem nv_or (p q : Bool) : ((if p then 16 else 0) ||| (if q then 16 else 0) : BitVec 6) = if (p || q) then 16 else 0 := by
  cases p <;> cases q <;> rfl

section
variable {t : Nat} (ht : t < 3) {a b c : Nat} (ha : a < 2 ^ tyWidth t) (hb : b < 2 ^ tyWidth t) (hc : c < 2 ^ tyWidth t)
include ht

theorem nanOf_lt : nanOf t < 2 ^ tyWidth t := nanc_eq (show t < 5 by omega) ▸ round_lt (show t < 5 by omega) 0 false .nan

include ha

theorem numOf_F : (numOf t a 0).val = xval t 0 a := numOf_val (by omega) 0 ha

theorem absCode_F (sat : Bool) : absCode t sat a = (if xnan (xval t 0 a) then nanOf t else a % 2 ^ (tyWidth t - 1), 0) := by
  rw [absCode, (tyF_iff t).2 ht, if_pos rfl, Num.val_isNan, numOf_F ht ha, nanc_eq (by omega)]
  split <;> rfl

include hb

/-- `VMIN` on the codes of an F type. -/
theorem minCode_F : minCode t a b = extreme t false a b := by
  unfold minCode
  simp only [(tyF_iff t).2 ht, if_true, Num.val_isNan, Num.val_below, numOf_F ht ha, numOf_F ht hb, nanc_eq (show t < 5 by omega)]
  rfl

/-- `VMAX` on the codes of an F type. -/
theorem maxCode_F : maxCode t a b = extreme t true a b := by
  unfold maxCode
  simp only [(tyF_iff t).2 ht, if_true, Num.val_isNan, Num.val_below, numOf_F ht ha, numOf_F ht hb, nanc_eq (show t < 5 by omega)]
  rfl

theorem extreme_lt (max : Bool) : extreme t max a b < 2 ^ tyWidth t := by
  unfold extreme
  dsimp only
  split
  · exact nanOf_lt ht
  · have h : ∀ (p : Prop) [Decidable p], (if p then b else a) < 2 ^ tyWidth t := fun p _ => by split <;> assumption
    exact h _

variable (rm : Nat) (sat : Bool)

/-- A sum of codes of an F type, rounded once. -/
theorem addCode_F : DeliversNv t rm sat (xadd (decide (rm = 3)) (xval t 0 a) (xval t 0 b)) (addCode t rm sat a b).1 (addCode t rm sat a b).2 ∧ (addCode t rm sat a b).1 < 2 ^ tyWidth t := by
  have h5 : t < 5 := by omega
  rw [addCode, (tyF_iff t).2 ht, if_pos rfl, ← numOf_F ht ha, ← numOf_F ht hb]
  exact ⟨deliversNv_round h5 rm sat (Num.val_add _ _ _), round_lt h5 rm sat _⟩

theorem subCode_F : DeliversNv t rm sat (xadd (decide (rm = 3)) (xval t 0 a) (xneg (xval t 0 b))) (subCode t rm sat a b).1 (subCode t rm sat a b).2 ∧ (subCode t rm sat a b).1 < 2 ^ tyWidth t := by
  rw [subCode, (tyF_iff t).2 ht, if_pos rfl, ← xval_negCode ht hb]
  exact addCode_F ht ha (negCode_lt ht hb) rm sat

theorem mulCode_F : DeliversNv t rm sat (xmul (xval t 0 a) (xval t 0 b)) (mulCode t rm sat a b).1 (mulCode t rm sat a b).2 ∧ (mulCode t rm sat a b).1 < 2 ^ tyWidth t := by
  have h5 : t < 5 := by omega
  rw [mulCode, (tyF_iff t).2 ht, if_pos rfl, ← numOf_F ht ha, ← numOf_F ht hb]
  exact ⟨deliversNv_round h5 rm sat (Num.val_mul _ _), round_lt h5 rm sat _⟩

include hc

/-- A product and a sum, rounded once. -/
theorem fmaCode_F : DeliversNv t rm sat ((xadd (decide (rm = 3)) (xmul (xval t 0 a) (xval t 0 b)).1 (xval t 0 c)).1,
      (xmul (xval t 0 a) (xval t 0 b)).2 || (xadd (decide (rm = 3)) (xmul (xval t 0 a) (xval t 0 b)).1 (xval t 0 c)).2) (fmaCode t rm sat a b c).1 (fmaCode t rm sat a b c).2 ∧
    (fmaCode t rm sat a b c).1 < 2 ^ tyWidth t := by
  have h5 : t < 5 := by omega
  obtain ⟨hp, hpf⟩ := Num.val_mul (numOf t a 0) (numOf t b 0)
  obtain ⟨hs, hsf⟩ := Num.val_add (rm == 3) (Num.mul (numOf t a 0) (numOf t b 0)).1 (numOf t c 0)
  rw [fmaCode, (tyF_iff t).2 ht, if_pos rfl, ← numOf_F ht ha, ← numOf_F ht hb, ← numOf_F ht hc, ← hp]
  exact ⟨deliversNv_round h5 rm sat ⟨hs, (congrArg₂ (· ||| ·) hpf hsf).trans (nv_or ..)⟩, round_lt h5 rm sat _⟩

end

/-- A lane's index or count is exact in every F type. -/
theorem smallCode_F {t : Nat} (ht : t < 3) {k : Nat} (hk : k < 128) : Delivers t 0 false (.fin false k) (smallCode t k) 0 ∧ smallCode t k < 2 ^ tyWidth t := by
  have h5 : t < 5 := by omega
  have hz : ((fmtF t).round 0 false (.fin false k 0)).2 = 0 := by
    interval_cases t
    · revert k; decide
    · revert k; decide
    · revert k; decide
  have h := delivers_round h5 0 false (.fin false k 0)
  rw [hz] at h
  rw [smallCode, (tyF_iff t).2 ht, if_pos rfl]
  refine ⟨?_, round_lt h5 ..⟩
  simpa [Num.val] using h

/-! ## Lanes -/

theorem tyArith_F {t : Nat} (h : tyArith t = true) (hn : ¬IntTy t) : t < 3 := by
  simp only [tyArith, tyF, tyI, tyN, Bool.or_eq_true, Bool.and_eq_true, decide_eq_true_eq] at h
  unfold IntTy at hn
  omega
theorem tyArith_int {t : Nat} (h : tyArith t = true) (h8 : 8 ≤ t) : IntTy t := by
  simp only [tyArith, tyF, tyI, tyN, Bool.or_eq_true, Bool.and_eq_true, decide_eq_true_eq] at h
  unfold IntTy
  omega

section
variable {s : State} {c key : Nat} {x : Ctx} {f : EV} {i : Instr} {k j : Nat} {fn : VIn → Nat → Nat × Flags}

theorem lin_la_F (ht : f.t.toNat < 3) (hj : j < 2048 / tyWidth f.t.toNat) : (s.lin c x f).la j = fneg f.na f.t.toNat (opnd s c x (tyWidth f.t.toNat) f.va j) := by
  have hw := tyF_width ht
  unfold VIn.la
  rw [lin_a (by omega) hj]
  exact negIf_F ht f.na (opnd_lt ..)
theorem lin_lb_F (ht : f.t.toNat < 3) (hj : j < 2048 / tyWidth f.t.toNat) : (s.lin c x f).lb j = fneg f.nb f.t.toNat (opnd s c x (tyWidth f.t.toNat) f.vb j) := by
  have hw := tyF_width ht
  unfold VIn.lb
  rw [lin_b (by omega) hj]
  exact negIf_F ht f.nb (opnd_lt ..)

/-- All lane instructions but those that copy bits are for the arithmetic types. -/
theorem arith_of_wf (ht : ¬IntTy f.t.toNat) (hi : (laneInstr f)[k]? = some i) (hwf : i.wf = true) (hk : ¬(8 ≤ k ∧ k < 17)) : f.t.toNat < 3 :=
  tyArith_F ((type_of_wf hi hwf).resolve_right fun h => hk h.1) ht

/-- The code and the flags p are what the k-th lane instruction gives lane j, and the code is one of the type. -/
def LaneCode (s : State) (c : Nat) (x : Ctx) (f : EV) (k j : Nat) (p : Nat × Flags) : Prop :=
  CodeLane s c x f k j p.1 p.2 ∧ p.1 < 2 ^ tyWidth f.t.toNat

/-- The lane instructions of the F types alone: what they give a lane (R298, R302, R307). -/
theorem laneFns_F (ht : f.t.toNat < 3) (hr : Rows s c x f key) (hj : j < 2048 / tyWidth f.t.toNat) (hi : (laneInstr f)[k]? = some i) (hwf : i.wf = true)
    (hfn : laneFns[k]? = some fn) (hk : k < 8 ∨ 17 ≤ k) : LaneCode s c x f k j (fn (s.lin c x f) j) := by
  have h5 : f.t.toNat < 5 := by omega
  have hA := opnd_lt s c x (tyWidth f.t.toNat) f.va j
  have hD := opnd_lt s c x (tyWidth f.t.toNat) f.vd j
  have ha := fneg_lt ht f.na hA
  have hb := fneg_lt ht f.nb (opnd_lt s c x (tyWidth f.t.toNat) f.vb j)
  have la := lin_la_F (s := s) (c := c) (x := x) ht hj
  have lb := lin_lb_F (s := s) (c := c) (x := x) ht hj
  have ld := lin_d (j := j) hr
  match k, hi, hfn, hk with
  | 0, rfl, rfl, _ =>
    show LaneCode s c x f 0 j (addCode f.t.toNat (rmOf x f) f.sat _ _)
    rw [la, lb]
    exact addCode_F ht ha hb (rmOf x f) f.sat
  | 1, rfl, rfl, _ =>
    show LaneCode s c x f 1 j (subCode f.t.toNat (rmOf x f) f.sat _ _)
    rw [la, lb]
    exact subCode_F ht ha hb (rmOf x f) f.sat
  | 2, rfl, rfl, _ =>
    show LaneCode s c x f 2 j (mulCode f.t.toNat (rmOf x f) f.sat _ _)
    rw [la, lb]
    exact mulCode_F ht ha hb (rmOf x f) f.sat
  | 3, rfl, rfl, _ =>
    show LaneCode s c x f 3 j (fmaCode f.t.toNat (rmOf x f) f.sat _ _ (if f.f.getLsbD 0 = true then negCode f.t.toNat _ else _))
    rw [la, lb, ld, negIf_F ht _ hD]
    exact fmaCode_F ht ha hb (fneg_lt ht _ hD) (rmOf x f) f.sat
  | 4, rfl, rfl, _ =>
    show LaneCode s c x f 4 j (minCode f.t.toNat _ _, 0)
    rw [la, lb, minCode_F ht ha hb]
    exact ⟨⟨rfl, rfl⟩, extreme_lt ht ha hb _⟩
  | 5, rfl, rfl, _ =>
    show LaneCode s c x f 5 j (maxCode f.t.toNat _ _, 0)
    rw [la, lb, maxCode_F ht ha hb]
    exact ⟨⟨rfl, rfl⟩, extreme_lt ht ha hb _⟩
  | 6, rfl, rfl, _ =>
    have hn : f.na = false := by
      change okAbs f = true at hwf
      simp only [okAbs, Bool.and_eq_true] at hwf
      obtain ⟨⟨⟨⟨⟨⟨-, hn⟩, -⟩, -⟩, -⟩, -⟩, -⟩ := hwf
      exact (noNeg_spec hn).1
    show LaneCode s c x f 6 j (absCode f.t.toNat f.sat _)
    rw [la, hn, fneg, if_neg Bool.false_ne_true, absCode_F ht hA]
    refine ⟨⟨rfl, rfl⟩, ?_⟩
    dsimp only
    split
    · exact nanOf_lt ht
    · exact (Nat.mod_le _ _).trans_lt hA
  | 7, rfl, rfl, _ =>
    show LaneCode s c x f 7 j (minCode f.t.toNat (maxCode f.t.toNat _ _) _, 0)
    rw [la, lb, ld, maxCode_F ht ha hb, minCode_F ht (extreme_lt ht ha hb _) hD]
    exact ⟨⟨rfl, rfl⟩, extreme_lt ht (extreme_lt ht ha hb _) hD _⟩
  | 17, rfl, rfl, _ =>
    have hw := tyF_width ht
    have hj' : j < 128 := hj.trans_le (Nat.div_le_div_left hw (by decide) |>.trans (by decide))
    show LaneCode s c x f 17 j (smallCode f.t.toNat (if f.f.getLsbD 0 = true then ((natsFrom 0 j).filter (s.lin c x f).act).length else j), 0)
    rw [natsFrom_zero]
    have hn : (if f.f.getLsbD 0 = true then ((List.range j).filter (s.lin c x f).act).length else j) < 128 := by
      split
      · exact ((List.length_filter_le _ _).trans_eq List.length_range).trans_lt hj'
      · exact hj'
    obtain ⟨hd, hlt⟩ := smallCode_F ht hn
    rw [Nat.cast_ite] at hd
    exact ⟨⟨hd, rfl⟩, hlt⟩
  | 18, rfl, rfl, _ =>
    have hf : f.f.toNat < 8 := by
      change okSf f = true at hwf
      simp only [okSf, Bool.and_eq_true, decide_eq_true_eq] at hwf
      obtain ⟨⟨⟨⟨⟨-, hf⟩, -⟩, -⟩, -⟩, -⟩ := hwf
      exact hf
    show LaneCode s c x f 18 j (sfCode f.f.toNat f.t.toNat (rmOf x f) f.sat _)
    rw [la]
    exact ⟨sf_spec ht _ _ hf _, sfCode_lt h5 _ _ _ ha⟩

/-- The lane instructions that copy bits: what they give a lane of a type that is no integer (R299, R301). -/
theorem laneFns_copy (ht : ¬IntTy f.t.toNat) (hw : 0 < tyWidth f.t.toNat) (hj : j < 2048 / tyWidth f.t.toNat) (hi : (laneInstr f)[k]? = some i) (hwf : i.wf = true)
    (hfn : laneFns[k]? = some fn) (hk : 8 ≤ k ∧ k < 17) : LaneCode s c x f k j (fn (s.lin c x f) j) := by
  have hA := opnd_lt s c x (tyWidth f.t.toNat) f.va j
  have hB := opnd_lt s c x (tyWidth f.t.toNat) f.vb j
  have ra := lin_a (s := s) (c := c) (x := x) hw hj
  have rb := lin_b (s := s) (c := c) (x := x) hw hj
  have hno : (tyI f.t.toNat || tyN f.t.toNat) = true → False := by
    simp only [tyI, tyN, Bool.or_eq_true, Bool.and_eq_true, decide_eq_true_eq]
    unfold IntTy at ht
    omega
  match k, hi, hfn, hk with
  | 8, rfl, rfl, _ =>
    show LaneCode s c x f 8 j ((if f.na = true then _ - laneOf _ _ j else laneOf _ _ j) &&& (if f.nb = true then _ - laneOf _ _ j else laneOf _ _ j), 0)
    rw [ra, rb]
    exact ⟨⟨rfl, rfl⟩, Nat.and_lt_two_pow _ (cpl_lt hB)⟩
  | 9, rfl, rfl, _ =>
    show LaneCode s c x f 9 j ((if f.na = true then _ - laneOf _ _ j else laneOf _ _ j) ||| (if f.nb = true then _ - laneOf _ _ j else laneOf _ _ j), 0)
    rw [ra, rb]
    exact ⟨⟨rfl, rfl⟩, Nat.or_lt_two_pow (cpl_lt hA) (cpl_lt hB)⟩
  | 10, rfl, rfl, _ =>
    show LaneCode s c x f 10 j ((if f.na = true then _ - laneOf _ _ j else laneOf _ _ j) ^^^ (if f.nb = true then _ - laneOf _ _ j else laneOf _ _ j), 0)
    rw [ra, rb]
    exact ⟨⟨rfl, rfl⟩, Nat.xor_lt_two_pow (cpl_lt hA) (cpl_lt hB)⟩
  | 11, rfl, rfl, _ =>
    change okShl f = true at hwf
    simp only [okShl, Bool.and_eq_true] at hwf
    obtain ⟨⟨⟨⟨hi, -⟩, -⟩, -⟩, -⟩ := hwf
    exact (hno hi).elim
  | 12, rfl, rfl, _ =>
    change okShr f = true at hwf
    simp only [okShr, okShl, Bool.and_eq_true] at hwf
    obtain ⟨⟨⟨⟨⟨hi, -⟩, -⟩, -⟩, -⟩, -⟩ := hwf
    exact (hno hi).elim
  | 13, rfl, rfl, _ =>
    show LaneCode s c x f 13 j (if (x.ep.mr (f.f.toNat % 16)).getLsbD j = true then laneOf _ _ j else laneOf _ _ j, 0)
    rw [ra, rb]
    refine ⟨⟨rfl, rfl⟩, ?_⟩
    dsimp only
    split
    · exact hA
    · exact hB
  | 14, rfl, rfl, _ =>
    change okMov f = true at hwf
    simp only [okMov, Bool.and_eq_true, Bool.or_eq_true, Bool.not_eq_true'] at hwf
    obtain ⟨⟨⟨⟨-, hneg⟩, -⟩, -⟩, -⟩ := hwf
    show LaneCode s c x f 14 j ((s.lin c x f).la j, 0)
    rcases hneg with hn | hA'
    · have hla : (s.lin c x f).la j = opnd s c x (tyWidth f.t.toNat) f.va j := by
        unfold VIn.la
        rw [ra]
        exact if_neg (Bool.eq_false_iff.1 hn)
      refine ⟨⟨?_, rfl⟩, hla ▸ hA⟩
      rw [hn, hla]
      rfl
    · have h3 := tyArith_F hA' ht
      rw [lin_la_F h3 hj]
      exact ⟨⟨rfl, rfl⟩, fneg_lt h3 _ hA⟩
  | 15, rfl, rfl, _ =>
    show LaneCode s c x f 15 j (laneOf _ _ (laneOf _ _ j % (s.lin c x f).n), 0)
    rw [rb, lin_n hw, lin_a hw (Nat.mod_lt _ (Nat.zero_lt_of_lt hj))]
    exact ⟨⟨rfl, rfl⟩, opnd_lt ..⟩
  | 16, rfl, rfl, _ =>
    change okBcast 2048 f = true at hwf
    simp only [okBcast, Bool.and_eq_true, decide_eq_true_eq] at hwf
    obtain ⟨⟨⟨-, hl⟩, -⟩, -⟩ := hwf
    rw [tyLanes, if_neg hw.ne'] at hl
    show LaneCode s c x f 16 j (laneOf _ _ f.f.toNat, 0)
    rw [lin_a hw hl]
    exact ⟨⟨rfl, rfl⟩, opnd_lt ..⟩
  | k + 17, _, _, hk => omega

/-- What each lane instruction gives a lane of a type that is no integer (R298 to R302, R307). -/
theorem laneFns_code (ht : ¬IntTy f.t.toNat) (hr : Rows s c x f key) (hw : 0 < tyWidth f.t.toNat) (hj : j < 2048 / tyWidth f.t.toNat) (hi : (laneInstr f)[k]? = some i)
    (hwf : i.wf = true) (hfn : laneFns[k]? = some fn) : LaneCode s c x f k j (fn (s.lin c x f) j) := by
  by_cases hk : 8 ≤ k ∧ k < 17
  · exact laneFns_copy ht hw hj hi hwf hfn hk
  · exact laneFns_F (arith_of_wf ht hi hwf hk) hr hj hi hwf hfn (by omega)

end

end Sys2Proof.Machine

/-! SUPPORT. The lane instructions on every type: settles O44. -/
namespace Sys2Proof.Claims
open Sys2Proof

section
variable {n : Nat} {act : Nat → Bool} {en : BitVec 6} {g : Nat → BitVec 6} {fl : BitVec 6} {tv : Word}

/-- Lanes that set no flag. -/
theorem LaneFlags.eq_zero (h : LaneFlags n act en g fl tv) (hg : ∀ j, j < n → act j = true → g j = 0) : fl = 0 := by
  refine BitVec.eq_of_getLsbD_eq fun b hb => ?_
  rw [Bool.eq_iff_iff, h.1 b hb]
  constructor
  · rintro ⟨j, hj, ha, hbit⟩
    rwa [hg j hj ha] at hbit
  · intro hbit
    simp at hbit

/-- Lanes that set SV alone, j the lowest of them. -/
theorem LaneFlags.eq_sv (h : LaneFlags n act en g fl tv) (hg : ∀ j, j < n → act j = true → g j = 32 ∨ g j = 0) {j : Nat} (hj : j < n) (ha : act j = true) (hs : g j = 32)
    (hlow : ∀ j', j' < j → act j' = true → g j' = 0) : fl = 32 ∧ (en.getLsbD 5 = true → tv = BitVec.ofNat 64 j) := by
  obtain ⟨hfl, htv⟩ := h
  constructor
  · refine BitVec.eq_of_getLsbD_eq fun b hb => ?_
    rw [Bool.eq_iff_iff, hfl b hb]
    constructor
    · rintro ⟨j', hj', ha', hbit⟩
      rcases hg j' hj' ha' with h32 | h0
      · rwa [h32] at hbit
      · rw [h0] at hbit
        simp at hbit
    · intro hbit
      exact ⟨j, hj, ha, hs ▸ hbit⟩
  · intro hen
    refine htv j hj ha ?_ fun j' hj' ha' => ?_
    · rw [hs]
      intro h0
      have h5 := congrArg (·.getLsbD 5) h0
      simp [-BitVec.getLsbD_eq_getElem, hen] at h5
    · rw [hlow j' hj' ha']
      exact BitVec.zero_and

/-- Lanes that set NV alone. -/
theorem LaneFlags.nv_or_zero (h : LaneFlags n act en g fl tv) (hg : ∀ j, g j = 16 ∨ g j = 0) : fl = 16 ∨ fl = 0 := by
  have hb : ∀ b, b < 6 → b ≠ 4 → fl.getLsbD b = false := fun b hb h4 => by
    rw [Bool.eq_false_iff, ne_eq, h.1 b hb]
    rintro ⟨j, -, -, hbit⟩
    rcases hg j with h16 | h0
    · rw [h16] at hbit
      interval_cases b <;> simp_all
    · rw [h0] at hbit
      simp at hbit
  clear h
  revert fl
  decide

end

end Sys2Proof.Claims

namespace Sys2Proof.Proofs
open Sys2Proof Sys2Proof.Claims Sys2Proof.Machine

/-- Settles O44: each lane instruction is one function of its lanes' operands, which on the integer types gives the exact result wrapped or clamped, and on the others what the rules of its codes say. -/
theorem vectorLanes : Obligations.VectorLanes := by
  refine ⟨fun f s c n x hat hq i hi hwf => ?_, fun f s c n key x hat hq hr h8 h13 k i v hi hwf hv => ?_, fun f s c n key x hat hq hr hni k i hi hwf _ => ?_⟩
  · obtain ⟨k, hk⟩ := List.mem_iff_getElem?.1 hi
    obtain ⟨op, fn, -, hop⟩ := laneOp_get hk
    have hw := tyWidth_lane (tyLane_of_wf hk hwf)
    refine ⟨fun key hr => hop.rowIssue hat hq hr (by omega) fun r fl tv _ hl j hj hna => ?_, fun hd hnone => hop.traps hat hd hnone⟩
    rw [hl j hj, hna]
    rfl
  · have ht : IntTy f.t.toNat := ⟨h8, h13⟩
    obtain ⟨op, fn, hfn, hop⟩ := laneOp_get hi
    have hres : ∀ j, j < 2048 / tyWidth f.t.toNat → fn (s.lin c x f) j = intRes f.t.toNat f.sat (v j) := fun j hj =>
      laneFns_int ht hr hj hi hwf hfn (hv j)
    have hspec := fun j => intRes_spec f.t ht.width f.sat (v j)
    refine hop.rowIssue hat hq hr ht.width fun r fl tv hfl hl => ⟨fun j hj => ?_, fun j hj ha hs hle hlow => ?_, fun hno => ?_⟩
    · rw [hl j hj, hres j hj, Nat.mod_eq_of_lt (intRes_lt ..), (hspec j).1]
    · refine hfl.eq_sv (fun j' hj' _ => ?_) hj ha ?_ fun j' hj' ha' => ?_
      · rw [hres j' hj']
        by_cases h : f.sat = true ∧ leaves f.t (tyWidth f.t.toNat) (v j')
        · exact .inl ((hspec j').2.1 h)
        · exact .inr ((hspec j').2.2 h)
      · rw [hres j hj]
        exact (hspec j).2.1 ⟨hs, hle⟩
      · rw [hres j' (hj'.trans hj)]
        exact (hspec j').2.2 fun h => hlow j' hj' ha' h.2
    · refine hfl.eq_zero fun j hj ha => ?_
      rw [hres j hj]
      exact (hspec j).2.2 fun h => hno j hj ha h.1 h.2
  · obtain ⟨op, fn, hfn, hop⟩ := laneOp_get hi
    have hw := tyWidth_lane (tyLane_of_wf hi hwf)
    have hw0 : 0 < tyWidth f.t.toNat := by omega
    refine hop.rowIssue hat hq hr hw0 fun r fl tv hfl hl => ⟨_, hfl, fun j hj => ?_⟩
    obtain ⟨hcode, hlt⟩ := laneFns_code hni hr hw0 hj hi hwf hfn
    rw [hl j hj]
    split
    · rwa [Nat.mod_eq_of_lt hlt]
    · rfl

end Sys2Proof.Proofs

/-! SUPPORT. Masks of the vector unit (R81, R300, R303, R304): the bits each operation writes, and the conditions of `VCMP`: settles O46. -/
namespace Sys2Proof.Machine
open Sys2Proof Sys2Proof.Claims

/-! ## Conditions -/

/-- The conditions cc of R81 on two values, un where one is a NaN. -/
def condOf (cc : Nat) (un : Bool) (a b : XV) : Bool :=
  match cc with
  | 0 => !un && !xlt a b && !xlt b a
  | 1 => un || xlt a b || xlt b a
  | 2 => xlt a b
  | 3 => !un && !xlt b a
  | 4 => xlt b a
  | 5 => !un && !xlt a b
  | 6 => un
  | _ => !un

/-- A condition on two codes, by their values, with NV for an ordered comparison of a NaN. -/
theorem condCode_eq (cc : Nat) {t a b : Nat} {u v : XV} (ha : (numOf t a 0).val = u) (hb : (numOf t b 0).val = v) :
    condCode cc t a b = (condOf cc (xnan u || xnan v) u v, if (xnan u || xnan v) = true ∧ 2 ≤ cc ∧ cc ≤ 5 then 16 else 0) := by
  subst ha hb
  have hfl : fIf ((xnan (numOf t a 0).val || xnan (numOf t b 0).val) && decide (2 ≤ cc ∧ cc ≤ 5)) fNV =
      if (xnan (numOf t a 0).val || xnan (numOf t b 0).val) = true ∧ 2 ≤ cc ∧ cc ≤ 5 then 16 else 0 := by
    simp only [fIf, Bool.and_eq_true, decide_eq_true_eq, fNV]
  unfold condCode
  simp only [Num.eq, Num.val_isNan, Num.val_lt, hfl]
  refine Prod.ext ?_ rfl
  match cc with
  | 0 => simp only [condOf, Bool.not_or]
  | 1 => simp only [condOf, Bool.not_and, Bool.not_not]
  | 2 => rfl
  | 3 => rfl
  | 4 => rfl
  | 5 => rfl
  | 6 => rfl
  | _ + 7 => rfl

theorem xlt_xint (i k : Int) : xlt (xint i) (xint k) = decide (i < k) := by
  have hs : ∀ i : Int, sg (decide (i < 0)) (i.natAbs : ℚ) = i := fun i => by
    rw [sg, Nat.cast_natAbs]
    by_cases h : i < 0
    · simp [h, abs_of_neg h]
    · simp [h, abs_of_nonneg (not_lt.1 h)]
  simp only [xint, xlt, hs, Int.cast_lt]

/-- The conditions cc below 6 on integers. -/
def intCond (cc : Nat) (a b : Int) : Bool :=
  match cc with | 0 => decide (a = b) | 1 => decide (a ≠ b) | 2 => decide (a < b) | 3 => decide (a ≤ b) | 4 => decide (b < a) | _ => decide (b ≤ a)

theorem xnan_xint (a : Int) : xnan (xint a) = false := rfl

/-- The conditions on integers, which are no NaN. -/
theorem condOf_xint {cc : Nat} (hcc : cc < 6) (a b : Int) : condOf cc (xnan (xint a) || xnan (xint b)) (xint a) (xint b) = intCond cc a b := by
  unfold condOf intCond
  simp only [xnan_xint, Bool.or_self, xlt_xint]
  interval_cases cc
  · simp only [Bool.not_false, Bool.true_and, ← decide_not, ← Bool.decide_and]; congr 1; apply propext; omega
  · simp only [Bool.false_or, ← Bool.decide_or]; congr 1; apply propext; omega
  · rfl
  · simp only [Bool.not_false, Bool.true_and, ← decide_not, not_lt]
  · rfl
  · simp only [Bool.not_false, Bool.true_and, ← decide_not, not_lt]

/-- The value of a code of an integer type. -/
theorem numOf_iv {t : BitVec 4} (ht : IntTy t.toNat) {a : Nat} (ha : a < 2 ^ tyWidth t.toNat) : (numOf t.toNat a 0).val = xint (iv t (tyWidth t.toNat) a) := by
  obtain ⟨h8, h13⟩ := ht
  rw [numOf_val (by omega) 0 ha, xval, if_neg (by omega), if_neg (by omega), if_neg (by omega), if_neg (by omega), BitVec.ofNat_toNat, BitVec.setWidth_eq]

/-- A condition on two codes of an integer type. -/
theorem condCode_int {t : BitVec 4} (ht : IntTy t.toNat) {cc : Nat} (hcc : cc < 6) {a b : Nat} (ha : a < 2 ^ tyWidth t.toNat) (hb : b < 2 ^ tyWidth t.toNat) :
    condCode cc t.toNat a b = (intCond cc (iv t (tyWidth t.toNat) a) (iv t (tyWidth t.toNat) b), 0) := by
  rw [condCode_eq cc (numOf_iv ht ha) (numOf_iv ht hb), condOf_xint hcc]
  simp only [xnan_xint, Bool.or_self, Bool.false_eq_true, false_and, if_false]

/-! ## Masks written -/

section
variable {s : State} {c n : Nat} {x : Ctx} {f : EV} {i : Instr} {op : EV → VOp}

/-- The bits of a mask that an operation writes: those of inactive lanes stay, those beyond the lanes are zero. -/
theorem getLsbD_linMask (hw : 0 < tyWidth f.t.toNat) (o : VOp) (d : Nat) (fn : Nat → Bool) {j : Nat} (hj : j < 256) :
    (((s.lin c x f).seen o).maskBits d fn).getLsbD j = if 2048 / tyWidth f.t.toNat ≤ j then false else if x.ep.active f.g j then fn j else (x.ep.mr d).getLsbD j := by
  rw [getLsbD_maskBits _ _ _ hj, ← lin_n (s := s) (c := c) (x := x) hw]
  rfl

/-- An issue without flags leaves its context. -/
theorem ended_zero (s : State) (c n : Nat) (x : Ctx) (en : BitVec 6) (tv : Word) : s.ended c n x en 0 tv = s.setCtx c n (x.pass .ep 1) := if_pos BitVec.zero_and

/-- One whose only flag is NV. -/
theorem ended_nv (s : State) (c n : Nat) (x : Ctx) (en : BitVec 6) (tv : Word) {fl : BitVec 6} (h : fl = 16 ∨ fl = 0) : s.ended c n x en fl tv =
    if fl &&& en = 0 then s.setCtx c n (x.pass .ep 1) else (s.setCtx c n (x.pass .ep 1)).takeTrap c n .ep 0x24 16 tv (x.pass .ep 1).ep.pc := by
  have h16 : ∀ en : BitVec 6, (16 &&& en : BitVec 6) = 0 ∨ (16 &&& en : BitVec 6) = 16 := by decide
  rcases h with rfl | rfl
  · rcases h16 en with h0 | h1
    · rw [State.ended, if_pos h0, if_pos h0]
    · rw [State.ended, h1]
      rfl
  · rw [ended_zero, if_pos (show (0 : BitVec 6) &&& en = 0 from BitVec.zero_and)]

/-- An operation that writes one mask. -/
theorem maskLeaves (hat : At s c n .ep x) (hq : Quiet s c) (hp : NoPorts s c x f (op f)) (hi : exec i s = evExec op f s) (hw : 0 < tyWidth f.t.toNat) {fn bit : Nat → Bool}
    (hr : s.vres c x f (op f) = VRes.masks [(f.vd.toNat % 16, ((s.lin c x f).seen (op f)).maskBits (f.vd.toNat % 16) fn)] [])
    (hb : ∀ j, j < 2048 / tyWidth f.t.toNat → fn j = bit j) :
    ∃ v : BitVec 256, (∀ j, j < 256 → v.getLsbD j = if 2048 / tyWidth f.t.toNat ≤ j then false else if x.ep.active f.g j then bit j else (x.ep.mr (f.vd.toNat % 16)).getLsbD j) ∧
      Leaves i s c n ({ x with ep := x.ep.setM (f.vd.toNat % 16) v }.pass .ep 1) := by
  refine ⟨((s.lin c x f).seen (op f)).maskBits (f.vd.toNat % 16) fn, fun j hj => ?_, ?_⟩
  · rw [getLsbD_linMask hw _ _ _ hj]
    split
    · rfl
    · next h => rw [hb j (Nat.not_le.1 h)]
  · have h := leaves_of hat hq hp hi (by rw [hr]; rfl) (by rw [hr]; rfl) (by rw [hr]; rfl)
    rw [hr] at h
    have hu : ∀ v, (VRes.masks [(f.vd.toNat % 16, v)] []).upd x = { x with ep := x.ep.setM (f.vd.toNat % 16) v } := fun v => by
      simp [VRes.upd, VRes.masks, allFlags]
    rwa [hu] at h

/-- Bit j of the row that VA names, as `VMASK.FROMROW` reads it. -/
theorem getLsbD_opnd (hw : 0 < tyWidth f.t.toNat) {j : Nat} (hj : j < 2048 / tyWidth f.t.toNat) :
    (s.lin c x f).a.getLsbD j = if f.va.toNat < 1536 then opnd s c x 1 f.va j != 0 else (opnd s c x (tyWidth f.t.toNat) f.va (j / tyWidth f.t.toNat)).testBit (j % tyWidth f.t.toNat) := by
  have hle := Nat.div_le_self 2048 (tyWidth f.t.toNat)
  show (s.readRow c x (tyWidth f.t.toNat) f.va.toNat).getLsbD j = _
  split
  · next h =>
    have hrow : s.readRow c x (tyWidth f.t.toNat) f.va.toNat = s.readRow c x 1 f.va.toNat := by
      rw [State.readRow, if_pos h, State.readRow, if_pos h]
    rw [hrow, getLsbD_laneOf _ Nat.one_pos, Nat.div_one, Nat.mod_one, laneOf_readRow s c x Nat.one_pos f.va (by omega)]
    have h1 := opnd_lt s c x 1 f.va j
    generalize opnd s c x 1 f.va j = v at *
    interval_cases v <;> rfl
  · rw [getLsbD_laneOf _ hw, laneOf_readRow s c x hw f.va ((Nat.div_le_self _ _).trans_lt hj)]

end

/-! ## `VCMP` -/

/-- How a comparison combines with the old bit o (R300). -/
def cmpMode (m : Nat) (o q : Bool) : Bool := match m with | 0 => q | 1 => o && q | _ => o || q

section
variable {s : State} {c n : Nat} {x : Ctx} {f : EV}

/-- What a comparison gives: MF, MT and the flags, from the condition of each lane. -/
theorem vcmp_res (hw : 0 < tyWidth f.t.toNat) (hf : f.f.toNat < 3) (s : State) (c : Nat) (x : Ctx) : s.vres c x f (vopCmp f) =
    let v := (s.lin c x f).seen (vopCmp f)
    let q := fun i => condCode f.rm.toNat f.t.toNat ((s.lin c x f).la i) ((s.lin c x f).lb i)
    let mt := f.vd.toNat % 16
    let mf := f.vd.toNat / 16 % 16
    VRes.masks [(mf, v.maskBits mf fun i => cmpMode f.f.toNat ((x.ep.mr mf).getLsbD i) (!(q i).1)), (mt, v.maskBits mt fun i => cmpMode f.f.toNat ((x.ep.mr mt).getLsbD i) (q i).1)]
      (laneFlags (2048 / tyWidth f.t.toNat) (x.ep.active f.g) fun i => (q i).2) := by
  have hmt : fld f.vd.toNat 0 4 = f.vd.toNat % 16 := by simp [fld]
  have hmf : fld f.vd.toNat 4 4 = f.vd.toNat / 16 % 16 := by simp [fld]
  have hm : f.f.toNat % 4 = f.f.toNat := Nat.mod_eq_of_lt (by omega)
  unfold laneFlags
  rw [← lin_n (s := s) (c := c) (x := x) hw, ← natsFrom_zero, ← hmt, ← hmf]
  conv_rhs => rw [← hm]
  rfl

/-- A comparison leaves its two masks, its flags and their trap. -/
theorem vcmp_ended (hat : At s c n .ep x) (hq : Quiet s c) (hp : NoPorts s c x f (vopCmp f)) (hw : 0 < tyWidth f.t.toNat) (hf : f.f.toNat < 3) {q : Nat → Bool} {g : Nat → BitVec 6}
    (hc : ∀ j, j < 2048 / tyWidth f.t.toNat → condCode f.rm.toNat f.t.toNat ((s.lin c x f).la j) ((s.lin c x f).lb j) = (q j, g j)) :
    let mt := f.vd.toNat % 16
    let mf := f.vd.toNat / 16 % 16
    let mask := fun (d : Nat) (bit : Nat → Bool) (v : BitVec 256) =>
      ∀ j, j < 256 → v.getLsbD j = if 2048 / tyWidth f.t.toNat ≤ j then false else if x.ep.active f.g j then bit j else (x.ep.mr d).getLsbD j
    ∃ vt vf fl tv, mask mt (fun j => cmpMode f.f.toNat ((x.ep.mr mt).getLsbD j) (q j)) vt ∧ mask mf (fun j => cmpMode f.f.toNat ((x.ep.mr mf).getLsbD j) (!q j)) vf ∧
      LaneFlags (2048 / tyWidth f.t.toNat) (x.ep.active f.g) x.ftrapen g fl tv ∧
      exec (.vcmp f) s = .next (s.ended c n { x with ep := (x.ep.setM mf vf).setM mt vt, fflags := x.fflags ||| fl } x.ftrapen fl tv) := by
  intro mt mf mask
  have hres := vcmp_res hw hf s c x
  have h := maskIssue_of (i := .vcmp f) hat hq hp rfl (by rw [hres]; rfl) (by rw [hres]; rfl)
  rw [hres] at h
  refine ⟨_, _, _, _, fun j hj => ?_, fun j hj => ?_, ?_, h⟩
  · rw [getLsbD_linMask hw _ _ _ hj]
    split
    · rfl
    · next hn =>
      show (if _ then cmpMode _ _ (condCode f.rm.toNat f.t.toNat ((s.lin c x f).la j) ((s.lin c x f).lb j)).1 else _) = _
      rw [hc j (Nat.not_le.1 hn)]
  · rw [getLsbD_linMask hw _ _ _ hj]
    split
    · rfl
    · next hn =>
      show (if _ then cmpMode _ _ (!(condCode f.rm.toNat f.t.toNat ((s.lin c x f).la j) ((s.lin c x f).lb j)).1) else _) = _
      rw [hc j (Nat.not_le.1 hn)]
  · have hcongr : laneFlags (2048 / tyWidth f.t.toNat) (x.ep.active f.g) (fun i => (condCode f.rm.toNat f.t.toNat ((s.lin c x f).la i) ((s.lin c x f).lb i)).2) =
        laneFlags (2048 / tyWidth f.t.toNat) (x.ep.active f.g) g := List.filterMap_congr fun j hj => by simp only [hc j (List.mem_range.1 hj)]
    show LaneFlags _ _ _ _ (allFlags (laneFlags _ _ _)) (firstLane _ (laneFlags _ _ _))
    rw [hcongr]
    exact laneFlags_spec ..

end

end Sys2Proof.Machine

namespace Sys2Proof.Proofs
open Sys2Proof Sys2Proof.Claims Sys2Proof.Machine

/-- Settles O46: every operation writes its masks bit by bit from the lanes' conditions. -/
theorem vectorMasks : Obligations.VectorMasks := by
  intro f s c n x hat hq src held w m A mask one
  have hp : ∀ op : VOp, op.d = false → NoPorts s c x f op := fun op hd => noPorts_of src held fun h => by rw [hd] at h; cases h
  have hlane : tyLane f.t.toNat = true → 0 < tyWidth f.t.toNat := fun h => by have := tyWidth_lane h; omega
  have hcmp : (Instr.vcmp f).wf = true → tyArith f.t.toNat = true ∧ (f.rm.toNat < 6 ∨ tyF f.t.toNat = true) ∧ f.f.toNat < 3 := fun h => by
    change okCmp f = true at h
    simp only [okCmp, Bool.and_eq_true, Bool.or_eq_true, decide_eq_true_eq] at h
    obtain ⟨⟨⟨⟨⟨⟨hT, hrm⟩, -⟩, hf⟩, -⟩, -⟩, -⟩ := h
    exact ⟨hT, hrm, hf⟩
  refine ⟨?_, ?_, ?_, ?_, ?_, ?_, ?_, ?_⟩
  · intro hwf h8 mt mf q md
    obtain ⟨hT, hrm, hf⟩ := hcmp hwf
    have ht : IntTy f.t.toNat := tyArith_int hT h8
    have hcc : f.rm.toNat < 6 := hrm.resolve_right (by simp [ht.cases.1])
    have hc : ∀ j, j < 2048 / tyWidth f.t.toNat → condCode f.rm.toNat f.t.toNat ((s.lin c x f).la j) ((s.lin c x f).lb j) = (q j, 0) := fun j hj => by
      rw [lin_la_int ht hj, lin_lb_int ht hj, condCode_int ht hcc (ngd_lt (opnd_lt ..)) (ngd_lt (opnd_lt ..))]
      rfl
    obtain ⟨vt, vf, fl, tv, hvt, hvf, hfl, he⟩ := vcmp_ended hat hq (hp _ rfl) ht.width hf hc
    rw [hfl.eq_zero fun _ _ _ => rfl, ended_zero, show x.fflags ||| 0 = x.fflags from BitVec.or_zero] at he
    exact ⟨vt, vf, hvt, hvf, _, he, rfl, fun _ => rfl⟩
  · intro hwf h8 mt mf a b un q md
    obtain ⟨hT, -, hf⟩ := hcmp hwf
    have ht : f.t.toNat < 3 := tyArith_F hT fun h => absurd h.1 (by omega)
    have hc : ∀ j, j < 2048 / tyWidth f.t.toNat → condCode f.rm.toNat f.t.toNat ((s.lin c x f).la j) ((s.lin c x f).lb j) =
        (q j, if un j = true ∧ 2 ≤ f.rm.toNat ∧ f.rm.toNat ≤ 5 then 16 else 0) := fun j hj => by
      rw [lin_la_F ht hj, lin_lb_F ht hj, condCode_eq _ (numOf_F ht (fneg_lt ht _ (opnd_lt ..))) (numOf_F ht (fneg_lt ht _ (opnd_lt ..)))]
      rfl
    obtain ⟨vt, vf, fl, tv, hvt, hvf, hfl, he⟩ := vcmp_ended hat hq (hp _ rfl) (hlane (tyArith_tyLane hT)) hf hc
    rw [ended_nv _ _ _ _ _ _ (hfl.nv_or_zero fun j => ite_eq_or_eq ..)] at he
    exact ⟨vt, vf, fl, tv, hvt, hvf, hfl, fun _ => rfl, he⟩
  · intro hwf
    change okMaskRow 0 f = true at hwf
    simp only [okMaskRow, Bool.and_eq_true] at hwf
    obtain ⟨⟨⟨⟨⟨⟨hl, -⟩, -⟩, -⟩, -⟩, -⟩, -⟩ := hwf
    refine maskLeaves (op := vopMaskNz) hat hq (hp _ rfl) rfl (hlane hl) rfl fun j hj => ?_
    show (laneOf (s.lin c x f).a (s.lin c x f).w j != 0) = _
    rw [lin_a (hlane hl) hj]
  · intro hwf
    change okMaskRow 7 f = true at hwf
    simp only [okMaskRow, Bool.and_eq_true] at hwf
    obtain ⟨⟨⟨⟨⟨⟨hl, -⟩, -⟩, -⟩, -⟩, -⟩, -⟩ := hwf
    exact maskLeaves (op := vopMaskFromrow) hat hq (hp _ rfl) rfl (hlane hl) rfl fun j hj => getLsbD_opnd (hlane hl) hj
  · intro hwf
    change okMaskNot f = true at hwf
    simp only [okMaskNot, Bool.and_eq_true, decide_eq_true_eq] at hwf
    obtain ⟨⟨⟨⟨⟨⟨hl, -⟩, -⟩, -⟩, -⟩, ha⟩, -⟩ := hwf
    refine maskLeaves (op := vopMaskNot) hat hq (hp _ rfl) rfl (hlane hl) rfl fun j hj => ?_
    show (!(x.ep.mr (f.va.toNat % 16)).getLsbD j) = _
    rw [Nat.mod_eq_of_lt ha]
  · intro hwf
    change okMaskBool f = true at hwf
    simp only [okMaskBool, Bool.and_eq_true, decide_eq_true_eq] at hwf
    obtain ⟨⟨⟨⟨⟨⟨⟨hl, -⟩, -⟩, -⟩, -⟩, -⟩, ha⟩, hb⟩ := hwf
    refine maskLeaves (op := vopMaskBool) hat hq (hp _ rfl) rfl (hlane hl) rfl fun j hj => ?_
    show maskFn f.f.toNat ((x.ep.mr (f.va.toNat % 16)).getLsbD j) ((x.ep.mr (f.vb.toNat % 16)).getLsbD j) = _
    rw [Nat.mod_eq_of_lt ha, Nat.mod_eq_of_lt hb]
    rfl
  · intro hwf key hk hd
    change okMaskTo f = true at hwf
    simp only [okMaskTo, Bool.and_eq_true, decide_eq_true_eq] at hwf
    obtain ⟨⟨⟨⟨⟨⟨⟨hl, -⟩, -⟩, -⟩, -⟩, ha⟩, -⟩, -⟩ := hwf
    have hw := hlane hl
    refine rowIssue_of (op := vopMaskTorow) hat hq (noPorts_of src held fun _ => ⟨hd, by rw [hk]; rfl⟩) rfl hk rfl ⟨rfl, fun i hi => ?_⟩
    show (BitVec.ofNat 2048 ((x.ep.mr (f.va.toNat % 16)).toNat % 2 ^ (s.lin c x f).n)).getLsbD i = _
    rw [lin_n hw, Nat.mod_eq_of_lt ha, BitVec.getLsbD_ofNat, decide_eq_true hi, Nat.testBit_mod_two_pow, Bool.true_and]
    rfl
  · intro hits
    have hhits : tyLane f.t.toNat = true → f.va.toNat < 16 → (s.lin c x f).hits = hits := fun hl ha => by
      rw [VIn.hits, natsFrom_zero, lin_n (hlane hl), show (s.lin c x f).f.va.toNat % 16 = f.va.toNat from Nat.mod_eq_of_lt ha]
      rfl
    have hupd : ∀ v, (({ d := none, r := none, m := [], e := some (f.vd.toNat % 32, v), fl := [] } : VRes).upd x) = putE x (f.vd.setWidth 5) v := fun v => by
      simp [VRes.upd, putE, allFlags, BitVec.toNat_setWidth]
    constructor
    · intro hwf
      change okMcnt 0 f = true at hwf
      simp only [okMcnt, Bool.and_eq_true, decide_eq_true_eq] at hwf
      obtain ⟨⟨⟨⟨⟨⟨hl, -⟩, -⟩, -⟩, -⟩, ha⟩, -⟩ := hwf
      have h := leaves_of (op := vopMcnt) (i := .vmcnt f) hat hq (hp _ rfl) rfl rfl rfl rfl
      rw [← hhits hl ha, ← hupd]
      exact h
    · intro hwf
      change okMcnt 1 f = true at hwf
      simp only [okMcnt, Bool.and_eq_true, decide_eq_true_eq] at hwf
      obtain ⟨⟨⟨⟨⟨⟨hl, -⟩, -⟩, -⟩, -⟩, ha⟩, -⟩ := hwf
      have h := leaves_of (op := vopMcntFirst) (i := .vmcntFirst f) hat hq (hp _ rfl) rfl rfl rfl rfl
      rw [List.headD_eq_head?_getD, ← hhits hl ha, ← hupd, show m = (s.lin c x f).n from (lin_n (hlane hl)).symm]
      exact h

end Sys2Proof.Proofs

/-! SUPPORT. `VCVT` and `VCVTEF` (R87 to R97, R305, R306): the rows they write, their zero points, and the value of each element. -/
namespace Sys2Proof.Machine
open Sys2Proof Sys2Proof.Claims

/-! ## Converted codes -/

theorem clamp_nonneg_le {hi v : Int} (h : 0 ≤ hi) : 0 ≤ clamp 0 hi v ∧ clamp 0 hi v ≤ hi := by
  unfold clamp
  split
  · exact ⟨le_refl _, h⟩
  · split <;> omega

/-- A converted code is one of its type. -/
theorem convTo_lt {t tt rm : Nat} {sat : Bool} {z : Nat} {x : XV} {c : Nat} {fl : BitVec 6} (htt : tt < 15) (hz : tt = 6 ∨ tt = 7 → z < 2 ^ tyWidth tt)
    (h : ConvTo t tt rm sat z x c fl) : c < 2 ^ tyWidth tt := by
  unfold ConvTo at h
  split at h
  · next h5 => exact delivers_lt h5 h
  split at h
  · next h5 =>
    subst h5
    show c < 64
    match x, h with
    | .nan, h => rw [h.1]; decide
    | .inf neg, h => rw [h.1]; split <;> decide
    | .fin neg v, h =>
      simp only at h
      split at h
      · rw [h.1]; split <;> decide
      · obtain ⟨l, hl, -, rfl, -⟩ := h
        split
        · decide
        · split <;> omega
  split at h
  · next h67 =>
    have hp : (0 : Int) ≤ 2 ^ tyWidth tt - 1 := Int.sub_nonneg_of_le (one_le_pow₀ (by decide))
    match x, h with
    | .nan, h => exact h.1 ▸ hz h67
    | .inf neg, h =>
      have := Nat.two_pow_pos (tyWidth tt)
      rw [h.1]
      split <;> omega
    | .fin neg v, h =>
      obtain ⟨i, -, hc, -⟩ := h
      have h2 := (clamp_nonneg_le (v := i + z) hp).2
      rw [← hc] at h2
      have : (c : Int) < ((2 ^ tyWidth tt : Nat) : Int) := by push_cast; omega
      exact_mod_cast this
  split at h
  · next h14 =>
    subst h14
    show c < 256
    match x, h with
    | .nan, h => rw [h.1]; decide
    | .inf _, h => rw [h.1]; decide
    | .fin neg v, h =>
      by_cases hv : v = 0
      · rw [(h.1 hv).1]; decide
      · obtain ⟨e, -, -, hc, -⟩ := h.2 hv
        have h2 := (clamp_nonneg_le (v := e + 127) (by decide : (0 : Int) ≤ 254)).2
        omega
  · match x, h with
    | .nan, h => rw [h.1]; exact Nat.two_pow_pos _
    | .inf neg, h => rw [h.1]; exact wrapN_lt ..
    | .fin neg v, h =>
      simp only at h
      split at h
      · obtain ⟨i, -, rfl, -⟩ := h; exact wrapN_lt ..
      · obtain ⟨i, -, rfl, -⟩ := h; exact wrapN_lt ..

theorem at_of_val {neg : Bool} {m : Nat} {i : Int} (h : (Num.fin neg m 0).val = xint i) : Num.at neg m 0 0 = i := by
  obtain ⟨rfl, hm⟩ := XV.fin.inj h
  rw [zpow_zero, mul_one, Nat.cast_inj] at hm
  subst hm
  simp only [Num.at, Int.sub_self, Int.toNat_zero, Nat.pow_zero, Nat.mul_one, decide_eq_true_eq]
  split <;> omega

/-- A conversion between integer types. -/
theorem convertCode_int {t : BitVec 4} (ht : IntTy t.toNat) {tt : Nat} (htt : IntTy tt) (rm : Nat) (sat : Bool) (zs zt : Nat) {a : Nat} (ha : a < 2 ^ tyWidth t.toNat) :
    convertCode t.toNat tt rm sat zs zt a = intRes tt sat (iv t (tyWidth t.toNat) a) := by
  obtain ⟨neg, m, hn⟩ := numOf_int (.inl ht) a zs
  have hI := ht.cases.2
  have hval : (numOf t.toNat a zs).val = xint (iv t (tyWidth t.toNat) a) := by
    obtain ⟨h8, h13⟩ := ht
    rw [numOf_val (by omega) zs ha, xval, if_neg (by omega), if_neg (by omega), if_neg (by omega), if_neg (by omega), BitVec.ofNat_toNat, BitVec.setWidth_eq]
  rw [hn] at hval
  obtain ⟨h8, h13⟩ := htt
  unfold convertCode convertNum
  rw [show tyFloat tt = false from decide_eq_false (by omega), if_neg (by decide), if_neg (by omega), show tyOB tt = false by simp [tyOB]; omega, if_neg (by decide), if_neg (by omega),
    if_pos (by rw [hI, Bool.true_or]), hn]
  exact congrArg (intRes tt sat) (at_of_val hval)

/-! ## `VCVT` -/

section
variable {s : State} {c key : Nat} {x : Ctx} {f : EV}

/-- The zero point of a block, as a lane of VB. -/
theorem zpAt_eq (s : State) (c : Nat) (x : Ctx) (f : EV) (wb : Nat) {op : VOp} (hb : op.b = true) {lo w b k : Nat} (h : lo + w * b = w * k) :
    ((s.vin c x f wb).seen op).zpAt lo w b = opnd s c x w f.vb k := by
  have hrow : ((s.vin c x f wb).seen op).b = s.readRow c x wb f.vb.toNat := if_pos hb
  unfold VIn.zpAt opnd
  rw [hrow, h]
  by_cases h1 : f.vb.toNat < 1536
  · have hbe : ((s.vin c x f wb).seen op).be = none := if_neg (by omega)
    rw [hbe, if_pos h1, State.readRow, if_pos h1]
    cases (s.core c).vKey x.lid f.vb.toNat with
    | some key => rfl
    | none => exact laneOf_zero w k
  · rw [if_neg h1]
    by_cases h2 : 1552 ≤ f.vb.toNat ∧ f.vb.toNat < 1584
    · have hbe : ((s.vin c x f wb).seen op).be = some (x.ep.e' (f.vb.toNat - 1552)) := if_pos h2
      rw [hbe, if_pos h2]
    · have hbe : ((s.vin c x f wb).seen op).be = none := if_neg h2
      rw [hbe, if_neg h2, State.readRow, if_neg h1, if_neg h2]
      exact laneOf_zero w k

/-- The code of element e of the source, negated under NA. -/
def srcCode (s : State) (c : Nat) (x : Ctx) (f : EV) (e : Nat) : Nat :=
  let w := tyWidth f.t.toNat
  if 8 ≤ f.t.toNat then ngd f.na w (opnd s c x w f.va e) else fneg f.na f.t.toNat (opnd s c x w f.va e)

theorem srcCode_int (ht : IntTy f.t.toNat) (e : Nat) : srcCode s c x f e = ngd f.na (tyWidth f.t.toNat) (opnd s c x (tyWidth f.t.toNat) f.va e) := if_pos ht.1

/-- NA stands for the arithmetic types alone, and is their negation. -/
theorem srcCode_eq (hna : f.na = false ∨ tyArith f.t.toNat = true) (e : Nat) :
    (if f.na = true then negCode f.t.toNat (opnd s c x (tyWidth f.t.toNat) f.va e) else opnd s c x (tyWidth f.t.toNat) f.va e) = srcCode s c x f e := by
  have ho := opnd_lt s c x (tyWidth f.t.toNat) f.va e
  unfold srcCode
  rcases hna with h | h
  · simp only [h, ngd, fneg, Bool.false_eq_true, if_false, ite_self]
  · by_cases h8 : 8 ≤ f.t.toNat
    · simp only [if_pos h8]
      exact negIf_int (tyArith_int h h8).cases.1 ho
    · simp only [if_neg h8]
      exact negIf_F (tyArith_F h fun hi => h8 hi.1) f.na ho

theorem srcCode_lt (hna : f.na = false ∨ tyArith f.t.toNat = true) (e : Nat) : srcCode s c x f e < 2 ^ tyWidth f.t.toNat := by
  have ho := opnd_lt s c x (tyWidth f.t.toNat) f.va e
  unfold srcCode
  dsimp only
  split
  · exact ngd_lt ho
  · next h8 =>
    rcases hna with h | h
    · rw [h]; exact ho
    · exact fneg_lt (tyArith_F h fun hi => h8 hi.1) f.na ho

/-- The zero points of source element e and of target element j (R305). -/
def srcZero (s : State) (c : Nat) (x : Ctx) (f : EV) (e : Nat) : Nat :=
  if f.t.toNat = 6 ∨ f.t.toNat = 7 then opnd s c x (tyWidth f.t.toNat) f.vb (e / 48) else 0
def dstZero (s : State) (c : Nat) (x : Ctx) (f : EV) (tt j : Nat) : Nat :=
  if tt = 6 ∨ tt = 7 then opnd s c x (tyWidth tt) f.vb ((if f.t.toNat = 6 ∨ f.t.toNat = 7 then 1024 / tyWidth tt else 0) + j / 48) else 0

theorem tyOB_iff (t : Nat) : tyOB t = true ↔ t = 6 ∨ t = 7 := by simp [tyOB]

theorem dstZero_lt {tt : Nat} (h : tt = 6 ∨ tt = 7) (j : Nat) : dstZero s c x f tt j < 2 ^ tyWidth tt := by
  rw [dstZero, if_pos h]
  exact opnd_lt ..

/-- The element count of a conversion is that of the wider type. -/
theorem cvtLanes_eq {t tt : Nat} (ht : t < 15) (htt : tt < 15) (h : tyLane t = true ∨ tyLane tt = true) : cvtLanes 2048 t tt = 2048 / Nat.max (tyWidth t) (tyWidth tt) ∧ 0 < tyWidth t ∧ 0 < tyWidth tt := by
  have h15 : ∀ t, t < 15 → ∀ tt, tt < 15 → tyLane t = true ∨ tyLane tt = true →
    cvtLanes 2048 t tt = 2048 / Nat.max (tyWidth t) (tyWidth tt) ∧ 0 < tyWidth t ∧ 0 < tyWidth tt := by decide
  exact h15 t ht tt htt h

/-- What an accepted `VCVT` names: its types, and a part that lies in the source's row. -/
theorem vcvt_wf {f : EV} (h : (Instr.vcvt f).wf = true) : let w := tyWidth f.t.toNat
    let wt := tyWidth (f.f.toNat % 16)
    f.t.toNat < 15 ∧ f.f.toNat % 16 < 15 ∧ (tyLane f.t.toNat = true ∨ tyLane (f.f.toNat % 16) = true) ∧ (f.na = false ∨ tyArith f.t.toNat = true) ∧
      ∀ j, j < 2048 / Nat.max w wt → f.f.toNat / 16 % 8 * (2048 / Nat.max w wt) + j < 2048 / w := by
  change okCvt 2048 f = true at h
  simp only [okCvt, Bool.and_eq_true, Bool.or_eq_true, decide_eq_true_eq, Bool.not_eq_true'] at h
  obtain ⟨⟨⟨⟨⟨⟨⟨⟨⟨⟨ht, htt⟩, hl⟩, hna⟩, -⟩, -⟩, -⟩, hpart⟩, -⟩, -⟩, -⟩ := h
  obtain ⟨hm, hw, hwt⟩ := cvtLanes_eq ht htt hl
  refine ⟨ht, htt, hl, hna, fun j hj => ?_⟩
  split at hpart
  · next hle =>
    rw [beq_iff_eq] at hpart
    rw [hpart, Nat.zero_mul, Nat.zero_add]
    exact hj.trans_le (Nat.div_le_div_left (Nat.le_max_left ..) hw)
  · rw [hm, decide_eq_true_eq, Nat.succ_mul] at hpart
    omega

/-- What element j of a conversion takes, m elements in all. -/
def cvtElem (s : State) (c : Nat) (x : Ctx) (f : EV) (m j : Nat) : Nat × Flags :=
  let e := f.f.toNat / 16 % 8 * m + j
  convertCode f.t.toNat (f.f.toNat % 16) (rmOf x f) f.sat (srcZero s c x f e) (dstZero s c x f (f.f.toNat % 16) j) (srcCode s c x f e)

/-- The same from the operands of the issue. -/
def VIn.cvtFn (v : VIn) (f : EV) (i : Nat) : Nat × Flags :=
  let n := cvtLanes v.bits f.t.toNat (f.f.toNat % 16)
  let e := fld v.f.f.toNat 4 3 * n + i
  let zs := if tyOB f.t.toNat then v.zpAt 0 (tyWidth f.t.toNat) (v.zpBlock e) else 0
  let zt := if tyOB (f.f.toNat % 16) then v.zpAt (if tyOB f.t.toNat then v.bits / 2 else 0) (tyWidth (f.f.toNat % 16)) (v.zpBlock i) else 0
  convertCode f.t.toNat (f.f.toNat % 16) v.rm v.f.sat zs zt (if v.f.na then negCode f.t.toNat (laneOf v.a v.w e) else laneOf v.a v.w e)

theorem vopCvt_run (f : EV) (v : VIn) : (vopCvt f).run v =
    VRes.row (v.packed (cvtLanes v.bits f.t.toNat (f.f.toNat % 16)) (tyWidth (f.f.toNat % 16)) (v.cvtFn f)).1
      (v.packed (cvtLanes v.bits f.t.toNat (f.f.toNat % 16)) (tyWidth (f.f.toNat % 16)) (v.cvtFn f)).2 := rfl

theorem packed_congr (v : VIn) {n : Nat} (wd : Nat) {fn gn : Nat → Nat × Flags} (h : ∀ j, j < n → fn j = gn j) : v.packed n wd fn = v.packed n wd gn := by
  unfold VIn.packed
  rw [natsFrom_zero, List.map_congr_left fun j hj => by rw [h j (List.mem_range.1 hj)]]

/-- The operands of a conversion. -/
def State.cvtIn (s : State) (c : Nat) (x : Ctx) (f : EV) : VIn := (s.vin c x f (vopCvt f).wb).seen (vopCvt f)

theorem srcZero_eq (s : State) (c : Nat) (x : Ctx) (f : EV) (e : Nat) : (if tyOB f.t.toNat = true then (s.cvtIn c x f).zpAt 0 (tyWidth f.t.toNat) (e / 48) else 0) = srcZero s c x f e := by
  unfold srcZero
  by_cases h : tyOB f.t.toNat = true
  · rw [if_pos h, if_pos ((tyOB_iff _).1 h)]
    exact zpAt_eq s c x f _ (show (tyOB f.t.toNat || _) = true by rw [h, Bool.true_or]) (Nat.zero_add _)
  · rw [if_neg h, if_neg (mt (tyOB_iff _).2 h)]

/-- The zero points of the target lie behind the half of the row that the source's have, if it has any. -/
theorem dstZero_eq (s : State) (c : Nat) (x : Ctx) (f : EV) (j : Nat) :
    (if tyOB (f.f.toNat % 16) = true then (s.cvtIn c x f).zpAt (if tyOB f.t.toNat = true then 1024 else 0) (tyWidth (f.f.toNat % 16)) (j / 48) else 0) = dstZero s c x f (f.f.toNat % 16) j := by
  unfold dstZero
  by_cases h : tyOB (f.f.toNat % 16) = true
  · have h67 := (tyOB_iff _).1 h
    rw [if_pos h, if_pos h67]
    refine zpAt_eq s c x f _ (show (_ || tyOB (f.f.toNat % 16)) = true by rw [h, Bool.or_true]) ?_
    have hw : tyWidth (f.f.toNat % 16) = 4 ∨ tyWidth (f.f.toNat % 16) = 8 := by
      rcases h67 with h6 | h7
      · rw [h6]; exact .inl rfl
      · rw [h7]; exact .inr rfl
    simp only [tyOB_iff]
    rcases hw with hw | hw <;> rw [hw] <;> split <;> omega
  · rw [if_neg h, if_neg (mt (tyOB_iff _).2 h)]

theorem cvtFn_eq (hwf : (Instr.vcvt f).wf = true) {j : Nat} (hj : j < 2048 / Nat.max (tyWidth f.t.toNat) (tyWidth (f.f.toNat % 16))) :
    (s.cvtIn c x f).cvtFn f j = cvtElem s c x f (2048 / Nat.max (tyWidth f.t.toNat) (tyWidth (f.f.toNat % 16))) j := by
  obtain ⟨ht, htt, hl, hna, hpart⟩ := vcvt_wf hwf
  obtain ⟨hm, hw, -⟩ := cvtLanes_eq ht htt hl
  have hsrc := hpart j hj
  generalize 2048 / Nat.max (tyWidth f.t.toNat) (tyWidth (f.f.toNat % 16)) = m at *
  have he : fld f.f.toNat 4 3 * cvtLanes 2048 f.t.toNat (f.f.toNat % 16) + j = f.f.toNat / 16 % 8 * m + j := by rw [hm]; rfl
  have ha : laneOf (s.cvtIn c x f).a (s.cvtIn c x f).w (f.f.toNat / 16 % 8 * m + j) = opnd s c x (tyWidth f.t.toNat) f.va (f.f.toNat / 16 % 8 * m + j) :=
    laneOf_readRow s c x hw f.va hsrc
  have hz : ∀ i, (s.cvtIn c x f).zpBlock i = i / 48 := fun _ => if_pos rfl
  have hh : (s.cvtIn c x f).bits / 2 = 1024 := by rw [show (s.cvtIn c x f).bits = 2048 from rfl]
  unfold cvtElem VIn.cvtFn
  simp only [hz, hh]
  rw [← srcZero_eq, ← dstZero_eq, ← srcCode_eq hna, ← ha, ← he]
  rfl

/-- A conversion gives one row, its elements packed from bit 0. -/
theorem vcvt_res (hr : Rows s c x f key) (hwf : (Instr.vcvt f).wf = true) :
    let wt := tyWidth (f.f.toNat % 16)
    let m := 2048 / Nat.max (tyWidth f.t.toNat) wt
    s.vres c x f (vopCvt f) = VRes.row (rowLanes wt ((List.range m).map fun j => if x.ep.active f.g j then (cvtElem s c x f m j).1 else laneOf ((s.core c).accRow c key) wt j))
      (laneFlags m (x.ep.active f.g) fun j => (cvtElem s c x f m j).2) := by
  intro wt m
  obtain ⟨ht, htt, hl, -, -⟩ := vcvt_wf hwf
  have hd : (s.cvtIn c x f).d = (s.core c).accRow c key := (if_pos hr.dreg).trans (readRow_reg 8 hr.dreg hr.d)
  rw [State.vres, vopCvt_run, ← State.cvtIn, show (s.cvtIn c x f).bits = 2048 from rfl, (cvtLanes_eq ht htt hl).1, packed_congr _ _ fun j hj => cvtFn_eq hwf hj, packed_eq, hd]
  rfl

/-- The converted value of an element, with its flags (R87 to R96). -/
theorem cvtElem_spec (hwf : (Instr.vcvt f).wf = true) (m j : Nat) : let e := f.f.toNat / 16 % 8 * m + j
    let tt := f.f.toNat % 16
    ConvTo f.t.toNat tt (rmOf x f) f.sat (dstZero s c x f tt j) (xval f.t.toNat (srcZero s c x f e) (srcCode s c x f e)) (cvtElem s c x f m j).1 (cvtElem s c x f m j).2 ∧
      (cvtElem s c x f m j).1 < 2 ^ tyWidth tt := by
  intro e tt
  obtain ⟨ht, htt, -, hna, -⟩ := vcvt_wf hwf
  have h := convert_spec ht htt (rmOf x f) f.sat (srcZero s c x f e) (dstZero s c x f tt j) (srcCode_lt (s := s) (c := c) (x := x) hna e)
  exact ⟨h, convTo_lt htt (fun h67 => dstZero_lt h67 j) h⟩

/-- An element between integer types. -/
theorem cvtElem_int (hwf : (Instr.vcvt f).wf = true) (ht : IntTy f.t.toNat) (htt : IntTy (f.f.toNat % 16)) (m j : Nat) : (cvtElem s c x f m j).1 =
    narrow (BitVec.ofNat 4 (f.f.toNat % 16)) (tyWidth (f.f.toNat % 16)) f.sat
      (iv f.t (tyWidth f.t.toNat) (ngd f.na (tyWidth f.t.toNat) (opnd s c x (tyWidth f.t.toNat) f.va (f.f.toNat / 16 % 8 * m + j)))) := by
  obtain ⟨-, -, -, hna, -⟩ := vcvt_wf hwf
  have htn : (BitVec.ofNat 4 (f.f.toNat % 16)).toNat = f.f.toNat % 16 := by rw [BitVec.toNat_ofNat]; omega
  have hs := fun v => (intRes_spec (BitVec.ofNat 4 (f.f.toNat % 16)) (by rw [htn]; exact htt.width) f.sat v).1
  rw [htn] at hs
  unfold cvtElem
  dsimp only
  rw [convertCode_int ht htt _ _ _ _ (srcCode_lt hna _), hs, srcCode_int ht]

/-- `VCVT`: the whole row is written, each active element with its converted value. -/
theorem vcvt_issue {n : Nat} (hat : At s c n .ep x) (hq : Quiet s c) (hr : Rows s c x f key) (hwf : (Instr.vcvt f).wf = true) :
    let wt := tyWidth (f.f.toNat % 16)
    let m := 2048 / Nat.max (tyWidth f.t.toNat) wt
    RowIssue (.vcvt f) s c n key x (fun y => y.pass .ep 1) fun r fl tv => r.toNat < 2 ^ (m * wt) ∧
      LaneFlags m (x.ep.active f.g) x.ftrapen (fun j => (cvtElem s c x f m j).2) fl tv ∧
      ∀ j, j < m → laneOf r wt j = if x.ep.active f.g j then (cvtElem s c x f m j).1 else laneOf ((s.core c).accRow c key) wt j := by
  intro wt m
  have hm : wt * m ≤ 2048 := (Nat.mul_le_mul_right m (Nat.le_max_right (tyWidth f.t.toNat) wt)).trans (Nat.mul_div_le ..)
  refine rowIssue_of hat hq (hr.noPorts _) rfl hr.d (vcvt_res hr hwf) ⟨rowLanes_lt hm, laneFlags_spec .., fun j hj => ?_⟩
  rw [laneOf_rowLanes hm hj]
  refine Nat.mod_eq_of_lt ?_
  split
  · exact (cvtElem_spec hwf m j).2
  · exact laneOf_lt ..

/-! ## `VCVTEF` -/

/-- What lane j of `VCVTEF` converts to, and the residual of that (R97). -/
def efElem (s : State) (c : Nat) (x : Ctx) (f : EV) (j : Nat) : Nat × Flags :=
  convertNum f.t.toNat (f.f.toNat % 16) (rmOf x f) f.sat 0 (numOf f.t.toNat ((s.lin c x f).la j) 0)
def efResid (s : State) (c : Nat) (x : Ctx) (f : EV) (j : Nat) : Nat × Flags :=
  let q := Num.add (rmOf x f == 3) (numOf f.t.toNat ((s.lin c x f).la j) 0) (numOf (f.f.toNat % 16) (efElem s c x f j).1 0).neg
  let r := (fmtF f.t.toNat).round (rmOf x f) false q.1
  (r.1, q.2 ||| r.2)

theorem vcvtef_wf {f : EV} (h : (Instr.vcvtef f).wf = true) : f.t.toNat < 3 ∧ f.f.toNat % 16 < 15 ∧ f.f.toNat % 16 ≠ 6 ∧ f.f.toNat % 16 ≠ 7 ∧ tyWidth (f.f.toNat % 16) < tyWidth f.t.toNat ∧ f.vb.toNat < 1536 := by
  change okCvtef f = true at h
  simp only [okCvtef, vregOk, Bool.and_eq_true, decide_eq_true_eq, tyF] at h
  obtain ⟨⟨⟨⟨⟨⟨⟨⟨⟨ht, h1⟩, h5⟩, hw⟩, -⟩, -⟩, -⟩, -⟩, hb⟩, -⟩ := h
  rw [Nat.mod_eq_of_lt (by omega : f.f.toNat < 16)]
  exact ⟨ht, by omega, by omega, by omega, hw, hb⟩

/-- `VCVTEF` gives two rows: the results and their residuals. -/
theorem vcvtef_res {kr : Nat} (hr : Rows s c x f key) (hwf : (Instr.vcvtef f).wf = true) (hk : (s.core c).vKey x.lid f.vb.toNat = some kr) :
    let w := tyWidth f.t.toNat
    let wt := tyWidth (f.f.toNat % 16)
    let n := 2048 / w
    s.vres c x f (vopCvtef f) =
      { d := some (rowLanes wt ((List.range n).map fun j => if x.ep.active f.g j then (efElem s c x f j).1 else laneOf ((s.core c).accRow c key) wt j)),
        r := some (rowLanes w ((List.range n).map fun j => if x.ep.active f.g j then (efResid s c x f j).1 else laneOf ((s.core c).accRow c kr) w j)), m := [], e := none,
        fl := laneFlags n (x.ep.active f.g) fun j => (efElem s c x f j).2 ||| (efResid s c x f j).2 } := by
  intro w wt n
  obtain ⟨ht, -, -, -, -, hb⟩ := vcvtef_wf hwf
  have hw := tyF_width ht
  have hd : (s.lin c x f).d = (s.core c).accRow c key := (if_pos hr.dreg).trans (readRow_reg 8 hr.dreg hr.d)
  have hrr : (s.lin c x f).r = (s.core c).accRow c kr := readRow_reg 8 hb hk
  have hn := lin_n (s := s) (c := c) (x := x) (f := f) (by omega)
  have hpk := packed_eq (s.lin c x f) (s.lin c x f).n wt fun j => ((efElem s c x f j).1, (efElem s c x f j).2 ||| (efResid s c x f j).2)
  have hrun : s.vres c x f (vopCvtef f) =
      { d := some ((s.lin c x f).packed (s.lin c x f).n wt fun j => ((efElem s c x f j).1, (efElem s c x f j).2 ||| (efResid s c x f j).2)).1,
        r := some (rowLanes w ((natsFrom 0 (s.lin c x f).n).map fun j => if x.ep.active f.g j then (efResid s c x f j).1 else laneOf (s.lin c x f).r w j)), m := [], e := none,
        fl := ((s.lin c x f).packed (s.lin c x f).n wt fun j => ((efElem s c x f j).1, (efElem s c x f j).2 ||| (efResid s c x f j).2)).2 } := rfl
  rw [hrun, hpk, hn, natsFrom_zero, hrr, hd]
  rfl

/-- The values of `VCVTEF`: each active lane converts, and its residual is the exact difference, rounded (R97). -/
theorem efElem_spec (hwf : (Instr.vcvtef f).wf = true) {j : Nat} (hj : j < 2048 / tyWidth f.t.toNat) : let t := f.t.toNat
    let tt := f.f.toNat % 16
    let a := xval t 0 (fneg f.na t (opnd s c x (tyWidth t) f.va j))
    (ConvTo t tt (rmOf x f) f.sat 0 a (efElem s c x f j).1 (efElem s c x f j).2 ∧ (efElem s c x f j).1 < 2 ^ tyWidth tt) ∧
      DeliversNv t (rmOf x f) false (xadd (decide (rmOf x f = 3)) a (xneg (xval tt 0 (efElem s c x f j).1))) (efResid s c x f j).1 (efResid s c x f j).2 ∧
      (efResid s c x f j).1 < 2 ^ tyWidth t := by
  intro t tt a
  obtain ⟨ht, htt, h6, h7, -, -⟩ := vcvtef_wf hwf
  have h5 : f.t.toNat < 5 := by omega
  have hA := fneg_lt ht f.na (opnd_lt s c x (tyWidth f.t.toNat) f.va j)
  have ha : (numOf f.t.toNat ((s.lin c x f).la j) 0).val = a := by rw [lin_la_F ht hj, numOf_F ht hA]
  have hconv : ConvTo t tt (rmOf x f) f.sat 0 a (efElem s c x f j).1 (efElem s c x f j).2 := by
    have h := convert_spec (by omega) htt (rmOf x f) f.sat 0 0 hA
    rw [← lin_la_F ht hj] at h
    rw [← ha, numOf_F ht (by rw [lin_la_F ht hj]; exact hA)]
    exact h
  have hlt : (efElem s c x f j).1 < 2 ^ tyWidth tt := convTo_lt htt (fun h => (h.elim h6 h7).elim) hconv
  have hq := Num.val_add (rmOf x f == 3) (numOf f.t.toNat ((s.lin c x f).la j) 0) (numOf tt (efElem s c x f j).1 0).neg
  rw [Num.val_neg, ha, numOf_val htt 0 hlt] at hq
  exact ⟨⟨hconv, hlt⟩, deliversNv_round h5 (rmOf x f) false hq, round_lt h5 ..⟩

/-- Two rows written one behind the other. -/
theorem putRows_two {kr : Nat} (hq : Quiet s c) (hd : (s.core c).vKey x.lid f.vd.toNat = some key) (hk : (s.core c).vKey x.lid f.vb.toNat = some kr) {res : VRes} {r q : Row}
    (h1 : res.d = some r) (h2 : res.r = some q) : s.putRows c x f res = s.modCore c fun k => (k.setAcc key r).setAcc kr q := by
  have hput : s.putRow c x f.vd.toNat (some r) = s.modCore c fun k => k.setAcc key r := by
    rw [State.putRow, hd]
    exact vecPut_quiet hq key r
  have hk' : ((s.modCore c fun k => k.setAcc key r).core c).vKey x.lid f.vb.toNat = some kr := by
    rw [State.core_modCore]
    exact hk
  rw [State.putRows, h1, h2, hput, State.putRow, hk']
  refine (vecPut_quiet (quiet_setAcc hq key r) kr q).trans ?_
  rw [State.modCore, State.core_modCore, State.modCore, State.setCore_setCore]
  rfl

/-- `VCVTEF`: both rows are written, each active lane with its converted value and its residual. -/
theorem vcvtef_issue {n kr : Nat} (hat : At s c n .ep x) (hq : Quiet s c) (hr : Rows s c x f key) (hwf : (Instr.vcvtef f).wf = true) (hk : (s.core c).vKey x.lid f.vb.toNat = some kr) :
    let w := tyWidth f.t.toNat
    let wt := tyWidth (f.f.toNat % 16)
    ∃ (r q : Row) (fl : BitVec 6) (tv : Word), r.toNat < 2 ^ (2048 / w * wt) ∧
      (∀ j, j < 2048 / w → (laneOf r wt j = if x.ep.active f.g j then (efElem s c x f j).1 else laneOf ((s.core c).accRow c key) wt j) ∧
        laneOf q w j = if x.ep.active f.g j then (efResid s c x f j).1 else laneOf ((s.core c).accRow c kr) w j) ∧
      LaneFlags (2048 / w) (x.ep.active f.g) x.ftrapen (fun j => (efElem s c x f j).2 ||| (efResid s c x f j).2) fl tv ∧
      exec (.vcvtef f) s = .next ((s.modCore c fun k => (k.setAcc key r).setAcc kr q).ended c n { x with fflags := x.fflags ||| fl } x.ftrapen fl tv) := by
  intro w wt
  obtain ⟨-, -, -, -, hlt, -⟩ := vcvtef_wf hwf
  have hn : w * (2048 / w) ≤ 2048 := Nat.mul_div_le ..
  have hnt : wt * (2048 / w) ≤ 2048 := (Nat.mul_le_mul_right _ hlt.le).trans hn
  have hres := vcvtef_res hr hwf hk
  have hx : ∀ g, (s.modCore c g).ctx c n = tfind (g (s.core c)).ctxs n := fun g => by rw [State.ctx, State.core_modCore]
  have h := evExec_quiet (op := vopCvtef) hat hq (hr.noPorts _) (putRows_two hq hr.d hk (by rw [hres]) (by rw [hres])) ((hx _).trans hat.ctx)
  rw [hres] at h
  refine ⟨_, _, _, _, rowLanes_lt hnt, fun j hj => ⟨?_, ?_⟩, laneFlags_spec .., h⟩
  · refine (laneOf_rowLanes hnt hj).trans (Nat.mod_eq_of_lt ?_)
    split
    · exact (efElem_spec hwf hj).1.2
    · exact laneOf_lt ..
  · refine (laneOf_rowLanes hn hj).trans (Nat.mod_eq_of_lt ?_)
    split
    · exact (efElem_spec hwf hj).2.2
    · exact laneOf_lt ..

end

end Sys2Proof.Machine

/-! SUPPORT. Reductions (R103, R308): the pairwise tree as a fold over the integers, where the order of the operations does not count, and level by level over the floating types, where it does. -/
namespace Sys2Proof
open Sys2Proof.Claims

/-! ## The pairwise tree -/

/-- What two neighbours of the tree pass up: absent members pass the other. -/
def redPair (f : Nat → Nat → Nat × Flags) : Option Nat → Option Nat → Option Nat × Flags
  | some a, some b => (some (f a b).1, (f a b).2)
  | none, o => (o, 0)
  | o, none => (o, 0)

/-- The tree by level and place, from the leaves v. -/
def redNode (f : Nat → Nat → Nat × Flags) (v : Nat → Option Nat) : Nat → Nat → Option Nat
  | 0, j => v j
  | l + 1, j => (redPair f (redNode f v l (2 * j)) (redNode f v l (2 * j + 1))).1
/-- The flags of the operation at a place. -/
def redFlag (f : Nat → Nat → Nat × Flags) (v : Nat → Option Nat) (l j : Nat) : Flags := (redPair f (redNode f v l (2 * j)) (redNode f v l (2 * j + 1))).2

theorem redPair_none (f : Nat → Nat → Nat × Flags) (o : Option Nat) : redPair f o none = (o, 0) := by cases o <;> rfl

/-- The member at a place of a list, absent beyond its end. -/
def member (l : List (Option Nat)) (j : Nat) : Option Nat := l[j]?.join

theorem redLevel_cons (f : Nat → Nat → Nat × Flags) (o p : Option Nat) (r : List (Option Nat)) :
    redLevel f (o :: p :: r) = ((redPair f o p).1 :: (redLevel f r).1, (redPair f o p).2 ||| (redLevel f r).2) := by
  have hz : ∀ h : Flags, (0 : Flags) ||| h = h := fun _ => BitVec.zero_or
  match o, p with
  | some a, some b => rfl
  | some a, none => rw [redPair_none, hz]; rfl
  | none, p => show (_, _) = (_, (0 : Flags) ||| _); rw [hz]; rfl

/-- One level of the tree, place by place. -/
theorem member_redLevel (f : Nat → Nat → Nat × Flags) (l : List (Option Nat)) :
    (∀ j, member (redLevel f l).1 j = (redPair f (member l (2 * j)) (member l (2 * j + 1))).1) ∧
      ∀ b, (redLevel f l).2.getLsbD b = true ↔ ∃ j, (redPair f (member l (2 * j)) (member l (2 * j + 1))).2.getLsbD b = true := by
  match l with
  | [] => exact ⟨fun _ => rfl, fun b => by simp [redLevel, member, redPair]⟩
  | [o] =>
    have h1 : ∀ j, member [o] (2 * j + 1) = none := fun _ => rfl
    simp only [h1, redPair_none]
    refine ⟨fun j => ?_, fun b => by simp [redLevel]⟩
    cases j with
    | zero => cases o <;> rfl
    | succ j => cases o <;> rfl
  | o :: p :: r =>
    obtain ⟨hv, hf⟩ := member_redLevel f r
    have hs : ∀ j, 2 * (j + 1) = 2 * j + 1 + 1 := fun j => rfl
    rw [redLevel_cons]
    refine ⟨fun j => ?_, fun b => ?_⟩
    · cases j with
      | zero => rfl
      | succ j => exact hv j
    · rw [BitVec.getLsbD_or, Bool.or_eq_true, hf]
      constructor
      · rintro (h | ⟨j, h⟩)
        · exact ⟨0, h⟩
        · exact ⟨j + 1, h⟩
      · rintro ⟨j, h⟩
        cases j with
        | zero => exact .inl h
        | succ j => exact .inr ⟨j, h⟩

/-- The tree above the first level. -/
theorem redNode_shift (f : Nat → Nat → Nat × Flags) (v : Nat → Option Nat) (n j : Nat) : redNode f (redNode f v 1) n j = redNode f v (n + 1) j := by
  induction n generalizing j with
  | zero => rfl
  | succ n ih => rw [redNode, ih, ih]; rfl

/-- The levels of the tree, from the members of a list. -/
theorem redTree_spec (f : Nat → Nat → Nat × Flags) (n : Nat) (l : List (Option Nat)) :
    (∀ j, member (redTree f n l).1 j = redNode f (member l) n j) ∧ ∀ b, (redTree f n l).2.getLsbD b = true ↔ ∃ k, k < n ∧ ∃ j, (redFlag f (member l) k j).getLsbD b = true := by
  induction n generalizing l with
  | zero => exact ⟨fun _ => rfl, fun b => by simp [redTree]⟩
  | succ n ih =>
    obtain ⟨hv, hf⟩ := member_redLevel f l
    obtain ⟨iv, ig⟩ := ih (redLevel f l).1
    rw [show member (redLevel f l).1 = redNode f (member l) 1 from funext hv] at iv ig
    refine ⟨fun j => (iv j).trans (redNode_shift ..), fun b => ?_⟩
    show ((redLevel f l).2 ||| (redTree f n (redLevel f l).1).2).getLsbD b = true ↔ _
    rw [BitVec.getLsbD_or, Bool.or_eq_true, hf, ig]
    constructor
    · rintro (h | ⟨k, hk, j, h⟩)
      · exact ⟨0, Nat.succ_pos n, h⟩
      · rw [redFlag, redNode_shift, redNode_shift] at h
        exact ⟨k + 1, Nat.succ_lt_succ hk, j, h⟩
    · rintro ⟨k, hk, j, h⟩
      cases k with
      | zero => exact .inl ⟨j, h⟩
      | succ k =>
        refine .inr ⟨k, Nat.lt_of_succ_lt_succ hk, j, ?_⟩
        rw [redFlag, redNode_shift, redNode_shift]
        exact h

/-- A reduction is the head of what its tree leaves, or the identity. -/
theorem reduce_head (op t rm : Nat) (sat : Bool) (l : List (Option Nat)) :
    reduce op t rm sat l = ((member (redTree (redOp op t rm sat) 8 l).1 0).getD (redIdent op t), (redTree (redOp op t rm sat) 8 l).2) := by
  rw [reduce]
  match (redTree (redOp op t rm sat) 8 l) with
  | (some v :: _, g) => rfl
  | (none :: _, g) => rfl
  | ([], g) => rfl

theorem reduce_eq (op t rm : Nat) (sat : Bool) (l : List (Option Nat)) :
    reduce op t rm sat l = ((redNode (redOp op t rm sat) (member l) 8 0).getD (redIdent op t), (redTree (redOp op t rm sat) 8 l).2) := by
  rw [← (redTree_spec _ 8 l).1 0, reduce_head]

/-- Beyond the leaves there is nothing. -/
theorem redNode_none (f : Nat → Nat → Nat × Flags) {v : Nat → Option Nat} {n : Nat} (hv : ∀ j, n ≤ j → v j = none) (l j : Nat) (h : n ≤ j * 2 ^ l) : redNode f v l j = none := by
  induction l generalizing j with
  | zero => exact hv j (by simpa using h)
  | succ l ih =>
    rw [Nat.pow_succ] at h
    rw [redNode, ih (2 * j) (by nlinarith), ih (2 * j + 1) (by nlinarith [Nat.two_pow_pos l])]
    rfl

section
variable (f : Nat → Nat → Nat × Flags) {v : Nat → Option Nat} {L : Nat} (hv : ∀ j, 2 ^ L ≤ j → v j = none)
include hv

/-- Above the level of the root nothing meets: the root passes up, and sets no flag. -/
theorem redNode_root {l : Nat} (h : L ≤ l) : redNode f v l 0 = redNode f v L 0 ∧ ∀ j, redFlag f v l j = 0 := by
  have hnone : ∀ l, L ≤ l → ∀ j, 0 < j → redNode f v l j = none := fun l hl j hj =>
    redNode_none f hv l j ((Nat.pow_le_pow_right (by decide) hl).trans (Nat.le_mul_of_pos_left _ hj))
  constructor
  · induction l, h using Nat.le_induction with
    | base => rfl
    | succ l hl ih => rw [redNode, hnone l hl _ (Nat.succ_pos _), redPair_none, ih]
  · intro j
    rw [redFlag, hnone l h _ (Nat.succ_pos _), redPair_none]

/-- The flags of a reduction are those of the whole tree. -/
theorem redFlag_all {n : Nat} (h : L ≤ n) (b : Nat) : (∃ k, k < n ∧ ∃ j, (redFlag f v k j).getLsbD b = true) ↔ ∃ k j, (redFlag f v k j).getLsbD b = true := by
  constructor
  · rintro ⟨k, -, j, hb⟩
    exact ⟨k, j, hb⟩
  · rintro ⟨k, j, hb⟩
    refine ⟨k, ?_, j, hb⟩
    by_contra hk
    rw [(redNode_root f hv (h.trans (Nat.not_lt.1 hk))).2 j] at hb
    simp at hb

end

/-- The members of the tree are codes of the type where its operation gives such codes. -/
theorem redNode_lt {f : Nat → Nat → Nat × Flags} {N : Nat} (hf : ∀ a b, a < N → b < N → (f a b).1 < N) {v : Nat → Option Nat} (hv : ∀ j a, v j = some a → a < N) (l j : Nat) {a : Nat}
    (h : redNode f v l j = some a) : a < N := by
  induction l generalizing j a with
  | zero => exact hv j a h
  | succ l ih =>
    rw [redNode] at h
    match hp : redNode f v l (2 * j), hq : redNode f v l (2 * j + 1) with
    | some p, some q =>
      rw [hp, hq] at h
      obtain rfl := Option.some.inj h
      exact hf _ _ (ih _ hp) (ih _ hq)
    | none, o =>
      rw [hp] at h
      exact ih _ h
    | some p, none =>
      rw [hp, hq] at h
      exact ih _ (hp.trans h)

end Sys2Proof

/-! SUPPORT. `VRED` (R103, R308): the row it writes, its result on the integer types and on the F types. -/
namespace Sys2Proof.Machine
open Sys2Proof Sys2Proof.Claims

/-! ## The row -/

section
variable (d : Row) {w : Nat} (v : Nat)

/-- Lane 0 written into a row. -/
theorem laneOf_setLane (hw : w ≤ 2048) : laneOf (BitVec.ofNat 2048 (setFld d.toNat 0 w v)) w 0 = v % 2 ^ w := by
  have h : setFld d.toNat 0 w v = v % 2 ^ w + d.toNat / 2 ^ w * 2 ^ w := by simp [setFld, Nat.mod_one]
  rw [laneOf, fld, BitVec.toNat_ofNat, h, Nat.mul_zero, Nat.pow_zero, Nat.div_one, Nat.mod_mod_of_dvd _ (Nat.pow_dvd_pow 2 hw), Nat.add_mul_mod_self_right, Nat.mod_mod]

/-- The bits of the other lanes stay. -/
theorem getLsbD_setLane {i : Nat} (h1 : w ≤ i) (h2 : i < 2048) : (BitVec.ofNat 2048 (setFld d.toNat 0 w v)).getLsbD i = d.getLsbD i := by
  have h : setFld d.toNat 0 w v = 2 ^ w * (d.toNat / 2 ^ w) + v % 2 ^ w := by simp [setFld, Nat.mod_one]; ring
  rw [BitVec.getLsbD_ofNat, decide_eq_true h2, Bool.true_and, h, Nat.testBit_two_pow_mul_add _ (Nat.mod_lt _ (Nat.two_pow_pos w)), if_neg (by omega), Nat.testBit_div_two_pow, Nat.sub_add_cancel h1]
  rfl

end

section
variable {s : State} {c n key : Nat} {x : Ctx} {f : EV}

/-- The lanes that a reduction takes: absent where inactive. -/
def redLanes (s : State) (c : Nat) (x : Ctx) (f : EV) : List (Option Nat) :=
  (List.range (2048 / tyWidth f.t.toNat)).map fun i => if x.ep.active f.g i then some ((s.lin c x f).la i) else none

/-- What a reduction gives lane 0, with its flags. -/
def redOut (s : State) (c : Nat) (x : Ctx) (f : EV) (old : Nat) : Nat × Flags :=
  let op := f.f.toNat % 8
  let t := f.t.toNat
  let rm := if tyF t then rmOf x f else 0
  let sat := f.sat && !tyF t
  let q := reduce op t rm sat (redLanes s c x f)
  if f.f.getLsbD 3 then ((redOp op t rm sat old q.1).1, q.2 ||| (redOp op t rm sat old q.1).2) else q

theorem vred_wf {f : EV} (h : (Instr.vred f).wf = true) : tyArith f.t.toNat = true ∧ f.f.toNat % 8 < 6 ∧ (f.f.toNat % 8 < 3 ∨ tyF f.t.toNat = false) := by
  change okRed f = true at h
  simp only [okRed, Bool.and_eq_true, Bool.or_eq_true, decide_eq_true_eq, Bool.not_eq_true'] at h
  obtain ⟨⟨⟨⟨⟨⟨⟨⟨⟨⟨ht, hop⟩, -⟩, -⟩, -⟩, h3⟩, -⟩, -⟩, -⟩, -⟩, -⟩ := h
  exact ⟨ht, hop, h3⟩

/-- `VRED` writes lane 0 alone. -/
theorem vred_issue (hat : At s c n .ep x) (hq : Quiet s c) (hr : Rows s c x f key) (hwf : (Instr.vred f).wf = true) {P : Row → BitVec 6 → Word → Prop}
    (h : ∀ r : Row, (∀ i, tyWidth f.t.toNat ≤ i → i < 2048 → r.getLsbD i = ((s.core c).accRow c key).getLsbD i) →
      laneOf r (tyWidth f.t.toNat) 0 = (redOut s c x f (laneOf ((s.core c).accRow c key) (tyWidth f.t.toNat) 0)).1 % 2 ^ tyWidth f.t.toNat →
      P r (redOut s c x f (laneOf ((s.core c).accRow c key) (tyWidth f.t.toNat) 0)).2 0) : RowIssue (.vred f) s c n key x (fun y => y.pass .ep 1) P := by
  have hwd := tyWidth_lane (tyArith_tyLane (vred_wf hwf).1)
  have hd : (s.lin c x f).d = (s.core c).accRow c key := (if_pos hr.dreg).trans (readRow_reg 8 hr.dreg hr.d)
  generalize hR : redOut s c x f (laneOf ((s.core c).accRow c key) (tyWidth f.t.toNat) 0) = R at h
  have hres : s.vres c x f (vopRed f) = VRes.row (BitVec.ofNat 2048 (setFld ((s.core c).accRow c key).toNat 0 (tyWidth f.t.toNat) R.1)) (if R.2 = 0 then [] else [(0, R.2)]) := by
    rw [← hR, redOut, redLanes, ← hd, ← lin_n (s := s) (c := c) (x := x) (by omega), ← natsFrom_zero]
    rfl
  have hfl : allFlags (if R.2 = 0 then [] else [(0, R.2)]) = R.2 := by
    split
    · next h0 => rw [h0]; rfl
    · exact BitVec.zero_or
  have htv : firstLane x.ftrapen (if R.2 = 0 then [] else [(0, R.2)]) = 0 := by
    unfold firstLane
    by_cases h0 : R.2 = 0
    · rw [if_pos h0]; rfl
    · rw [if_neg h0, List.find?_cons]
      cases R.2 &&& x.ftrapen != 0 <;> rfl
  refine rowIssue_of hat hq (hr.noPorts _) rfl hr.d hres ?_
  rw [hfl, htv]
  exact h _ (fun i h1 h2 => getLsbD_setLane _ _ h1 h2) (laneOf_setLane _ _ (by omega))

/-! ## The F types -/

theorem redOp_F {t : Nat} (ht : t < 3) {op : Nat} (hop : op < 3) (rm : Nat) {a b : Nat} (ha : a < 2 ^ tyWidth t) (hb : b < 2 ^ tyWidth t) :
    RedOp op t rm a b (redOp op t rm false a b).1 (redOp op t rm false a b).2 ∧ (redOp op t rm false a b).1 < 2 ^ tyWidth t := by
  interval_cases op
  · exact addCode_F ht ha hb rm false
  · exact ⟨⟨minCode_F ht ha hb, rfl⟩, (minCode_F ht ha hb).trans_lt (extreme_lt ht ha hb false)⟩
  · exact ⟨⟨maxCode_F ht ha hb, rfl⟩, (maxCode_F ht ha hb).trans_lt (extreme_lt ht ha hb true)⟩

/-- The identities of the F types: zero and the infinities. -/
def identF (op t : Nat) : Nat := match op with | 0 => 0 | 1 => infOf t false | _ => infOf t true

theorem redIdent_F {t : Nat} (ht : t < 3) {op : Nat} (hop : op < 3) : redIdent op t = identF op t ∧ redIdent op t < 2 ^ tyWidth t := by
  have h : ∀ t, t < 3 → ∀ op, op < 3 → redIdent op t = identF op t ∧ redIdent op t < 2 ^ tyWidth t := by decide
  exact h t ht op hop

theorem member_redLanes (s : State) (c : Nat) (x : Ctx) (f : EV) (j : Nat) : member (redLanes s c x f) j =
    if j < 2048 / tyWidth f.t.toNat ∧ x.ep.active f.g j = true then some ((s.lin c x f).la j) else none := by
  unfold member redLanes
  rw [List.getElem?_map]
  by_cases hj : j < 2048 / tyWidth f.t.toNat
  · rw [List.getElem?_range hj]
    simp [hj]
  · rw [List.getElem?_eq_none (by simpa using hj), if_neg fun h => hj h.1]
    rfl

/-- What a place of the tree of R103 holds over the two below it, and the flags of its operation. -/
def RedStep (op t rm : Nat) (p q o : Option Nat) (fl : BitVec 6) : Prop :=
  match p, q with
  | some a, some b => ∃ z, o = some z ∧ RedOp op t rm a b z fl
  | none, r => o = r ∧ fl = 0
  | r, none => o = r ∧ fl = 0

theorem redPair_step {t : Nat} (ht : t < 3) {op : Nat} (hop : op < 3) (rm : Nat) {p q : Option Nat} (hp : ∀ a, p = some a → a < 2 ^ tyWidth t) (hq : ∀ a, q = some a → a < 2 ^ tyWidth t) :
    RedStep op t rm p q (redPair (redOp op t rm false) p q).1 (redPair (redOp op t rm false) p q).2 :=
  match p, q with
  | some a, some b => ⟨_, rfl, (redOp_F ht hop rm (hp a rfl) (hq b rfl)).1⟩
  | some _, none => ⟨rfl, rfl⟩
  | none, _ => ⟨rfl, rfl⟩

/-- The tree over the lanes of an F type. -/
def treeF (s : State) (c : Nat) (x : Ctx) (f : EV) : Nat → Nat → Option Nat :=
  redNode (redOp (f.f.toNat % 8) f.t.toNat (rmOf x f) false) (member (redLanes s c x f))
def flagF (s : State) (c : Nat) (x : Ctx) (f : EV) : Nat → Nat → Flags :=
  redFlag (redOp (f.f.toNat % 8) f.t.toNat (rmOf x f) false) (member (redLanes s c x f))
/-- Its root, or the identity. -/
def rootF (s : State) (c : Nat) (x : Ctx) (f : EV) : Nat := (treeF s c x f (2048 / tyWidth f.t.toNat).log2 0).getD (identF (f.f.toNat % 8) f.t.toNat)

section
variable (ht : f.t.toNat < 3)
include ht

theorem treeF_zero (j : Nat) : treeF s c x f 0 j =
    if j < 2048 / tyWidth f.t.toNat ∧ x.ep.active f.g j = true then some (fneg f.na f.t.toNat (opnd s c x (tyWidth f.t.toNat) f.va j)) else none := by
  refine (member_redLanes s c x f j).trans ?_
  split
  · next h => rw [lin_la_F ht h.1]
  · rfl

theorem lanesF_log : 2 ^ (2048 / tyWidth f.t.toNat).log2 = 2048 / tyWidth f.t.toNat ∧ (2048 / tyWidth f.t.toNat).log2 ≤ 8 := by
  have h : ∀ t, t < 3 → 2 ^ (2048 / tyWidth t).log2 = 2048 / tyWidth t ∧ (2048 / tyWidth t).log2 ≤ 8 := by decide
  exact h _ ht

theorem memberF_none (s : State) (c : Nat) (x : Ctx) (j : Nat) (h : 2 ^ (2048 / tyWidth f.t.toNat).log2 ≤ j) : member (redLanes s c x f) j = none := by
  rw [(lanesF_log ht).1] at h
  rw [member_redLanes, if_neg fun h' => absurd h'.1 (Nat.not_lt.2 h)]

variable (hop : f.f.toNat % 8 < 3)
include hop

theorem treeF_lt (l j : Nat) {a : Nat} (h : treeF s c x f l j = some a) : a < 2 ^ tyWidth f.t.toNat := by
  refine redNode_lt (fun a b ha hb => (redOp_F ht hop (rmOf x f) ha hb).2) (fun j a hv => ?_) l j h
  have hz := (treeF_zero (s := s) (c := c) (x := x) ht j).symm.trans hv
  split at hz
  · rw [← Option.some.inj hz]
    exact fneg_lt ht _ (opnd_lt ..)
  · cases hz

theorem rootF_lt (s : State) (c : Nat) (x : Ctx) : rootF s c x f < 2 ^ tyWidth f.t.toNat := by
  unfold rootF
  cases h : treeF s c x f (2048 / tyWidth f.t.toNat).log2 0 with
  | some a => exact treeF_lt ht hop _ _ h
  | none => exact (redIdent_F ht hop).1 ▸ (redIdent_F ht hop).2

theorem treeF_step (s : State) (c : Nat) (x : Ctx) (l j : Nat) :
    RedStep (f.f.toNat % 8) f.t.toNat (rmOf x f) (treeF s c x f l (2 * j)) (treeF s c x f l (2 * j + 1)) (treeF s c x f (l + 1) j) (flagF s c x f l j) :=
  redPair_step ht hop (rmOf x f) (fun _ => treeF_lt ht hop _ _) (fun _ => treeF_lt ht hop _ _)

/-- A reduction over an F type gives the root of the tree of R103, and with ACC its combination with the old lane. -/
theorem redOut_F (s : State) (c : Nat) (x : Ctx) {old : Nat} (hold : old < 2 ^ tyWidth f.t.toNat) : (redOut s c x f old).1 < 2 ^ tyWidth f.t.toNat ∧
    ∃ ga : BitVec 6, (if f.f.getLsbD 3 then RedOp (f.f.toNat % 8) f.t.toNat (rmOf x f) old (rootF s c x f) (redOut s c x f old).1 ga else (redOut s c x f old).1 = rootF s c x f ∧ ga = 0) ∧
      ∀ b, (redOut s c x f old).2.getLsbD b = true ↔ ga.getLsbD b = true ∨ ∃ l j, (flagF s c x f l j).getLsbD b = true := by
  have hv := memberF_none (s := s) (c := c) (x := x) ht
  obtain ⟨-, hL⟩ := lanesF_log ht
  have hroot : (reduce (f.f.toNat % 8) f.t.toNat (rmOf x f) false (redLanes s c x f)).1 = rootF s c x f := by
    rw [reduce_eq, (redNode_root _ hv hL).1, (redIdent_F ht hop).1]
    rfl
  have hflag : ∀ b, (reduce (f.f.toNat % 8) f.t.toNat (rmOf x f) false (redLanes s c x f)).2.getLsbD b = true ↔ ∃ l j, (flagF s c x f l j).getLsbD b = true := fun b => by
    rw [reduce_eq, (redTree_spec _ 8 _).2 b]
    exact redFlag_all _ hv hL b
  unfold redOut
  simp only [(tyF_iff _).2 ht, if_true, Bool.not_true, Bool.and_false]
  obtain ⟨hacc, hlt⟩ := redOp_F ht hop (rmOf x f) hold (rootF_lt ht hop s c x)
  split
  · rw [hroot]
    refine ⟨hlt, _, hacc, fun b => ?_⟩
    rw [BitVec.getLsbD_or, Bool.or_eq_true, hflag, or_comm]
  · rw [hroot]
    refine ⟨rootF_lt ht hop s c x, 0, ⟨rfl, rfl⟩, fun b => ?_⟩
    rw [hflag]
    simp

end

end

end Sys2Proof.Machine

/-! SUPPORT. Reductions over the integer types (R103, R308): the operations are associative and have their identities, so the tree is a fold. -/
namespace Sys2Proof.Machine
open Sys2Proof Sys2Proof.Claims

/-! ## The operations -/

/-- The order of a type's codes. -/
def ordBV (sg : Bool) {w : Nat} (a : BitVec w) : Int := if sg then a.toInt else a.toNat
/-- The operations of `VRED` on codes: SUM, MIN, MAX, AND, OR, XOR. -/
def redBV (sg : Bool) (op : Nat) {w : Nat} (a b : BitVec w) : BitVec w :=
  match op with
  | 0 => a + b
  | 1 => if (if sg then b.slt a else b.ult a) then b else a
  | 2 => if (if sg then a.slt b else a.ult b) then b else a
  | 3 => a &&& b
  | 4 => a ||| b
  | _ => a ^^^ b
/-- Their identities. -/
def identBV (sg : Bool) (op w : Nat) : BitVec w :=
  match op with
  | 1 => if sg then BitVec.intMax w else BitVec.allOnes w
  | 2 => if sg then BitVec.intMin w else 0
  | 3 => BitVec.allOnes w
  | _ => 0

section
variable (sg : Bool) {w : Nat}

theorem lt_iff_ordBV (a b : BitVec w) : (if sg then a.slt b else a.ult b) = true ↔ ordBV sg a < ordBV sg b := by
  unfold ordBV
  cases sg
  · simp [BitVec.ult_iff_lt, BitVec.lt_def]
  · simp [BitVec.slt_iff_toInt_lt]

theorem ordBV_inj {a b : BitVec w} (h : ordBV sg a = ordBV sg b) : a = b := by
  unfold ordBV at h
  cases sg
  · exact BitVec.eq_of_toNat_eq (by simpa using h)
  · exact BitVec.eq_of_toInt_eq (by simpa using h)

theorem redBV_min (a b : BitVec w) : redBV sg 1 a b = if ordBV sg b < ordBV sg a then b else a := by simp only [redBV, lt_iff_ordBV]
theorem redBV_max (a b : BitVec w) : redBV sg 2 a b = if ordBV sg a < ordBV sg b then b else a := by simp only [redBV, lt_iff_ordBV]

theorem ordBV_le_ident (hw : 0 < w) (a : BitVec w) : ordBV sg a ≤ ordBV sg (identBV sg 1 w) ∧ ordBV sg (identBV sg 2 w) ≤ ordBV sg a := by
  unfold ordBV identBV
  cases sg
  · have h1 := a.isLt
    have h2 : ((0 : BitVec w).toNat : Int) = 0 := by simp
    show (a.toNat : Int) ≤ (BitVec.allOnes w).toNat ∧ ((0 : BitVec w).toNat : Int) ≤ a.toNat
    rw [BitVec.toNat_allOnes, h2]
    exact ⟨Int.ofNat_le.2 (by omega), Int.natCast_nonneg _⟩
  · have h1 := BitVec.toInt_le (x := a)
    have h2 := a.le_toInt
    have h3 : (2 : Nat) ^ (w - 1) % 2 ^ w = 2 ^ (w - 1) := Nat.mod_eq_of_lt (Nat.pow_lt_pow_right (by decide) (by omega))
    simp [BitVec.toInt_intMax, BitVec.toInt_intMin, h3]
    omega

theorem redBV_assoc (op : Nat) (a b c : BitVec w) : redBV sg op (redBV sg op a b) c = redBV sg op a (redBV sg op b c) := by
  match op with
  | 0 => exact BitVec.add_assoc ..
  | 1 =>
    simp only [redBV_min]
    by_cases h1 : ordBV sg b < ordBV sg a <;> by_cases h2 : ordBV sg c < ordBV sg b <;> by_cases h3 : ordBV sg c < ordBV sg a <;> simp [h1, h2, h3] <;> omega
  | 2 =>
    simp only [redBV_max]
    by_cases h1 : ordBV sg a < ordBV sg b <;> by_cases h2 : ordBV sg b < ordBV sg c <;> by_cases h3 : ordBV sg a < ordBV sg c <;> simp [h1, h2, h3] <;> omega
  | 3 => exact BitVec.and_assoc ..
  | 4 => exact BitVec.or_assoc ..
  | _ + 5 => exact BitVec.xor_assoc ..

/-- The identities, on both sides. -/
theorem redBV_ident (hw : 0 < w) (op : Nat) (a : BitVec w) : redBV sg op (identBV sg op w) a = a ∧ redBV sg op a (identBV sg op w) = a := by
  obtain ⟨hmax, hmin⟩ := ordBV_le_ident sg hw a
  match op with
  | 0 => exact ⟨BitVec.zero_add a, BitVec.add_zero a⟩
  | 1 =>
    rw [redBV_min, redBV_min, if_neg hmax.not_gt]
    refine ⟨?_, rfl⟩
    split
    · rfl
    · exact ordBV_inj sg (by omega)
  | 2 =>
    rw [redBV_max, redBV_max, if_neg hmin.not_gt]
    refine ⟨?_, rfl⟩
    split
    · rfl
    · exact ordBV_inj sg (by omega)
  | 3 => exact ⟨BitVec.allOnes_and, BitVec.and_allOnes⟩
  | 4 => exact ⟨BitVec.zero_or, BitVec.or_zero⟩
  | _ + 5 => exact ⟨BitVec.zero_xor, BitVec.xor_zero⟩

end

/-! ## The operations of the model -/

section
variable {t : BitVec 4} (ht : IntTy t.toNat)

theorem ofInt_iv (t : BitVec 4) (w c : Nat) : BitVec.ofInt w (iv t w c) = BitVec.ofNat w c :=
  BitVec.eq_of_toNat_eq (by rw [← wrapN_eq, wrapN_iv, BitVec.toNat_ofNat])

theorem ordBV_ofNat (t : BitVec 4) (w c : Nat) : ordBV (sgnTy t) (BitVec.ofNat w c) = iv t w c := by
  unfold ordBV iv
  rw [BitVec.toNat_ofNat]

include ht

theorem redOp_int {op : Nat} (rm : Nat) {a b : Nat} (ha : a < 2 ^ tyWidth t.toNat) (hb : b < 2 ^ tyWidth t.toNat) :
    redOp op t.toNat rm false a b = ((redBV (sgnTy t) op (BitVec.ofNat (tyWidth t.toNat) a) (BitVec.ofNat (tyWidth t.toNat) b)).toNat, 0) := by
  have hF := ht.cases.1
  have hna : (BitVec.ofNat (tyWidth t.toNat) a).toNat = a := by rw [BitVec.toNat_ofNat, Nat.mod_eq_of_lt ha]
  have hnb : (BitVec.ofNat (tyWidth t.toNat) b).toNat = b := by rw [BitVec.toNat_ofNat, Nat.mod_eq_of_lt hb]
  match op with
  | 0 =>
    show addCode t.toNat rm false a b = ((_ + _ : BitVec _).toNat, 0)
    rw [addCode, hF, if_neg (by decide), intRes_wraps, intVal_eq t ha, intVal_eq t hb, wrapN_eq, BitVec.ofInt_add, ofInt_iv, ofInt_iv]
  | 1 =>
    show (minCode t.toNat a b, 0) = _
    rw [redBV_min, ordBV_ofNat, ordBV_ofNat, minCode, hF, if_neg (by decide), intVal_eq t ha, intVal_eq t hb, apply_ite BitVec.toNat, hna, hnb]
  | 2 =>
    show (maxCode t.toNat a b, 0) = _
    rw [redBV_max, ordBV_ofNat, ordBV_ofNat, maxCode, hF, if_neg (by decide), intVal_eq t ha, intVal_eq t hb, apply_ite BitVec.toNat, hna, hnb]
  | 3 =>
    show (a &&& b, 0) = ((_ &&& _ : BitVec _).toNat, 0)
    rw [BitVec.toNat_and, hna, hnb]
  | 4 =>
    show (a ||| b, 0) = ((_ ||| _ : BitVec _).toNat, 0)
    rw [BitVec.toNat_or, hna, hnb]
  | _ + 5 =>
    show (a ^^^ b, 0) = ((_ ^^^ _ : BitVec _).toNat, 0)
    rw [BitVec.toNat_xor, hna, hnb]

theorem redIdent_int {op : Nat} (hop : op < 6) : redIdent op t.toNat = (identBV (sgnTy t) op (tyWidth t.toNat)).toNat := by
  obtain ⟨h8, h13⟩ := ht
  have h : ∀ t : BitVec 4, 8 ≤ t.toNat → t.toNat ≤ 13 → ∀ op, op < 6 → redIdent op t.toNat = (identBV (sgnTy t) op (tyWidth t.toNat)).toNat := by decide
  exact h t h8 h13 op hop

end

/-! ## The tree as a fold -/

/-- The codes of the members that are there. -/
def memberCodes (w : Nat) (l : List (Option Nat)) : List (BitVec w) := (l.filterMap id).map (BitVec.ofNat w)
/-- All of them are codes of w bits. -/
def MembersLt (w : Nat) (l : List (Option Nat)) : Prop := ∀ o ∈ l, ∀ a, o = some a → a < 2 ^ w

section
variable {w : Nat} {op : BitVec w → BitVec w → BitVec w} (hop : ∀ a b c, op (op a b) c = op a (op b c)) {f : Nat → Nat → Nat × Flags}
  (hf : ∀ a b, a < 2 ^ w → b < 2 ^ w → f a b = ((op (BitVec.ofNat w a) (BitVec.ofNat w b)).toNat, 0))
include hop hf

/-- Two neighbours pass up what they fold to. -/
theorem redPair_fold {o p : Option Nat} (ho : ∀ a, o = some a → a < 2 ^ w) (hp : ∀ a, p = some a → a < 2 ^ w) (r : List (Option Nat)) (z : BitVec w) :
    (∀ a, (redPair f o p).1 = some a → a < 2 ^ w) ∧ (redPair f o p).2 = 0 ∧ (memberCodes w ((redPair f o p).1 :: r)).foldl op z = (memberCodes w (o :: p :: r)).foldl op z := by
  match o, p with
  | some a, some b =>
    have h := hf a b (ho a rfl) (hp b rfl)
    refine ⟨fun c hc => ?_, congrArg Prod.snd h, ?_⟩
    · rw [← Option.some.inj hc, h]
      exact BitVec.isLt _
    · show List.foldl op (op z (BitVec.ofNat w (f a b).1)) (memberCodes w r) = List.foldl op (op (op z (BitVec.ofNat w a)) (BitVec.ofNat w b)) (memberCodes w r)
      rw [h, hop, BitVec.ofNat_toNat, BitVec.setWidth_eq]
  | some a, none => exact ⟨ho, rfl, rfl⟩
  | none, p => exact ⟨hp, rfl, rfl⟩

/-- A level of the tree halves its list and keeps its fold. -/
theorem redLevel_fold (l : List (Option Nat)) (hl : MembersLt w l) :
    MembersLt w (redLevel f l).1 ∧ (redLevel f l).2 = 0 ∧ (redLevel f l).1.length = (l.length + 1) / 2 ∧ ∀ z, (memberCodes w (redLevel f l).1).foldl op z = (memberCodes w l).foldl op z := by
  match l with
  | [] => exact ⟨hl, rfl, rfl, fun _ => rfl⟩
  | [o] =>
    have h : redLevel f [o] = ([o], 0) := by cases o <;> rfl
    rw [h]
    exact ⟨hl, rfl, by simp, fun _ => rfl⟩
  | o :: p :: r =>
    obtain ⟨hb, h0, hlen, hfold⟩ := redLevel_fold r fun q hq => hl q (by simp [hq])
    have hpair := redPair_fold hop hf (hl o (by simp)) (hl p (by simp)) r
    have hcons : ∀ (q : Option Nat) z, (memberCodes w (q :: (redLevel f r).1)).foldl op z = (memberCodes w (q :: r)).foldl op z := fun q z => by
      cases q
      · exact hfold z
      · exact hfold _
    rw [redLevel_cons]
    refine ⟨fun q hq => ?_, ?_, ?_, fun z => (hcons _ z).trans (hpair z).2.2⟩
    · rcases List.mem_cons.1 hq with rfl | hq
      · exact (hpair 0).1
      · exact hb q hq
    · rw [(hpair 0).2.1, h0]; rfl
    · simp only [List.length_cons, hlen]; omega

/-- The whole tree. -/
theorem redTree_fold (n : Nat) (l : List (Option Nat)) (hl : MembersLt w l) (hlen : l.length ≤ 2 ^ n) :
    MembersLt w (redTree f n l).1 ∧ (redTree f n l).2 = 0 ∧ (redTree f n l).1.length ≤ 1 ∧ ∀ z, (memberCodes w (redTree f n l).1).foldl op z = (memberCodes w l).foldl op z := by
  induction n generalizing l with
  | zero => exact ⟨hl, rfl, hlen, fun _ => rfl⟩
  | succ n ih =>
    obtain ⟨h1, h0, h2, h3⟩ := redLevel_fold hop hf l hl
    obtain ⟨i1, i0, i2, i3⟩ := ih (redLevel f l).1 h1 (by rw [h2]; rw [Nat.pow_succ] at hlen; omega)
    refine ⟨i1, ?_, i2, fun z => (i3 z).trans (h3 z)⟩
    show (redLevel f l).2 ||| (redTree f n (redLevel f l).1).2 = 0
    rw [h0, i0]
    rfl

end

/-- A reduction over an integer type is the fold of its members from the identity. -/
theorem reduce_int {t : BitVec 4} (ht : IntTy t.toNat) {op : Nat} (hop : op < 6) (rm : Nat) (l : List (Option Nat)) (hl : MembersLt (tyWidth t.toNat) l) (hlen : l.length ≤ 256) :
    reduce op t.toNat rm false l = (((memberCodes (tyWidth t.toNat) l).foldl (redBV (sgnTy t) op) (identBV (sgnTy t) op (tyWidth t.toNat))).toNat, 0) := by
  obtain ⟨h1, h0, h2, h3⟩ := redTree_fold (redBV_assoc (sgnTy t) op) (fun a b ha hb => redOp_int ht (op := op) rm ha hb) 8 l hl hlen
  rw [reduce_head, h0, ← h3]
  generalize (redTree (redOp op t.toNat rm false) 8 l).1 = m at h1 h2
  match m with
  | [] => exact congrArg (·, 0) (redIdent_int ht hop)
  | [none] => exact congrArg (·, 0) (redIdent_int ht hop)
  | [some a] =>
    have ha := h1 (some a) (by simp) a rfl
    refine congrArg (·, 0) ?_
    show a = (redBV (sgnTy t) op (identBV (sgnTy t) op (tyWidth t.toNat)) (BitVec.ofNat _ a)).toNat
    rw [(redBV_ident (sgnTy t) ht.width op _).1, BitVec.toNat_ofNat, Nat.mod_eq_of_lt ha]
  | _ :: _ :: _ => simp at h2

/-! ## `VRED` on the integer types -/

theorem filterMap_active (p : Nat → Bool) (h : Nat → Nat) (l : List Nat) : (l.map fun i => if p i = true then some (h i) else none).filterMap id = (l.filter p).map h := by
  induction l with
  | nil => rfl
  | cons a l ih =>
    rw [List.filter_cons, List.map_cons]
    cases p a
    · exact ih
    · exact congrArg (h a :: ·) ih

section
variable {f : EV} (ht : IntTy f.t.toNat) (s : State) (c : Nat) (x : Ctx)
include ht

theorem redLanes_lt : MembersLt (tyWidth f.t.toNat) (redLanes s c x f) := by
  intro o ho a ha
  obtain ⟨j, hj, rfl⟩ := List.mem_map.1 ho
  split at ha
  · rw [← Option.some.inj ha, lin_la_int ht (List.mem_range.1 hj)]
    exact ngd_lt (opnd_lt ..)
  · cases ha

/-- The lanes that a reduction takes are its active ones. -/
theorem memberCodes_redLanes : memberCodes (tyWidth f.t.toNat) (redLanes s c x f) =
    ((List.range (2048 / tyWidth f.t.toNat)).filter fun j => x.ep.active f.g j).map fun j => BitVec.ofNat (tyWidth f.t.toNat) (ngd f.na (tyWidth f.t.toNat) (opnd s c x (tyWidth f.t.toNat) f.va j)) := by
  rw [memberCodes, redLanes, filterMap_active, List.map_map]
  refine List.map_congr_left fun j hj => ?_
  rw [Function.comp_apply, lin_la_int ht (List.mem_range.1 (List.mem_filter.1 hj).1)]

/-- A reduction over an integer type folds its active lanes, and with ACC the old lane. -/
theorem redOut_int (hop : f.f.toNat % 8 < 6) (hsat : f.sat = false) {old : Nat} (hold : old < 2 ^ tyWidth f.t.toNat) : redOut s c x f old =
    (((memberCodes (tyWidth f.t.toNat) (redLanes s c x f)).foldl (redBV (sgnTy f.t) (f.f.toNat % 8))
      (if f.f.getLsbD 3 then BitVec.ofNat _ old else identBV (sgnTy f.t) (f.f.toNat % 8) (tyWidth f.t.toNat))).toNat, 0) := by
  have hn : (redLanes s c x f).length ≤ 256 := by
    have hw := ht.width_ge
    rw [redLanes, List.length_map, List.length_range]
    exact Nat.div_le_div_left hw (by decide)
  unfold redOut
  simp only [hsat, Bool.false_and, reduce_int ht hop _ _ (redLanes_lt ht s c x) hn]
  split
  · have : Std.Associative (redBV (sgnTy f.t) (f.f.toNat % 8) (w := tyWidth f.t.toNat)) := ⟨redBV_assoc _ _⟩
    rw [redOp_int ht _ hold (BitVec.isLt _), BitVec.ofNat_toNat, BitVec.setWidth_eq, ← List.foldl_assoc (op := redBV (sgnTy f.t) (f.f.toNat % 8)), (redBV_ident (sgnTy f.t) ht.width _ _).2]
    exact Prod.ext rfl (show (0 : Flags) ||| 0 = 0 by decide)
  · rfl

end

end Sys2Proof.Machine

/-! SUPPORT. `VCVT`, `VCVTEF` and `VRED` as the statement has them: settles O45. -/
namespace Sys2Proof.Proofs
open Sys2Proof Sys2Proof.Claims Sys2Proof.Machine

/-- Settles O45: conversions are element by element what R87 to R97 give, and a reduction is the root of its tree, over the integers a fold. -/
theorem vectorConversionsAndReductions : Obligations.VectorConversionsAndReductions := by
  intro f s c n key x hat hq hr w
  refine ⟨?_, ?_, fun hwf => ?_⟩
  · intro hwf tt wt
    obtain ⟨r, fl, tv, ⟨hlt, hfl, hl⟩, h⟩ := vcvt_issue hat hq hr hwf
    refine ⟨r, fl, tv, ⟨?_, ?_⟩, h⟩
    · rintro ⟨h8, h13, ht8, ht13⟩ m
      refine ⟨fun j hj => ?_, hlt⟩
      rw [hl j hj, cvtElem_int hwf ⟨h8, h13⟩ ⟨ht8, ht13⟩]
    · intro _ m part ob
      refine ⟨hlt, _, hfl, fun j hj => ?_⟩
      rw [hl j hj]
      split
      · exact (cvtElem_spec hwf m j).1
      · rfl
  · intro hwf kr hk tt
    obtain ⟨r, q, fl, tv, hlt, hl, hfl, h⟩ := vcvtef_issue hat hq hr hwf hk
    refine ⟨r, q, fl, tv, fun j hj hna => ?_, hlt, fun _ => ⟨_, hfl, fun j hj ha => ?_⟩, fun _ => rfl, h⟩
    · obtain ⟨h1, h2⟩ := hl j hj
      rw [h1, h2, hna]
      exact ⟨rfl, rfl⟩
    · obtain ⟨h1, h2⟩ := hl j hj
      obtain ⟨⟨hc, -⟩, hd, -⟩ := efElem_spec (s := s) (c := c) (x := x) hwf hj
      rw [h1, h2, ha]
      exact ⟨_, _, hc, hd, rfl⟩
  · obtain ⟨hT, hop, h3⟩ := vred_wf hwf
    have hold := laneOf_lt ((s.core c).accRow c key) (tyWidth f.t.toNat) 0
    refine vred_issue hat hq hr hwf fun r hbits hlane => ⟨hbits, ?_, ?_⟩
    · rintro ⟨h8, h13⟩ hsat
      have h := redOut_int ⟨h8, h13⟩ s c x hop hsat hold
      rw [h] at hlane ⊢
      refine ⟨rfl, ?_⟩
      rw [hlane, Nat.mod_eq_of_lt (BitVec.isLt _), memberCodes_redLanes ⟨h8, h13⟩]
      rfl
    · intro ht _ op t
      refine ⟨fun _ => rfl, ?_⟩
      have hop3 : f.f.toNat % 8 < 3 := h3.resolve_right (by rw [(tyF_iff _).2 ht]; decide)
      obtain ⟨hlt, ga, hacc, hfl⟩ := redOut_F ht hop3 s c x hold
      rw [Nat.mod_eq_of_lt hlt] at hlane
      refine ⟨treeF s c x f, flagF s c x f, ga, treeF_zero ht, treeF_step ht hop3 s c x, ?_, fun b _ => hfl b⟩
      rw [hlane]
      exact hacc

end Sys2Proof.Proofs
